-- ==== Sys2Proof/Word.lean ====
section
/-!
DEFINITION. The word types of the machine and their plainest names. R8: bit 0 is the least significant bit;
memory is byte-addressed and little-endian.
-/
namespace Sys2Proof

/-- A general register, an address, a CSR: 64 bits (R10, R11). -/
abbrev Word := BitVec 64

/-- One byte of memory (R8). -/
abbrev Byte := BitVec 8

/-- An instruction word (R16, R36). -/
abbrev Code := BitVec 32

/-- A 5-bit register field of an instruction word (R37, R40). -/
abbrev Reg := BitVec 5

/-- A V register: 4 KiB, lane i in bits 32·i + 31 to 32·i (R167). -/
abbrev VReg := BitVec 32768

/-- A mask register: bit i belongs to lane i (R167). -/
abbrev Mask := BitVec 1024

/-- One 128-byte line, byte n in bits 8·n + 7 to 8·n (R223, R224). -/
abbrev Line := BitVec 1024

/-- One row of an accumulator tile: element j in bits 32·j + 31 to 32·j (R197). -/
abbrev TileRow := BitVec 4096

end Sys2Proof
end

