-- ==== Sys2Proof/Syntax.lean ====
section
/-!
DEFINITION. The steps of the machine: one constructor for each row of the table of operations and events
(R46 for the words; spec/95 for the events). A constructor of an instruction word carries the fields that the
table gives the row, at their widths, and the common bits of R36. A constructor of an event carries the unit
that the event happens at and what the outside world supplies to it.
-/
namespace Sys2Proof

/-- The token bits and Y of an instruction word: bits 31, 30, 29, 28 and 27 (R36). -/
structure Tk where
  wp : Bool
  wn : Bool
  sp : Bool
  sn : Bool
  y  : Bool
deriving DecidableEq, Repr

/-- No token bit and no Y. -/
def Tk.none : Tk := ⟨false, false, false, false, false⟩

/-- What answers an access that waits for an answer (R379, R382, R345). `home` stands for the data of the
access's home inside this package; `value` brings the data that another package answered, with ARG1 and TS of its header. -/
inductive Reply where
  | home
  | value (data : List Word) (arg1 ts : Word)
  | xlat
  | prot
  | unreachable
  | ecc
deriving DecidableEq, Repr

/-- An access that another package asks of this one (R379, R248, R298): `m0` and `m1` are the byte mask of a single line that is
written, and `invi` is the control message of R272. -/
inductive DomOp where
  | load (w : Nat)
  | store (w : Nat) (v : Word)
  | amo (op : Nat) (w : Nat) (v cmp : Word)
  | readLines (n : Nat)
  | writeLines (m0 m1 : Word) (data : List Word)
  | reduceLines (op : Nat) (data : List Word)
  | invi
  | proxy (core ring lines : Nat) (data : List Word)
deriving DecidableEq, Repr

/-- The value that a contribution brings to a combining place: the operation and the elements; for a triple the
elements are m, s and then v (R390, R166). `e` is E of its packet. -/
structure Contrib where
  op    : Nat
  elems : List Code
  nanm  : Bool
  mis   : Bool
  slack : Nat
  e     : Bool := false
deriving DecidableEq, Repr

/-- A packet that reaches a combining place from another package: its contribution or result, RES, ABN, and dword 1 of its header (R298, R383,
R392). -/
structure CombIn where
  val  : Contrib
  res  : Bool
  abn  : Bool
  head : Word
deriving DecidableEq, Repr

/-- What a bay learns: the end of its service (`home`), or the answer to the request whose first line is `line` (R328, R398). -/
structure BayReply where
  line : Nat := 0
  rep  : Reply := .home
deriving DecidableEq, Repr

/-- One step of the machine (the whole table). -/
inductive Instr where
  -- Integer arithmetic, major 0x01 (R64)
  | add (k : Tk) (d a b : Reg)
  | sub (k : Tk) (d a b : Reg)
  | and (k : Tk) (d a b : Reg)
  | or (k : Tk) (d a b : Reg)
  | xor (k : Tk) (d a b : Reg)
  | andn (k : Tk) (d a b : Reg)
  | sll (k : Tk) (d a b : Reg)
  | srl (k : Tk) (d a b : Reg)
  | sra (k : Tk) (d a b : Reg)
  | slt (k : Tk) (d a b : Reg)
  | sltu (k : Tk) (d a b : Reg)
  | min (k : Tk) (d a b : Reg)
  | max (k : Tk) (d a b : Reg)
  | minu (k : Tk) (d a b : Reg)
  | maxu (k : Tk) (d a b : Reg)
  | mul (k : Tk) (d a b : Reg)
  | mulh (k : Tk) (d a b : Reg)
  | mulhu (k : Tk) (d a b : Reg)
  | div (k : Tk) (d a b : Reg)
  | divu (k : Tk) (d a b : Reg)
  | rem (k : Tk) (d a b : Reg)
  | remu (k : Tk) (d a b : Reg)
  | clz (k : Tk) (d a : Reg)
  | ctz (k : Tk) (d a : Reg)
  | popc (k : Tk) (d a : Reg)
  | sextb (k : Tk) (d a : Reg)
  | sexth (k : Tk) (d a : Reg)
  | sextw (k : Tk) (d a : Reg)
  -- Immediates and constants (R66 to R68)
  | addi (k : Tk) (d a : Reg) (i : BitVec 11)
  | andi (k : Tk) (d a : Reg) (i : BitVec 8)
  | ori (k : Tk) (d a : Reg) (i : BitVec 8)
  | xori (k : Tk) (d a : Reg) (i : BitVec 8)
  | slli (k : Tk) (d a : Reg) (i : BitVec 6)
  | srli (k : Tk) (d a : Reg) (i : BitVec 6)
  | srai (k : Tk) (d a : Reg) (i : BitVec 6)
  | slti (k : Tk) (d a : Reg) (i : BitVec 8)
  | sltiu (k : Tk) (d a : Reg) (i : BitVec 8)
  | lim (k : Tk) (d : Reg) (i : BitVec 16)
  | lis (k : Tk) (d : Reg) (i : BitVec 16)
  -- Branches and jumps (R69 to R74)
  | beq (k : Tk) (a b : Reg) (o : BitVec 8)
  | bne (k : Tk) (a b : Reg) (o : BitVec 8)
  | blt (k : Tk) (a b : Reg) (o : BitVec 8)
  | bge (k : Tk) (a b : Reg) (o : BitVec 8)
  | bltu (k : Tk) (a b : Reg) (o : BitVec 8)
  | bgeu (k : Tk) (a b : Reg) (o : BitVec 8)
  | bbusy (k : Tk) (o : BitVec 8)
  | bfree (k : Tk) (o : BitVec 8)
  | bpt (k : Tk) (p : BitVec 4) (i : BitVec 16)
  | bpf (k : Tk) (p : BitVec 4) (i : BitVec 16)
  | jal (k : Tk) (d : Reg) (i : BitVec 16)
  | jalr (k : Tk) (d a : Reg) (i : BitVec 11)
  -- Hardware loops and buckets (R76, R77, R84)
  | lpset (k : Tk) (d a : Reg) (i : BitVec 8)
  | lpresEntry (k : Tk) (d a : Reg)
  | lpresExit (k : Tk) (a : Reg)
  | bkt (k : Tk) (d a : Reg)
  -- Context group (R131)
  | cstart (k : Tk) (d a : Reg)
  | cstop (k : Tk) (d : Reg)
  | cyield (k : Tk) (i : BitVec 8)
  | cid (k : Tk) (d : Reg)
  | cwait (k : Tk) (d : Reg) (w : BitVec 8)
  -- Scalar binary64 (R88, R89)
  | faddD (k : Tk) (d a b : Reg)
  | fsubD (k : Tk) (d a b : Reg)
  | fmulD (k : Tk) (d a b : Reg)
  | fdivD (k : Tk) (d a b : Reg)
  | fminD (k : Tk) (d a b : Reg)
  | fmaxD (k : Tk) (d a b : Reg)
  | fsqrtD (k : Tk) (d a : Reg)
  | fcvtDL (k : Tk) (d a : Reg)
  | fcvtLD (k : Tk) (d a : Reg)
  | feqD (k : Tk) (d a b : Reg)
  | fltD (k : Tk) (d a b : Reg)
  | fleD (k : Tk) (d a b : Reg)
  -- Loads and stores (R90 to R92)
  | lb (k : Tk) (d a : Reg) (i : BitVec 8)
  | lh (k : Tk) (d a : Reg) (i : BitVec 8)
  | lw (k : Tk) (d a : Reg) (i : BitVec 8)
  | ld (k : Tk) (d a : Reg) (i : BitVec 8)
  | lbu (k : Tk) (d a : Reg) (i : BitVec 8)
  | lhu (k : Tk) (d a : Reg) (i : BitVec 8)
  | lwu (k : Tk) (d a : Reg) (i : BitVec 8)
  | sb (k : Tk) (d a : Reg) (i : BitVec 8)
  | sh (k : Tk) (d a : Reg) (i : BitVec 8)
  | sw (k : Tk) (d a : Reg) (i : BitVec 8)
  | sd (k : Tk) (d a : Reg) (i : BitVec 8)
  | ldx (k : Tk) (d a b : Reg)
  | stx (k : Tk) (d a b : Reg)
  -- Atomic memory operations (R248); z is the size bit
  | amoadd (k : Tk) (d a b : Reg) (z : BitVec 1)
  | amoand (k : Tk) (d a b : Reg) (z : BitVec 1)
  | amoor (k : Tk) (d a b : Reg) (z : BitVec 1)
  | amoxor (k : Tk) (d a b : Reg) (z : BitVec 1)
  | amomin (k : Tk) (d a b : Reg) (z : BitVec 1)
  | amomax (k : Tk) (d a b : Reg) (z : BitVec 1)
  | amominu (k : Tk) (d a b : Reg) (z : BitVec 1)
  | amomaxu (k : Tk) (d a b : Reg) (z : BitVec 1)
  | amoswap (k : Tk) (d a b : Reg) (z : BitVec 1)
  | amocas (k : Tk) (d a b : Reg) (z : BitVec 1)
  | amofadd (k : Tk) (d a b : Reg) (z : BitVec 1)
  -- L1 blocks (R241, R243)
  | lblk (k : Tk) (d a : Reg) (i : BitVec 8)
  | wblk (k : Tk) (d a : Reg)
  | eblk (k : Tk) (d a : Reg)
  | dblk (k : Tk) (a : Reg)
  -- Ordering (R268 to R272)
  | fence (k : Tk) (s : BitVec 3)
  | acq (k : Tk) (s : BitVec 3)
  | rel (k : Tk) (s : BitVec 3)
  | invi (k : Tk) (s : BitVec 3)
  -- Stash windows (R236, R237)
  | smap (k : Tk) (d a b : Reg)
  | sunmap (k : Tk) (d : Reg)
  | sflush (k : Tk) (d : Reg)
  | sstat (k : Tk) (d a : Reg)
  -- Atomic sets (R291 to R294)
  | aage (k : Tk) (d : Reg)
  | aheld (k : Tk) (d a : Reg)
  | airrev (k : Tk)
  -- CSR access (R94)
  | csrr (k : Tk) (d : Reg) (c : BitVec 9)
  | csrw (k : Tk) (d a : Reg) (c : BitVec 9)
  | csrs (k : Tk) (d a : Reg) (c : BitVec 9)
  | csrc (k : Tk) (d a : Reg) (c : BitVec 9)
  -- System group (R96 to R100)
  | sys (k : Tk) (i : BitVec 8)
  | trap (k : Tk) (a : Reg) (i : BitVec 8)
  | eret (k : Tk)
  | brk (k : Tk) (i : BitVec 8)
  | halt (k : Tk)
  | fret (k : Tk)
  -- Task group (R132)
  | tend (k : Tk)
  | tlnc (k : Tk) (d a : Reg) (i : BitVec 8)
  | twid (k : Tk) (d : Reg) (i : BitVec 8)
  -- Time group (R133)
  | wtime (k : Tk) (a : Reg) (w : BitVec 8)
  | rtime (k : Tk) (d : Reg)
  | rframe (k : Tk) (d : Reg)
  | wframe (k : Tk) (a : Reg) (w : BitVec 8)
  | slk (k : Tk) (i : BitVec 8)
  -- Vector arithmetic, major 0x20 (R178); e is the type
  | vadd (k : Tk) (d a b : Reg) (e : BitVec 2)
  | vsub (k : Tk) (d a b : Reg) (e : BitVec 2)
  | vmul (k : Tk) (d a b : Reg) (e : BitVec 2)
  | vfma (k : Tk) (d a b : Reg) (e : BitVec 2)
  | vmax (k : Tk) (d a b : Reg) (e : BitVec 2)
  | vmin (k : Tk) (d a b : Reg) (e : BitVec 2)
  | vabs (k : Tk) (d a : Reg) (e : BitVec 2)
  | vneg (k : Tk) (d a : Reg) (e : BitVec 2)
  | vand (k : Tk) (d a b : Reg)
  | vor (k : Tk) (d a b : Reg)
  | vxor (k : Tk) (d a b : Reg)
  | vsll (k : Tk) (d a b : Reg)
  | vsra (k : Tk) (d a b : Reg)
  | vsrl (k : Tk) (d a b : Reg)
  | vcmplt (k : Tk) (d a b : Reg) (e : BitVec 2)
  | vcmpeq (k : Tk) (d a b : Reg) (e : BitVec 2)
  -- Vector functions (R179)
  | vexp2 (k : Tk) (d a : Reg)
  | vlog2 (k : Tk) (d a : Reg)
  | vrcp (k : Tk) (d a : Reg)
  | vrsqrt (k : Tk) (d a : Reg)
  -- Conversions and block scales (R180 to R183); m is RM
  | vcvt (k : Tk) (d a b : Reg) (m : BitVec 3)
  | vbmax (k : Tk) (d a b : Reg)
  | vq (k : Tk) (d a b : Reg) (m : BitVec 3)
  | vdq (k : Tk) (d a b : Reg) (m : BitVec 3)
  -- Reductions and routing (R184, R185); g is the mode
  | vredmax (k : Tk) (d a : Reg) (e : BitVec 2) (g : BitVec 1)
  | vredsum (k : Tk) (d a : Reg) (e : BitVec 2) (g : BitVec 1)
  | vredmin (k : Tk) (d a : Reg) (e : BitVec 2) (g : BitVec 1)
  | vbcast (k : Tk) (d a b : Reg)
  | vperm (k : Tk) (d a b : Reg)
  -- Vector loads and stores (R186)
  | vld (k : Tk) (d a : Reg)
  | vst (k : Tk) (d a : Reg)
  | vlds (k : Tk) (d a b : Reg)
  | vsts (k : Tk) (d a b : Reg)
  | vldx (k : Tk) (d a b : Reg)
  | vstx (k : Tk) (d a b : Reg)
  | vldb (k : Tk) (a : Reg)
  -- Conditional streams (R190)
  | vpushc (k : Tk) (a b : Reg)
  | vpopc (k : Tk) (d b : Reg)
  | vbal (k : Tk) (d a : Reg)
  -- Gating and histograms (R192, R194)
  | vsoftk (k : Tk) (d a b : Reg)
  | vhist (k : Tk) (d a b : Reg)
  -- Moves and masks (R195)
  | vmov (k : Tk) (d a : Reg)
  | vsplat (k : Tk) (d a : Reg)
  | vlane (k : Tk) (d a b : Reg)
  | vsel (k : Tk) (d a b : Reg)
  | vmset (k : Tk) (d a b : Reg)
  | vidx (k : Tk) (d : Reg)
  -- Matrix configuration (R214)
  | mxcfg (k : Tk) (a : Reg)
  | mxfmt (k : Tk) (d a : Reg)
  | mxgo (k : Tk) (d a : Reg)
  | mxzero (k : Tk) (d : Reg)
  | mxstat (k : Tk) (d : Reg) (c : BitVec 1)
  -- Matrix steps (R219)
  | mxmm (k : Tk) (d a b : Reg)
  | mxbin (k : Tk) (d a b : Reg)
  | mxrank (k : Tk) (d a b : Reg)
  | mxsp (k : Tk) (d a b : Reg)
  -- Matrix moves (R221)
  | mxst (k : Tk) (d a b : Reg)
  | mxld (k : Tk) (d a b : Reg)
  | mxtov (k : Tk) (d a b : Reg)
  | mxfromv (k : Tk) (d a b : Reg)
  -- Engine notes and guards (R110)
  | enote (k : Tk) (d : Reg)
  | eqf (y : Bool) (m : BitVec 3)
  | egrd (d : Reg) (g : BitVec 1)
  -- Copy words (R309); s is the slack class
  | cpin (k : Tk) (s p : BitVec 4) (a b : Reg)
  | cpout (k : Tk) (s p : BitVec 4) (a b : Reg)
  | cpss (k : Tk) (s p : BitVec 4) (a b : Reg)
  | cpred (k : Tk) (s p : BitVec 4) (a b : Reg)
  | cpoq (k : Tk) (s p : BitVec 4) (a b : Reg)
  -- Exchange words (R397)
  | xput (k : Tk) (s : BitVec 4) (r : BitVec 2) (p : BitVec 4) (a b : Reg)
  | xget (k : Tk) (s : BitVec 4) (r : BitVec 2) (p : BitVec 4) (a b : Reg)
  | xmc (k : Tk) (s : BitVec 4) (r : BitVec 2) (p : BitVec 4) (a b : Reg)
  | xcmb (k : Tk) (s : BitVec 4) (r : BitVec 2) (p : BitVec 4) (a b : Reg)
  | xamo (k : Tk) (s : BitVec 4) (r : BitVec 2) (p : BitVec 4) (a b : Reg)
  | xlnc (k : Tk) (s : BitVec 4) (r : BitVec 2) (p : BitVec 4) (a b : Reg)
  -- Sort/select and loft words (R331)
  | sfsort (k : Tk) (s : BitVec 4) (r : BitVec 2) (p : BitVec 4) (a b : Reg)
  | sftopk (k : Tk) (s : BitVec 4) (r : BitVec 2) (p : BitVec 4) (a b : Reg)
  | lftopRed (k : Tk) (s : BitVec 4) (r : BitVec 2) (p : BitVec 4) (a b : Reg)
  | lftopHist (k : Tk) (s : BitVec 4) (r : BitVec 2) (p : BitVec 4) (a b : Reg)
  -- Tokens (R107)
  | tksnd (k : Tk) (a : Reg)
  | tkrcv (k : Tk) (a : Reg) (w : BitVec 8)
  | tktry (k : Tk) (d a : Reg)
  -- Rings (R230)
  | rgclaim (k : Tk) (d a : Reg) (w : BitVec 8)
  | rgfill (k : Tk) (a : Reg)
  | rgwait (k : Tk) (d a : Reg) (w : BitVec 8)
  | rgfree (k : Tk) (a : Reg)
  | rgstat (k : Tk) (d a : Reg)
  | rgstatSet (k : Tk) (d a : Reg)
  | rgstatSave (k : Tk) (d a : Reg)
  -- Future slots (R114)
  | pwr (k : Tk) (d a : Reg)
  | prd (k : Tk) (d a : Reg)
  | pclr (k : Tk) (d : Reg)
  | pwait (k : Tk) (d : Reg) (w : BitVec 8)
  -- Barriers (R119)
  | barinit (k : Tk) (a : Reg) (i : BitVec 8)
  | bararr (k : Tk) (d : Reg) (i : BitVec 8)
  | barwait (k : Tk) (a : Reg) (w : BitVec 8)
  -- Admission group (R335)
  | admrt (k : Tk) (d a b : Reg)
  | admctr (k : Tk) (d a : Reg)
  | admtk (k : Tk) (d a b : Reg)
  -- Events at a word boundary and of waits (R341, R116, R104, R106, R107)
  | pendingEventTake (core ctx : Nat)
  | waitBoundExpiry (core who : Nat)
  | waitSatisfied (core who : Nat)
  | yRendezvous (core : Nat)
  | heldSignalPush (core who : Nat)
  | tokenDelivery (n : Nat)
  -- Engine events (R171, R206, R212, R311)
  | vxeCommandStart (core : Nat)
  | vxeWriteback (core : Nat)
  | mxeCommandStart (core : Nat)
  | mxeWriteback (core : Nat)
  | nestStep (core : Nat)
  | nestStoreDrainEnd (core : Nat)
  | cpeCommandStart (core : Nat)
  | copyPacketForm (core : Nat)
  | copyLineComplete (core n : Nat) (rep : Reply)
  | engineCommandRetire (core q : Nat)
  -- Tasks, launches and time (R112, R122, R129, R130, R406 to R408)
  | taskComplete (core : Nat)
  | taskStart (core : Nat)
  | launchRelease (blk q : Nat)
  | frameTick (blk : Nat)
  | slipEnd (blk : Nat)
  | timeCounterStep
  | timeSyncExchange (offset : Int)
  | ptpEventMessage (port : Nat) (offset : Int)
  -- Memory events (R345, R241, R247, R234, R316, R347, R348, R253, R252)
  | storePerform (core ctx : Nat)
  | loadReply (core ctx : Nat) (rep : Reply)
  | blockFillComplete (core n : Nat)
  | hcHomeAccess (line : Nat) (wr : List (Nat × Byte)) (pts : Word)
  | leaseExpiry (core line : Nat)
  | stashFill (core : Nat)
  | oqEntryFill (core q : Nat)
  | freezeEnd (core : Nat)
  | freezeLimit (core : Nat)
  | farrierRetry (unit core addr : Nat) (lasting : Bool) (synd : Word)
  | shootdown (core : Nat)
  | pageWalk (core ctx : Nat) (va : Word)
  -- Atomic sets (R277 to R286)
  | lotRequest (core who : Nat)
  | lotGrant (key : Nat)
  | rollback (core : Nat)
  | commit (core : Nat)
  | irrevocabilityGrant (blk : Nat)
  -- Packets (R303 to R307)
  | packetWaitUnit (point n : Nat)
  | arbiterGrant (point vc : Nat)
  | replyForm (point t : Nat)
  | eventLogWrite (core ctx : Nat) (entry : Word)
  -- Shared engines (R321 to R328, R314)
  | admissionDecision (core ctx : Nat)
  | admissionAnswer (core ctx : Nat)
  | ticketIssue (cls unit : Nat)
  | ticketLapse (cls unit : Nat)
  | bayComplete (cls unit bay : Nat) (rep : BayReply)
  | loftLineOperation (line op : Nat) (data : Line)
  -- Pre-emption and the halter (R366, R355, R357, R364, R350 to R353, R373)
  | sliceExpiry (core : Nat)
  | preemptionPoint (core : Nat)
  | saveSequence (core : Nat)
  | restore (core : Nat)
  | halterWatchFire (kind core ctx : Nat)
  | halterLevelTimeout (n : Nat)
  | packageReset
  | ilheadWrite (fn : Nat) (v : Word)
  -- Fabric (R377 to R400)
  | cellInject (stop dir lane blk : Nat)
  | slotTableCommit
  | domainRequest (h0 h1 adr ts lk : Word) (hostOk : Bool) (op : DomOp)
  | requestTimeout (core ctx : Nat)
  | linkUnitReceive (port : Nat) (side : Word) (flit : List Word) (crcOk : Bool)
  | replayRequest (port seq : Nat)
  | linkRetrain (port : Nat)
  | multicastForward (n branch : Nat)
  | multicastDelivery (core n : Nat)
  | multicastDropTimeout (core n : Nat)
  | combineContribution (stop group num : Nat) (v : CombIn)
  | combineResultLand (core : Nat) (n : Nat)
  | proxyOffer (shed bay : Nat) (rep : Reply)
  -- Host, mailbox and tack (R417 to R427)
  | doorbellWrite (fn blk q : Nat) (packet : List Word)
  | info (fn e : Nat)
  | fwchunk (fn e : Nat)
  | fwverify (fn e : Nat)
  | fwswap (fn e : Nat)
  | merge (fn e : Nat)
  | vfreset (fn e : Nat)
  | diagread (fn e : Nat)
  | cfgwrite (fn e : Nat)
  | cfgread (fn e : Nat)
  | ptpcfg (fn e : Nat)
  | functionReset (fn : Nat)
  | sdctlGo (blk : Nat) (v : Word)
  | tackHbeatWrite
  | heartbeatTimeout
  | fwctlSwap
  | firmwareHandover
  | fwctlCommit
  | trialTimeout
  | tmadjWrite (v : Word)
  | stgctlCommit
  | dwdataRead
  | powerCapCheck (watts : Nat)
  | ethernetFrame (port : Nat) (inbound : Bool) (pa : Nat) (data : List Byte)
  | registerWrite (agent addr : Nat) (v : Word)
  -- Fetch, and the remaining completions (R49, R16, R241, R386, R422, R417)
  | illegalWord (w : Code)
  | fetchFault
  | blockWritebackComplete (core n : Nat)
  | linkTrainingEnd (port : Nat) (ok : Bool)
  | unitReady (bit : Nat)
  | mailboxDoneClear (fn e : Nat)
  | unknownMailboxCode (fn e : Nat)
deriving DecidableEq, Repr

end Sys2Proof
end

