-- ==== Sys2Proof/WellFormed.lean ====
section
/-!
DEFINITION. Which instruction terms are instructions of the spec: the ranges of their fields (R40, R42, R43, R47, R49
and each word's own description). A term outside these ranges stands for a word that raises ILL.
-/
namespace Sys2Proof

/-- Every operand field is in the range that the spec gives it. A constructor without a line of its own has no range
to check: each value of each of its fields is legal. -/
def Instr.wf (i : Instr) : Bool :=
  match i with
  | .lpset _ d _ i => decide (d ≤ 3 ∧ i ≠ 0)
  | .lpresEntry _ _ a => decide (a ≤ 3)
  | .lpresExit _ a => decide (a ≤ 3)
  | .cstart _ d _ => decide (d ≤ 3)
  | .cstop _ d => decide (d ≤ 3)
  | .cwait _ d _ => decide (d ≤ 3)
  | .lblk _ d _ i => decide (d ≤ 15 ∧ 1 ≤ i ∧ i ≤ 64)
  | .wblk _ d _ => decide (d ≤ 15)
  | .eblk _ d _ => decide (d ≤ 15)
  | .fence _ s => decide (s ≤ 4)
  | .acq _ s => decide (s ≤ 4)
  | .rel _ s => decide (s ≤ 4)
  | .invi _ s => decide (s ≤ 4)
  | .smap _ d _ _ => decide (d ≤ 15)
  | .sunmap _ d => decide (d ≤ 15)
  | .sflush _ d => decide (d ≤ 15)
  | .sstat _ _ a => decide (a ≤ 15)
  | .trap _ _ i => decide (i ≤ 17)
  | .tlnc _ d _ i => decide (d ≤ 15 ∧ i ≤ 15)
  | .twid _ _ i => decide (i ≤ 6)
  | .slk _ i => decide (i ≤ 15)
  | .vadd _ _ _ _ e => decide (e ≠ 3)
  | .vsub _ _ _ _ e => decide (e ≠ 3)
  | .vmul _ _ _ _ e => decide (e ≠ 3)
  | .vfma _ _ _ _ e => decide (e ≠ 3)
  | .vmax _ _ _ _ e => decide (e ≠ 3)
  | .vmin _ _ _ _ e => decide (e ≠ 3)
  | .vabs _ _ _ e => decide (e ≠ 3)
  | .vneg _ _ _ e => decide (e ≠ 3)
  | .vcmplt _ d _ _ e => decide (e ≠ 3 ∧ d ≤ 7)
  | .vcmpeq _ d _ _ e => decide (e ≠ 3 ∧ d ≤ 7)
  | .vcvt _ _ _ b m => decide (b ≤ 27 ∧ m ≤ 4)
  | .vbmax _ _ _ b => decide (b = 2 ∨ b = 3 ∨ b = 4 ∨ b = 7)
  | .vq _ _ _ b m => decide (b ≤ 15 ∧ m ≤ 4)
  | .vdq _ _ _ b m => decide (b ≤ 15 ∧ m ≤ 4)
  | .vredmax _ _ _ e _ => decide (e ≠ 3)
  | .vredsum _ _ _ e _ => decide (e ≠ 3)
  | .vredmin _ _ _ e _ => decide (e ≠ 3)
  | .vpushc _ _ b => decide (b ≤ 7)
  | .vpopc _ _ b => decide (b ≤ 7)
  | .vbal _ d a => decide (d ≤ 15 ∧ a ≤ 1)
  | .vsoftk _ d _ b => decide (1 ≤ b ∧ b ≤ 8 ∧ d ≠ 31)
  | .vhist _ _ _ b => decide (b ≤ 7)
  | .vsel _ _ _ b => decide (b ≤ 7)
  | .vlane _ d _ _ => decide (d ≤ 15)
  | .vmset _ d a b => decide (d ≤ 7 ∧ b ≤ 3 ∧ (b = 3 → a = 0))
  | .mxfmt _ d _ => decide (d ≤ 15)
  | .mxgo _ d _ => decide (d ≤ 15)
  | .mxstat _ d _ => decide (d ≤ 15)
  | .mxzero _ d => decide (d ≤ 3)
  | .mxmm _ d _ _ => decide (d ≤ 3)
  | .mxbin _ d _ _ => decide (d ≤ 3)
  | .mxsp _ d _ _ => decide (d ≤ 3)
  | .mxrank _ d a b => decide (d ≤ 3 ∧ a ≤ 3 ∧ b ≤ 15 ∧ d ≠ a)
  | .mxst _ d _ b => decide (d ≤ 3 ∧ b ≤ 15)
  | .mxld _ d _ b => decide (d ≤ 3 ∧ b ≤ 15)
  | .mxtov _ _ a b => decide (a ≤ 3 ∧ b ≤ 15)
  | .mxfromv _ d _ b => decide (d ≤ 3 ∧ b ≤ 15)
  | .enote _ d => decide (d ≤ 2)
  | .eqf _ m => decide (m = 3 ∨ m = 5 ∨ m = 6 ∨ m = 7)
  | .egrd d _ => decide (d ≤ 15)
  | .tkrcv _ a _ => decide (a ≤ 2)
  | .tktry _ _ a => decide (a ≤ 2)
  | .rgclaim _ _ a _ => decide (a ≤ 15)
  | .rgfill _ a => decide (a ≤ 15)
  | .rgwait _ _ a _ => decide (a ≤ 15)
  | .rgfree _ a => decide (a ≤ 15)
  | .rgstat _ _ a => decide (a ≤ 15)
  | .rgstatSet _ d _ => decide (d ≤ 15)
  | .rgstatSave _ d _ => decide (d ≤ 15)
  | .pwr _ d _ => decide (d ≤ 15)
  | .pclr _ d => decide (d ≤ 15)
  | .pwait _ d _ => decide (d ≤ 15)
  | .prd _ _ a => decide (a ≤ 15)
  | .admtk _ _ _ b => decide (b ≤ 1)
  | _ => true

/-- The step is an instruction word, not an event. -/
def Instr.isWord (i : Instr) : Bool :=
  match i with
  | .pendingEventTake .. => false
  | .waitBoundExpiry .. => false
  | .waitSatisfied .. => false
  | .yRendezvous .. => false
  | .heldSignalPush .. => false
  | .tokenDelivery .. => false
  | .vxeCommandStart .. => false
  | .vxeWriteback .. => false
  | .mxeCommandStart .. => false
  | .mxeWriteback .. => false
  | .nestStep .. => false
  | .nestStoreDrainEnd .. => false
  | .cpeCommandStart .. => false
  | .copyPacketForm .. => false
  | .copyLineComplete .. => false
  | .engineCommandRetire .. => false
  | .taskComplete .. => false
  | .taskStart .. => false
  | .launchRelease .. => false
  | .frameTick .. => false
  | .slipEnd .. => false
  | .timeCounterStep => false
  | .timeSyncExchange .. => false
  | .ptpEventMessage .. => false
  | .storePerform .. => false
  | .loadReply .. => false
  | .blockFillComplete .. => false
  | .hcHomeAccess .. => false
  | .leaseExpiry .. => false
  | .stashFill .. => false
  | .oqEntryFill .. => false
  | .freezeEnd .. => false
  | .freezeLimit .. => false
  | .farrierRetry .. => false
  | .shootdown .. => false
  | .pageWalk .. => false
  | .lotRequest .. => false
  | .lotGrant .. => false
  | .rollback .. => false
  | .commit .. => false
  | .irrevocabilityGrant .. => false
  | .packetWaitUnit .. => false
  | .arbiterGrant .. => false
  | .replyForm .. => false
  | .eventLogWrite .. => false
  | .admissionDecision .. => false
  | .admissionAnswer .. => false
  | .ticketIssue .. => false
  | .ticketLapse .. => false
  | .bayComplete .. => false
  | .loftLineOperation .. => false
  | .sliceExpiry .. => false
  | .preemptionPoint .. => false
  | .saveSequence .. => false
  | .restore .. => false
  | .halterWatchFire .. => false
  | .halterLevelTimeout .. => false
  | .packageReset => false
  | .ilheadWrite .. => false
  | .cellInject .. => false
  | .slotTableCommit => false
  | .domainRequest .. => false
  | .requestTimeout .. => false
  | .linkUnitReceive .. => false
  | .replayRequest .. => false
  | .linkRetrain .. => false
  | .multicastForward .. => false
  | .multicastDelivery .. => false
  | .multicastDropTimeout .. => false
  | .combineContribution .. => false
  | .combineResultLand .. => false
  | .proxyOffer .. => false
  | .doorbellWrite .. => false
  | .info .. => false
  | .fwchunk .. => false
  | .fwverify .. => false
  | .fwswap .. => false
  | .merge .. => false
  | .vfreset .. => false
  | .diagread .. => false
  | .cfgwrite .. => false
  | .cfgread .. => false
  | .ptpcfg .. => false
  | .functionReset .. => false
  | .sdctlGo .. => false
  | .tackHbeatWrite => false
  | .heartbeatTimeout => false
  | .fwctlSwap => false
  | .firmwareHandover => false
  | .fwctlCommit => false
  | .trialTimeout => false
  | .tmadjWrite .. => false
  | .stgctlCommit => false
  | .dwdataRead => false
  | .powerCapCheck .. => false
  | .ethernetFrame .. => false
  | .registerWrite .. => false
  | .illegalWord .. => false
  | .fetchFault => false
  | .blockWritebackComplete .. => false
  | .linkTrainingEnd .. => false
  | .unitReady .. => false
  | .mailboxDoneClear .. => false
  | .unknownMailboxCode .. => false
  | _ => true

end Sys2Proof
end

