-- ==== Sys2Proof/Decode.lean ====
section
/-!
DEFINITION. The decoder, total on any 32-bit word, and the encoder. Fields are taken out here, once. A word that R49
lists is no instruction: the decoder answers `none`, and the machine then raises ILL by name (`illegalWord`).
-/
namespace Sys2Proof

/-- Bits lo + n - 1 to lo of a word. -/
abbrev fld (w : Code) (lo n : Nat) : BitVec n := w.extractLsb' lo n

/-- The token bits and Y as the five top bits of a word (R36). -/
def Tk.bits (k : Tk) : BitVec 5 :=
  BitVec.ofBool k.wp ++ BitVec.ofBool k.wn ++ BitVec.ofBool k.sp ++ BitVec.ofBool k.sn ++ BitVec.ofBool k.y

/-- The token bits and Y of five top bits. -/
def Tk.ofBits (v : BitVec 5) : Tk :=
  ⟨v.getLsbD 4, v.getLsbD 3, v.getLsbD 2, v.getLsbD 1, v.getLsbD 0⟩

/-- The token bits and Y of a word (R36). -/
def Tk.of (w : Code) : Tk := Tk.ofBits (fld w 27 5)

/-- Words of major 0x01 (R46). -/
def dec01 (k : Tk) (w : Code) : Option Instr :=
  match fld w 0 6 with
  | 0x0#6 => some (.add k (fld w 16 5) (fld w 11 5) (fld w 6 5))
  | 0x1#6 => some (.sub k (fld w 16 5) (fld w 11 5) (fld w 6 5))
  | 0x2#6 => some (.and k (fld w 16 5) (fld w 11 5) (fld w 6 5))
  | 0x3#6 => some (.or k (fld w 16 5) (fld w 11 5) (fld w 6 5))
  | 0x4#6 => some (.xor k (fld w 16 5) (fld w 11 5) (fld w 6 5))
  | 0x5#6 => some (.andn k (fld w 16 5) (fld w 11 5) (fld w 6 5))
  | 0x6#6 => some (.sll k (fld w 16 5) (fld w 11 5) (fld w 6 5))
  | 0x7#6 => some (.srl k (fld w 16 5) (fld w 11 5) (fld w 6 5))
  | 0x8#6 => some (.sra k (fld w 16 5) (fld w 11 5) (fld w 6 5))
  | 0x9#6 => some (.slt k (fld w 16 5) (fld w 11 5) (fld w 6 5))
  | 0xa#6 => some (.sltu k (fld w 16 5) (fld w 11 5) (fld w 6 5))
  | 0xb#6 => some (.min k (fld w 16 5) (fld w 11 5) (fld w 6 5))
  | 0xc#6 => some (.max k (fld w 16 5) (fld w 11 5) (fld w 6 5))
  | 0xd#6 => some (.minu k (fld w 16 5) (fld w 11 5) (fld w 6 5))
  | 0xe#6 => some (.maxu k (fld w 16 5) (fld w 11 5) (fld w 6 5))
  | 0xf#6 => some (.mul k (fld w 16 5) (fld w 11 5) (fld w 6 5))
  | 0x10#6 => some (.mulh k (fld w 16 5) (fld w 11 5) (fld w 6 5))
  | 0x11#6 => some (.mulhu k (fld w 16 5) (fld w 11 5) (fld w 6 5))
  | 0x12#6 => some (.div k (fld w 16 5) (fld w 11 5) (fld w 6 5))
  | 0x13#6 => some (.divu k (fld w 16 5) (fld w 11 5) (fld w 6 5))
  | 0x14#6 => some (.rem k (fld w 16 5) (fld w 11 5) (fld w 6 5))
  | 0x15#6 => some (.remu k (fld w 16 5) (fld w 11 5) (fld w 6 5))
  | 0x16#6 => if fld w 6 5 = 0#5 then some (.clz k (fld w 16 5) (fld w 11 5)) else none
  | 0x17#6 => if fld w 6 5 = 0#5 then some (.ctz k (fld w 16 5) (fld w 11 5)) else none
  | 0x18#6 => if fld w 6 5 = 0#5 then some (.popc k (fld w 16 5) (fld w 11 5)) else none
  | 0x19#6 => if fld w 6 5 = 0#5 then some (.sextb k (fld w 16 5) (fld w 11 5)) else none
  | 0x1a#6 => if fld w 6 5 = 0#5 then some (.sexth k (fld w 16 5) (fld w 11 5)) else none
  | 0x1b#6 => if fld w 6 5 = 0#5 then some (.sextw k (fld w 16 5) (fld w 11 5)) else none
  | _ => none

/-- Words of major 0x02 (R46). -/
def dec02 (k : Tk) (w : Code) : Option Instr :=
  some (.addi k (fld w 16 5) (fld w 11 5) (fld w 0 11))

/-- Words of major 0x03 (R46). -/
def dec03 (k : Tk) (w : Code) : Option Instr :=
  match fld w 8 3 with
  | 0x0#3 => some (.andi k (fld w 16 5) (fld w 11 5) (fld w 0 8))
  | 0x1#3 => some (.ori k (fld w 16 5) (fld w 11 5) (fld w 0 8))
  | 0x2#3 => some (.xori k (fld w 16 5) (fld w 11 5) (fld w 0 8))
  | 0x3#3 => if fld w 6 2 = 0#2 then some (.slli k (fld w 16 5) (fld w 11 5) (fld w 0 6)) else none
  | 0x4#3 => if fld w 6 2 = 0#2 then some (.srli k (fld w 16 5) (fld w 11 5) (fld w 0 6)) else none
  | 0x5#3 => if fld w 6 2 = 0#2 then some (.srai k (fld w 16 5) (fld w 11 5) (fld w 0 6)) else none
  | 0x6#3 => some (.slti k (fld w 16 5) (fld w 11 5) (fld w 0 8))
  | 0x7#3 => some (.sltiu k (fld w 16 5) (fld w 11 5) (fld w 0 8))

/-- Words of major 0x04 (R46). -/
def dec04 (k : Tk) (w : Code) : Option Instr :=
  some (.lim k (fld w 16 5) (fld w 0 16))

/-- Words of major 0x05 (R46). -/
def dec05 (k : Tk) (w : Code) : Option Instr :=
  some (.lis k (fld w 16 5) (fld w 0 16))

/-- Words of major 0x06 (R46). -/
def dec06 (k : Tk) (w : Code) : Option Instr :=
  match fld w 18 3 with
  | 0x0#3 => some (.beq k (fld w 13 5) (fld w 8 5) (fld w 0 8))
  | 0x1#3 => some (.bne k (fld w 13 5) (fld w 8 5) (fld w 0 8))
  | 0x2#3 => some (.blt k (fld w 13 5) (fld w 8 5) (fld w 0 8))
  | 0x3#3 => some (.bge k (fld w 13 5) (fld w 8 5) (fld w 0 8))
  | 0x4#3 => some (.bltu k (fld w 13 5) (fld w 8 5) (fld w 0 8))
  | 0x5#3 => some (.bgeu k (fld w 13 5) (fld w 8 5) (fld w 0 8))
  | 0x6#3 => if fld w 13 5 = 0#5 ∧ fld w 8 5 = 0#5 then some (.bbusy k (fld w 0 8)) else none
  | 0x7#3 => if fld w 13 5 = 0#5 ∧ fld w 8 5 = 0#5 then some (.bfree k (fld w 0 8)) else none

/-- Words of major 0x07 (R46). -/
def dec07 (k : Tk) (w : Code) : Option Instr :=
  match fld w 20 1 with
  | 0x0#1 => some (.bpt k (fld w 16 4) (fld w 0 16))
  | 0x1#1 => some (.bpf k (fld w 16 4) (fld w 0 16))

/-- Words of major 0x08 (R46). -/
def dec08 (k : Tk) (w : Code) : Option Instr :=
  some (.jal k (fld w 16 5) (fld w 0 16))

/-- Words of major 0x09 (R46). -/
def dec09 (k : Tk) (w : Code) : Option Instr :=
  some (.jalr k (fld w 16 5) (fld w 11 5) (fld w 0 11))

/-- Words of major 0x0a (R46). -/
def dec0a (k : Tk) (w : Code) : Option Instr :=
  match fld w 8 3 with
  | 0x0#3 => some (.lpset k (fld w 16 5) (fld w 11 5) (fld w 0 8))
  | 0x1#3 => if fld w 0 8 = 0#8 then some (.lpresEntry k (fld w 16 5) (fld w 11 5)) else if fld w 16 5 = 0#5 ∧ fld w 0 8 = 1#8 then some (.lpresExit k (fld w 11 5)) else none
  | 0x2#3 => if fld w 0 8 = 0#8 then some (.bkt k (fld w 16 5) (fld w 11 5)) else none
  | _ => none

/-- Words of major 0x0b (R46). -/
def dec0b (k : Tk) (w : Code) : Option Instr :=
  match fld w 8 3 with
  | 0x0#3 => if fld w 0 8 = 0#8 then some (.cstart k (fld w 16 5) (fld w 11 5)) else none
  | 0x1#3 => if fld w 11 5 = 0#5 ∧ fld w 0 8 = 0#8 then some (.cstop k (fld w 16 5)) else none
  | 0x2#3 => if fld w 16 5 = 0#5 ∧ fld w 11 5 = 0#5 then some (.cyield k (fld w 0 8)) else none
  | 0x3#3 => if fld w 11 5 = 0#5 ∧ fld w 0 8 = 0#8 then some (.cid k (fld w 16 5)) else none
  | 0x4#3 => if fld w 11 5 = 0#5 then some (.cwait k (fld w 16 5) (fld w 0 8)) else none
  | _ => none

/-- Words of major 0x0c (R46). -/
def dec0c (k : Tk) (w : Code) : Option Instr :=
  match fld w 0 6 with
  | 0x0#6 => some (.faddD k (fld w 16 5) (fld w 11 5) (fld w 6 5))
  | 0x1#6 => some (.fsubD k (fld w 16 5) (fld w 11 5) (fld w 6 5))
  | 0x2#6 => some (.fmulD k (fld w 16 5) (fld w 11 5) (fld w 6 5))
  | 0x3#6 => some (.fdivD k (fld w 16 5) (fld w 11 5) (fld w 6 5))
  | 0x4#6 => some (.fminD k (fld w 16 5) (fld w 11 5) (fld w 6 5))
  | 0x5#6 => some (.fmaxD k (fld w 16 5) (fld w 11 5) (fld w 6 5))
  | 0x6#6 => if fld w 6 5 = 0#5 then some (.fsqrtD k (fld w 16 5) (fld w 11 5)) else none
  | 0x7#6 => if fld w 6 5 = 0#5 then some (.fcvtDL k (fld w 16 5) (fld w 11 5)) else none
  | 0x8#6 => if fld w 6 5 = 0#5 then some (.fcvtLD k (fld w 16 5) (fld w 11 5)) else none
  | 0x9#6 => some (.feqD k (fld w 16 5) (fld w 11 5) (fld w 6 5))
  | 0xa#6 => some (.fltD k (fld w 16 5) (fld w 11 5) (fld w 6 5))
  | 0xb#6 => some (.fleD k (fld w 16 5) (fld w 11 5) (fld w 6 5))
  | _ => none

/-- Words of major 0x10 (R46). -/
def dec10 (k : Tk) (w : Code) : Option Instr :=
  match fld w 8 3 with
  | 0x0#3 => some (.lb k (fld w 16 5) (fld w 11 5) (fld w 0 8))
  | 0x1#3 => some (.lh k (fld w 16 5) (fld w 11 5) (fld w 0 8))
  | 0x2#3 => some (.lw k (fld w 16 5) (fld w 11 5) (fld w 0 8))
  | 0x3#3 => some (.ld k (fld w 16 5) (fld w 11 5) (fld w 0 8))
  | 0x4#3 => some (.lbu k (fld w 16 5) (fld w 11 5) (fld w 0 8))
  | 0x5#3 => some (.lhu k (fld w 16 5) (fld w 11 5) (fld w 0 8))
  | 0x6#3 => some (.lwu k (fld w 16 5) (fld w 11 5) (fld w 0 8))
  | _ => none

/-- Words of major 0x11 (R46). -/
def dec11 (k : Tk) (w : Code) : Option Instr :=
  match fld w 8 3 with
  | 0x0#3 => some (.sb k (fld w 16 5) (fld w 11 5) (fld w 0 8))
  | 0x1#3 => some (.sh k (fld w 16 5) (fld w 11 5) (fld w 0 8))
  | 0x2#3 => some (.sw k (fld w 16 5) (fld w 11 5) (fld w 0 8))
  | 0x3#3 => some (.sd k (fld w 16 5) (fld w 11 5) (fld w 0 8))
  | _ => none

/-- Words of major 0x12 (R46). -/
def dec12 (k : Tk) (w : Code) : Option Instr :=
  match fld w 0 6 with
  | 0x0#6 => some (.ldx k (fld w 16 5) (fld w 11 5) (fld w 6 5))
  | 0x1#6 => some (.stx k (fld w 16 5) (fld w 11 5) (fld w 6 5))
  | _ => none

/-- Words of major 0x13 (R46). -/
def dec13 (k : Tk) (w : Code) : Option Instr :=
  match fld w 1 5 with
  | 0x0#5 => some (.amoadd k (fld w 16 5) (fld w 11 5) (fld w 6 5) (fld w 0 1))
  | 0x1#5 => some (.amoand k (fld w 16 5) (fld w 11 5) (fld w 6 5) (fld w 0 1))
  | 0x2#5 => some (.amoor k (fld w 16 5) (fld w 11 5) (fld w 6 5) (fld w 0 1))
  | 0x3#5 => some (.amoxor k (fld w 16 5) (fld w 11 5) (fld w 6 5) (fld w 0 1))
  | 0x4#5 => some (.amomin k (fld w 16 5) (fld w 11 5) (fld w 6 5) (fld w 0 1))
  | 0x5#5 => some (.amomax k (fld w 16 5) (fld w 11 5) (fld w 6 5) (fld w 0 1))
  | 0x6#5 => some (.amominu k (fld w 16 5) (fld w 11 5) (fld w 6 5) (fld w 0 1))
  | 0x7#5 => some (.amomaxu k (fld w 16 5) (fld w 11 5) (fld w 6 5) (fld w 0 1))
  | 0x8#5 => some (.amoswap k (fld w 16 5) (fld w 11 5) (fld w 6 5) (fld w 0 1))
  | 0x9#5 => some (.amocas k (fld w 16 5) (fld w 11 5) (fld w 6 5) (fld w 0 1))
  | 0xa#5 => some (.amofadd k (fld w 16 5) (fld w 11 5) (fld w 6 5) (fld w 0 1))
  | _ => none

/-- Words of major 0x14 (R46). -/
def dec14 (k : Tk) (w : Code) : Option Instr :=
  match fld w 8 3 with
  | 0x0#3 => some (.lblk k (fld w 16 5) (fld w 11 5) (fld w 0 8))
  | 0x1#3 => if fld w 0 8 = 0#8 then some (.wblk k (fld w 16 5) (fld w 11 5)) else none
  | 0x2#3 => if fld w 0 8 = 0#8 then some (.eblk k (fld w 16 5) (fld w 11 5)) else none
  | 0x3#3 => if fld w 16 5 = 0#5 ∧ fld w 0 8 = 0#8 then some (.dblk k (fld w 11 5)) else none
  | _ => none

/-- Words of major 0x15 (R46). -/
def dec15 (k : Tk) (w : Code) : Option Instr :=
  match fld w 8 3 with
  | 0x0#3 => if fld w 16 5 = 0#5 ∧ fld w 11 5 = 0#5 ∧ fld w 3 5 = 0#5 then some (.fence k (fld w 0 3)) else none
  | 0x1#3 => if fld w 16 5 = 0#5 ∧ fld w 11 5 = 0#5 ∧ fld w 3 5 = 0#5 then some (.acq k (fld w 0 3)) else none
  | 0x2#3 => if fld w 16 5 = 0#5 ∧ fld w 11 5 = 0#5 ∧ fld w 3 5 = 0#5 then some (.rel k (fld w 0 3)) else none
  | 0x3#3 => if fld w 16 5 = 0#5 ∧ fld w 11 5 = 0#5 ∧ fld w 3 5 = 0#5 then some (.invi k (fld w 0 3)) else none
  | _ => none

/-- Words of major 0x16 (R46). -/
def dec16 (k : Tk) (w : Code) : Option Instr :=
  match fld w 0 6 with
  | 0x0#6 => some (.smap k (fld w 16 5) (fld w 11 5) (fld w 6 5))
  | 0x1#6 => if fld w 11 5 = 0#5 ∧ fld w 6 5 = 0#5 then some (.sunmap k (fld w 16 5)) else none
  | 0x2#6 => if fld w 11 5 = 0#5 ∧ fld w 6 5 = 0#5 then some (.sflush k (fld w 16 5)) else none
  | 0x3#6 => if fld w 6 5 = 0#5 then some (.sstat k (fld w 16 5) (fld w 11 5)) else none
  | _ => none

/-- Words of major 0x17 (R46). -/
def dec17 (k : Tk) (w : Code) : Option Instr :=
  match fld w 8 3 with
  | 0x0#3 => if fld w 11 5 = 0#5 ∧ fld w 0 8 = 0#8 then some (.aage k (fld w 16 5)) else none
  | 0x1#3 => if fld w 0 8 = 0#8 then some (.aheld k (fld w 16 5) (fld w 11 5)) else none
  | 0x2#3 => if fld w 16 5 = 0#5 ∧ fld w 11 5 = 0#5 ∧ fld w 0 8 = 0#8 then some (.airrev k) else none
  | _ => none

/-- Words of major 0x18 (R46). -/
def dec18 (k : Tk) (w : Code) : Option Instr :=
  match fld w 9 2 with
  | 0x0#2 => if fld w 11 5 = 0#5 then some (.csrr k (fld w 16 5) (fld w 0 9)) else none
  | 0x1#2 => some (.csrw k (fld w 16 5) (fld w 11 5) (fld w 0 9))
  | 0x2#2 => some (.csrs k (fld w 16 5) (fld w 11 5) (fld w 0 9))
  | 0x3#2 => some (.csrc k (fld w 16 5) (fld w 11 5) (fld w 0 9))

/-- Words of major 0x19 (R46). -/
def dec19 (k : Tk) (w : Code) : Option Instr :=
  match fld w 8 3 with
  | 0x0#3 => if fld w 16 5 = 0#5 ∧ fld w 11 5 = 0#5 then some (.sys k (fld w 0 8)) else none
  | 0x1#3 => if fld w 16 5 = 0#5 then some (.trap k (fld w 11 5) (fld w 0 8)) else none
  | 0x2#3 => if fld w 16 5 = 0#5 ∧ fld w 11 5 = 0#5 ∧ fld w 0 8 = 0#8 then some (.eret k) else none
  | 0x3#3 => if fld w 16 5 = 0#5 ∧ fld w 11 5 = 0#5 then some (.brk k (fld w 0 8)) else none
  | 0x4#3 => if fld w 16 5 = 0#5 ∧ fld w 11 5 = 0#5 ∧ fld w 0 8 = 0#8 then some (.halt k) else none
  | 0x5#3 => if fld w 16 5 = 0#5 ∧ fld w 11 5 = 0#5 ∧ fld w 0 8 = 0#8 then some (.fret k) else none
  | _ => none

/-- Words of major 0x1a (R46). -/
def dec1a (k : Tk) (w : Code) : Option Instr :=
  match fld w 8 3 with
  | 0x0#3 => if fld w 16 5 = 0#5 ∧ fld w 11 5 = 0#5 ∧ fld w 0 8 = 0#8 then some (.tend k) else none
  | 0x1#3 => some (.tlnc k (fld w 16 5) (fld w 11 5) (fld w 0 8))
  | 0x2#3 => if fld w 11 5 = 0#5 then some (.twid k (fld w 16 5) (fld w 0 8)) else none
  | _ => none

/-- Words of major 0x1b (R46). -/
def dec1b (k : Tk) (w : Code) : Option Instr :=
  match fld w 8 3 with
  | 0x0#3 => if fld w 16 5 = 0#5 then some (.wtime k (fld w 11 5) (fld w 0 8)) else none
  | 0x1#3 => if fld w 11 5 = 0#5 ∧ fld w 0 8 = 0#8 then some (.rtime k (fld w 16 5)) else none
  | 0x2#3 => if fld w 11 5 = 0#5 ∧ fld w 0 8 = 0#8 then some (.rframe k (fld w 16 5)) else none
  | 0x3#3 => if fld w 16 5 = 0#5 then some (.wframe k (fld w 11 5) (fld w 0 8)) else none
  | 0x4#3 => if fld w 16 5 = 0#5 ∧ fld w 11 5 = 0#5 then some (.slk k (fld w 0 8)) else none
  | _ => none

/-- Words of major 0x20 (R46). -/
def dec20 (k : Tk) (w : Code) : Option Instr :=
  match fld w 2 4 with
  | 0x0#4 => some (.vadd k (fld w 16 5) (fld w 11 5) (fld w 6 5) (fld w 0 2))
  | 0x1#4 => some (.vsub k (fld w 16 5) (fld w 11 5) (fld w 6 5) (fld w 0 2))
  | 0x2#4 => some (.vmul k (fld w 16 5) (fld w 11 5) (fld w 6 5) (fld w 0 2))
  | 0x3#4 => some (.vfma k (fld w 16 5) (fld w 11 5) (fld w 6 5) (fld w 0 2))
  | 0x4#4 => some (.vmax k (fld w 16 5) (fld w 11 5) (fld w 6 5) (fld w 0 2))
  | 0x5#4 => some (.vmin k (fld w 16 5) (fld w 11 5) (fld w 6 5) (fld w 0 2))
  | 0x6#4 => if fld w 6 5 = 0#5 then some (.vabs k (fld w 16 5) (fld w 11 5) (fld w 0 2)) else none
  | 0x7#4 => if fld w 6 5 = 0#5 then some (.vneg k (fld w 16 5) (fld w 11 5) (fld w 0 2)) else none
  | 0x8#4 => if fld w 0 2 = 2#2 then some (.vand k (fld w 16 5) (fld w 11 5) (fld w 6 5)) else none
  | 0x9#4 => if fld w 0 2 = 2#2 then some (.vor k (fld w 16 5) (fld w 11 5) (fld w 6 5)) else none
  | 0xa#4 => if fld w 0 2 = 2#2 then some (.vxor k (fld w 16 5) (fld w 11 5) (fld w 6 5)) else none
  | 0xb#4 => if fld w 0 2 = 2#2 then some (.vsll k (fld w 16 5) (fld w 11 5) (fld w 6 5)) else none
  | 0xc#4 => if fld w 0 2 = 2#2 then some (.vsra k (fld w 16 5) (fld w 11 5) (fld w 6 5)) else none
  | 0xd#4 => if fld w 0 2 = 2#2 then some (.vsrl k (fld w 16 5) (fld w 11 5) (fld w 6 5)) else none
  | 0xe#4 => some (.vcmplt k (fld w 16 5) (fld w 11 5) (fld w 6 5) (fld w 0 2))
  | 0xf#4 => some (.vcmpeq k (fld w 16 5) (fld w 11 5) (fld w 6 5) (fld w 0 2))
  | _ => none

/-- Words of major 0x21 (R46). -/
def dec21 (k : Tk) (w : Code) : Option Instr :=
  match fld w 0 6 with
  | 0x0#6 => if fld w 6 5 = 0#5 then some (.vexp2 k (fld w 16 5) (fld w 11 5)) else none
  | 0x1#6 => if fld w 6 5 = 0#5 then some (.vlog2 k (fld w 16 5) (fld w 11 5)) else none
  | 0x2#6 => if fld w 6 5 = 0#5 then some (.vrcp k (fld w 16 5) (fld w 11 5)) else none
  | 0x3#6 => if fld w 6 5 = 0#5 then some (.vrsqrt k (fld w 16 5) (fld w 11 5)) else none
  | _ => none

/-- Words of major 0x22 (R46). -/
def dec22 (k : Tk) (w : Code) : Option Instr :=
  match fld w 0 2 with
  | 0x0#2 => if fld w 5 1 = 0#1 then some (.vcvt k (fld w 16 5) (fld w 11 5) (fld w 6 5) (fld w 2 3)) else none
  | 0x1#2 => if fld w 2 4 = 0#4 then some (.vbmax k (fld w 16 5) (fld w 11 5) (fld w 6 5)) else none
  | 0x2#2 => if fld w 5 1 = 0#1 then some (.vq k (fld w 16 5) (fld w 11 5) (fld w 6 5) (fld w 2 3)) else none
  | 0x3#2 => if fld w 5 1 = 0#1 then some (.vdq k (fld w 16 5) (fld w 11 5) (fld w 6 5) (fld w 2 3)) else none

/-- Words of major 0x23 (R46). -/
def dec23 (k : Tk) (w : Code) : Option Instr :=
  match fld w 0 3 with
  | 0x0#3 => if fld w 6 5 = 0#5 then some (.vredmax k (fld w 16 5) (fld w 11 5) (fld w 4 2) (fld w 3 1)) else none
  | 0x1#3 => if fld w 6 5 = 0#5 then some (.vredsum k (fld w 16 5) (fld w 11 5) (fld w 4 2) (fld w 3 1)) else none
  | 0x2#3 => if fld w 6 5 = 0#5 then some (.vredmin k (fld w 16 5) (fld w 11 5) (fld w 4 2) (fld w 3 1)) else none
  | 0x3#3 => if fld w 3 3 = 0#3 then some (.vbcast k (fld w 16 5) (fld w 11 5) (fld w 6 5)) else none
  | 0x4#3 => if fld w 3 3 = 0#3 then some (.vperm k (fld w 16 5) (fld w 11 5) (fld w 6 5)) else none
  | _ => none

/-- Words of major 0x24 (R46). -/
def dec24 (k : Tk) (w : Code) : Option Instr :=
  match fld w 0 6 with
  | 0x0#6 => if fld w 6 5 = 0#5 then some (.vld k (fld w 16 5) (fld w 11 5)) else none
  | 0x1#6 => if fld w 6 5 = 0#5 then some (.vst k (fld w 16 5) (fld w 11 5)) else none
  | 0x2#6 => some (.vlds k (fld w 16 5) (fld w 11 5) (fld w 6 5))
  | 0x3#6 => some (.vsts k (fld w 16 5) (fld w 11 5) (fld w 6 5))
  | 0x4#6 => some (.vldx k (fld w 16 5) (fld w 11 5) (fld w 6 5))
  | 0x5#6 => some (.vstx k (fld w 16 5) (fld w 11 5) (fld w 6 5))
  | 0x6#6 => if fld w 16 5 = 0#5 ∧ fld w 6 5 = 0#5 then some (.vldb k (fld w 11 5)) else none
  | _ => none

/-- Words of major 0x25 (R46). -/
def dec25 (k : Tk) (w : Code) : Option Instr :=
  match fld w 0 6 with
  | 0x0#6 => if fld w 16 5 = 0#5 then some (.vpushc k (fld w 11 5) (fld w 6 5)) else none
  | 0x1#6 => if fld w 11 5 = 0#5 then some (.vpopc k (fld w 16 5) (fld w 6 5)) else none
  | 0x2#6 => if fld w 6 5 = 0#5 then some (.vbal k (fld w 16 5) (fld w 11 5)) else none
  | _ => none

/-- Words of major 0x26 (R46). -/
def dec26 (k : Tk) (w : Code) : Option Instr :=
  match fld w 0 6 with
  | 0x0#6 => some (.vsoftk k (fld w 16 5) (fld w 11 5) (fld w 6 5))
  | 0x1#6 => some (.vhist k (fld w 16 5) (fld w 11 5) (fld w 6 5))
  | _ => none

/-- Words of major 0x27 (R46). -/
def dec27 (k : Tk) (w : Code) : Option Instr :=
  match fld w 0 6 with
  | 0x0#6 => if fld w 6 5 = 0#5 then some (.vmov k (fld w 16 5) (fld w 11 5)) else none
  | 0x1#6 => if fld w 6 5 = 0#5 then some (.vsplat k (fld w 16 5) (fld w 11 5)) else none
  | 0x2#6 => some (.vlane k (fld w 16 5) (fld w 11 5) (fld w 6 5))
  | 0x3#6 => some (.vsel k (fld w 16 5) (fld w 11 5) (fld w 6 5))
  | 0x4#6 => some (.vmset k (fld w 16 5) (fld w 11 5) (fld w 6 5))
  | 0x5#6 => if fld w 11 5 = 0#5 ∧ fld w 6 5 = 0#5 then some (.vidx k (fld w 16 5)) else none
  | _ => none

/-- Words of major 0x28 (R46). -/
def dec28 (k : Tk) (w : Code) : Option Instr :=
  match fld w 8 3 with
  | 0x0#3 => if fld w 16 5 = 0#5 ∧ fld w 0 8 = 0#8 then some (.mxcfg k (fld w 11 5)) else none
  | 0x1#3 => if fld w 0 8 = 0#8 then some (.mxfmt k (fld w 16 5) (fld w 11 5)) else none
  | 0x2#3 => if fld w 0 8 = 0#8 then some (.mxgo k (fld w 16 5) (fld w 11 5)) else none
  | 0x3#3 => if fld w 11 5 = 0#5 ∧ fld w 0 8 = 0#8 then some (.mxzero k (fld w 16 5)) else none
  | 0x4#3 => if fld w 11 5 = 0#5 ∧ fld w 1 7 = 0#7 then some (.mxstat k (fld w 16 5) (fld w 0 1)) else none
  | _ => none

/-- Words of major 0x29 (R46). -/
def dec29 (k : Tk) (w : Code) : Option Instr :=
  match fld w 0 6 with
  | 0x0#6 => some (.mxmm k (fld w 16 5) (fld w 11 5) (fld w 6 5))
  | 0x1#6 => some (.mxbin k (fld w 16 5) (fld w 11 5) (fld w 6 5))
  | 0x2#6 => some (.mxrank k (fld w 16 5) (fld w 11 5) (fld w 6 5))
  | 0x3#6 => some (.mxsp k (fld w 16 5) (fld w 11 5) (fld w 6 5))
  | _ => none

/-- Words of major 0x2a (R46). -/
def dec2a (k : Tk) (w : Code) : Option Instr :=
  match fld w 0 6 with
  | 0x0#6 => some (.mxst k (fld w 16 5) (fld w 11 5) (fld w 6 5))
  | 0x1#6 => some (.mxld k (fld w 16 5) (fld w 11 5) (fld w 6 5))
  | 0x2#6 => some (.mxtov k (fld w 16 5) (fld w 11 5) (fld w 6 5))
  | 0x3#6 => some (.mxfromv k (fld w 16 5) (fld w 11 5) (fld w 6 5))
  | _ => none

/-- Words of major 0x2b (R46). -/
def dec2b (k : Tk) (w : Code) : Option Instr :=
  match fld w 8 3 with
  | 0x0#3 => if fld w 11 5 = 0#5 ∧ fld w 0 8 = 0#8 then some (.enote k (fld w 16 5)) else none
  | 0x1#3 => if fld w 16 5 = 0#5 ∧ fld w 11 5 = 0#5 ∧ fld w 3 5 = 0#5 ∧ k.wp = false ∧ k.wn = false ∧ k.sp = false ∧ k.sn = false then some (.eqf k.y (fld w 0 3)) else none
  | 0x2#3 => if fld w 11 5 = 0#5 ∧ fld w 1 7 = 0#7 ∧ k = Tk.none then some (.egrd (fld w 16 5) (fld w 0 1)) else none
  | _ => none

/-- Words of major 0x2c (R46). -/
def dec2c (k : Tk) (w : Code) : Option Instr :=
  if fld w 15 2 = 0#2 ∧ fld w 0 1 = 0#1 then some (.cpin k (fld w 17 4) (fld w 11 4) (fld w 6 5) (fld w 1 5)) else none

/-- Words of major 0x2d (R46). -/
def dec2d (k : Tk) (w : Code) : Option Instr :=
  if fld w 15 2 = 0#2 ∧ fld w 0 1 = 0#1 then some (.cpout k (fld w 17 4) (fld w 11 4) (fld w 6 5) (fld w 1 5)) else none

/-- Words of major 0x2e (R46). -/
def dec2e (k : Tk) (w : Code) : Option Instr :=
  if fld w 15 2 = 0#2 ∧ fld w 0 1 = 0#1 then some (.cpss k (fld w 17 4) (fld w 11 4) (fld w 6 5) (fld w 1 5)) else none

/-- Words of major 0x2f (R46). -/
def dec2f (k : Tk) (w : Code) : Option Instr :=
  if fld w 15 2 = 0#2 ∧ fld w 0 1 = 0#1 then some (.cpred k (fld w 17 4) (fld w 11 4) (fld w 6 5) (fld w 1 5)) else none

/-- Words of major 0x30 (R46). -/
def dec30 (k : Tk) (w : Code) : Option Instr :=
  if fld w 15 2 = 0#2 ∧ fld w 0 1 = 0#1 then some (.cpoq k (fld w 17 4) (fld w 11 4) (fld w 6 5) (fld w 1 5)) else none

/-- Words of major 0x31 (R46). -/
def dec31 (k : Tk) (w : Code) : Option Instr :=
  if fld w 0 1 = 0#1 then some (.xput k (fld w 17 4) (fld w 15 2) (fld w 11 4) (fld w 6 5) (fld w 1 5)) else none

/-- Words of major 0x32 (R46). -/
def dec32 (k : Tk) (w : Code) : Option Instr :=
  if fld w 0 1 = 0#1 then some (.xget k (fld w 17 4) (fld w 15 2) (fld w 11 4) (fld w 6 5) (fld w 1 5)) else none

/-- Words of major 0x33 (R46). -/
def dec33 (k : Tk) (w : Code) : Option Instr :=
  if fld w 0 1 = 0#1 then some (.xmc k (fld w 17 4) (fld w 15 2) (fld w 11 4) (fld w 6 5) (fld w 1 5)) else none

/-- Words of major 0x34 (R46). -/
def dec34 (k : Tk) (w : Code) : Option Instr :=
  if fld w 0 1 = 0#1 then some (.xcmb k (fld w 17 4) (fld w 15 2) (fld w 11 4) (fld w 6 5) (fld w 1 5)) else none

/-- Words of major 0x35 (R46). -/
def dec35 (k : Tk) (w : Code) : Option Instr :=
  if fld w 0 1 = 0#1 then some (.xamo k (fld w 17 4) (fld w 15 2) (fld w 11 4) (fld w 6 5) (fld w 1 5)) else none

/-- Words of major 0x36 (R46). -/
def dec36 (k : Tk) (w : Code) : Option Instr :=
  if fld w 0 1 = 0#1 then some (.xlnc k (fld w 17 4) (fld w 15 2) (fld w 11 4) (fld w 6 5) (fld w 1 5)) else none

/-- Words of major 0x37 (R46). -/
def dec37 (k : Tk) (w : Code) : Option Instr :=
  if fld w 0 1 = 0#1 then some (.sfsort k (fld w 17 4) (fld w 15 2) (fld w 11 4) (fld w 6 5) (fld w 1 5)) else none

/-- Words of major 0x38 (R46). -/
def dec38 (k : Tk) (w : Code) : Option Instr :=
  match fld w 8 3 with
  | 0x0#3 => if fld w 16 5 = 0#5 ∧ fld w 0 8 = 0#8 then some (.tksnd k (fld w 11 5)) else none
  | 0x1#3 => if fld w 16 5 = 0#5 then some (.tkrcv k (fld w 11 5) (fld w 0 8)) else none
  | 0x2#3 => if fld w 0 8 = 0#8 then some (.tktry k (fld w 16 5) (fld w 11 5)) else none
  | _ => none

/-- Words of major 0x39 (R46). -/
def dec39 (k : Tk) (w : Code) : Option Instr :=
  match fld w 8 3 with
  | 0x0#3 => some (.rgclaim k (fld w 16 5) (fld w 11 5) (fld w 0 8))
  | 0x1#3 => if fld w 16 5 = 0#5 ∧ fld w 0 8 = 0#8 then some (.rgfill k (fld w 11 5)) else none
  | 0x2#3 => some (.rgwait k (fld w 16 5) (fld w 11 5) (fld w 0 8))
  | 0x3#3 => if fld w 16 5 = 0#5 ∧ fld w 0 8 = 0#8 then some (.rgfree k (fld w 11 5)) else none
  | 0x4#3 => if fld w 0 8 = 0#8 then some (.rgstat k (fld w 16 5) (fld w 11 5)) else if fld w 0 8 = 1#8 then some (.rgstatSet k (fld w 16 5) (fld w 11 5)) else if fld w 0 8 = 2#8 then some (.rgstatSave k (fld w 16 5) (fld w 11 5)) else none
  | _ => none

/-- Words of major 0x3a (R46). -/
def dec3a (k : Tk) (w : Code) : Option Instr :=
  match fld w 8 3 with
  | 0x0#3 => if fld w 0 8 = 0#8 then some (.pwr k (fld w 16 5) (fld w 11 5)) else none
  | 0x1#3 => if fld w 0 8 = 0#8 then some (.prd k (fld w 16 5) (fld w 11 5)) else none
  | 0x2#3 => if fld w 11 5 = 0#5 ∧ fld w 0 8 = 0#8 then some (.pclr k (fld w 16 5)) else none
  | 0x3#3 => if fld w 11 5 = 0#5 then some (.pwait k (fld w 16 5) (fld w 0 8)) else none
  | _ => none

/-- Words of major 0x3b (R46). -/
def dec3b (k : Tk) (w : Code) : Option Instr :=
  match fld w 8 3 with
  | 0x0#3 => if fld w 16 5 = 0#5 then some (.barinit k (fld w 11 5) (fld w 0 8)) else none
  | 0x1#3 => if fld w 11 5 = 0#5 then some (.bararr k (fld w 16 5) (fld w 0 8)) else none
  | 0x2#3 => if fld w 16 5 = 0#5 then some (.barwait k (fld w 11 5) (fld w 0 8)) else none
  | _ => none

/-- Words of major 0x3c (R46). -/
def dec3c (k : Tk) (w : Code) : Option Instr :=
  if fld w 0 1 = 0#1 then some (.sftopk k (fld w 17 4) (fld w 15 2) (fld w 11 4) (fld w 6 5) (fld w 1 5)) else none

/-- Words of major 0x3d (R46). -/
def dec3d (k : Tk) (w : Code) : Option Instr :=
  match fld w 0 1 with
  | 0x0#1 => some (.lftopRed k (fld w 17 4) (fld w 15 2) (fld w 11 4) (fld w 6 5) (fld w 1 5))
  | 0x1#1 => some (.lftopHist k (fld w 17 4) (fld w 15 2) (fld w 11 4) (fld w 6 5) (fld w 1 5))

/-- Words of major 0x3e (R46). -/
def dec3e (k : Tk) (w : Code) : Option Instr :=
  match fld w 0 6 with
  | 0x0#6 => some (.admrt k (fld w 16 5) (fld w 11 5) (fld w 6 5))
  | 0x1#6 => if fld w 6 5 = 0#5 then some (.admctr k (fld w 16 5) (fld w 11 5)) else none
  | 0x2#6 => some (.admtk k (fld w 16 5) (fld w 11 5) (fld w 6 5))
  | _ => none

/-- The instruction whose fields a word holds, before the range checks: the major code selects the group (R36, R46),
and a field that the instruction does not use must be 0 (R38). -/
def decodeFields (w : Code) : Option Instr :=
  match fld w 21 6 with
  | 0x01#6 => dec01 (Tk.of w) w
  | 0x02#6 => dec02 (Tk.of w) w
  | 0x03#6 => dec03 (Tk.of w) w
  | 0x04#6 => dec04 (Tk.of w) w
  | 0x05#6 => dec05 (Tk.of w) w
  | 0x06#6 => dec06 (Tk.of w) w
  | 0x07#6 => dec07 (Tk.of w) w
  | 0x08#6 => dec08 (Tk.of w) w
  | 0x09#6 => dec09 (Tk.of w) w
  | 0x0a#6 => dec0a (Tk.of w) w
  | 0x0b#6 => dec0b (Tk.of w) w
  | 0x0c#6 => dec0c (Tk.of w) w
  | 0x10#6 => dec10 (Tk.of w) w
  | 0x11#6 => dec11 (Tk.of w) w
  | 0x12#6 => dec12 (Tk.of w) w
  | 0x13#6 => dec13 (Tk.of w) w
  | 0x14#6 => dec14 (Tk.of w) w
  | 0x15#6 => dec15 (Tk.of w) w
  | 0x16#6 => dec16 (Tk.of w) w
  | 0x17#6 => dec17 (Tk.of w) w
  | 0x18#6 => dec18 (Tk.of w) w
  | 0x19#6 => dec19 (Tk.of w) w
  | 0x1a#6 => dec1a (Tk.of w) w
  | 0x1b#6 => dec1b (Tk.of w) w
  | 0x20#6 => dec20 (Tk.of w) w
  | 0x21#6 => dec21 (Tk.of w) w
  | 0x22#6 => dec22 (Tk.of w) w
  | 0x23#6 => dec23 (Tk.of w) w
  | 0x24#6 => dec24 (Tk.of w) w
  | 0x25#6 => dec25 (Tk.of w) w
  | 0x26#6 => dec26 (Tk.of w) w
  | 0x27#6 => dec27 (Tk.of w) w
  | 0x28#6 => dec28 (Tk.of w) w
  | 0x29#6 => dec29 (Tk.of w) w
  | 0x2a#6 => dec2a (Tk.of w) w
  | 0x2b#6 => dec2b (Tk.of w) w
  | 0x2c#6 => dec2c (Tk.of w) w
  | 0x2d#6 => dec2d (Tk.of w) w
  | 0x2e#6 => dec2e (Tk.of w) w
  | 0x2f#6 => dec2f (Tk.of w) w
  | 0x30#6 => dec30 (Tk.of w) w
  | 0x31#6 => dec31 (Tk.of w) w
  | 0x32#6 => dec32 (Tk.of w) w
  | 0x33#6 => dec33 (Tk.of w) w
  | 0x34#6 => dec34 (Tk.of w) w
  | 0x35#6 => dec35 (Tk.of w) w
  | 0x36#6 => dec36 (Tk.of w) w
  | 0x37#6 => dec37 (Tk.of w) w
  | 0x38#6 => dec38 (Tk.of w) w
  | 0x39#6 => dec39 (Tk.of w) w
  | 0x3a#6 => dec3a (Tk.of w) w
  | 0x3b#6 => dec3b (Tk.of w) w
  | 0x3c#6 => dec3c (Tk.of w) w
  | 0x3d#6 => dec3d (Tk.of w) w
  | 0x3e#6 => dec3e (Tk.of w) w
  | _ => none

/-- The instruction that a word is; `none` for the words of R49. -/
def decode (w : Code) : Option Instr :=
  match decodeFields w with
  | some i => if i.wf then some i else none
  | none => none

/-- The formats of R37. -/
def encQ (k : Tk) (m : BitVec 6) (d a b : Reg) (f : BitVec 6) : Code := k.bits ++ m ++ d ++ a ++ b ++ f
def encI (k : Tk) (m : BitVec 6) (d a : Reg) (i : BitVec 11) : Code := k.bits ++ m ++ d ++ a ++ i
def encK (k : Tk) (m : BitVec 6) (d a : Reg) (f : BitVec 3) (i : BitVec 8) : Code := k.bits ++ m ++ d ++ a ++ f ++ i
def encW (k : Tk) (m : BitVec 6) (d : Reg) (i : BitVec 16) : Code := k.bits ++ m ++ d ++ i
def encC (k : Tk) (m : BitVec 6) (d a : Reg) (f : BitVec 2) (c : BitVec 9) : Code := k.bits ++ m ++ d ++ a ++ f ++ c
def encB (k : Tk) (m : BitVec 6) (f : BitVec 3) (a b : Reg) (o : BitVec 8) : Code := k.bits ++ m ++ f ++ a ++ b ++ o
def encP (k : Tk) (m : BitVec 6) (f : BitVec 1) (p : BitVec 4) (i : BitVec 16) : Code := k.bits ++ m ++ f ++ p ++ i
def encX (k : Tk) (m : BitVec 6) (s : BitVec 4) (r : BitVec 2) (p : BitVec 4) (a b : Reg) (f : BitVec 1) : Code :=
  k.bits ++ m ++ s ++ r ++ p ++ a ++ b ++ f

/-- The word of an instruction (R36, R37, R46). An event has no word; 0 stands there. -/
def encode (i : Instr) : Code :=
  match i with
  | .add k d a b => encQ k 0x01#6 d a b 0#6
  | .sub k d a b => encQ k 0x01#6 d a b 1#6
  | .and k d a b => encQ k 0x01#6 d a b 2#6
  | .or k d a b => encQ k 0x01#6 d a b 3#6
  | .xor k d a b => encQ k 0x01#6 d a b 4#6
  | .andn k d a b => encQ k 0x01#6 d a b 5#6
  | .sll k d a b => encQ k 0x01#6 d a b 6#6
  | .srl k d a b => encQ k 0x01#6 d a b 7#6
  | .sra k d a b => encQ k 0x01#6 d a b 8#6
  | .slt k d a b => encQ k 0x01#6 d a b 9#6
  | .sltu k d a b => encQ k 0x01#6 d a b 10#6
  | .min k d a b => encQ k 0x01#6 d a b 11#6
  | .max k d a b => encQ k 0x01#6 d a b 12#6
  | .minu k d a b => encQ k 0x01#6 d a b 13#6
  | .maxu k d a b => encQ k 0x01#6 d a b 14#6
  | .mul k d a b => encQ k 0x01#6 d a b 15#6
  | .mulh k d a b => encQ k 0x01#6 d a b 16#6
  | .mulhu k d a b => encQ k 0x01#6 d a b 17#6
  | .div k d a b => encQ k 0x01#6 d a b 18#6
  | .divu k d a b => encQ k 0x01#6 d a b 19#6
  | .rem k d a b => encQ k 0x01#6 d a b 20#6
  | .remu k d a b => encQ k 0x01#6 d a b 21#6
  | .clz k d a => encQ k 0x01#6 d a 0#5 22#6
  | .ctz k d a => encQ k 0x01#6 d a 0#5 23#6
  | .popc k d a => encQ k 0x01#6 d a 0#5 24#6
  | .sextb k d a => encQ k 0x01#6 d a 0#5 25#6
  | .sexth k d a => encQ k 0x01#6 d a 0#5 26#6
  | .sextw k d a => encQ k 0x01#6 d a 0#5 27#6
  | .addi k d a i => encI k 0x02#6 d a i
  | .andi k d a i => encK k 0x03#6 d a 0#3 i
  | .ori k d a i => encK k 0x03#6 d a 1#3 i
  | .xori k d a i => encK k 0x03#6 d a 2#3 i
  | .slli k d a i => encK k 0x03#6 d a 3#3 (0#2 ++ i)
  | .srli k d a i => encK k 0x03#6 d a 4#3 (0#2 ++ i)
  | .srai k d a i => encK k 0x03#6 d a 5#3 (0#2 ++ i)
  | .slti k d a i => encK k 0x03#6 d a 6#3 i
  | .sltiu k d a i => encK k 0x03#6 d a 7#3 i
  | .lim k d i => encW k 0x04#6 d i
  | .lis k d i => encW k 0x05#6 d i
  | .beq k a b o => encB k 0x06#6 0#3 a b o
  | .bne k a b o => encB k 0x06#6 1#3 a b o
  | .blt k a b o => encB k 0x06#6 2#3 a b o
  | .bge k a b o => encB k 0x06#6 3#3 a b o
  | .bltu k a b o => encB k 0x06#6 4#3 a b o
  | .bgeu k a b o => encB k 0x06#6 5#3 a b o
  | .bbusy k o => encB k 0x06#6 6#3 0#5 0#5 o
  | .bfree k o => encB k 0x06#6 7#3 0#5 0#5 o
  | .bpt k p i => encP k 0x07#6 0#1 p i
  | .bpf k p i => encP k 0x07#6 1#1 p i
  | .jal k d i => encW k 0x08#6 d i
  | .jalr k d a i => encI k 0x09#6 d a i
  | .lpset k d a i => encK k 0x0a#6 d a 0#3 i
  | .lpresEntry k d a => encK k 0x0a#6 d a 1#3 0#8
  | .lpresExit k a => encK k 0x0a#6 0#5 a 1#3 1#8
  | .bkt k d a => encK k 0x0a#6 d a 2#3 0#8
  | .cstart k d a => encK k 0x0b#6 d a 0#3 0#8
  | .cstop k d => encK k 0x0b#6 d 0#5 1#3 0#8
  | .cyield k i => encK k 0x0b#6 0#5 0#5 2#3 i
  | .cid k d => encK k 0x0b#6 d 0#5 3#3 0#8
  | .cwait k d w => encK k 0x0b#6 d 0#5 4#3 w
  | .faddD k d a b => encQ k 0x0c#6 d a b 0#6
  | .fsubD k d a b => encQ k 0x0c#6 d a b 1#6
  | .fmulD k d a b => encQ k 0x0c#6 d a b 2#6
  | .fdivD k d a b => encQ k 0x0c#6 d a b 3#6
  | .fminD k d a b => encQ k 0x0c#6 d a b 4#6
  | .fmaxD k d a b => encQ k 0x0c#6 d a b 5#6
  | .fsqrtD k d a => encQ k 0x0c#6 d a 0#5 6#6
  | .fcvtDL k d a => encQ k 0x0c#6 d a 0#5 7#6
  | .fcvtLD k d a => encQ k 0x0c#6 d a 0#5 8#6
  | .feqD k d a b => encQ k 0x0c#6 d a b 9#6
  | .fltD k d a b => encQ k 0x0c#6 d a b 10#6
  | .fleD k d a b => encQ k 0x0c#6 d a b 11#6
  | .lb k d a i => encK k 0x10#6 d a 0#3 i
  | .lh k d a i => encK k 0x10#6 d a 1#3 i
  | .lw k d a i => encK k 0x10#6 d a 2#3 i
  | .ld k d a i => encK k 0x10#6 d a 3#3 i
  | .lbu k d a i => encK k 0x10#6 d a 4#3 i
  | .lhu k d a i => encK k 0x10#6 d a 5#3 i
  | .lwu k d a i => encK k 0x10#6 d a 6#3 i
  | .sb k d a i => encK k 0x11#6 d a 0#3 i
  | .sh k d a i => encK k 0x11#6 d a 1#3 i
  | .sw k d a i => encK k 0x11#6 d a 2#3 i
  | .sd k d a i => encK k 0x11#6 d a 3#3 i
  | .ldx k d a b => encQ k 0x12#6 d a b 0#6
  | .stx k d a b => encQ k 0x12#6 d a b 1#6
  | .amoadd k d a b z => encQ k 0x13#6 d a b (0#5 ++ z)
  | .amoand k d a b z => encQ k 0x13#6 d a b (1#5 ++ z)
  | .amoor k d a b z => encQ k 0x13#6 d a b (2#5 ++ z)
  | .amoxor k d a b z => encQ k 0x13#6 d a b (3#5 ++ z)
  | .amomin k d a b z => encQ k 0x13#6 d a b (4#5 ++ z)
  | .amomax k d a b z => encQ k 0x13#6 d a b (5#5 ++ z)
  | .amominu k d a b z => encQ k 0x13#6 d a b (6#5 ++ z)
  | .amomaxu k d a b z => encQ k 0x13#6 d a b (7#5 ++ z)
  | .amoswap k d a b z => encQ k 0x13#6 d a b (8#5 ++ z)
  | .amocas k d a b z => encQ k 0x13#6 d a b (9#5 ++ z)
  | .amofadd k d a b z => encQ k 0x13#6 d a b (10#5 ++ z)
  | .lblk k d a i => encK k 0x14#6 d a 0#3 i
  | .wblk k d a => encK k 0x14#6 d a 1#3 0#8
  | .eblk k d a => encK k 0x14#6 d a 2#3 0#8
  | .dblk k a => encK k 0x14#6 0#5 a 3#3 0#8
  | .fence k s => encK k 0x15#6 0#5 0#5 0#3 (0#5 ++ s)
  | .acq k s => encK k 0x15#6 0#5 0#5 1#3 (0#5 ++ s)
  | .rel k s => encK k 0x15#6 0#5 0#5 2#3 (0#5 ++ s)
  | .invi k s => encK k 0x15#6 0#5 0#5 3#3 (0#5 ++ s)
  | .smap k d a b => encQ k 0x16#6 d a b 0#6
  | .sunmap k d => encQ k 0x16#6 d 0#5 0#5 1#6
  | .sflush k d => encQ k 0x16#6 d 0#5 0#5 2#6
  | .sstat k d a => encQ k 0x16#6 d a 0#5 3#6
  | .aage k d => encK k 0x17#6 d 0#5 0#3 0#8
  | .aheld k d a => encK k 0x17#6 d a 1#3 0#8
  | .airrev k => encK k 0x17#6 0#5 0#5 2#3 0#8
  | .csrr k d c => encC k 0x18#6 d 0#5 0#2 c
  | .csrw k d a c => encC k 0x18#6 d a 1#2 c
  | .csrs k d a c => encC k 0x18#6 d a 2#2 c
  | .csrc k d a c => encC k 0x18#6 d a 3#2 c
  | .sys k i => encK k 0x19#6 0#5 0#5 0#3 i
  | .trap k a i => encK k 0x19#6 0#5 a 1#3 i
  | .eret k => encK k 0x19#6 0#5 0#5 2#3 0#8
  | .brk k i => encK k 0x19#6 0#5 0#5 3#3 i
  | .halt k => encK k 0x19#6 0#5 0#5 4#3 0#8
  | .fret k => encK k 0x19#6 0#5 0#5 5#3 0#8
  | .tend k => encK k 0x1a#6 0#5 0#5 0#3 0#8
  | .tlnc k d a i => encK k 0x1a#6 d a 1#3 i
  | .twid k d i => encK k 0x1a#6 d 0#5 2#3 i
  | .wtime k a w => encK k 0x1b#6 0#5 a 0#3 w
  | .rtime k d => encK k 0x1b#6 d 0#5 1#3 0#8
  | .rframe k d => encK k 0x1b#6 d 0#5 2#3 0#8
  | .wframe k a w => encK k 0x1b#6 0#5 a 3#3 w
  | .slk k i => encK k 0x1b#6 0#5 0#5 4#3 i
  | .vadd k d a b e => encQ k 0x20#6 d a b (0#4 ++ e)
  | .vsub k d a b e => encQ k 0x20#6 d a b (1#4 ++ e)
  | .vmul k d a b e => encQ k 0x20#6 d a b (2#4 ++ e)
  | .vfma k d a b e => encQ k 0x20#6 d a b (3#4 ++ e)
  | .vmax k d a b e => encQ k 0x20#6 d a b (4#4 ++ e)
  | .vmin k d a b e => encQ k 0x20#6 d a b (5#4 ++ e)
  | .vabs k d a e => encQ k 0x20#6 d a 0#5 (6#4 ++ e)
  | .vneg k d a e => encQ k 0x20#6 d a 0#5 (7#4 ++ e)
  | .vand k d a b => encQ k 0x20#6 d a b 34#6
  | .vor k d a b => encQ k 0x20#6 d a b 38#6
  | .vxor k d a b => encQ k 0x20#6 d a b 42#6
  | .vsll k d a b => encQ k 0x20#6 d a b 46#6
  | .vsra k d a b => encQ k 0x20#6 d a b 50#6
  | .vsrl k d a b => encQ k 0x20#6 d a b 54#6
  | .vcmplt k d a b e => encQ k 0x20#6 d a b (14#4 ++ e)
  | .vcmpeq k d a b e => encQ k 0x20#6 d a b (15#4 ++ e)
  | .vexp2 k d a => encQ k 0x21#6 d a 0#5 0#6
  | .vlog2 k d a => encQ k 0x21#6 d a 0#5 1#6
  | .vrcp k d a => encQ k 0x21#6 d a 0#5 2#6
  | .vrsqrt k d a => encQ k 0x21#6 d a 0#5 3#6
  | .vcvt k d a b m => encQ k 0x22#6 d a b (0#1 ++ m ++ 0#2)
  | .vbmax k d a b => encQ k 0x22#6 d a b 1#6
  | .vq k d a b m => encQ k 0x22#6 d a b (0#1 ++ m ++ 2#2)
  | .vdq k d a b m => encQ k 0x22#6 d a b (0#1 ++ m ++ 3#2)
  | .vredmax k d a e g => encQ k 0x23#6 d a 0#5 (e ++ g ++ 0#3)
  | .vredsum k d a e g => encQ k 0x23#6 d a 0#5 (e ++ g ++ 1#3)
  | .vredmin k d a e g => encQ k 0x23#6 d a 0#5 (e ++ g ++ 2#3)
  | .vbcast k d a b => encQ k 0x23#6 d a b 3#6
  | .vperm k d a b => encQ k 0x23#6 d a b 4#6
  | .vld k d a => encQ k 0x24#6 d a 0#5 0#6
  | .vst k d a => encQ k 0x24#6 d a 0#5 1#6
  | .vlds k d a b => encQ k 0x24#6 d a b 2#6
  | .vsts k d a b => encQ k 0x24#6 d a b 3#6
  | .vldx k d a b => encQ k 0x24#6 d a b 4#6
  | .vstx k d a b => encQ k 0x24#6 d a b 5#6
  | .vldb k a => encQ k 0x24#6 0#5 a 0#5 6#6
  | .vpushc k a b => encQ k 0x25#6 0#5 a b 0#6
  | .vpopc k d b => encQ k 0x25#6 d 0#5 b 1#6
  | .vbal k d a => encQ k 0x25#6 d a 0#5 2#6
  | .vsoftk k d a b => encQ k 0x26#6 d a b 0#6
  | .vhist k d a b => encQ k 0x26#6 d a b 1#6
  | .vmov k d a => encQ k 0x27#6 d a 0#5 0#6
  | .vsplat k d a => encQ k 0x27#6 d a 0#5 1#6
  | .vlane k d a b => encQ k 0x27#6 d a b 2#6
  | .vsel k d a b => encQ k 0x27#6 d a b 3#6
  | .vmset k d a b => encQ k 0x27#6 d a b 4#6
  | .vidx k d => encQ k 0x27#6 d 0#5 0#5 5#6
  | .mxcfg k a => encK k 0x28#6 0#5 a 0#3 0#8
  | .mxfmt k d a => encK k 0x28#6 d a 1#3 0#8
  | .mxgo k d a => encK k 0x28#6 d a 2#3 0#8
  | .mxzero k d => encK k 0x28#6 d 0#5 3#3 0#8
  | .mxstat k d c => encK k 0x28#6 d 0#5 4#3 (0#7 ++ c)
  | .mxmm k d a b => encQ k 0x29#6 d a b 0#6
  | .mxbin k d a b => encQ k 0x29#6 d a b 1#6
  | .mxrank k d a b => encQ k 0x29#6 d a b 2#6
  | .mxsp k d a b => encQ k 0x29#6 d a b 3#6
  | .mxst k d a b => encQ k 0x2a#6 d a b 0#6
  | .mxld k d a b => encQ k 0x2a#6 d a b 1#6
  | .mxtov k d a b => encQ k 0x2a#6 d a b 2#6
  | .mxfromv k d a b => encQ k 0x2a#6 d a b 3#6
  | .enote k d => encK k 0x2b#6 d 0#5 0#3 0#8
  | .eqf y m => encK ⟨false, false, false, false, y⟩ 0x2b#6 0#5 0#5 1#3 (0#5 ++ m)
  | .egrd d g => encK Tk.none 0x2b#6 d 0#5 2#3 (0#7 ++ g)
  | .cpin k s p a b => encX k 0x2c#6 s 0#2 p a b 0#1
  | .cpout k s p a b => encX k 0x2d#6 s 0#2 p a b 0#1
  | .cpss k s p a b => encX k 0x2e#6 s 0#2 p a b 0#1
  | .cpred k s p a b => encX k 0x2f#6 s 0#2 p a b 0#1
  | .cpoq k s p a b => encX k 0x30#6 s 0#2 p a b 0#1
  | .xput k s r p a b => encX k 0x31#6 s r p a b 0#1
  | .xget k s r p a b => encX k 0x32#6 s r p a b 0#1
  | .xmc k s r p a b => encX k 0x33#6 s r p a b 0#1
  | .xcmb k s r p a b => encX k 0x34#6 s r p a b 0#1
  | .xamo k s r p a b => encX k 0x35#6 s r p a b 0#1
  | .xlnc k s r p a b => encX k 0x36#6 s r p a b 0#1
  | .sfsort k s r p a b => encX k 0x37#6 s r p a b 0#1
  | .sftopk k s r p a b => encX k 0x3c#6 s r p a b 0#1
  | .lftopRed k s r p a b => encX k 0x3d#6 s r p a b 0#1
  | .lftopHist k s r p a b => encX k 0x3d#6 s r p a b 1#1
  | .tksnd k a => encK k 0x38#6 0#5 a 0#3 0#8
  | .tkrcv k a w => encK k 0x38#6 0#5 a 1#3 w
  | .tktry k d a => encK k 0x38#6 d a 2#3 0#8
  | .rgclaim k d a w => encK k 0x39#6 d a 0#3 w
  | .rgfill k a => encK k 0x39#6 0#5 a 1#3 0#8
  | .rgwait k d a w => encK k 0x39#6 d a 2#3 w
  | .rgfree k a => encK k 0x39#6 0#5 a 3#3 0#8
  | .rgstat k d a => encK k 0x39#6 d a 4#3 0#8
  | .rgstatSet k d a => encK k 0x39#6 d a 4#3 1#8
  | .rgstatSave k d a => encK k 0x39#6 d a 4#3 2#8
  | .pwr k d a => encK k 0x3a#6 d a 0#3 0#8
  | .prd k d a => encK k 0x3a#6 d a 1#3 0#8
  | .pclr k d => encK k 0x3a#6 d 0#5 2#3 0#8
  | .pwait k d w => encK k 0x3a#6 d 0#5 3#3 w
  | .barinit k a i => encK k 0x3b#6 0#5 a 0#3 i
  | .bararr k d i => encK k 0x3b#6 d 0#5 1#3 i
  | .barwait k a w => encK k 0x3b#6 0#5 a 2#3 w
  | .admrt k d a b => encQ k 0x3e#6 d a b 0#6
  | .admctr k d a => encQ k 0x3e#6 d a 0#5 1#6
  | .admtk k d a b => encQ k 0x3e#6 d a b 2#6
  | _ => 0

/-- The instruction that the decoder reads from the bits `w`, numbered as the opcode table numbers them. An
instruction is one 32-bit word (R16), so every row fills the word. -/
def decodeTableWord (nbits w : Nat) : Option Instr :=
  decode (BitVec.ofNat 32 (w % 2 ^ nbits))

end Sys2Proof
end

