-- ==== Sys2Proof/Config.lean ====
section
/-!
DEFINITION. What one part fixes (fuses, sizes that the spec states) and the FREE VALUES: constants without a body
that stand for what the spec leaves open. Nothing can evaluate a free value, so a statement about one holds for
every value.
-/
namespace Sys2Proof.Config

/-- Number of cores of the package (R1). -/
def numCores : Nat := 32

/-- Number of contexts of a core (R102). -/
def numCtx : Nat := 4

/-- Entries of an engine queue (R108). -/
def queueLen : Nat := 64

/-- Entries of the dirty-line FIFO (R246). -/
def dirtyFifoLen : Nat := 256

/-- Lines of a pen (R239, R281). -/
def penLines : Nat := 512

/-- Places of the hold buffer in 128-byte lines: 256 KiB (R282). -/
def holdLines : Nat := 2048

/-- Packets of a launch queue (R120). -/
def launchQueueLen : Nat := 64

/-- Entries of an event log (R307). -/
def evlogLen : Nat := 32

/-- Entries of a stack's lot directory (R278). -/
def lotDirLen : Nat := 65536

/-- Entries of a core's TLB and of a shed's TLB (R252). -/
def coreTlbLen : Nat := 64
def shedTlbLen : Nat := 2048

/-- Entries of a shed's forwarding hint cache (R381). -/
def hintLen : Nat := 256

/-- Entries of the host block's lease table (R416). -/
def hostHcLen : Nat := 16384

/-- Words of a core's instruction cache: 256 KiB (R7). -/
def icacheWords : Nat := 65536

/-- Bytes of a stack: 96 GB, decimal (R7, R9). -/
def stackBytes : Nat := 96000000000

/-- The time-counter rate at reset, in units of 2^-32 ns per cc (R406). -/
def nominalInc : Nat := 0x6aaaaaab

/-- A lease of 8 to 255 units that a home chooses (R247). FREE VALUE (log 10): the counter argument makes each
choice independent; `leaseUnits` keeps it in the range the spec gives. -/
opaque freeLease : Nat → BitVec 8

/-- What another package answers to a load of the launch unit (R274): a doubleword, or nothing. FREE VALUE (log 103). -/
opaque freeUnitLoad : Nat → Nat → Option (BitVec 64)

/-- Old or new word of a stale fetch (R17). FREE VALUE (log 11). -/
opaque freeFetchOld : Nat → Bool

/-- Which block of a full set is evicted (R240). FREE VALUE (log 12). -/
opaque freeVictim : Nat → BitVec 16

/-- Which word of a full instruction cache makes room (R7). FREE VALUE (log 12). -/
opaque freeCodeVictim : Nat → BitVec 16

/-- Occupancy of a bay in cc, at least 1 (R327). FREE VALUE (log 13). -/
opaque freeOccupancy : Nat → BitVec 32

/-- SHA-384 of a string of bytes, its first byte the most significant (R420, R424): the function is named in the spec and not given. FREE VALUE
(log 15). -/
opaque sha384 : List (BitVec 8) → BitVec 384

/-- The hashes of the two public keys in the fuses (R424). FREE VALUES (log 15). -/
opaque rsaKeyHash : BitVec 384
opaque slhKeyHash : BitVec 384

/-- Whether a signature verifies, of a key, a message and the signature: RSA-PSS with SHA-384, and SLH-DSA-SHA2-192s (R424). FREE VALUES (log 15). -/
opaque rsaVerifies : List (BitVec 8) → List (BitVec 8) → List (BitVec 8) → Bool
opaque slhVerifies : List (BitVec 8) → List (BitVec 8) → List (BitVec 8) → Bool

/-- The Ganor hops between two packages of a domain, less 1 and modulo 7: how the links join the packages is not in the spec (R382, R403).
FREE VALUE (log 56). -/
opaque freeHops : Nat → Nat → Nat

/-- Flits of exit-buffer space that a stop has for a channel and a paddock beyond those of one packet (R376): the spec gives no size. FREE VALUE
(log 69). -/
opaque freeExit : Nat → Nat

/-- The error syndrome of a corrected or uncorrected access (R349). FREE VALUE (log 16). -/
opaque freeSyndrome : Nat → BitVec 64

/-- The CRC of a unit of a link, by the number of units sent before it and its sideband (R384): the spec names no polynomial. FREE VALUE (log 121). -/
opaque unitCrc : Nat → BitVec 64 → BitVec 16

/-- A value that the spec's words leave unstated for one register or counter. FREE VALUE (log 17). -/
opaque freeWord : Nat → BitVec 64

end Sys2Proof.Config
end

