-- ==== Sys2Proof/Machine/Store.lean ====
section
/-!
DEFINITION. Indexed plain data: a list of (index, value) pairs in one canonical form (indexes strictly rising, no
value equal to what an unlisted index holds), with the two operations over it. Register files, tables, memories and
caches of the state are held so: equal contents are equal data.
-/
namespace Sys2Proof.Machine

/-- Indexed data. -/
abbrev Map (α : Type) := List (Nat × α)

/-- What index `k` holds; an unlisted index holds `d`. -/
def Map.get {α : Type} (d : α) (m : Map α) (k : Nat) : α :=
  match m with
  | [] => d
  | (j, v) :: r => if j = k then v else Map.get d r k

/-- The data without index `k`. -/
def Map.erase {α : Type} (m : Map α) (k : Nat) : Map α :=
  match m with
  | [] => []
  | (j, v) :: r => if j = k then Map.erase r k else (j, v) :: Map.erase r k

/-- Put `(k, v)` before the first larger index. -/
def Map.insert {α : Type} (m : Map α) (k : Nat) (v : α) : Map α :=
  match m with
  | [] => [(k, v)]
  | (j, u) :: r => if k < j then (k, v) :: (j, u) :: r else (j, u) :: Map.insert r k v

/-- Index `k` holds `v` from now on; a value equal to `d` is not listed. -/
def Map.set {α : Type} [DecidableEq α] (d : α) (m : Map α) (k : Nat) (v : α) : Map α :=
  if v = d then Map.erase m k else Map.insert (Map.erase m k) k v

/-- Apply `f` to what index `k` holds. -/
def Map.upd {α : Type} [DecidableEq α] (d : α) (m : Map α) (k : Nat) (f : α → α) : Map α :=
  Map.set d m k (f (Map.get d m k))

/-- The canonical form. -/
abbrev Map.wf {α : Type} (d : α) (m : Map α) : Prop :=
  List.Pairwise (fun p q => p.1 < q.1) m ∧ ∀ p ∈ m, p.2 ≠ d

/-- The `n` values of indexes `k`, `k + 1`, … -/
def Map.slice {α : Type} (d : α) (m : Map α) (k n : Nat) : List α :=
  (List.range n).map (fun i => Map.get d m (k + i))

/-- Write a list of values at `k`, `k + 1`, … -/
def Map.setList {α : Type} [DecidableEq α] (d : α) (m : Map α) (k : Nat) (vs : List α) : Map α :=
  match vs with
  | [] => m
  | v :: r => Map.setList d (Map.set d m k v) (k + 1) r

end Sys2Proof.Machine
end

