-- ==== Sys2Proof/Machine/State.lean ====
section
/-!
DEFINITION. The state of one package: everything the spec gives the machine, as plain data. Numbered units are held in
`Map`s (an unlisted index holds the unit's reset state), so the state after reset is short and equal states are equal
data. Fields that are the model's own, not the spec's, say so.
-/
namespace Sys2Proof.Machine

/-- How a step can stop the machine. No meaning of this model raises one: every effect the spec describes, traps
included, is a next state, and the host's interface needs the type. -/
inductive Fault where
  /-- Raised by nothing: a place for a stop that a later repair may need. Safe: a stop proves nothing false. -/
  | stopped (why : String)
deriving DecidableEq, Repr

/-- Why a step has no meaning. -/
inductive Refusal where
  /-- Raised only by an arm of `exec` whose instruction has no meaning yet. Safe. -/
  | notModelled (mnemonic : String)
deriving DecidableEq, Repr

/-- Whether a context issues (R103, R354). A context that a double trap stopped (R25) is `failed`: it issues nothing and
has not left the running set. -/
inductive RunState where
  | stopped | running | parked | ended | failed
deriving DecidableEq, Repr

/-- A trap bank (R22, R27). -/
structure Bank where
  tvec  : Word := 0
  epc   : Word := 0
  cause : BitVec 5 := 0
  tval  : Word := 0
deriving DecidableEq, Repr

/-- A loop counter (R75). -/
structure LoopCtr where
  iter  : BitVec 32 := 0
  endAt : BitVec 32 := 0
  act   : Bool := false
  pre   : Bool := false
  bp    : Bool := false
  clamp : Bool := false
  rsv   : Bool := false
  pl    : BitVec 2 := 0
  len   : BitVec 8 := 0
  start : Word := 0
  head  : Word := 0
deriving DecidableEq, Repr

/-- A refusal run (R324): the engine that last refused (its unit number) and the count. -/
structure RefRun where
  eng : Option Nat := none
  run : Nat := 0
deriving DecidableEq, Repr

/-- Where a translated access goes (R249, R251, R379): memory of this package or behind the host port at a physical
address, or another package of the domain. -/
inductive Place where
  | phys (pa : Nat) (cls : BitVec 2) (ms : Bool)
  | remote (pkg : Nat) (off : Nat)
deriving DecidableEq, Repr

/-- A translation's answer: where the access goes, or the cause it raises. -/
inductive Tr where
  | ok (p : Place)
  | bad (c : BitVec 5)
deriving DecidableEq, Repr

/-- A scalar store that is issued and not yet performed (R345). -/
structure PStore where
  va    : Word
  w     : Nat
  data  : Word
  place : Place
  tk    : Tk
  slk   : Nat
  ske   : BitVec 28 := 0x0400400
deriving DecidableEq, Repr

/-- What a context waits for (R116, R118, R280, R328, R345, R321), with what completes the word. -/
inductive Wait where
  | token (fifo : Nat)
  | rendezvous
  | pslot (n : Nat)
  | barrier (cell : Nat) (gen : BitVec 16)
  | ringClaim (d n : Nat)
  | ringWait (d n : Nat)
  | tkrcv (f : Nat)
  | time (v : Word)
  | frame (v : Word)
  | queueFull (q : Nat)
  | ctxStop (n : Nat)
  | lot (va : Word) (set : Nat) (requested : Bool)
  | token286
  | tendBays
  | answer
  | load (d : Nat) (va : Word) (w : Nat) (signed : Bool) (place : Place)
  | remoteStore (va : Word) (w : Nat) (v : Word) (place : Place)
  | remoteAmo (d op : Nat) (va : Word) (w : Nat) (v cmp : Word) (place : Place)
  | signal (fifo : Nat)
  | block (va : Word) (place : Place)
  | blockStore (va v : Word) (place : Place)
  | farLines
  | farInvi (left : List Nat)
deriving DecidableEq, Repr

/-- A cause reported against a context and pending until a word boundary (R341). -/
structure PendCause where
  cause : BitVec 5
  tval  : Word
deriving DecidableEq, Repr

/-- One context. `gotten` holds what other packages have answered to a word that reads or writes several doublewords at
issue (R379) until the word completes; `popped` says that the word that waits has issued and popped its tokens, and `waived`
that the held signals have raised WAIT and do not hold the handler's words (R106). `endTo` is the state that a `tend` or a `halt` whose
signals are held leads to, with the levels and TIP bits that it found; `tendPc` and `tendTk` are the address and the token bits of the latest
`tend`, and `paid` names the FIFOs that it has already signalled where it runs again (R109) (R10 to R12, R22, R26, R27, R70, R75, R102 and the CSRs of R52 at U and S). -/
structure Ctx where
  run      : RunState := .stopped
  x        : Map Word := []
  pc       : Word := 0
  bz       : Bool := false
  status   : BitVec 12 := 0x002
  sBank    : Bank := {}
  hBank    : Bank := {}
  lc       : Map LoopCtr := []
  fvec     : Word := 0
  fepc     : Word := 0
  slk      : BitVec 4 := 0
  gwait    : BitVec 24 := 0xffffff
  vround   : BitVec 5 := 0
  vseed    : BitVec 16 := 0xace1
  seedSet  : Bool := false
  sk       : Map (BitVec 28) := []
  bktBound : Map Word := []
  bktAddr  : Map Word := []
  bktOvf   : Word := 0
  perfCtl  : Map (BitVec 16) := []
  evlog    : List Word := []
  evLost   : Bool := false
  slackPend : Option Word := none
  runs     : Map RefRun := []
  admCnt   : Map Word := []
  pts      : Word := 0
  stores   : List PStore := []
  wait     : Option Wait := none
  waitTk   : Tk := Tk.none
  popped   : Bool := false
  bound    : Nat := 0
  stall    : Nat := 0
  waitAt   : Nat := 0
  reached  : Bool := false
  rendez   : Bool := false
  heldSig  : List Nat := []
  waived   : Bool := false
  endTo    : Option (RunState × BitVec 4) := none
  tendPc   : Word := 0
  tendTk   : Tk := Tk.none
  paid     : List Nat := []
  gotten   : Map (Option Word) := []
  yieldFor : Nat := 0
  retired  : BitVec 32 := 0
  retiredU : BitVec 32 := 0
  bayPend  : List PendCause := []
  haltPend : Bool := false
  slipPend : Option Word := none
  stopReq  : Bool := false
deriving DecidableEq, Repr

/-- The reset state of a context (R12, R26, R301). -/
def Ctx.reset : Ctx := {}

/-- A command in an engine queue (R108): its word, the values that its issue read (R170, R203, R310), its guard, its slack
class and the entry of the slack table that its issue read (R302), the class in `ctx.slk` then and its entry, for the window lines that the
command causes to move, whether it was issued at level U (R250) and the level (R383), for a fence the fields of R110, and its place in the order of the core's
enqueues (R432). -/
structure Entry where
  ins   : Instr
  tk    : Tk := Tk.none
  ctx   : Nat := 0
  va    : Word := 0
  vb    : Word := 0
  tab   : List Word := []
  guard : Option (Nat × Bool) := none
  rm    : BitVec 3 := 0
  sat   : Bool := false
  slk   : Nat := 0
  ske   : BitVec 28 := 0x0400400
  cslk  : Nat := 0
  cske  : BitVec 28 := 0x0400400
  atU   : Bool := false
  lvl   : Nat := 1
  seed  : Option (BitVec 16) := none
  fence : Option (Nat × BitVec 3) := none
  seq   : BitVec 32 := 0
  no    : Nat := 0
deriving DecidableEq, Repr

/-- One result of a command, written at its write clock (R171, R206). `keep` marks the bits that the write leaves. -/
inductive RegWrite where
  | vreg (n : Nat) (v keep : VReg)
  | mask (n : Nat) (v : Mask)
  | scale (n : Nat) (v : BitVec 256)
  | tile (key : Nat) (v : TileRow)
  | slot (n : Nat) (v : Word)
deriving DecidableEq, Repr

/-- A scratchpad line that a command writes when it retires (R188, R207); `keep` marks the bits that the write leaves. -/
structure SpadWrite where
  ln   : Nat
  data : Line
  keep : Line := 0
deriving DecidableEq, Repr

/-- Where a step takes an operand: popped from a queue, its elements and scales, or read from the scratchpad. -/
inductive OpdSrc where
  | popped (elems scales : Nat)
  | spad (addr : Nat)
deriving DecidableEq, Repr

/-- A step of the MXE that has started, its operands to be read in the next clock (R202, R206): the kind, the mode of a bin step, the
format entry, the tile, whether it adds to +0, and A and B. -/
structure StepIn where
  kind : Nat
  mode : Nat
  e    : Nat
  tile : Nat
  zero : Bool
  a    : OpdSrc
  b    : OpdSrc
deriving DecidableEq, Repr

/-- A command that has started and not retired: its registers are written in clock `wclk`, before any start of that
clock, and it may retire from clock `rclk`. `ts` is a copy's completion timestamp (R247), `at_` its start clock. `look` names the bytes of the scratchpad, by
address and length, and `step` the step, that the clock after the start reads for `writes` (R188, R206); `pushed` counts the values that a
`vpushc` has appended to the stream. -/
structure Flight where
  ent    : Entry
  wclk   : Nat
  rclk   : Nat
  writes : List RegWrite := []
  post   : List SpadWrite := []
  done   : Bool := false
  fill   : Option (Nat × Word) := none
  cause  : Option (BitVec 5 × Word) := none
  ts     : Word := 0
  at_    : Nat := 0
  look   : List (Nat × Nat) := []
  step   : Option StepIn := none
  pushed : Nat := 0
deriving DecidableEq, Repr

/-- An engine queue with what has started of it (R108). `stop` is the clock from which it starts nothing (R109), and `stallOf` the
wait that `stall` counts, by KIND and NAME (R116, R118). -/
structure EngQ where
  q       : List Entry := []
  fl      : List Flight := []
  next    : BitVec 32 := 0
  last    : Option (BitVec 32) := none
  enoted  : Bool := false
  noted   : Bool := false
  lastClk : Option Nat := none
  stop    : Option Nat := none
  stall   : Nat := 0
  stallOf : Option (Nat × Nat) := none
deriving DecidableEq, Repr

/-- The vector engine (R167, R148). `wp`, `rp` are the scale pointers, `gen` holds lane generator i in bits
16·i + 15 to 16·i: never zero, and all ones before the first task start (log 101). -/
structure Vxe where
  q      : EngQ := {}
  v      : Map VReg := []
  m      : Map Mask := []
  sc     : Map (BitVec 256) := []
  wp     : BitVec 2 := 0
  rp     : BitVec 2 := 0
  stream : List Code := []
  ovf    : Bool := false
  unf    : Bool := false
  gen    : BitVec 16384 := BitVec.allOnes 16384
deriving DecidableEq, Repr

/-- A level of a nest table (R60). -/
structure NestLevel where
  cnt : BitVec 16 := 0
  zt  : Bool := false
  st  : Bool := false
  sa  : BitVec 32 := 0
  sb  : BitVec 32 := 0
  sc  : BitVec 32 := 0
deriving DecidableEq, Repr

/-- A tile image of a nest store: it is due in clock `due`, is in the store buffer from `start` and has drained at
`ends` (R210, R212). -/
structure NestStore where
  addr  : Nat
  due   : Nat
  start : Nat
  ends  : Nat
  bytes : Nat
  data  : Nat
deriving DecidableEq, Repr

/-- The active nest: the table copied by `mxgo`, its operand words and how far it has run (R209 to R213). `lastEnd` is the
clock at which the store buffer is free, and `held` says that a window line of a step failed to translate and its trap has
not been returned from (R234, R109). -/
structure Nest where
  ent     : Entry
  aw      : Word
  bw      : Word
  cw      : Word
  tile    : Nat
  kind    : Nat
  fb      : Nat
  levels  : List NestLevel
  total   : Nat
  step    : Nat := 0
  nextClk : Nat
  stores  : List NestStore := []
  lastEnd : Nat := 0
  held    : Bool := false
  pend    : Option StepIn := none
  void    : Bool := false
deriving DecidableEq, Repr

/-- The matrix engine (R197). `badT` lists tile elements that are uncorrectable (R208), as 128 · (128 · tile + row) + column, and `stepClk` is the clock of its last step start (R427). -/
structure Mxe where
  q      : EngQ := {}
  t      : Map TileRow := []
  fmt    : Map (BitVec 32) := []
  shadow : Map NestLevel := []
  nest   : Option Nest := none
  malf   : BitVec 16 := 0
  nans   : BitVec 16 := 0
  badT   : List Nat := []
  stepClk : Option Nat := none
deriving DecidableEq, Repr

/-- A copy command in progress (R311). `total` counts its 128-byte lines; lines are formed in order and complete in
any order. `buf` holds the row that a scratchpad-to-scratchpad copy has read (R313), `fail` the first failing line, and
`ts` the largest write timestamp of its HC lines (R247). `formAt` is the clock of its last packet, `got` the lines of a row that have been
read, with whether each was uncorrectable (R313), `sent` the lines whose request has left for another package, with the clock of it (R382), `held` those that a held copy
has read (R282), and `noted` says that the command has written its event (R307). -/
structure Copy where
  ent    : Entry
  total  : Nat
  formed : Nat := 0
  out    : List Nat := []
  fail   : Option (Nat × BitVec 5 × Word) := none
  buf    : List Line := []
  ts     : Word := 0
  formAt : Option Nat := none
  got    : List (Nat × Line × Bool) := []
  sent   : List (Nat × Nat) := []
  held   : List (Line × Bool) := []
  noted  : Bool := false
deriving DecidableEq, Repr

/-- The copy engine. -/
structure Cpe where
  q    : EngQ := {}
  work : List Copy := []
deriving DecidableEq, Repr

/-- A scratchpad ring (R227, R59). -/
structure Ring where
  v       : Bool := false
  base    : Nat := 0
  slots   : Nat := 0
  lines   : Nat := 0
  expert  : Bool := false
  head    : Nat := 0
  tail    : Nat := 0
  claimed : Nat := 0
  filled  : Nat := 0
  held    : Nat := 0
  und     : Bool := false
  bad     : Bool := false
deriving DecidableEq, Repr

/-- One line of a stash window that is not invalid (R233). `pa` is its physical address, 2^48 before any translation, `rts` is its lease end on an HC page, `ms` says that its page
keeps no copy (R245), `bad` that its data was uncorrectable, and `inv` marks a line of an NF window that has become invalid
(a line of it that is not listed is clean and reads zero). -/
structure WinLine where
  dirty : Bool := false
  pa    : Nat := 2 ^ 48
  cls   : BitVec 2 := 0
  rts   : Word := 0
  ms    : Bool := false
  bad   : Bool := false
  inv   : Bool := false
deriving DecidableEq, Repr

/-- A window line that is on its way to another package (R235, R236): the virtual address, where it goes, its bytes with the bits
that the write leaves, its window and index, since when, and the cause with which it was answered, until a word that waits for write-backs raises it.
`host` names a dirty line of the L1 that the host port has still to take (R269, R416). -/
structure FarLine where
  va   : Word
  pkg  : Nat
  off  : Nat
  data : Line
  keep : Line := 0
  win  : Nat
  idx  : Nat
  since : Nat
  fail : Option (BitVec 5) := none
  host : Option Nat := none
deriving DecidableEq, Repr

/-- A stash window (R233). -/
structure Window where
  v     : Bool := false
  nf    : Bool := false
  ro    : Bool := false
  addr  : Nat := 0
  len   : Nat := 0
  gb    : Word := 0
  lines : Map (Option WinLine) := []
deriving DecidableEq, Repr

/-- A reserved or filled entry of an operand queue (R316): the sequence number of its `cpoq` and its number in it, and
the lines that have not arrived. -/
structure OqEntry where
  seq  : BitVec 32
  k    : Nat
  data : BitVec 8192 := 0
  left : List Nat := [0, 1, 2, 3, 4, 5, 6, 7]
deriving DecidableEq, Repr

/-- A line of the L1 (R238, R240, R246, R247): word valid bits, word dirty bits, word poison bits, the class of its page,
its block (128 · first line number + number of lines) and way, its lease end, and the write timestamp of its data; for a line behind the host port,
`va` is the virtual address of its latest store, which a write-back that fails reports (R269). -/
structure L1Line where
  data   : Line := 0
  valid  : BitVec 32 := 0
  dirty  : BitVec 32 := 0
  poison : BitVec 32 := 0
  cls    : BitVec 2 := 0
  blk    : Nat := 0
  way    : Nat := 0
  rts    : Word := 0
  wts    : Word := 0
  va     : Word := 0
deriving DecidableEq, Repr

/-- A pen line (R281): its words, the class of its page, and a virtual address that it was stored through. -/
structure PenLine where
  data  : Line := 0
  valid : BitVec 32 := 0
  cls   : BitVec 2 := 0
  va    : Word := 0
deriving DecidableEq, Repr

/-- A held copy command with the scratchpad lines that it has read, in line order, and whether each was uncorrectable
(R282). -/
structure HeldCopy where
  ent   : Entry
  lines : List (Line × Bool)
deriving DecidableEq, Repr

/-- A block operation that fills its slot when it ends (R241). -/
structure BlkOp where
  slot : Nat
  info : Nat
  code : Nat
  wb   : Bool
deriving DecidableEq, Repr

/-- A TLB entry (R252). -/
structure TlbEntry where
  vf   : Nat
  page : Nat
  size : Nat
  pte  : Word
deriving DecidableEq, Repr

/-- A declared atomic set (R58, R274). -/
structure ASet where
  base   : Nat
  size   : Nat
  lotlog : Nat
deriving DecidableEq, Repr

/-- The task of a core (R122, R123, R132, R286, R292). -/
structure Task where
  launch   : Nat
  idx      : Nat
  wid      : Word
  stamp    : Word
  vf       : Nat
  blk      : Nat
  prio     : Nat
  sets     : List ASet := []
  pe       : Bool := false
  rc       : Bool := false
  epi      : Nat := 0
  restarts : Nat := 0
  irrev    : Bool := false
  startClk : Nat := 0
  widths   : List Nat := []
deriving DecidableEq, Repr

/-- The latest cut of a core (R343, R344). -/
structure Cut where
  cpe  : BitVec 32 := 0
  mxe  : BitVec 32 := 0
  vxe  : BitVec 32 := 0
  pcs  : Map Word := []
  runs : BitVec 4 := 0
deriving DecidableEq, Repr

/-- Why a core is frozen (R345, R347): the engine and context whose access is late, and the window line, or the cc at
which a bank conflict ends. `own` is the number of a command that has started and whose access waits for the line. -/
structure Freeze where
  kind  : Nat
  loc   : Word
  since : Nat
  ctx   : Nat
  eng   : Nat := 2
  win   : Nat := 0
  idx   : Nat := 0
  atU   : Bool := false
  lvl   : Nat := 1
  ends  : Option Nat := none
  own   : Option Nat := none
deriving DecidableEq, Repr

/-- A trap that a queue raised in clock `at_`, until its context takes it (R109); `again` for one whose command was not performed
and is attempted again (R341). -/
structure HeadTrap where
  q     : Nat
  ctx   : Nat
  cause : BitVec 5
  tval  : Word
  at_   : Nat
  again : Bool
deriving DecidableEq, Repr

/-- A core's pre-emption request (R125, R359, R374): its save slot, its clock, whether it wounds (R289), and the launch that
caused it. -/
structure Preempt where
  slot : Nat
  at_  : Nat
  wound : Bool := false
  why  : Option Nat := none
deriving DecidableEq, Repr

/-- Bits that a physical event counter is bound to (R360, R367). -/
structure PerfBind where
  ctx   : Nat
  num   : Nat
  event : Nat
deriving DecidableEq, Repr

/-- One core. `fresh` counts the tokens of each FIFO that were pushed in the present clock and can be popped from the next (R106);
`issued` is the clock of the last word, its context, and the words of that context in that clock (R102, R108), and `filledAt` the cc in
which an engine last filled a slot (R113). -/
structure Core where
  ctx      : Map Ctx := []
  task     : Option Task := none
  pval     : Map Word := []
  pfull    : BitVec 16 := 0
  fifo     : Map Nat := []
  fresh    : Map Nat := []
  promised : Map Nat := []
  vxe      : Vxe := {}
  mxe      : Mxe := {}
  cpe      : Cpe := {}
  fences   : List (Nat × BitVec 3 × BitVec 3) := []
  fenceNo  : Nat := 0
  spad     : Map Line := []
  rings    : Map Ring := []
  ec       : Option (Nat × Nat) := none
  ringWait : List (Nat × Nat) := []
  wins     : Map Window := []
  away     : List FarLine := []
  oq       : Map (List OqEntry) := []
  l1       : Map (Option L1Line) := []
  dfifo    : List Nat := []
  blkUse   : List Nat := []
  icache   : Map (Option Code) := []
  pen      : Map (Option PenLine) := []
  hold     : List HeldCopy := []
  blkOps   : List BlkOp := []
  tlb      : List TlbEntry := []
  frozen   : Option Freeze := none
  frzMax   : BitVec 32 := 0x3a980
  scopeClamp : Word := 0
  sliceClamp : Word := 0
  perf     : Map Word := []
  perfBind : Map (Option PerfBind) := []
  hypPerf  : Map Word := []
  request  : Option Preempt := none
  point    : Bool := false
  resuming : Bool := false
  cut      : Cut := {}
  headTrap : List HeadTrap := []
  holdFor  : Option Nat := none
  issued   : Nat × Nat × Nat := (0, 0, 0)
  filledAt : Option Nat := none
  clk      : Nat := 0
  wounded  : Bool := false
  rolling  : Bool := false
  committing : Bool := false
  starts   : Nat := 0
  enqNo    : Nat := 0
  badSec : List Nat := []
  progN    : Nat := 0
  progAt   : Nat := 0
deriving DecidableEq, Repr

/-- The reset state of a core. -/
def Core.reset : Core := {}

/-- What a request is answered (R321). -/
inductive Answer where
  | admitted | refused | forced
deriving DecidableEq, Repr

/-- A shared-engine request and what its bay needs (R321, R327, R331, R397). `unit` is the engine that the route names,
`due` the clock of its decision and then of its answer (R339), `lvl` the level of the issuing access (R383), and `trs` has the places of its global lines: a
loft word's from its issue (R334), another's from its admission (R329). -/
structure Req where
  core  : Nat
  ctx   : Nat
  ins   : Instr
  cls   : Nat
  unit  : Option Nat
  rt    : Nat
  slot  : Nat
  va    : Word
  vb    : Word
  slk   : Nat
  ske   : BitVec 28 := 0x0400400
  vf    : Nat
  stamp : Option Word
  atU   : Bool := false
  lvl   : Nat := 1
  trs   : List Tr := []
  due   : Nat := 0
  answer : Option Answer := none
deriving DecidableEq, Repr

/-- A request that a bay has sent: its first line, its lines, the clock in which it left, and what it was answered (R382, R398). -/
structure BayAsk where
  line : Nat
  len  : Nat
  at_  : Nat
  rep  : Option Reply := none
deriving DecidableEq, Repr

/-- A bay that serves (R320, R327): since when, and the occupancy it will have. `inj` says that its packet is in the
switch (R399), and `inAt` since when an `xcmb` waits at its switch's input (R390); `asks` has its requests, `asked` says that one for a window line has left for another
package, and `askedAt` when that one or an offer did; `taken` and `next` hold a proxy request's batch and the clock of its next offer (R395), and `res` the
CODE, INFO and cause with which it ends once that is known. -/
structure Bay where
  req   : Req
  since : Nat
  occ   : Nat
  inj   : Bool := false
  inAt  : Option Nat := none
  asks  : List BayAsk := []
  asked : Bool := false
  askedAt : Nat := 0
  taken : Option Nat := none
  next  : Nat := 0
  offer : Bool := false
  res   : Option (Nat × Nat × Option (BitVec 5 × Word)) := none
deriving DecidableEq, Repr

/-- A ticket (R325): the holder's key 4 · core + context, the bay it holds and the first clock of the hold. -/
structure Ticket where
  key : Nat
  bay : Option Nat := none
  h   : Nat := 0
deriving DecidableEq, Repr

/-- A shared engine: its bays, the clock from which each completed bay is free again (R323), ticket, the first clock in which
it may issue the next one (R325), control fields (R336) and counts (R337; key function · 8 + counter, the total under function 64). -/
structure Eng where
  bays   : Map (Option Bay) := []
  ends   : Map Nat := []
  ticket : Option Ticket := none
  tkFrom : Nat := 0
  prev   : Nat := 127
  ntk    : BitVec 4 := 4
  rsv    : BitVec 3 := 1
  was    : Option (Nat × BitVec 4 × BitVec 3) := none
  cnt    : Map Word := []
deriving DecidableEq, Repr

/-- The reset state of a shared engine. -/
def Eng.reset : Eng := {}

/-- A token that an admitted `tksnd` has sent and that has not arrived (R107), with the number of task starts of the
receiving core at its admission (R105) and the clock of that. -/
structure TokFlight where
  core  : Nat
  fifo  : Nat
  start : Nat
  since : Nat
deriving DecidableEq, Repr

/-- A held lot (R277, R278). -/
structure Lot where
  key   : Nat
  log   : Nat
  core  : Nat
  stamp : Word
  blk   : Nat
  irr   : Bool := false
deriving DecidableEq, Repr

/-- A request that waits for a lot (R279); `who` is the context, or 4 for the CPE, and `va` the lot's first virtual address. -/
structure LotReq where
  key   : Nat
  log   : Nat
  core  : Nat
  who   : Nat
  stamp : Word
  va    : Nat
deriving DecidableEq, Repr

/-- A barrier cell (R119). -/
structure BarCell where
  exp : BitVec 16 := 0
  arr : BitVec 16 := 0
  gen : BitVec 16 := 0
deriving DecidableEq, Repr

/-- A launch packet in a launch queue (R57, R120), with its source: the function, and for a `tlnc` the core, slot and
age stamp of the task that issued it, and the clock in which it was enqueued (R295). -/
structure Packet where
  d      : List Word
  vf     : Nat
  src    : Option (Nat × Nat × Word) := none
  sets   : List ASet := []
  at_    : Nat := 0
deriving DecidableEq, Repr

/-- A released launch (R121, R123, R434); `ran` gives the core that ran a chain's first task. -/
structure Launch where
  pkt     : Packet
  blk     : Nat
  queue   : Nat
  tick    : BitVec 32
  seq     : BitVec 16
  prio    : Nat
  total   : Nat
  started : List Nat := []
  done    : List Nat := []
  ran     : List (Nat × Nat) := []
  saved   : List (Nat × Nat) := []
  again   : List (Nat × Nat) := []
  result  : Option (Nat × Nat) := none
  faultAt : Nat × Nat := (0, 0)
  entry   : Option Nat := none
  ptsMax  : Word := 0
deriving DecidableEq, Repr

/-- A slip in progress (R130): the entries with their launches' functions, the deadline, and the time and the clock at which the
hold began. -/
structure Slip where
  entries : List (Nat × Nat)
  dl      : Nat
  since   : Nat
  cc      : Nat := 0
deriving DecidableEq, Repr

/-- A timetable entry (R129). `armed` is the state that R129 describes. -/
structure TtEntry where
  d0     : Word := 0
  d1     : Word := 0
  armed  : Bool := false
  missed : Bool := false
deriving DecidableEq, Repr

/-- A paddock: its block of registers (R409), launch queues, timetable, frame counter, barrier cells, floor timestamp,
token and dispatcher state. -/
structure Paddock where
  pctl    : Word := 0
  job     : Word := 0
  fper    : Word := 1024
  fepoch  : Word := 0
  was     : Option (Nat × Word × Word) := none
  saveb   : Word := 0
  slice   : Word := 0
  bnd     : Word := 0
  bndvf   : Word := 0
  droot   : Word := 0
  sdctl   : Word := 0
  sdlen   : Word := 0
  sdack   : Word := 0
  htvec   : Word := 0
  ilv     : Map Word := []
  djob    : Map Word := []
  route   : Map Word := []
  lacl    : Map Word := []
  queues  : Map (List Packet) := []
  tt      : Map TtEntry := []
  frame   : Word := 0
  heldNs  : Nat := 0
  slip    : Option Slip := none
  slipLog : List (Nat × Nat) := []
  missLog : List Nat := []
  bar     : Map BarCell := []
  floor   : Word := 0
  seq     : BitVec 16 := 0
  token   : Option Nat := none
  drr     : Map Nat := []
  drrPtr  : Nat := 0
  reserved : List Nat := []
deriving DecidableEq, Repr

/-- The reset state of a paddock block. -/
def Paddock.reset : Paddock := {}

/-- A function's registers (R413, R371), its mailbox (R417) and its notices; `rstBy` names the mailbox entry that its reset in progress answers (R414). -/
structure Func where
  vfctl  : Word := 0x100
  vfroot : Word := 0
  vftvec : Word := 0
  ilbase : Word := 0
  ilsize : Word := 4
  ilhead : Word := 0
  iltail : Word := 0
  ilres  : Word := 0
  ilpend : Word := 0
  ilheld : Map Nat := []
  msix   : List Nat := []
  mbox   : Map Word := []
  notices : List (List Word) := []
  lost   : Nat := 0
  nextNotice : Nat := 0
  door   : Map Word := []
  rstBy  : Option (Nat × Nat) := none
deriving DecidableEq, Repr

/-- The reset state of a function. -/
def Func.reset : Func := {}

/-- A forwarding hint (R381). -/
structure Hint where
  tgt   : Bool
  opkg  : Nat
  opage : Nat
  npkg  : Nat
  npage : Nat
deriving DecidableEq, Repr

/-- A shed's own state: hint cache, TLB and the multicast-drop counter (R381, R252, R389). -/
structure Shed where
  hints  : List Hint := []
  tlb    : List TlbEntry := []
  mcDrop : Word := 0
deriving DecidableEq, Repr

/-- A home's write timestamp and lease end for a line (R244, R247). -/
structure HcLine where
  wts : Word := 0
  rts : Word := 0
deriving DecidableEq, Repr

/-- A multicast or result packet that the switch forwards (R388): the input it arrived at, the branches it still has to
send, in EGRESS code, since when, and the cores whose deliveries wait to be placed, with the clock in which each arrived
(R389). `src` is the XCE and bay of an `xmc`; `e`, `top`, `head` and `hops` are E, FLOOR and CLASS, dword 1 and HOPS of its
header (R298, R383). `formed` says that a place of this switch formed it, `up` that it is a contribution to PARENT (R392), and `places` counts the flits of a
port's input buffer that it occupies until its mask is empty (R385, R388), and `headAt` is the clock in which it became the head of its input (R304). -/
structure McPkt where
  inp     : Nat
  group   : Nat
  num     : Nat
  ring    : Nat
  vf      : Nat
  lines   : List Line
  slack   : Nat
  mask    : BitVec 26
  since   : Nat
  deliver : List (Nat × Nat) := []
  res     : Option Contrib := none
  abn     : Bool := false
  src     : Option (Nat × Nat) := none
  e       : Bool := false
  top     : Word := 0
  head    : Word := 0
  hops    : Nat := 0
  formed  : Bool := false
  up      : Bool := false
  places  : Nat := 0
  headAt  : Option Nat := none
deriving DecidableEq, Repr

/-- A place of a combining group (R390): its instance, by input stop the contributions with their arrival clocks, and whether
its result is complete and has not left the switch (R392). -/
structure CombPlace where
  num   : Nat
  recv  : Map (Option (Contrib × Nat)) := []
  done  : Bool := false
deriving DecidableEq, Repr

/-- An `xcmb` whose result has not landed (R400). -/
structure CmbPend where
  core  : Nat
  ctx   : Nat
  slot  : Nat
  group : Nat
  num   : Nat
  addr  : Nat
  shed  : Nat
  op    : Nat
  n     : Nat
  stamp : Word
deriving DecidableEq, Repr

/-- A packet at a queuing point (R298, R300): the fields of its header, and what arbitration and replies read. `src` and `dst` are Yard
stops, `adr` the header's address and `addr` the virtual one of the event log. `input` is the input of the point, `head` the clock in which
it became the head of that input (none before), `since` the clock of its arrival and `waited` the units of 16 cc counted there; `cells`
counts the ring cells that it has still to take (R375), `begun` says that it has taken one, and `ring` that it holds space of an exit buffer (R376).
`spkg`, `link` and `data` are its source package, the LINK field and the payload of a packet that leaves the package (R298, R383), and `sstop` and `dstop` the
stops of its header where they are not those between which it moves here. `req` says that E was set on its
request, `noted` that its command has written its event (R307), `acc` is the clock in which its target accepted it, and `rlen` the bytes of
its reply (R306). -/
structure PtPkt where
  ty    : Nat := 0
  vc    : Nat := 0
  input : Nat := 0
  src   : Nat := 0
  dst   : Nat := 0
  dpkg  : Nat := 0
  blk   : Nat := 0
  pdk   : Nat := 0
  vf    : Nat := 0
  unit  : Nat := 0
  slack : Nat := 0
  floor : Nat := 0
  cls   : Nat := 0
  e     : Bool := false
  req   : Bool := false
  noted : Bool := false
  core  : Nat := 0
  ctx   : Nat := 0
  kind  : Nat := 0
  seq   : Nat := 0
  tag   : Nat := 0
  len   : Nat := 0
  rlen  : Nat := 0
  adr   : Word := 0
  addr  : Word := 0
  ts    : Word := 0
  age   : Word := 0
  arg0  : Word := 0
  arg1  : Word := 0
  head  : Option Nat := none
  since : Nat := 0
  waited : Nat := 0
  cells : Nat := 1
  begun : Bool := false
  acc   : Option Nat := none
  ring  : Bool := false
  spkg  : Nat := 0
  link  : Word := 0
  data  : List Word := []
  sstop : Option Nat := none
  dstop : Option Nat := none
deriving DecidableEq, Repr

/-- A queuing point: the packets that wait and the exhausted count of each channel (R300, R303). Points are numbered 0 to 35 the
switch's input at a stop, 64 + c the outbound port of core c, 128 + s the injection arbiter of stop s, 192 + s, 300 + s,
336 + s and 372 + s the input queues there, of the home or the stop itself, the loft, the XCE and the SFE, 256 + c the replies that have
reached core c, and 408 + p the ingress of Ganor port p. -/
structure Point where
  pkts : List PtPkt := []
  exh  : Map Word := []
deriving DecidableEq, Repr

/-- A data flit that a link's sender keeps until it is acknowledged (R386): its SEQ, its channel, whether it is a header flit, and its data. -/
structure Flit where
  seq : BitVec 12
  vc  : Nat := 0
  sop : Bool := false
  data : List Word := []
deriving DecidableEq, Repr

/-- A Ganor link (R384 to R386). Channel counts are by channel number; `rot` is the channel whose return the next unit carries, and `units`
holds the units that have been sent, each with its sideband and the data of its flit, none for an idle unit, the last of them in clock `lastAt`; `askedAt` is the time at which the replay that is asked for was
needed (R349). -/
structure Link where
  sendSeq : BitVec 12 := 0
  expect  : BitVec 12 := 0
  sent    : Map (BitVec 16) := []
  lastRet : Map (BitVec 16) := []
  freed   : Map (BitVec 16) := []
  replay  : List Flit := []
  resend  : List Flit := []
  rot     : BitVec 2 := 0
  units   : List (Word × List Word) := []
  lastAt  : Nat := 0
  asked   : Bool := false
  askedAt : Word := 0
  inbuf   : Map (List Word) := []
deriving DecidableEq, Repr

/-- A watch of the halter that has fired (R350, R351): `level` is the level last taken, 15 before the first, in clock `since`.
`mark` is the number of words that the trapped context had retired at U. For a shed unit, `core` is the shed and `ctx` is
8 · class + bay. -/
structure Watch where
  kind  : Nat
  core  : Nat
  ctx   : Nat
  level : Nat
  since : Nat
  cause : BitVec 5
  tval  : Word
  pc    : Word
  mark  : BitVec 32 := 0
deriving DecidableEq, Repr

/-- A merge that the resident service performs (R412): its mailbox entry, the paddock blocks, the steps done, the clock of step 1,
and the functions whose translations have still to be shot down, with the one that is under way. -/
structure Merge where
  fn    : Nat
  e     : Nat
  a     : Nat
  b     : Nat
  steps : Nat
  since : Nat
  vfs   : List Nat := []
deriving DecidableEq, Repr

/-- The tack processors' registers and the firmware state (R420, R421, R424 to R427). `dwKeep` holds the dwords of the entry in which INDEX lies in a
window with frozen read, from its first dword (R423), and `entry` the ENTRY of the image that runs (R424). -/
structure Tack where
  dwUnit  : BitVec 8 := 0
  dwIndex : BitVec 48 := 0
  dwOut   : Word := 0
  dwKeep  : Option (Nat × List Word) := none
  hbeat   : Word := 0
  act     : Bool := false
  trial   : Bool := false
  valid   : Bool := false
  arc     : BitVec 32 := 0
  swapReq : Bool := false
  tminc   : BitVec 48 := 0x6aaaaaab
  lock    : Bool := false
  src     : BitVec 2 := 0
  mpkg    : BitVec 6 := 0
  syncOk  : Nat := 0
  stgPend : Bool := false
  meas    : Map Word := []
  entry   : Word := 0
  slotA   : Map Byte := []
  slotB   : Map Byte := []
  oldSlot : Option Bool := none
  trialAt : Nat := 0
  noImage : Bool := false
  hbeatAt : Nat := 0
  tos     : Map Word := []
  pcap    : Word := 0
  pstep   : Word := 2
  pmeas   : Word := 0
  capped  : Bool := false
  cappedCc : Nat := 0
  gtstat  : Bool := false
  ptp     : Map Word := []
  mboxOrder : List (Nat × Nat) := []
  swapWait : Option (Nat × Nat) := none
  merging : Option Merge := none
  stage   : Option (Map Byte) := none
deriving DecidableEq, Repr

/-- What moves next when the environment decides (the model's own: log 1): a context gets the turn, or an event
happens. -/
inductive Action where
  | turn (core ctx : Nat)
  | event (i : Instr)
deriving DecidableEq, Repr

/-- The package. `agenda`, `cur`, `ran` and `free` are the model's own: what the environment has decided, the context whose turn
it is, whether it has issued in this cc, and the counter of the free values. So is `cause`: the core, context, slack class and entry of the access
whose effects are being computed (R302). `exitUse` counts the flits of exit-buffer space that are held (R376), and `farReqs` has the requests to other
packages that await a reply (R307). `fuses` is the core-enable mask, fixed at test
(R3, R4). -/
structure State where
  agenda  : List Action
  cur     : Nat × Nat
  ran     : Bool
  free    : Nat
  cc      : Nat
  time    : Nat
  timeHold : Nat
  timeStep : Int
  pkg     : BitVec 6
  cores   : Map Core
  mem     : List Host.Cell
  poison  : Map Bool
  hc      : Map HcLine
  hostHc  : List (Nat × HcLine)
  hostFloor : Word
  lots    : List Lot
  lotReqs : List LotReq
  lotTs   : Map Word
  engs    : Map Eng
  reqs    : List Req
  toks    : List TokFlight
  cmbs    : List CmbPend
  pdks    : Map Paddock
  launches : Map (Option Launch)
  nextLaunch : Nat
  funcs   : Map Func
  sheds   : Map Shed
  mcs     : List McPkt
  places  : Map (Option CombPlace)
  abandoned : List (Nat × Nat × Nat)
  discards : Word
  points  : Map Point
  exitUse : Map Nat
  farReqs : List PtPkt
  cause   : Option (Nat × Nat × Nat × BitVec 28)
  links   : Map Link
  groups  : Map Word
  routes  : Map Word
  slotAct : Map Byte
  slotStg : Map Byte
  cells   : Map (Option Nat)
  fuses   : BitVec 32
  rdy0    : Word
  rdy1    : BitVec 32
  watches : List Watch
  records : List (List Word)
  farrier : List (List Word)
  farCnt  : Map Word
  corrected : Word
  tack    : Tack
  outbox  : List (Nat × List Word)
  ethOut  : List (Nat × List Byte)
deriving DecidableEq, Repr

/-- The machine right after a package reset (R12, R352, R426): every field at the reset value of its rule; memory with
nothing listed; no unit ready, no paddock valid, every context stopped at level H with PC 0. -/
def State.reset : State where
  agenda := []
  cur := (0, 0)
  ran := false
  free := 0
  cc := 0
  time := 0
  timeHold := 0
  timeStep := 0
  pkg := 0
  cores := []
  mem := []
  poison := []
  hc := []
  hostHc := []
  hostFloor := 0
  lots := []
  lotReqs := []
  lotTs := []
  engs := []
  reqs := []
  toks := []
  cmbs := []
  pdks := []
  launches := []
  nextLaunch := 0
  funcs := []
  sheds := []
  mcs := []
  places := []
  abandoned := []
  discards := 0
  points := []
  exitUse := []
  farReqs := []
  cause := none
  links := []
  groups := []
  routes := []
  slotAct := []
  slotStg := []
  cells := []
  fuses := 0xffffffff
  rdy0 := 0
  rdy1 := 0
  watches := []
  records := []
  farrier := []
  farCnt := []
  corrected := 0
  tack := {}
  outbox := []
  ethOut := []

end Sys2Proof.Machine
end

