-- ==== Sys2Proof/Machine/Ops.lean ====
section
/-!
DEFINITION. The named operations over contexts and cores that every meaning goes through: reading and writing
registers, taking a trap and returning from one, token FIFOs, loop counters, and `control`, the one path that a word
takes from issue to completion.
-/
namespace Sys2Proof.Machine

/-- The outcome of one step. -/
abbrev Out := Host.Outcome State Fault Refusal

/-- Something has happened. -/
def moved (s : State) (o : Out) : Bool := match o with
  | .next t => t ≠ s
  | _ => true

/-! ### Units of the state -/

def State.core (s : State) (c : Nat) : Core := Map.get Core.reset s.cores c
def State.setCore (s : State) (c : Nat) (k : Core) : State := { s with cores := Map.set Core.reset s.cores c k }
def State.updCore (s : State) (c : Nat) (f : Core → Core) : State := s.setCore c (f (s.core c))
def Core.getCtx (k : Core) (x : Nat) : Ctx := Map.get Ctx.reset k.ctx x
def Core.setCtx (k : Core) (x : Nat) (t : Ctx) : Core := { k with ctx := Map.set Ctx.reset k.ctx x t }
def Core.updCtx (k : Core) (x : Nat) (f : Ctx → Ctx) : Core := k.setCtx x (f (k.getCtx x))
def State.ctx (s : State) (c x : Nat) : Ctx := (s.core c).getCtx x
def State.setCtx (s : State) (c x : Nat) (t : Ctx) : State := s.setCore c ((s.core c).setCtx x t)
def State.updCtx (s : State) (c x : Nat) (f : Ctx → Ctx) : State := s.setCtx c x (f (s.ctx c x))
def State.pdk (s : State) (b : Nat) : Paddock := Map.get Paddock.reset s.pdks b
def State.setPdk (s : State) (b : Nat) (p : Paddock) : State := { s with pdks := Map.set Paddock.reset s.pdks b p }
def State.updPdk (s : State) (b : Nat) (f : Paddock → Paddock) : State := s.setPdk b (f (s.pdk b))
def State.func (s : State) (i : Nat) : Func := Map.get Func.reset s.funcs i
def State.updFunc (s : State) (i : Nat) (f : Func → Func) : State :=
  { s with funcs := Map.set Func.reset s.funcs i (f (s.func i)) }

/-- The general registers: x0 reads zero and discards writes (R10). -/
def Ctx.rd (t : Ctx) (r : Reg) : Word := if r = 0 then 0 else Map.get 0 t.x r.toNat
def Ctx.wr (t : Ctx) (r : Reg) (v : Word) : Ctx := if r = 0 then t else { t with x := Map.set 0 t.x r.toNat v }

/-- The slack-table entry of a class: FLOOR 0x040 and INIT 0x400 at reset (R301). -/
def Ctx.skEntry (t : Ctx) (j : Nat) : BitVec 28 := Map.get 0x0400400 t.sk j

/-- Bits lo + n - 1 to lo of a value replaced. -/
def putBits {w : Nat} (v : BitVec w) (lo n : Nat) (x : Nat) : BitVec w :=
  (v &&& ~~~ (BitVec.ofNat w ((2 ^ n - 1) * 2 ^ lo))) ||| BitVec.ofNat w (x % 2 ^ n * 2 ^ lo)

/-- Bits lo + n - 1 to lo of a number. -/
def bits (v lo n : Nat) : Nat := v / 2 ^ lo % 2 ^ n

/-- Bits of a word, as a number. -/
abbrev wbits (v : Word) (lo n : Nat) : Nat := bits v.toNat lo n

/-- Number `i` as a word. -/
abbrev wnat (i : Nat) : Word := BitVec.ofNat 64 i

/-- The fields of `ctx.status` (R26). -/
def Ctx.pl (t : Ctx) : BitVec 2 := t.status.extractLsb' 0 2
def Ctx.stip (t : Ctx) : Bool := t.status.getLsbD 6
def Ctx.htip (t : Ctx) : Bool := t.status.getLsbD 7
def Ctx.vb (t : Ctx) : Bool := t.status.getLsbD 8
def Ctx.se (t : Ctx) : Bool := t.status.getLsbD 9
def Ctx.fip (t : Ctx) : Bool := t.status.getLsbD 10
def Ctx.sle (t : Ctx) : Bool := t.status.getLsbD 11
def Ctx.setPl (t : Ctx) (l : BitVec 2) : Ctx := { t with status := putBits t.status 0 2 l.toNat }
def Ctx.setFip (t : Ctx) (b : Bool) : Ctx := { t with status := putBits t.status 10 1 b.toNat }

/-- The word of an instruction, zero-extended: `ctx.tval` of ILL, PRIV, SYS and BRK (R28). -/
def wordVal (i : Instr) : Word := (encode i).setWidth 64

/-! ### Cause codes (R54) -/

namespace Cause
abbrev ill : BitVec 5 := 0
abbrev priv : BitVec 5 := 1
abbrev misal : BitVec 5 := 2
abbrev xlat : BitVec 5 := 3
abbrev prot : BitVec 5 := 4
abbrev fwdx : BitVec 5 := 5
abbrev bank : BitVec 5 := 6
abbrev fut : BitVec 5 := 7
abbrev wait : BitVec 5 := 8
abbrev frz : BitVec 5 := 9
abbrev sys : BitVec 5 := 10
abbrev brk : BitVec 5 := 11
abbrev pred : BitVec 5 := 12
abbrev slip : BitVec 5 := 13
abbrev slack : BitVec 5 := 14
abbrev ecc : BitVec 5 := 15
abbrev scope : BitVec 5 := 16
abbrev nest : BitVec 5 := 17
end Cause

/-- The causes that R342 places before NEST. -/
def Cause.beforeNest (c : BitVec 5) : Bool :=
  c = Cause.ill || c = Cause.priv || c = Cause.misal || c = Cause.xlat || c = Cause.prot || c = Cause.fwdx ||
    c = Cause.ecc || c = Cause.scope || c = Cause.pred

/-! ### Event counters (R367, R368) -/

/-- No task counter counts: between a pre-emption point and the saved record, and between the choice of a restore and its first word (R370). -/
def Core.offTask (k : Core) : Bool := k.point || k.resuming

/-- Core `k` counts `n` events of code `ev` for context `x`: every physical counter bound to that context and event, or the
hypervisor's bank in the spans of R370. -/
def Core.count (k : Core) (x ev n : Nat) : Core :=
  if k.offTask then { k with hypPerf := Map.upd 0 k.hypPerf ev (fun v => v + wnat n) }
  else if k.perfBind = [] then k
  else
    { k with perf := (List.range 16).foldl (fun m j =>
        match Map.get none k.perfBind j with
        | some b => if b.ctx = x ∧ b.event = ev then Map.upd 0 m j (fun v => v + wnat n) else m
        | none => m) k.perf }

def State.count (s : State) (c x ev n : Nat) : State :=
  if (s.core c).perfBind = [] ∧ (s.core c).offTask = false then s else s.updCore c (fun k => k.count x ev n)

/-! ### Token FIFOs (R105, R106)

FIFO numbers of a core: 2 · member + side of the context ring, 8 + context for a remote FIFO, and 12 + 2 · engine +
side of the engine ring, engine 0 CPE, 1 MXE, 2 VXE; side 0 is "from predecessor". -/

/-- The tokens that can be popped: those that no later clock than the last has pushed (R106). -/
def Core.avail (k : Core) (f : Nat) : Nat := Map.get 0 k.fifo f

/-- The count of a FIFO. -/
def Core.fifoCount (k : Core) (f : Nat) : Nat := k.avail f + Map.get 0 k.fresh f

/-- A place is free: a promised place (R107) is not. -/
def Core.fifoRoom (k : Core) (f : Nat) : Bool := k.fifoCount f + Map.get 0 k.promised f < 15

def Core.push (k : Core) (f : Nat) : Core := { k with fresh := Map.upd 0 k.fresh f (· + 1) }
def Core.pop (k : Core) (f : Nat) : Core := { k with fifo := Map.upd 0 k.fifo f (· - 1) }

/-- A token that a trapping word has popped is back (R20); a FIFO holds at most 15. -/
def Core.unpop (k : Core) (f : Nat) : Core := if k.fifoCount f < 15 then { k with fifo := Map.upd 0 k.fifo f (· + 1) } else k

/-- A token that was pushed is taken back (R109). -/
def Core.unpush (k : Core) (f : Nat) : Core :=
  if 0 < Map.get 0 k.fresh f then { k with fresh := Map.upd 0 k.fresh f (· - 1) } else k.pop f

/-- Tokens pushed in a clock that has ended can be popped (R106). -/
def Core.ripen (k : Core) : Core :=
  if k.fresh = [] then k
  else { k with fifo := k.fresh.foldl (fun m e => Map.upd 0 m e.1 (· + e.2)) k.fifo, fresh := [] }

/-- The FIFOs that the wait bits of a context's word pop. -/
def waitFifos (k : Tk) (x : Nat) : List Nat := (if k.wp then [2 * x] else []) ++ (if k.wn then [2 * x + 1] else [])

/-- The FIFOs that the signal bits of a context's word push: the predecessor's "from successor" and the successor's
"from predecessor". -/
def signalFifos (k : Tk) (x : Nat) : List Nat :=
  (if k.sp then [2 * ((x + 3) % 4) + 1] else []) ++ (if k.sn then [2 * ((x + 1) % 4)] else [])

/-- The same for an engine. -/
def engWaitFifos (k : Tk) (e : Nat) : List Nat :=
  (if k.wp then [12 + 2 * e] else []) ++ (if k.wn then [12 + 2 * e + 1] else [])
def engSignalFifos (k : Tk) (e : Nat) : List Nat :=
  (if k.sp then [12 + 2 * ((e + 2) % 3) + 1] else []) ++ (if k.sn then [12 + 2 * ((e + 1) % 3)] else [])

/-- The first wait FIFO of a word that holds no token that can be popped. -/
def emptyWait (k : Core) (fs : List Nat) : Option Nat := fs.find? (fun f => k.avail f = 0)

def State.popAll (s : State) (c x : Nat) (fs : List Nat) : State :=
  if fs = [] then s
  else (s.updCore c (fun k => fs.foldl Core.pop k)).count c x 13 fs.length

/-- The tokens that issue popped are back in their FIFOs (R20, R116). -/
def State.unpop (s : State) (c x : Nat) (fs : List Nat) : State :=
  if fs = [] then s
  else (s.updCore c (fun k => fs.foldl Core.unpop k)).count c x 13 (2 ^ 64 - fs.length)

/-- The tokens that the word at which a context waits has popped are back: a word that traps has changed nothing (R20). -/
def State.giveBack (s : State) (c x : Nat) : State :=
  let t := s.ctx c x
  s.unpop c x (if t.popped then waitFifos t.waitTk x else [])

/-! ### Taking a trap and returning from one -/

/-- A condition that the halter watches has arisen (R350). The event `halterWatchFire` enters the ladder; level 15
says that it has not been entered. A watch of the same condition that has ended gives way; every double trap has a watch of its own, with its
cause, value and PC (R25). -/
def State.arise (s : State) (kind core ctx : Nat) (cause : BitVec 5) (tval pc : Word) : State :=
  let mark := (s.ctx core ctx).retiredU
  let ws := s.watches.filter (fun (w : Watch) => ! (w.kind = kind && w.core = core && w.ctx = ctx && kind ≠ 3 && w.mark ≠ mark))
  if kind ≠ 3 ∧ ws.any (fun (w : Watch) => w.kind = kind && w.core = core && w.ctx = ctx) then s
  else { s with watches := ws ++ [⟨kind, core, ctx, 15, s.cc, cause, tval, pc, mark⟩] }

/-- The level that takes a trap (R21). -/
def trapLevel (c : BitVec 5) (pl : BitVec 2) : BitVec 2 :=
  if pl = 2 then 2
  else if c = Cause.sys ∨ c = Cause.priv then (if pl = 0 then 1 else 2)
  else if c = Cause.ecc ∨ c = Cause.scope then 2
  else 1

/-- The lot request of the word at which a context waits is withdrawn: after a trap the request is made again (R280). -/
def State.withdraw (s : State) (c x : Nat) : State :=
  match (s.ctx c x).wait with
  | some (.lot _ _ true) => { s with lotReqs := s.lotReqs.filter (fun r => ! (r.core = c && r.who = x)) }
  | _ => s

/-- A context leaves whatever it was doing at its word: nothing is waited for. -/
def Ctx.unwait (t : Ctx) : Ctx :=
  { t with wait := none, stall := 0, reached := false, rendez := false, popped := false, gotten := [] }

/-- The level and the TIP bits of a context: they tell its trap handlers apart (R21, R24). -/
def Ctx.frame (t : Ctx) : BitVec 4 := t.status.extractLsb' 0 2 ++ t.status.extractLsb' 6 2

/-- A `tend` or a `halt` leads its context to a state, at once or, where a place for its signals is missing, when they are pushed (R106). -/
def Ctx.leaveTo (t : Ctx) (full : Bool) (r : RunState) : Ctx :=
  if full then { t with endTo := some (r, t.frame) } else { t with run := r }

/-- A context whose held signals are pushed reaches the state that its `tend` or `halt` leads to, unless a trap handler runs (R106). -/
def Ctx.reachEnd (t : Ctx) : Ctx :=
  match t.endTo with
  | some (r, f) => if f = t.frame ∧ t.heldSig = [] then { t.unwait with run := r, endTo := none } else t
  | none => t

/-- Entry into the bank of `lvl` (R23): the saved pc, cause, value and level, TIP, the new level, and the handler. -/
def Ctx.enter (t : Ctx) (lvl : BitVec 2) (c : BitVec 5) (v pc : Word) : Ctx :=
  let b := if lvl = 1 then t.sBank else t.hBank
  let b' : Bank := { b with epc := pc &&& 0xfffffffffffffffc, cause := c, tval := v }
  let st := if lvl = 1 then putBits (putBits t.status 2 2 t.pl.toNat) 6 1 1
            else putBits (putBits t.status 4 2 t.pl.toNat) 7 1 1
  let base := b.tvec &&& 0xffffffffff00
  let pc' := if b.tvec.getLsbD 0 then base + 8 * c.setWidth 64 else base
  let t := if lvl = 1 then { t with sBank := b' } else { t with hBank := b' }
  { t with status := putBits st 0 2 lvl.toNat, pc := pc' }

/-- A user-level future trap (R115). -/
def Ctx.enterFut (t : Ctx) (pc : Word) : Ctx := { t.setFip true with fepc := pc, pc := t.fvec }

/-- The whole of taking a trap: routing (R21), the future trap at U (R115), the double trap (R25) and entry (R23).
`pc` is what `ctx.epc` receives. WAIT and FRZ also arise at the halter (R350); the WAIT of KIND 13, which the halter itself raises, does not
(log 120). -/
def takeTrap (s : State) (c x : Nat) (cause : BitVec 5) (tval pc : Word) : State :=
  let s := (s.giveBack c x).withdraw c x
  let t := (s.ctx c x).unwait
  if cause = Cause.fut ∧ t.pl = 0 ∧ t.fip = false then
    (s.setCtx c x (t.enterFut pc)).count c x 7 1
  else
    let s := if cause = Cause.fut then s.count c x 7 1 else s
    let lvl := trapLevel cause t.pl
    let tip := if lvl = 1 then t.stip else t.htip
    let s :=
      if tip then (s.setCtx c x { t with run := .failed }).arise 3 c x cause tval pc
      else s.setCtx c x (t.enter lvl cause tval pc)
    if cause = Cause.wait ∧ tval.extractLsb' 56 8 ≠ 13 then s.arise 2 c x cause tval pc
    else if cause = Cause.frz then s.arise 1 c x cause tval pc
    else s

/-- Trap return (R24): the level and the TIP bit of the bank of the current level, and its saved pc. -/
def Ctx.trapReturn (t : Ctx) : Ctx × Word :=
  if t.pl = 1 then
    ({ t with status := putBits (putBits t.status 0 2 (bits t.status.toNat 2 2)) 6 1 0 }, t.sBank.epc)
  else
    ({ t with status := putBits (putBits t.status 0 2 (bits t.status.toNat 4 2)) 7 1 0 }, t.hBank.epc)

/-- The bound of a wait-field code (R34). -/
def waitBound (w : Nat) : Nat := (w % 16 + 16) * 2 ^ (w / 16 % 16)

def Ctx.gc (t : Ctx) : Nat := waitBound (bits t.gwait.toNat 0 8)
def Ctx.ge (t : Ctx) : Nat := waitBound (bits t.gwait.toNat 8 8)
def Ctx.gq (t : Ctx) : Nat := waitBound (bits t.gwait.toNat 16 8)

/-- Push one signal of a context, or hold it until a place frees (R106). -/
def State.signal (s : State) (c x f : Nat) : State :=
  let t := s.ctx c x
  if t.heldSig.contains f = false ∧ (s.core c).fifoRoom f then s.updCore c (fun k => k.push f)
  else
    let t := { t with heldSig := t.heldSig ++ [f] }
    s.setCtx c x (if t.wait = none then { t with wait := some (.signal f), bound := t.gc, stall := 0 } else t)

/-- A context that waits for nothing else waits for the places of its held signals, unless their WAIT has been raised. -/
def State.holdSignals (s : State) (c x : Nat) : State :=
  let t := s.ctx c x
  match t.heldSig with
  | f :: _ => if t.wait = none ∧ t.waived = false then s.setCtx c x { t with wait := some (.signal f), bound := t.gc, stall := 0 } else s
  | [] => s

def State.signals (s : State) (c x : Nat) (fs : List Nat) : State := (fs.foldl (fun s f => s.signal c x f) s).holdSignals c x

/-! ### Loop counters (R75 to R82) -/

def Ctx.loopCtr (t : Ctx) (n : Nat) : LoopCtr := Map.get {} t.lc n
def Ctx.setLoop (t : Ctx) (n : Nat) (l : LoopCtr) : Ctx := { t with lc := Map.set {} t.lc n l }

/-- LAST, the address of the final kernel word. -/
def LoopCtr.last (l : LoopCtr) : Word := l.start + 4 * (l.len.setWidth 64 - 1)

/-- The active loop of the context's level whose LAST is `a`. -/
def Ctx.loopAt (t : Ctx) (a : Word) : Option Nat :=
  (List.range 4).find? (fun n => let l := t.loopCtr n; l.act && l.pl = t.pl && l.last = a)

/-- The kernel-boundary step (R78), with `req` the pre-emption request; answers the context and the next pc. -/
def Ctx.kernelBoundary (t : Ctx) (n : Nat) (req : Bool) : Ctx × Word :=
  let l := t.loopCtr n
  let iter := l.iter + 1
  if iter < l.endAt ∧ l.pre = true ∧ req = true then
    (t.setLoop n { l with iter := iter, clamp := true, act := false }, l.last + 4)
  else if iter < l.endAt then (t.setLoop n { l with iter := iter }, l.start)
  else (t.setLoop n { l with iter := iter, act := false }, l.last + 4)

/-- Where a word that completed without a transfer of its own goes next: the kernel-boundary step at LAST, else pc + 4. -/
def Ctx.advance (t : Ctx) (req : Bool) : Ctx :=
  match t.loopAt t.pc with
  | some n => let (t', pc) := t.kernelBoundary n req; { t' with pc := pc }
  | none => { t with pc := t.pc + 4 }

/-- A taken transfer to `a` clears ACT of each active loop of the level whose kernel does not hold `a` (R81). -/
def Ctx.abandon (t : Ctx) (a : Word) : Ctx :=
  (List.range 4).foldl (fun t n =>
    let l := t.loopCtr n
    if l.act ∧ l.pl = t.pl ∧ ¬ (l.start ≤ a ∧ a ≤ l.last) then t.setLoop n { l with act := false } else t) t

/-- A return to LAST + 4 of an active loop of the level takes that loop's step (R82). -/
def Ctx.returnTo (t : Ctx) (a : Word) (req : Bool) : Ctx :=
  match t.loopAt (a - 4) with
  | some n => let (t', pc) := t.kernelBoundary n req; { t' with pc := pc }
  | none => { t with pc := a }

/-! ### From issue to completion -/

/-- What the body of a word answers: it completes (`done`; `stored` when its signals wait for its store, R106), goes
elsewhere (`goto` leaves the loops alone, `jump` is a transfer of R81, `ret` one of R82), completes and leaves the pc
as it set it (`stay`), parks without executing (`park`, R80), raises a trap (`own` for the cause of `sys`, `brk` and
`trap`, R342 item 15; `trapIn` for a write-back that stops part way, whose earlier lines stay written back, R236,
R269), or waits (`sent` for an access that is on its way, R106; `holdIn` for a shared-engine request, which has issued and waits for its answer, R106; `again` for
write-backs that have left and whose acknowledgement the word waits for before it issues once more, R236, R269). -/
inductive Res where
  | done (s : State)
  | stored (s : State)
  | goto (s : State) (a : Word)
  | jump (s : State) (a : Word)
  | ret (s : State) (a : Word)
  | stay (s : State)
  | park
  | trap (c : BitVec 5) (v : Word)
  | own (c : BitVec 5) (v : Word)
  | trapIn (s : State) (c : BitVec 5) (v : Word)
  | hold (w : Wait) (bound : Nat)
  | sent (s : State) (w : Wait)
  | holdIn (s : State) (w : Wait) (bound : Nat)
  | again (s : State) (w : Wait)

/-- The words that R81 calls control-transfer words: majors 0x06 to 0x0A and 0x19. -/
def isTransfer (i : Instr) : Bool :=
  let m := (encode i).extractLsb' 21 6
  (0x06#6 ≤ m && m ≤ 0x0a#6) || m = 0x19#6

/-- The word is counted as executed (R432, R368), and as one at U where it is (R350). -/
def State.retireAt (s : State) (c x : Nat) (atU : Bool) : State :=
  (s.updCtx c x (fun t => { t with
    stall := 0, reached := false, rendez := false, gotten := [], retired := t.retired + 1
    retiredU := if atU then t.retiredU + 1 else t.retiredU })).count c x 1 1
def State.retire (s : State) (c x : Nat) : State := s.retireAt c x ((s.ctx c x).pl = 0)

/-- The pre-emption request of a core (R79); one that wounds the task instead is none (R289). -/
def State.preReq (s : State) (c : Nat) : Bool :=
  match (s.core c).request with
  | some r => ! r.wound
  | none => false

/-- Completion of a word that does not transfer control: its results are written; its signals act (R106), it counts,
and the pc advances (R11, R78). -/
def finishWord (s : State) (c x : Nat) (k : Tk) : State :=
  ((s.retire c x).updCtx c x (fun t => t.advance (s.preReq c))).signals c x (signalFifos k x)

/-- A word that waited completes (R116): its token waits are popped, unless it had issued, and it finishes as an issued word
does. -/
def State.complete (s : State) (c x : Nat) (f : Ctx → Ctx) : State :=
  let k := (s.ctx c x).waitTk
  let fs := if (s.ctx c x).popped then [] else waitFifos k x
  finishWord ((s.popAll c x fs).updCtx c x (fun t => f t.unwait)) c x k

/-- The place of a wait in the order of a core's ring waits (R228): 2 · ring + 0 for a claim, + 1 for a wait. -/
def Wait.ringKey (w : Wait) : Option Nat :=
  match w with
  | .ringClaim _ n => some (2 * n)
  | .ringWait _ n => some (2 * n + 1)
  | _ => none

/-- A word waits: nothing of it has happened, and the wait holds its bound and what completes it (R116). -/
def State.holdAt (s : State) (c x : Nat) (k : Tk) (w : Wait) (bound : Nat) : State :=
  let s := match w.ringKey with
    | some key => s.updCore c (fun kc => { kc with ringWait := kc.ringWait.filter (fun (e : Nat × Nat) => e.2 ≠ x) ++ [(key, x)] })
    | none => s
  s.updCtx c x (fun t => { t with wait := some w, waitTk := k, bound := bound, stall := 0, waitAt := s.cc, popped := false })

/-- A word that has issued waits for what its access brings; its tokens are popped (R106). -/
def State.holdIssued (s : State) (c x : Nat) (k : Tk) (w : Wait) : State :=
  (s.holdAt c x k w 0).updCtx c x (fun t => { t with popped := true })

/-- What follows from the body's answer. `s` is the state at issue, for a trap leaves it (R20); the body ran with the
tokens of the wait bits popped. -/
def settle (s : State) (c x : Nat) (i : Instr) (k : Tk) (r : Res) : State :=
  let t := s.ctx c x
  let req := s.preReq c
  let word := wordVal i
  let nest3 := isTransfer i && (t.loopAt t.pc).isSome
  match nest3, r with
  | true, .trap cz v =>
    if Cause.beforeNest cz then takeTrap s c x cz v t.pc else takeTrap s c x Cause.nest (word ||| 0x300000000) t.pc
  | true, _ => takeTrap s c x Cause.nest (word ||| 0x300000000) t.pc
  | false, .trap cz v => takeTrap s c x cz v t.pc
  | false, .own cz v => takeTrap s c x cz v t.pc
  | false, .trapIn s' cz v => takeTrap (s'.unpop c x (waitFifos k x)) c x cz v t.pc
  | false, .done s' => finishWord s' c x k
  | false, .stored s' => finishWord s' c x Tk.none
  | false, .goto s' a =>
    ((s'.retire c x).updCtx c x (fun t => { t with pc := a })).signals c x (signalFifos k x)
  | false, .jump s' a =>
    ((s'.retire c x).updCtx c x (fun t => { t.abandon a with pc := a })).signals c x (signalFifos k x)
  | false, .ret s' a =>
    ((s'.retire c x).updCtx c x (fun t => t.returnTo a req)).signals c x (signalFifos k x)
  | false, .stay s' => (s'.retireAt c x (t.pl = 0)).signals c x (signalFifos k x)
  | false, .park => s.updCtx c x (fun t => { t.unwait with run := .parked })
  | false, .hold w b => s.holdAt c x k w b
  | false, .sent s' w => s'.holdIssued c x k w
  | false, .holdIn s' w b => s'.holdAt c x { k with wp := false, wn := false } w b
  | false, .again s' w => (s'.unpop c x (waitFifos k x)).holdAt c x k w 0

/-- The context is in the running set (R103). -/
def Ctx.inSet (t : Ctx) : Bool := t.run = .running || t.run = .failed

/-- The other contexts of the core that run (R104). -/
def Core.othersRun (k : Core) (x : Nat) : Bool := (List.range 4).any (fun y => y ≠ x && (k.getCtx y).inSet)

/-- A trap of a word that comes before its waits: ILL, PRIV, MISAL, SCOPE, PRED, NEST and FUT depend on the word and on what the context and its
launch fix alone, as does a transfer at LAST of an active loop (R100, R342; log 100). -/
def earlyTrap (t : Ctx) (i : Instr) (r : Res) : Bool :=
  (isTransfer i && (t.loopAt t.pc).isSome) || (match r with
    | .trap cz _ => [Cause.ill, Cause.priv, Cause.misal, Cause.scope, Cause.pred, Cause.nest, Cause.fut].contains cz
    | _ => false)

/-- One control word of the current context, from issue: its ranges (ILL, R49), its level (PRIV, R19), its token waits
and its rendezvous (R104, R106) unless its body raises an earlier cause (R342), and then its body. -/
def controlAt (lvl : BitVec 2) (i : Instr) (k : Tk) (s : State) (body : Nat → Nat → State → Res) : Out :=
  let c := s.cur.1
  let x := s.cur.2
  let t := s.ctx c x
  if i.wf = false then .next (settle s c x i k (.trap Cause.ill (wordVal i)))
  else if t.pl < lvl then .next (settle s c x i k (.trap Cause.priv (wordVal i)))
  else
    match emptyWait (s.core c) (waitFifos k x) with
    | some f => .next (if earlyTrap t i (body c x s) then settle s c x i k (body c x s) else s.holdAt c x k (.token f) t.gc)
    | none =>
      if k.y = true ∧ t.rendez = false ∧ (s.core c).othersRun x = true then
        if earlyTrap t i (body c x s) then .next (settle s c x i k (body c x s))
        else .next ((s.updCtx c x (fun t => { t with reached := true })).holdAt c x k .rendezvous t.gc)
      else .next (settle s c x i k (body c x (s.popAll c x (waitFifos k x))))

/-- A control word that runs at every level. -/
def control (i : Instr) (k : Tk) (s : State) (body : Nat → Nat → State → Res) : Out := controlAt 0 i k s body

/-- A word whose whole effect is `x[d] := f` of the context. -/
def regWord (i : Instr) (k : Tk) (d : Reg) (s : State) (f : Ctx → Word) : Out :=
  control i k s (fun c x s => .done (s.updCtx c x (fun t => t.wr d (f t))))

/-- Sign extension of a field to a word. -/
abbrev sx {w : Nat} (v : BitVec w) : Word := v.signExtend 64

end Sys2Proof.Machine
end

