-- ==== Sys2Proof/Machine/Operands.lean ====
section
/-!
DEFINITION. The operand forms of the scalar words: shift amounts, scaled offsets and element indexes, branch targets,
and the wait field (R39, R69, R90, R92).
-/
namespace Sys2Proof.Machine

/-- The address of a load or store: base register plus the offset in access widths (R90). -/
def offsetAddr (t : Ctx) (a : Reg) (i : BitVec 8) (w : Nat) : Word := t.rd a + sx i * wnat w

/-- The address of an indexed access: base plus eight times the element index (R92). -/
def indexAddr (t : Ctx) (a b : Reg) : Word := t.rd a + 8 * t.rd b

/-- A target counted in words from the branching word (R39). -/
def branchTarget {w : Nat} (t : Ctx) (o : BitVec w) : Word := t.pc + 4 * sx o

/-- A shift amount of a register operand: its low six bits (R64). -/
def shiftReg (v : Word) : Nat := wbits v 0 6

/-- The address is a multiple of `w` (R14). -/
def aligned (a : Word) (w : Nat) : Bool := a.toNat % w = 0

end Sys2Proof.Machine
end

