-- ==== Sys2Proof/Machine/Flags.lean ====
section
/-!
DEFINITION. The flags of a context and the status values that words leave: the busy predicate `bz` (R70), comparisons
(R64, R69), the writable fields of `ctx.status` (R26) and completion statuses (R113). The integer and scalar
floating-point words set no flag (R65, R87).
-/
namespace Sys2Proof.Machine

/-- `bz` of a context (R70). -/
def State.setBz (s : State) (c x : Nat) (b : Bool) : State := s.updCtx c x (fun t => { t with bz := b })

/-- A comparison's result in a register: 1 or 0 (R64). -/
def flagWord (b : Bool) : Word := if b then 1 else 0

/-- The three comparisons of the branches and of `slt`, `sltu` (R64, R69). -/
def ltS (a b : Word) : Bool := a.slt b
def ltU (a b : Word) : Bool := a.ult b

/-- A write of `ctx.status` at level `pl` (R26): SLE, SE, STIP and SPL at S and H; VB, HTIP and HPL at H only; a value
that SPL or HPL does not accept leaves that field; PL, FIP and the reserved bits stay. -/
def statusWrite (pl : BitVec 2) (old : BitVec 12) (v : Word) : BitVec 12 :=
  let st := putBits old 11 1 (wbits v 11 1)
  let st := putBits st 9 1 (wbits v 9 1)
  let st := putBits st 6 1 (wbits v 6 1)
  let st := if wbits v 2 2 ≤ 1 then putBits st 2 2 (wbits v 2 2) else st
  if pl = 2 then
    let st := putBits st 8 1 (wbits v 8 1)
    let st := putBits st 7 1 (wbits v 7 1)
    if wbits v 4 2 ≤ 2 then putBits st 4 2 (wbits v 4 2) else st
  else st

/-- A completion status (R113): INFO in bits 63:32, CODE in bits 7:0; codes 1 DONE, 2 SKIPPED, 3 ABANDONED, 4 FAULT. -/
def completion (code info : Nat) : Word := wnat (info % 2 ^ 32 * 2 ^ 32 + code)

abbrev codeDone : Nat := 1
abbrev codeSkipped : Nat := 2
abbrev codeAbandoned : Nat := 3
abbrev codeFault : Nat := 4

/-- A future slot filled with a value (R113), and emptied with its value kept. -/
def Core.fillSlot (k : Core) (n : Nat) (v : Word) : Core :=
  { k with pval := Map.set 0 k.pval n v, pfull := k.pfull ||| BitVec.ofNat 16 (2 ^ n) }
def Core.emptySlot (k : Core) (n : Nat) : Core := { k with pfull := k.pfull &&& ~~~ (BitVec.ofNat 16 (2 ^ n)) }
def Core.slotFull (k : Core) (n : Nat) : Bool := k.pfull.getLsbD n
def Core.slotVal (k : Core) (n : Nat) : Word := Map.get 0 k.pval n
def State.fillSlot (s : State) (c n : Nat) (v : Word) : State := s.updCore c (fun k => k.fillSlot n v)
def State.emptySlot (s : State) (c n : Nat) : State := s.updCore c (fun k => k.emptySlot n)

/-- An engine's fill of a slot, with the cc in which it happened: in that cc no word of a context comes after it (R113). -/
def State.engineFill (s : State) (c n : Nat) (v : Word) : State := (s.fillSlot c n v).updCore c (fun k => { k with filledAt := some s.cc })

end Sys2Proof.Machine
end

