-- ==== Sys2Proof/Machine/Points.lean ====
section
/-!
DEFINITION. Paddocks (R409), and packets at queuing points (R298 to R306): their forming, arbitration, waiting, and the move from one
point to the next.
-/
namespace Sys2Proof.Machine

/-- A valid paddock block, its sheds (those of BND.SHEDS) and its stacks (those of BND.STACKS, R409). -/
def Paddock.valid (p : Paddock) : Bool := p.pctl.getLsbD 63
def Paddock.sheds (p : Paddock) : Nat := wbits p.bnd 0 8
def Paddock.stacks (p : Paddock) : Nat := wbits p.bnd 8 8

/-- The block of the paddock that owns a core's shed. -/
def State.blkOf (s : State) (c : Nat) : Nat :=
  ((List.range 8).find? (fun b => (s.pdk b).valid && (s.pdk b).sheds.testBit (c / 4))).getD 0

/-- The block and the function for which a core runs (R122). -/
def State.coreBlk (s : State) (c : Nat) : Nat :=
  match (s.core c).task with
  | some t => t.blk
  | none => s.blkOf c
def State.coreVf (s : State) (c : Nat) : Nat :=
  match (s.core c).task with
  | some t => t.vf
  | none => 0

def State.point (s : State) (n : Nat) : Point := Map.get {} s.points n
def State.updPoint (s : State) (n : Nat) (f : Point → Point) : State := { s with points := Map.set {} s.points n (f (s.point n)) }

/-- A packet of one input and channel waits behind another that its target has not accepted. -/
def PtPkt.sameInput (p q : PtPkt) : Bool := p.input = q.input && p.vc = q.vc && q.acc.isNone

/-- A packet joins its input at a point in clock `at_`; its wait starts at 0 (R300). -/
def State.pushAt (s : State) (n : Nat) (p : PtPkt) (at_ : Nat) : State :=
  s.updPoint n (fun t =>
    let first := ! t.pkts.any (fun q => p.sameInput q)
    { t with pkts := t.pkts ++ [{ p with since := at_, waited := 0, begun := false, acc := none, head := if first then some at_ else none }] })
def State.pushPkt (s : State) (n : Nat) (p : PtPkt) : State := s.pushAt n { p with ring := false } s.cc

/-- The first packet of each input and channel is its head from now on. -/
def promote (cc : Nat) (before : List PtPkt) (l : List PtPkt) : List PtPkt :=
  match l with
  | [] => []
  | p :: r =>
    let p := if p.head.isNone && ! before.any (fun q => p.sameInput q) then { p with head := some (max cc p.since) } else p
    p :: promote cc (before ++ [p]) r

/-- The target of a point accepts the i-th packet, the request `p` (R299, R306). -/
def State.acceptPkt (s : State) (n i : Nat) (p : PtPkt) : State :=
  s.updPoint n (fun t => { t with pkts := promote s.cc [] (t.pkts.set i { p with acc := some s.cc }) })

/-- The i-th packet leaves a point. -/
def State.takePkt (s : State) (n i : Nat) : State :=
  s.updPoint n (fun t => { t with pkts := promote s.cc [] (t.pkts.eraseIdx i) })

/-- The arbitration key (R304). -/
def PtPkt.key (p : PtPkt) : Nat := (p.slack * 2 ^ 64 + p.head.getD 0) * 2 ^ 8 + p.input

/-- A packet goes before another at an arbiter: one whose flits are under way is sent whole, then the key decides (R304). -/
def PtPkt.before (p q : PtPkt) : Bool := if p.begun = q.begun then p.key < q.key else p.begun

/-- The head that an arbiter grants among those that qualify: its position (R304). -/
def Point.grant (t : Point) (ok : PtPkt → Bool) : Option Nat :=
  (List.range t.pkts.length).foldl (fun best i =>
    match t.pkts[i]? with
    | none => best
    | some p =>
      if p.head.isNone ∨ ok p = false then best
      else match best with
        | none => some i
        | some j => match t.pkts[j]? with
          | some q => if p.before q then some i else some j
          | none => some i) none

/-- Cells of a packet of `f` flits (R375). -/
def cellsOfFlits (f : Nat) : Nat := (f + 15) / 16

/-- The channel of a packet, by its type (R299). -/
def vcOf (ty : Nat) : Nat :=
  if ty = 4 ∨ ty = 5 ∨ ty = 7 ∨ ty = 11 then 1 else if ty = 12 then 2 else if ty = 14 then 3 else 0

/-- The type of the reply to a request (R298, R299). -/
def replyTy (ty : Nat) : Nat := if ty = 0 ∨ ty = 2 then 4 else if ty = 6 then 7 else if ty = 10 then 11 else 5

/-- The header of a packet of package `spkg` (R298, R383); a packet that stays in the package has no link-layer fields. -/
def PtPkt.header (p : PtPkt) (spkg : Nat) : List Word :=
  [wnat (p.ty + p.vc * 2 ^ 4 + p.e.toNat * 2 ^ 6 + p.slack * 2 ^ 8 + p.floor * 2 ^ 20 + p.cls * 2 ^ 32 + p.len * 2 ^ 36 + p.tag * 2 ^ 48),
   wnat (spkg + p.sstop.getD p.src * 2 ^ 6 + p.core * 2 ^ 12 + p.ctx * 2 ^ 17 + p.unit * 2 ^ 19 + p.dpkg * 2 ^ 23 + p.dstop.getD p.dst * 2 ^ 29 +
     p.pdk * 2 ^ 35 + p.vf * 2 ^ 41), p.adr, p.ts, p.age, p.arg0, p.arg1, p.link]

/-- The words of a packet that leaves the package. -/
def PtPkt.words (p : PtPkt) : List Word := p.header p.spkg ++ p.data

/-- Flits of a packet with `n` bytes of payload. -/
def flitsOf (n : Nat) : Nat := 1 + (n + 63) / 64

/-- A packet for core `c`'s context `x`, with its paddock and function. -/
def State.ofCore (s : State) (c x : Nat) (p : PtPkt) : PtPkt :=
  { p with
    vc := vcOf p.ty, blk := s.coreBlk c, pdk := wbits (s.pdk (s.coreBlk c)).pctl 40 6, vf := s.coreVf c, core := c, ctx := x
    spkg := s.pkg.toNat, dpkg := s.pkg.toNat, cells := cellsOfFlits (flitsOf p.len) }

/-- The ports of a domain route entry, in order. -/
def routePorts (e : Word) : List Nat := (List.range (wbits e 48 2 + 1)).map (fun i => wbits e (8 * i) 5)

/-- The port on which a packet for a package leaves: entry[(SSTOP + ADDR[8:7]) mod n] over the ready ports. -/
def State.routePort (s : State) (dpkg sstop addr : Nat) : Option Nat :=
  let e := Map.get 0 s.routes (dpkg % 64)
  let ready := (routePorts e).filter (fun p => p < 18 && s.rdy0.getLsbD (18 + p))
  if e.getLsbD 63 = false ∨ ready = [] then none else ready[(sstop + bits addr 7 2) % ready.length]?

/-- The number of what a packet is sent for: the word of a context, or the command that the packet names (R307). -/
def State.pktSeq (s : State) (c x : Nat) (p : PtPkt) : Nat := if p.unit = 0 then (s.ctx c x).retired.toNat else p.seq

/-- A request of a core, with its class and the slack entry `e` that was read with it (R302), and the requester's tag (R298; its value is the model's
choice, log 132). An arbiter's inputs are numbered (DESIGN CHOICE, log 133): contexts 0 to 3 and then the engines at a core's port. -/
def State.reqPkt (s : State) (c x cls : Nat) (e : BitVec 28) (p : PtPkt) : PtPkt :=
  { s.ofCore c x p with
    src := c / 4, input := if p.unit = 0 then x else 3 + p.unit, cls := cls, slack := bits e.toNat 0 12, floor := bits e.toNat 16 12
    seq := s.pktSeq c x p, tag := (16 * s.pktSeq c x p + p.unit) % 2 ^ 16 }

/-- A request is formed at a core's outbound port (R302). -/
def State.form (s : State) (c x cls : Nat) (e : BitVec 28) (p : PtPkt) : State := s.pushPkt (64 + c) (s.reqPkt c x cls e p)

/-- A request of a context, of the class in its `ctx.slk`. -/
def State.formAs (s : State) (c x : Nat) (p : PtPkt) : State :=
  let t := s.ctx c x
  s.form c x t.slk.toNat (t.skEntry t.slk.toNat) p


/-- The queue of a packet at its destination (R300): of the home, the port or the requester at a stop, or of the loft, the XCE or the SFE there. -/
def PtPkt.queue (p : PtPkt) : Nat :=
  if 18 ≤ p.dst then 192 + p.dst
  else if p.ty = 6 ∨ (p.ty = 10 ∧ p.kind = 8) then 300 + p.dst
  else if p.ty = 10 then 336 + 36 * (p.kind % 2) + p.dst
  else 192 + p.dst

/-- The stop at which a point is a queue. -/
def queueStop (n : Nat) : Option Nat :=
  if 192 ≤ n ∧ n < 228 then some (n - 192) else if 300 ≤ n ∧ n < 408 then some ((n - 300) % 36) else none

/-- A packet that a stop sends enters the stop's injection arbiter, or the queue of a unit of its own stop (R300). -/
def State.sendFrom (s : State) (p : PtPkt) : State :=
  if p.dst = p.src then s.pushPkt p.queue { p with input := 2 } else s.pushPkt (128 + p.src) { p with input := 4 }

/-- The space of an exit buffer: its destination stop, channel and paddock (R376). -/
def PtPkt.exitKey (p : PtPkt) : Nat := (p.dst * 4 + p.vc) * 8 + p.blk % 8

/-- Flits of exit-buffer space at a destination for a channel and a paddock: those of a packet at least (R376). -/
def exitRoom (key : Nat) : Nat := 17 + Config.freeExit key

/-- A stop holds credit for a packet (R376). -/
def State.exitCredit (s : State) (p : PtPkt) : Bool := Map.get 0 s.exitUse p.exitKey + flitsOf p.len ≤ exitRoom p.exitKey

/-- The exit-buffer space that a packet has held is free: its credit returns to its source on the control channel, that of a control packet with the
channel's own return (R376). -/
def State.leaveExit (s : State) (p : PtPkt) : State :=
  if p.ring = false then s
  else if p.vc = 3 then { s with exitUse := Map.upd 0 s.exitUse p.exitKey (· - flitsOf p.len) }
  else s.sendFrom { ty := 14, vc := 3, kind := 15, src := p.dst, dst := p.src, blk := p.blk, pdk := p.pdk, vf := p.vf, spkg := s.pkg.toNat, dpkg := s.pkg.toNat
                    arg0 := wnat (flitsOf p.len), arg1 := wnat p.exitKey }

/-- Offset bits 40:19. -/
def offPage (off : Nat) : Nat := bits off 19 22

def State.shed (s : State) (j : Nat) : Shed := Map.get {} s.sheds j
def State.updShed (s : State) (j : Nat) (f : Shed → Shed) : State := { s with sheds := Map.set {} s.sheds j (f (s.shed j)) }

/-- The hint for a domain access of a core (R381). -/
def State.hintFor (s : State) (c pkg off : Nat) : Option Hint :=
  (s.shed (c / 4)).hints.find? (fun h => h.opkg = pkg && h.opage = offPage off)

/-- A shed's cache without the hint of a page. -/
def State.dropHint (s : State) (c pkg off : Nat) : State :=
  s.updShed (c / 4) (fun d => { d with hints := d.hints.filter (fun h => ! (h.opkg = pkg && h.opage = offPage off)) })

/-- Where a domain access is sent: package, ADDR, and whether a hint says so (R379 to R381). A hint that names this package, or one that no route
leads to, is not used (log 134). -/
def State.aim (s : State) (c stop pkg off : Nat) : Nat × Nat × Bool :=
  let plain := (pkg, 2 ^ 47 + pkg % 64 * 2 ^ 41 + off % 2 ^ 41, false)
  match s.hintFor c pkg off with
  | some h =>
    let a := (if h.tgt then 2 ^ 63 else 0) + h.npage * 2 ^ 19 + off % 2 ^ 19
    if h.npkg ≠ s.pkg.toNat ∧ (s.routePort h.npkg stop a).isSome then (h.npkg, a, true) else plain
  | none => plain

/-- The port on which a domain access of a core leaves from a stop; nothing where its package cannot be reached (R382). -/
def State.reach (s : State) (c stop pkg off : Nat) : Option Nat :=
  let a := s.aim c stop pkg off
  s.routePort a.1 stop a.2.1

/-- A packet for another package leaves its stop for its port's (R382), and the model's outbox has its words (log 26). -/
def State.sendOut (s : State) (p : PtPkt) : State := { s.sendFrom p with outbox := s.outbox ++ [(p.dpkg, p.words)] }

/-- The LINK field of a request that leaves the package: its first hop, redirects, level and hint (R382, R383). -/
def reqLink (lvl fwd : Nat) (hint : Bool) (mark : Nat) : Word := wnat (2 ^ 32 + fwd % 4 * 2 ^ 35 + lvl % 4 * 2 ^ 42 + hint.toNat * 2 ^ 46 + mark)

/-- A request that leaves for another package (R298, R379, R381 to R383), from a core's port, or from the stop of a unit: its packet goes to the port of
the route, and the model's outbox holds the header and the payload (log 26). Nothing leaves where no route leads there. -/
def State.sendReq (s : State) (c x cls : Nat) (e : BitVec 28) (p : PtPkt) (lvl pkg off : Nat) (data : List Word) (mark : Nat := 0) (fwd : Nat := 0)
    (stop : Option Nat := none) : State :=
  let from_ := stop.getD (c / 4)
  let a := s.aim c from_ pkg off
  match s.routePort a.1 from_ a.2.1 with
  | none => s
  | some port =>
    let p := { s.reqPkt c x cls e { p with dst := 18 + port, adr := wnat a.2.1, len := 8 * data.length } with
      src := from_, dpkg := a.1 % 64, link := reqLink lvl fwd a.2.2 mark, data := data }
    let s := { s with farReqs := s.farReqs.filter (fun (q : PtPkt) => ! (q.core = c && q.ctx = x && q.tag = p.tag && q.addr = p.addr)) ++ [p] }
    match stop with
    | some _ => s.sendOut p
    | none => { s.pushPkt (64 + c) p with outbox := s.outbox ++ [(p.dpkg, p.words)] }

/-- A control message from one stop to another, about a core's task (R290, R299). -/
def State.sendCtl (s : State) (c src dst : Nat) : State :=
  s.sendFrom { s.ofCore c 0 { ty := 14, dst := dst } with src := src }

/-- The context whose word moves, for what a core does on its behalf (log 116). -/
def State.causer (s : State) (c : Nat) : Nat := if s.cur.1 = c then s.cur.2 else 0

/-- ARG0 of an AMO of `w` bytes (R298, log 26): the operation, bit 5 for 8 bytes, and a 4-byte operand in the upper half; the payload carries one of 8. -/
def amoArg (op w : Nat) (v : Word) : Word := wnat (op % 32 + (if w = 8 then 32 else wbits v 0 32 * 2 ^ 32))

/-- The slack and E of a reply that is formed `t` cc after its request was accepted (R306). -/
def replySlack (p : PtPkt) (t : Nat) : Nat × Bool :=
  if p.e then (p.floor, true)
  else if p.floor + (t + 15) / 16 ≤ p.slack then (p.slack - (t + 15) / 16, false)
  else (p.floor, false)

/-- A unit of 16 cc at a point (R303): the packet, and whether it sets E there. A control message is not slack-arbitrated, a
packet of a save sequence (kind 13) sets none, and the time in service is not waiting (R299, R300, R358). -/
def PtPkt.waitUnit (p : PtPkt) : PtPkt × Bool :=
  if p.vc = 3 ∨ p.acc.isSome ∨ p.kind = 13 then ({ p with waited := p.waited + 1 }, false)
  else
  let sl := p.slack - 1
  ({ p with slack := sl, e := p.e || sl = 0, waited := p.waited + 1 }, sl = 0 && ! p.e)

end Sys2Proof.Machine
end

