-- ==== Sys2Proof/Machine/Mem.lean ====
section
/-!
DEFINITION. The levels of memory as the scalar words reach them: homes, translation, the L1 with its dirty-line FIFO,
the pen, and reading and writing through them (R13 to R17, R238 to R251).
-/
namespace Sys2Proof.Machine

/-! ### Homes (R244): bytes of package memory and behind the host port, by physical address -/

/-- One byte of memory. An unlisted address reads 0 (log 2). -/
def State.byteAt (s : State) (pa : Nat) : Byte := Map.get 0 s.mem pa

def State.setByte (s : State) (pa : Nat) (v : Byte) : State := { s with mem := Map.set 0 s.mem pa v }

/-- The little-endian number in `n` bytes from `pa` (R8). -/
def State.homeRead (s : State) (pa n : Nat) : Nat :=
  match n with
  | 0 => 0
  | m + 1 => (s.byteAt pa).toNat + 256 * s.homeRead (pa + 1) m

/-- The `n` low bytes of `v` into memory from `pa`, little-endian (R8). -/
def State.homeWrite (s : State) (pa n v : Nat) : State :=
  match n with
  | 0 => s
  | m + 1 => (s.setByte pa (BitVec.ofNat 8 v)).homeWrite (pa + 1) m (v / 256)

/-- One 128-byte line of a home. -/
def State.homeLine (s : State) (ln : Nat) : Line := BitVec.ofNat 1024 (s.homeRead (128 * ln) 128)

/-- The bytes of `l` that `keep` does not keep written at the home. -/
def State.homeBytes (s : State) (ln : Nat) (l keep : Line) : State :=
  (List.range 128).foldl (fun s j =>
    if keep.getLsbD (8 * j) then s else s.setByte (128 * ln + j) (BitVec.ofNat 8 (bits l.toNat (8 * j) 8))) s

/-- The words of `l` that `mask` names written at the home (a byte mask in units of words, R240). -/
def State.homeWords (s : State) (ln : Nat) (l : Line) (mask : BitVec 32) : State :=
  (List.range 32).foldl (fun s j =>
    if mask.getLsbD j then s.homeWrite (128 * ln + 4 * j) 4 (bits l.toNat (32 * j) 32) else s) s

/-- Poison is kept by 4-byte word (R242, R244). -/
def State.wordPoison (s : State) (pa : Nat) : Bool := Map.get false s.poison (pa / 4)
def State.linePoison (s : State) (ln : Nat) : BitVec 32 :=
  (List.range 32).foldl (fun m j => if s.wordPoison (128 * ln + 4 * j) then m ||| BitVec.ofNat 32 (2 ^ j) else m) 0
def State.setPoison (s : State) (ln : Nat) (mask : BitVec 32) (b : Bool) : State :=
  if mask = 0 then s
  else { s with poison := (List.range 32).foldl (fun m j =>
    if mask.getLsbD j then Map.set false m (32 * ln + j) b else m) s.poison }

/-- A home's write timestamp and lease end for a line (R244, R247); behind the host port, the host block's table with
its floor (R416). -/
def State.hcLine (s : State) (ln : Nat) : HcLine :=
  if ln < 2 ^ 40 then Map.get {} s.hc ln
  else match s.hostHc.find? (fun e => e.1 = ln) with
    | some e => e.2
    | none => { wts := s.hostFloor, rts := s.hostFloor }

def State.setHcLine (s : State) (ln : Nat) (h : HcLine) : State :=
  if ln < 2 ^ 40 then { s with hc := Map.set {} s.hc ln h }
  else
    let t := s.hostHc.filter (fun e => e.1 ≠ ln)
    if t.length < Config.hostHcLen then { s with hostHc := t ++ [(ln, h)] }
    else match t with
      | [] => { s with hostHc := [(ln, h)] }
      | e :: r => { s with hostHc := r ++ [(ln, h)], hostFloor := if s.hostFloor < e.2.rts then e.2.rts else s.hostFloor }

def maxW (a b : Word) : Word := if a < b then b else a

/-- The largest program timestamp of a core's contexts (R247). -/
def Core.maxPts (k : Core) : Word := (List.range 4).foldl (fun m x => maxW m (k.getCtx x).pts) 0

/-- A lease that the home chooses, from 8 to 255 units (R247, log 10). -/
def State.leaseUnits (s : State) : Nat := 8 + (Config.freeLease s.free).toNat % 248

/-- A load that fetches at the home (R247): the home raises rts; answers wts and rts. -/
def State.hcFetch (s : State) (ln : Nat) (pts : Word) : State × HcLine :=
  let h := s.hcLine ln
  let h' := { h with rts := maxW h.rts (pts + wnat s.leaseUnits) }
  ({ s.setHcLine ln h' with free := s.free + 1 }, h')

/-- A store at the home with program timestamp `pts` (R247); answers the new timestamp. -/
def State.hcStore (s : State) (ln : Nat) (pts : Word) : State × Word :=
  let w := maxW pts ((s.hcLine ln).rts + 1)
  (s.setHcLine ln ⟨w, w⟩, w)

/-- A write that no context performs (R247): wts := rts + 1, rts := wts. -/
def State.hcAnon (s : State) (ln : Nat) : State × Word :=
  let w := (s.hcLine ln).rts + 1
  (s.setHcLine ln ⟨w, w⟩, w)

/-! ### Paddocks and interleave ranges (R409, R410) -/

/-- The stack numbers of a range, ascending. -/
def stackList (m : Nat) : List Nat := (List.range 8).filter (fun j => m.testBit j)

/-- The home of a physical address in one interleave range: stack and address inside it (R410). A place past the 96 GB of a
stack (R7) is no home (log 99). -/
def ilvHome (p : Paddock) (i pa : Nat) : Option (Nat × Nat) :=
  let d0 := Map.get 0 p.ilv (3 * i)
  let d1 := Map.get 0 p.ilv (3 * i + 1)
  let d2 := Map.get 0 p.ilv (3 * i + 2)
  let base := wbits d0 19 29 * 2 ^ 19
  let size := wbits d1 19 29 * 2 ^ 19
  let st := stackList (wbits d1 56 8)
  if d0.getLsbD 63 ∧ base ≤ pa ∧ pa < base + size ∧ st ≠ [] then
    let g := 7 + wbits d1 52 4
    let n := (pa - base) / 2 ^ g
    let at_ := wbits d2 7 33 * 128 + n / st.length * 2 ^ g + (pa - base) % 2 ^ g
    match st[n % st.length]? with
    | some k => if at_ < Config.stackBytes then some (k, at_) else none
    | none => none
  else none

/-- The home stack of a physical address under a paddock's ranges: the first match in ascending order (R410). -/
def homeStack (p : Paddock) (pa : Nat) : Option (Nat × Nat) :=
  (List.range 8).findSome? (fun i => ilvHome p i pa)

/-- The stack whose loft is home of a physical address, for a core's paddock (R275). -/
def State.loftOf (s : State) (c pa : Nat) : Nat :=
  match homeStack (s.pdk (s.coreBlk c)) pa with
  | some (k, _) => k
  | none => 8

/-- The Yard stop of a physical address's home: the stop beside its stack, or that of the host block (R298). -/
def State.homeStop (s : State) (c pa : Nat) : Nat := if 2 ^ 47 ≤ pa then 16 else 8 + s.loftOf c pa

/-- The packet of an access at a home (R298, R302). -/
def State.homePkt (s : State) (c x pa : Nat) (p : PtPkt) : State :=
  s.formAs c x { p with dst := s.homeStop c pa, adr := wnat (2 ^ 63 + pa) }

/-- The context, slack class and entry for what a core's access forces (R302): those of the access that is computed, else of the context whose word
moves (log 116). -/
def State.forcer (s : State) (c : Nat) : Nat × Nat × BitVec 28 :=
  let x := s.causer c
  let t := s.ctx c x
  let plain := (x, t.slk.toNat, t.skEntry t.slk.toNat)
  match s.cause with
  | some (d, r) => if d = c then r else plain
  | none => plain

/-- A packet of the save sequence, which class 16 of its cause marks: no point sets E on it, and it writes no event (R358). -/
def PtPkt.saved (p : PtPkt) (k : Nat) : PtPkt := if k = 16 then { p with kind := 13, noted := true } else p

/-- The packet of a write-back or a merging fill that an access forces (R302). -/
def State.forcedPkt (s : State) (c pa : Nat) (p : PtPkt) : State :=
  let (x, k, e) := s.forcer c
  s.form c x (k % 16) e ({ p with dst := s.homeStop c pa, adr := wnat (2 ^ 63 + pa) }.saved k)

/-- The effects of an access of a core's context, with its class (R302). -/
def State.under (s : State) (c x k : Nat) (e : BitVec 28) (f : State → State) : State :=
  { f { s with cause := some (c, x, k, e) } with cause := s.cause }

/-! ### Translation (R13, R249 to R251, R379) -/

/-- What an access needs of its page (R250). -/
inductive Need where
  | read | write | exec
deriving DecidableEq, Repr

/-- A leaf at level `lvl` breaks a rule of R250. -/
def leafBad (pte lvl : Nat) : Bool :=
  let cls := bits pte 2 2
  (! pte.testBit 0) || bits pte 48 9 ≠ 0 || bits pte 10 4 ≠ 0 || pte.testBit 4 ||
    (cls ≠ 3 && bits pte 57 7 ≠ 0) || (cls ≠ 2 && bits pte 14 5 ≠ 0) ||
    (cls = 3 && pte.testBit 57 && bits pte 58 6 ≠ 0) ||
    (lvl = 2 && bits pte 19 12 ≠ 0) || (lvl = 1 && bits pte 19 6 ≠ 0) ||
    (pte.testBit 6 && ! pte.testBit 5) || (pte.testBit 9 && 2 ≤ cls)

/-- The page of a leaf at each level, as a power of two (R249). -/
def pageLog (lvl : Nat) : Nat := if lvl = 2 then 31 else if lvl = 1 then 25 else 19

/-- Index bits of each level: where they start and how many (R249). -/
def idxLo (lvl : Nat) : Nat := if lvl = 3 then 40 else if lvl = 2 then 31 else if lvl = 1 then 25 else 19
def idxLen (lvl : Nat) : Nat := if lvl = 3 then 7 else if lvl = 2 then 9 else 6

/-- The walk of R249 from the table at `tbl`: the leaf and its level, or nothing where an entry is invalid or uncorrectable. The
fuel is the level. -/
def State.walk (s : State) (lvl tbl va : Nat) : Option (Nat × Nat) :=
  let at_ := tbl + 8 * bits va (idxLo lvl) (idxLen lvl)
  let pte := s.homeRead at_ 8
  if pte.testBit 0 = false ∨ s.wordPoison at_ ∨ s.wordPoison (at_ + 4) then none
  else if pte.testBit 1 then (if lvl = 3 ∨ leafBad pte lvl then none else some (pte, lvl))
  else if pte / 2 ^ 48 ≠ 0 ∨ bits pte 2 7 ≠ 0 then none
  else match lvl with
    | 0 => none
    | m + 1 => s.walk m (bits pte 9 39 * 512) va

/-- The walk meets an entry whose data is uncorrectable: every access to a poisoned line raises ECC (R244). -/
def State.walkPoison (s : State) (lvl tbl va : Nat) : Bool :=
  let at_ := tbl + 8 * bits va (idxLo lvl) (idxLen lvl)
  let pte := s.homeRead at_ 8
  if s.wordPoison at_ || s.wordPoison (at_ + 4) then true
  else if pte.testBit 0 = false ∨ pte.testBit 1 ∨ pte / 2 ^ 48 ≠ 0 ∨ bits pte 2 7 ≠ 0 then false
  else match lvl with
    | 0 => false
    | m + 1 => s.walkPoison m (bits pte 9 39 * 512) va

/-- The cause of an access whose walk ends without a leaf, or meets poison (R244, R250). -/
def State.walkCause (s : State) (tbl va : Nat) : BitVec 5 := if s.walkPoison 3 tbl va then Cause.ecc else Cause.xlat

/-- A TLB entry that holds a page of the function (R252): the leaf and its level. -/
def tlbFind (l : List TlbEntry) (vf va : Nat) : Option (Nat × Nat) :=
  match l.find? (fun e => e.vf = vf && e.page = va / 2 ^ pageLog e.size) with
  | some e => some (e.pte.toNat, e.size)
  | none => none

/-- The level-3 table of a function (R249). -/
def State.rootOf (s : State) (vf : Nat) : Nat := wbits (s.func vf).vfroot 10 38 * 1024

/-- The leaf for a package-local address: from the core's TLB, the shed's, or a walk from the function's root
(R249, R252). -/
def State.leafOf (s : State) (c vf va : Nat) : Option (Nat × Nat) :=
  match tlbFind (s.core c).tlb vf va with
  | some e => some e
  | none =>
    match tlbFind (Map.get {} s.sheds (c / 4)).tlb vf va with
    | some e => some e
    | none => s.walk 3 (s.rootOf vf) va

/-- The permissions of a leaf for an access at level U or not (R250). -/
def leafAllows (pte : Nat) (n : Need) (atU : Bool) : Bool :=
  (match n with
    | .read => pte.testBit 5
    | .write => pte.testBit 6
    | .exec => pte.testBit 7) && (! atU || pte.testBit 8)

/-- The physical address that a leaf gives. -/
def leafPa (pte lvl va : Nat) : Nat := bits pte 19 29 * 2 ^ 19 + va % 2 ^ pageLog lvl

/-- A physical address is behind the host port (R249) or inside the paddock's ranges (R250). -/
def paOk (p : Paddock) (pa : Nat) : Bool := 2 ^ 47 ≤ pa || (homeStack p pa).isSome

/-- The block that takes a domain access of this package's own paddock `b` (R379). -/
def State.ownTaker (s : State) (b : Nat) : Nat :=
  let me := wbits (s.pdk b).pctl 40 6
  ((List.range 8).find? (fun j =>
    let d := Map.get 0 (s.pdk j).djob s.pkg.toNat
    j ≠ b && (s.pdk j).valid && d.getLsbD 63 && wbits d 0 6 = me)).getD b

/-- A domain offset translated through a paddock's domain root (R379), following forwarding leaves while fewer than
two redirects are counted (R380). No copy of a domain-space line is kept, so the place is a memory-side one. -/
def State.domainPlace (s : State) (fuel : Nat) (blk off : Nat) (n : Need) (atU : Bool) : Tr :=
  match fuel with
  | 0 => .bad Cause.fwdx
  | f + 1 =>
    let p := s.pdk blk
    match s.walk 3 (wbits p.droot 10 38 * 1024) off with
    | none => .bad (s.walkCause (wbits p.droot 10 38 * 1024) off)
    | some (pte, lvl) =>
      let cls := bits pte 2 2
      if leafAllows pte n atU = false ∨ cls = 2 then .bad Cause.prot
      else if cls = 3 then
        if pte.testBit 57 then (if f = 0 then .bad Cause.fwdx else .ok (.phys (leafPa pte lvl off) 3 true))
        else if bits pte 58 6 = s.pkg.toNat then s.domainPlace f (s.ownTaker blk) (leafPa pte lvl off % 2 ^ 41) n atU
        else if f = 0 then .bad Cause.fwdx
        else .ok (.remote (bits pte 58 6) (leafPa pte lvl off % 2 ^ 41))
      else if paOk p (leafPa pte lvl off) then .ok (.phys (leafPa pte lvl off) (BitVec.ofNat 2 cls) true)
      else .bad Cause.prot

/-- Where a domain-space access of a core goes (R379): the own package's paddock, or another package. -/
def State.domainTr (s : State) (c pkg off : Nat) (n : Need) (atU : Bool) : Tr :=
  if pkg = s.pkg.toNat then s.domainPlace 3 (s.ownTaker (s.coreBlk c)) off n atU
  else .ok (.remote pkg off)

/-- A place that the host port serves: behind the host port, or through a leaf with TGT = 1 (R251, R416). Its answer may fail. -/
def hostPlace (pa : Nat) (cls : BitVec 2) : Bool := 2 ^ 47 ≤ pa || cls = 3

/-- Redirects that the own package has made when a domain offset leaves it (R380): its FWD leaves on the way. -/
def State.fwdChain (s : State) (fuel blk off : Nat) : Nat :=
  match fuel with
  | 0 => 0
  | f + 1 => match s.walk 3 (wbits (s.pdk blk).droot 10 38 * 1024) off with
    | some (pte, lvl) =>
      if bits pte 2 2 ≠ 3 ∨ pte.testBit 57 then 0
      else if bits pte 58 6 = s.pkg.toNat then 1 + s.fwdChain f (s.ownTaker blk) (leafPa pte lvl off % 2 ^ 41)
      else 1
    | none => 0

/-- The FWD count with which an access of a core leaves the package. -/
def State.fwdOf (s : State) (c : Nat) (va : Word) : Nat :=
  let a := va.toNat
  let own (off : Nat) : Nat := s.fwdChain 2 (s.ownTaker (s.coreBlk c)) off
  if a.testBit 47 then (if bits a 41 6 = s.pkg.toNat then own (bits a 0 41) else 0)
  else match s.leafOf c (s.coreVf c) a with
    | some (pte, lvl) => if bits pte 2 2 = 3 ∧ ¬ pte.testBit 57 ∧ bits pte 58 6 = s.pkg.toNat then own (leafPa pte lvl a % 2 ^ 41) else 0
    | none => 0

/-- Translation of a virtual address for a core, in the order of R29: XLAT before PROT. A target of a TGT = 1 leaf takes no check
of its own, wherever its address lies (R251; log 104). -/
def State.translate (s : State) (c : Nat) (va : Word) (n : Need) (atU : Bool) : Tr :=
  let a := va.toNat
  if bits a 48 16 ≠ 0 then .bad Cause.xlat
  else if a.testBit 47 then
    if n = .exec then .bad Cause.xlat else s.domainTr c (bits a 41 6) (bits a 0 41) n atU
  else
    match s.leafOf c (s.coreVf c) a with
    | none => .bad (s.walkCause (s.rootOf (s.coreVf c)) a)
    | some (pte, lvl) =>
      let cls := bits pte 2 2
      if leafAllows pte n atU = false ∨ (cls = 2 ∧ bits pte 14 5 ≠ c) then .bad Cause.prot
      else if cls = 3 then
        if pte.testBit 57 then .ok (.phys (leafPa pte lvl a) 3 true)
        else s.domainTr c (bits pte 58 6) (leafPa pte lvl a % 2 ^ 41) n atU
      else if paOk (s.pdk (s.coreBlk c)) (leafPa pte lvl a) then
        .ok (.phys (leafPa pte lvl a) (BitVec.ofNat 2 cls) (pte.testBit 9))
      else .bad Cause.prot

/-- The access is a domain-space one or goes through a forwarding leaf (R286). -/
def State.unbuffered (s : State) (c : Nat) (va : Word) : Bool :=
  let a := va.toNat
  a.testBit 47 || (match s.leafOf c (s.coreVf c) a with
    | some (pte, _) => bits pte 2 2 = 3
    | none => false)

/-! ### The L1 (R238 to R246) -/

def Core.line (k : Core) (ln : Nat) : Option L1Line := Map.get none k.l1 ln
def Core.setLine (k : Core) (ln : Nat) (l : Option L1Line) : Core := { k with l1 := Map.set none k.l1 ln l }

/-- The word mask of `w` bytes at an address: the words of its line that the access touches. -/
def wordMask (pa w : Nat) : BitVec 32 :=
  BitVec.ofNat 32 ((2 ^ ((pa % 4 + w + 3) / 4) - 1) * 2 ^ (pa % 128 / 4))

/-- Bit masks of words widened to the bits of a line. -/
def lineMask (m : BitVec 32) : Line :=
  (List.range 32).foldl (fun l j => if m.getLsbD j then l ||| BitVec.ofNat 1024 (0xffffffff * 2 ^ (32 * j)) else l) 0

/-- `new` in the words that `m` names, `old` elsewhere. -/
def mergeWords (old new : Line) (m : BitVec 32) : Line := (old &&& ~~~ lineMask m) ||| (new &&& lineMask m)

/-- The block number of the line `ln` alone (R238). -/
def singleBlk (ln : Nat) : Nat := 128 * ln + 1
def blkFirst (b : Nat) : Nat := b / 128
def blkLen (b : Nat) : Nat := b % 128
def blkLines (b : Nat) : List Nat := (List.range (blkLen b)).map (fun i => blkFirst b + i)

/-- The dirty words of a cached line go to its home, poison with them, and the line is clean and leaves the FIFO
(R240, R242, R246). -/
def State.writeBackLine (s : State) (c ln : Nat) : State :=
  match (s.core c).line ln with
  | none => s
  | some l =>
    if l.dirty = 0 then s
    else
      let s := (s.homeWords ln l.data l.dirty).setPoison ln (l.dirty &&& l.poison) true
      let s := s.forcedPkt c (128 * ln) { ty := 1, kind := 1, len := 128 }
      s.updCore c (fun k => { k.setLine ln (some { l with dirty := 0 }) with dfifo := k.dfifo.filter (· ≠ 2 * ln) })

/-- A line leaves the L1: its dirty words are written back first (R240). -/
def State.evictLine (s : State) (c ln : Nat) : State :=
  (s.writeBackLine c ln).updCore c (fun k => k.setLine ln none)

/-- Every line of a block leaves the L1. -/
def State.evictBlk (s : State) (c b : Nat) : State :=
  ((blkLines b).foldl (fun s ln =>
    match (s.core c).line ln with
    | some l => if l.blk = b then s.evictLine c ln else s
    | none => s) s).updCore c (fun k => { k with blkUse := k.blkUse.filter (· ≠ b) })

/-- The words of a line that hold no store of the core are invalid: a load of them after an acquire fetches anew (R261). -/
def L1Line.onlyDirty (l : L1Line) : L1Line := { l with valid := l.dirty, poison := l.poison &&& l.dirty }

/-- A line that is invalid. Its place stays part of a block of more than one line (R238). -/
def L1Line.dropped (l : L1Line) : Option L1Line :=
  if blkLen l.blk ≤ 1 then none else some { l with valid := 0, dirty := 0, poison := 0 }
def Core.dropLine (k : Core) (ln : Nat) : Core :=
  match k.line ln with
  | none => k
  | some l => k.setLine ln l.dropped

/-- The lines that `p` names are invalid. -/
def Core.dropLines (k : Core) (p : Nat → L1Line → Bool) : Core :=
  { k with l1 := k.l1.filterMap (fun e =>
    match e.2 with
    | some l => if p e.1 l then l.dropped.map (fun d => (e.1, some d)) else some e
    | none => some e) }

/-- The block whose line a way of the set of line `ln` holds (R238: the set is bits 14:7 of the physical address). -/
def Core.wayHolds (k : Core) (ln w : Nat) : Option Nat :=
  k.l1.findSome? (fun e =>
    match e.2 with
    | some l => if e.1 % 256 = ln % 256 ∧ l.way = w then some l.blk else none
    | none => none)

/-- A way holds no line of another block in the sets of block `b`. -/
def Core.wayFree (k : Core) (b w : Nat) : Bool :=
  (blkLines b).all (fun ln => match k.wayHolds ln w with
    | some o => o = b
    | none => true)

/-- Ways that hold blocks: ways 10 and 11 are the pen of a task whose launch declares sets (R239). -/
def Core.ways (k : Core) : Nat :=
  match k.task with
  | some t => if t.sets = [] then 12 else 10
  | none => 12

/-- The other blocks in a way of the sets of block `b` leave it. -/
def State.clearWay (s : State) (c b w : Nat) : State :=
  (blkLines b).foldl (fun (s : State) ln =>
    match (s.core c).wayHolds ln w with
    | some o => if o = b then s else s.evictBlk c o
    | none => s) s

/-- A way for the lines of a block, which lie in the same way of consecutive sets (R238): a free one, else one whose blocks are
evicted; which one is not architectural (R240, log 12). -/
def State.makeRoom (s : State) (c b : Nat) : State × Nat :=
  match (List.range (s.core c).ways).find? ((s.core c).wayFree b) with
  | some w => (s, w)
  | none =>
    let w := (Config.freeVictim s.free).toNat % (s.core c).ways
    (({ s with free := s.free + 1 } : State).clearWay c b w, w)

/-- The blocks in the pen's ways leave them: a task whose launch declares sets starts (R239). -/
def State.clearPenWays (s : State) (c : Nat) : State :=
  (s.core c).l1.foldl (fun (s : State) e =>
    match (s.core c).line e.1 with
    | some l => if (s.core c).ways ≤ l.way then s.evictBlk c l.blk else s
    | none => s) s

/-- A multi-line block is used now (R238: the one used least recently is evicted when no entry is free). -/
def Core.touch (k : Core) (b : Nat) : Core :=
  if blkLen b ≤ 1 then k else { k with blkUse := k.blkUse.filter (· ≠ b) ++ [b] }

/-- Every context of a core sets pts to at least a completion timestamp (R247). -/
def State.raisePts (s : State) (c : Nat) (ts : Word) : State :=
  s.updCore c (fun k => (List.range 4).foldl (fun k x => k.updCtx x (fun t => { t with pts := maxW t.pts ts })) k)

/-- The lines of a block have their places in one way: those that are present keep their words, and the others are new, every
word invalid (R241). -/
def State.allocBlk (s : State) (c b : Nat) (cls : BitVec 2) : State :=
  let (s, w) := s.makeRoom c b
  s.updCore c (fun k => (blkLines b).foldl (fun (k : Core) ln =>
    k.setLine ln (match k.line ln with
      | some l => some { l with blk := b, way := w }
      | none => some { cls := cls, blk := b, way := w })) k)

/-- A line of the L1 that is present, or a new block of that line alone with every word invalid (R240). -/
def State.allocLine (s : State) (c ln : Nat) (cls : BitVec 2) : State :=
  match (s.core c).line ln with
  | some _ => s
  | none => s.allocBlk c (singleBlk ln) cls

/-- Fill one line from its home: the words that are not valid, or, on an HC page, the whole line with a new lease for
the timestamp `pts` (R240, R247). Answers the pts after the fetch. -/
def State.fillLine (s : State) (c ln : Nat) (cls : BitVec 2) (pts : Word) : State × Word :=
  let s := s.allocLine c ln cls
  match (s.core c).line ln with
  | none => (s, pts)
  | some l =>
    let home := s.homeLine ln
    let hp := s.linePoison ln
    if cls = 0 then
      let (s', h) := s.hcFetch ln pts
      (s'.updCore c (fun k => k.setLine ln (some { l with
        data := home, valid := 0xffffffff, poison := hp, rts := h.rts, wts := h.wts, cls := cls })), maxW pts h.wts)
    else
      (s.updCore c (fun k => k.setLine ln (some { l with
        data := mergeWords home l.data l.valid, valid := 0xffffffff
        poison := (l.poison &&& l.valid) ||| (hp &&& ~~~ l.valid) })), pts)

/-- A merging fill of the block that holds a line, or of the line alone (R240). -/
def State.fillBlk (s : State) (c x ln : Nat) (cls : BitVec 2) : State :=
  let blk := match (s.core c).line ln with
    | some l => l.blk
    | none => singleBlk ln
  let s := s.updCore c (fun k => k.touch blk)
  let r := (blkLines blk).foldl (fun (r : State × Word) l => r.1.fillLine c l cls r.2) (s, (s.ctx c x).pts)
  r.1.updCtx c x (fun t => { t with pts := r.2 })

/-- A load of the words `m` of a line hits: every word valid and, on an HC page, a lease that covers pts (R240, R246). -/
def State.l1Hit (s : State) (c x ln : Nat) (m : BitVec 32) : Bool :=
  match (s.core c).line ln with
  | some l => (l.valid &&& m) = m && (l.cls ≠ 0 || (s.ctx c x).pts ≤ l.rts)
  | none => false

/-- A line enters the dirty-line FIFO; a full FIFO writes back its oldest entry first (R246). A window line whose translation fails then
stays dirty without a place there (log 117). -/
def State.enterFifo (s : State) (c e : Nat) (drain : State → Nat → State) : State :=
  if (s.core c).dfifo.contains e then s
  else
    let s := if (s.core c).dfifo.length < Config.dirtyFifoLen then s
      else match (s.core c).dfifo with
        | o :: _ => (drain s o).updCore c (fun k => { k with dfifo := k.dfifo.filter (· ≠ o) })
        | [] => s
    s.updCore c (fun k => { k with dfifo := k.dfifo ++ [e] })

/-- Lines of 128 bytes as doublewords. -/
def lineDwords (l : Line) : List Word := (List.range 16).map (fun j => wnat (bits l.toNat (64 * j) 64))

/-- The byte mask of the bytes that a write does not leave. -/
def byteMask (keep : Line) : Nat :=
  (List.range 128).foldl (fun n j => if keep.getLsbD (8 * j) then n else n + 2 ^ j) 0

/-- The request with which a window line leaves for another package, with its byte mask (R236, R379). -/
def State.lineReq (s : State) (c : Nat) (va : Word) (pkg off : Nat) (data keep : Line) : State :=
  let m := byteMask keep
  let (x, k, e) := s.forcer c
  s.sendReq c x (k % 16) e ({ ty := 1, kind := 3, addr := va, arg0 := wnat (m % 2 ^ 64), arg1 := wnat (m / 2 ^ 64) : PtPkt }.saved k)
    1 pkg off (lineDwords data) (fwd := s.fwdOf c va)

/-- A window line leaves for another package, and is on its way until it is answered (R236, R379). -/
def State.sendLine (s : State) (c w i : Nat) (va : Word) (pkg off : Nat) (data keep : Line) : State :=
  (s.lineReq c va pkg off data keep).updCore c (fun k => { k with
    away := k.away ++ [{ va := va, pkg := pkg, off := off, data := data, keep := keep, win := w, idx := i, since := s.cc }] })

/-- A dirty stash-window line goes to the home that its virtual address has now, whole (R235), and the line is clean. Entry
2 · (65536 · w + index) + 1 of the FIFO. A line of another package leaves as a message. -/
def State.writeBackWin (s : State) (c w i : Nat) : State :=
  let k := s.core c
  let wn := Map.get {} k.wins w
  match Map.get none wn.lines i with
  | none => s
  | some l =>
    if l.dirty = false ∨ wn.ro then s
    else
      let data := Map.get 0 k.spad (wn.addr / 128 + i)
      let va := wn.gb + wnat (128 * i)
      match s.translate c va .write false with
      | .bad _ => s
      | .ok p =>
        let s := match p with
          | .phys pa _ _ =>
            (s.homeWords (pa / 128) data 0xffffffff).forcedPkt c pa { ty := 1, kind := 3, len := 128, addr := va }
          | .remote pkg off => s.sendLine c w i va pkg off data 0
        s.updCore c (fun k => { k with
          wins := Map.set {} k.wins w { wn with lines := Map.set none wn.lines i (some { l with dirty := false }) }
          dfifo := k.dfifo.filter (· ≠ 2 * (65536 * w + i) + 1) })

/-- One entry of the dirty-line FIFO is written back. -/
def State.drainEntry (s : State) (c e : Nat) : State :=
  if e % 2 = 0 then s.writeBackLine c (e / 2) else s.writeBackWin c (e / 2 / 65536) (e / 2 % 65536)

/-- A store of `w` bytes into the L1 (R240): an access of 4 or 8 bytes makes its words valid; one of 1 or 2 bytes
whose word is not valid makes a merging fill first. -/
def State.l1Store (s : State) (c x pa w : Nat) (v : Nat) (cls : BitVec 2) : State :=
  let ln := pa / 128
  let m := wordMask pa w
  let have_ := match (s.core c).line ln with
    | some l => (l.valid &&& m) = m
    | none => false
  let s := if w < 4 ∧ have_ = false then (s.forcedPkt c pa { kind := 1, rlen := 128 }).fillBlk c x ln cls else s.allocLine c ln cls
  match (s.core c).line ln with
  | none => s
  | some l =>
    let s := s.updCore c (fun k => (k.setLine ln (some { l with
      data := putBits l.data (8 * (pa % 128)) (8 * w) v
      valid := l.valid ||| m, dirty := l.dirty ||| m
      poison := if w < 4 then l.poison else l.poison &&& ~~~ m })).touch l.blk)
    if cls = 1 then s.enterFifo c (2 * ln) (fun s e => s.drainEntry c e) else s

/-- The words of a line that a store makes valid in the core's own HC copy, at the store's timestamp (R240, R246, R247). -/
def State.hcCopy (s : State) (c ln : Nat) (m : BitVec 32) (wts : Word) : State :=
  match (s.core c).line ln with
  | none => s
  | some l => s.updCore c (fun k => (k.setLine ln (some { l with
      data := s.homeLine ln, valid := m, poison := s.linePoison ln, cls := 0, rts := wts, wts := wts })).touch l.blk)

/-- A store at the home (HC written through, MS, and a place without copies): with its timestamp on an HC page. `alloc` for a
store word, whose written words become valid in the L1, a partial word after a merging fill (R240); of an atomic operation only a
copy that is present takes the words. -/
def State.homeStore (s : State) (c x pa w : Nat) (v : Nat) (cls : BitVec 2) (ms alloc : Bool) : State :=
  let ln := pa / 128
  let m := wordMask pa w
  if cls ≠ 0 then s.homeWrite pa w v
  else
    let have_ := match (s.core c).line ln with
      | some l => (l.valid &&& m) = m
      | none => false
    let s := if alloc && ! ms && w < 4 && ! have_ then (s.forcedPkt c pa { kind := 1, rlen := 128 }).fillBlk c x ln cls else s
    let (s, wts) := (s.homeWrite pa w v).hcStore ln (s.ctx c x).pts
    let s := s.updCtx c x (fun t => { t with pts := wts })
    if ms then s else (if alloc then s.allocLine c ln cls else s).hcCopy c ln m wts

/-- The task of the core is irrevocable: its stores go straight to memory (R286). -/
def Core.direct (k : Core) : Bool :=
  match k.task with
  | some t => t.irrev
  | none => false

/-- A store straight to memory of a page that the L1 may hold: the home takes it, and the core's own copy takes it too,
clean where all of a word is written (R286). -/
def State.directStore (s : State) (c pa w v : Nat) : State :=
  let ln := pa / 128
  let m := wordMask pa w
  let s := s.homeWrite pa w v
  match (s.core c).line ln with
  | none => s
  | some l =>
    let l' : L1Line := { l with
      data := putBits l.data (8 * (pa % 128)) (8 * w) v
      valid := if w < 4 then l.valid else l.valid ||| m
      dirty := if w < 4 then l.dirty else l.dirty &&& ~~~ m
      poison := if w < 4 then l.poison else l.poison &&& ~~~ m }
    s.updCore c (fun k => { (k.setLine ln (some l')).touch l.blk with
      dfifo := if l'.dirty = 0 then k.dfifo.filter (· ≠ 2 * ln) else k.dfifo })

/-- Performing a store at its place, when it is local (R240, R246, R257, R286). -/
def State.placeStore (s : State) (c x : Nat) (p : Place) (w : Nat) (v : Nat) : State :=
  match p with
  | .remote _ _ => s
  | .phys pa cls ms =>
    if ms ∨ cls = 0 ∨ cls = 3 then s.homeStore c x pa w v cls ms true
    else if (s.core c).direct then s.directStore c pa w v
    else s.l1Store c x pa w v cls

/-- An access of class `k` leaves the core (R298, R302): as a packet for its home in this package, with the timestamp of an HC access, or as
a request for another package, with its own timestamp. -/
def State.sendBy (s : State) (c x k : Nat) (e : BitVec 28) (lvl : Nat) (p : PtPkt) (place : Place) (data : List Word) : State :=
  match place with
  | .phys pa cls ms => s.form c x k e { p with
      dst := s.homeStop c pa, adr := wnat (2 ^ 63 + pa), ts := if cls = 0 ∧ ms = false then (s.ctx c x).pts else 0 }
  | .remote pkg off => s.sendReq c x k e p lvl pkg off data (fwd := s.fwdOf c p.addr)

/-- A store behind the host port leaves its virtual address with the line that the L1 holds of it. -/
def State.noteVa (s : State) (c : Nat) (p : Place) (va : Word) : State :=
  match p with
  | .phys pa _ _ =>
    if pa < 2 ^ 47 then s
    else match (s.core c).line (pa / 128) with
      | some l => s.updCore c (fun k => k.setLine (pa / 128) (some { l with va := va }))
      | none => s
  | .remote _ _ => s

/-- Perform the oldest pending store of a context; its signals then act (R106, R345). -/
def State.performStore (s : State) (c x : Nat) : State :=
  match (s.ctx c x).stores with
  | [] => s
  | p :: r =>
    let s := s.updCtx c x (fun t => { t with stores := r })
    ((s.placeStore c x p.place p.w p.data.toNat).noteVa c p.place p.va).signals c x (signalFifos p.tk x)

/-- Every earlier store of a context is performed, in order. -/
def State.drainStores (s : State) (c x : Nat) : State :=
  (List.range (s.ctx c x).stores.length).foldl (fun s _ => s.performStore c x) s

/-- An access of a context leaves, of the class in its `ctx.slk`. One for another package carries the context's program timestamp, since its page there may
be HC, and its earlier stores are performed first (R258). -/
def State.sendAccess (s : State) (c x : Nat) (p : PtPkt) (place : Place) (data : List Word) : State :=
  let s := match place with
    | .remote _ _ => s.drainStores c x
    | .phys _ _ _ => s
  let t := s.ctx c x
  s.sendBy c x t.slk.toNat (t.skEntry t.slk.toNat) t.pl.toNat { p with ts := t.pts } place data

/-- The packet of a store that is performed at its home (R302). -/
def State.storePkt (s : State) (c x : Nat) (va : Word) (w : Nat) (p : Place) : State :=
  match p with
  | .phys _ cls ms => if ms ∨ cls = 0 ∨ cls = 3 then s.sendAccess c x { ty := 1, kind := 1, len := w, addr := va } p [] else s
  | .remote _ _ => s

/-! ### Reading through the levels -/

/-- The bytes that a context's own pending stores give, over a line (R15). -/
def overlayStores (l : Line) (ln : Nat) (ss : List PStore) : Line :=
  ss.foldl (fun l p =>
    match p.place with
    | .phys pa _ _ => if pa / 128 = ln then putBits l (8 * (pa % 128)) (8 * p.w) p.data.toNat else l
    | .remote _ _ => l) l

/-- The words that the pen holds, over a line (R281). -/
def Core.overlayPen (k : Core) (l : Line) (ln : Nat) : Line :=
  match Map.get none k.pen ln with
  | some p => mergeWords l p.data p.valid
  | none => l

/-- The words of a line that the pen holds. -/
def Core.penWords (k : Core) (ln : Nat) : BitVec 32 :=
  match Map.get none k.pen ln with
  | some p => p.valid
  | none => 0

/-- The pen gives every word of an access. -/
def Core.penCovers (k : Core) (ln : Nat) (m : BitVec 32) : Bool := (k.penWords ln &&& m) = m && (Map.get none k.pen ln).isSome

/-- The line as the context sees it below its own stores: the L1 copy where valid, else the home. -/
def Core.viewLine (k : Core) (s : State) (ln : Nat) : Line × BitVec 32 :=
  match k.line ln with
  | some l => (mergeWords (s.homeLine ln) l.data l.valid, (l.poison &&& l.valid) ||| (s.linePoison ln &&& ~~~ l.valid))
  | none => (s.homeLine ln, s.linePoison ln)

/-- The bytes of a line that a context's own pending stores give (R15). -/
def storeCover (ln : Nat) (ss : List PStore) : BitVec 128 :=
  ss.foldl (fun (m : BitVec 128) p =>
    match p.place with
    | .phys pa _ _ => if pa / 128 = ln then m ||| BitVec.ofNat 128 ((2 ^ p.w - 1) * 2 ^ (pa % 128)) else m
    | .remote _ _ => m) 0

/-- The value of `w` bytes at a physical address as context x reads it now, and whether a byte of it that neither its own stores
nor the pen give is poisoned (R15, R281). -/
def State.readView (s : State) (c x pa w : Nat) (copies : Bool) : Nat × Bool :=
  let ln := pa / 128
  let k := s.core c
  let (base, poi) := if copies then k.viewLine s ln else (s.homeLine ln, s.linePoison ln)
  let l := overlayStores (k.overlayPen base ln) ln (s.ctx c x).stores
  let cover := storeCover ln (s.ctx c x).stores
  let bad (b : Nat) : Bool := poi.getLsbD (b / 4) && ! (k.penWords ln).getLsbD (b / 4) && ! cover.getLsbD b
  (bits l.toNat (8 * (pa % 128)) (8 * w), (List.range w).any (fun i => bad (pa % 128 + i)))

/-- The copies and timestamps that a load leaves behind when it is performed: a merging fill on a miss; on a
memory-side HC page, a fetch at the home (R240, R245, R247). On an HC page the context's earlier stores are performed first, and a
hit raises pts to the write timestamp of the copy too, since the load comes after those stores in the order of R258. -/
def State.loadFill (s : State) (c x pa w : Nat) (cls : BitVec 2) (ms : Bool) : State :=
  let ln := pa / 128
  let m := wordMask pa w
  let s := if cls = 0 then s.drainStores c x else s
  if (s.core c).penCovers ln m then s
  else if ms ∨ cls = 3 then
    if cls = 0 then
      let (s, h) := s.hcFetch ln (s.ctx c x).pts
      s.updCtx c x (fun t => { t with pts := maxW t.pts h.wts })
    else s
  else if s.l1Hit c x ln m then
    match (s.core c).line ln with
    | some l =>
      let s := s.updCore c (fun k => k.touch l.blk)
      if l.cls = 0 then s.updCtx c x (fun t => { t with pts := maxW t.pts l.wts }) else s
    | none => s
  else (s.fillBlk c x ln cls).count c x 5 1

/-- A load performed now at a place of this package: the value, its poison, and the state it leaves. -/
def State.loadNow (s : State) (c x pa w : Nat) (cls : BitVec 2) (ms : Bool) : State × Nat × Bool :=
  let s := s.loadFill c x pa w cls ms
  (s, s.readView c x pa w (! ms && cls ≠ 3))

/-- The clean words of an SW line of the L1 are invalid, so that a fill brings them anew. -/
def Core.forget (k : Core) (ln : Nat) : Core :=
  match k.line ln with
  | some l => if l.cls = 1 then k.setLine ln (some l.onlyDirty) else k
  | none => k

/-- What an instruction-cache miss reads: through the L1, which it fills where a load would fill it (R17, R240, R247). Clean words of an SW line and
leased HC lines are fetched anew, so that a fetch after an `invi` of any scope sees every store that is visible to the core (R17, log 135). -/
def State.codeFill (s : State) (c x pa : Nat) (cls : BitVec 2) (ms : Bool) (va : Word) : State × Nat × Bool :=
  let ln := pa / 128
  let s := if ms ∨ cls = 3 then s else s.updCore c (fun k => k.forget ln)
  let s := if ms ∨ cls = 3 ∨ (cls ≠ 0 ∧ s.l1Hit c x ln (wordMask pa 4)) then s
    else (s.homePkt c x pa { kind := 4, rlen := 128, addr := va }).fillBlk c x ln cls
  (s, s.readView c x pa 4 (! ms && cls ≠ 3))

/-! ### The pen (R281) -/

/-- The task of the core declares atomic sets, and is not irrevocable: its stores go to the pen. -/
def Core.penned (k : Core) : Bool :=
  match k.task with
  | some t => t.sets ≠ [] && ! t.irrev
  | none => false

/-- A new pen line for `ln` would be one too many (R286). -/
def Core.penFull (k : Core) (ln : Nat) : Bool :=
  (Map.get none k.pen ln).isNone && Config.penLines ≤ k.pen.length

/-- A store into the pen: nothing is fetched, except that a store of 1 or 2 bytes to a word that is not valid first
reads that word through the normal path (R281); nothing where that read is uncorrectable. -/
def State.penStore (s : State) (c x : Nat) (va : Word) (pa w v : Nat) (cls : BitVec 2) : Option State :=
  let ln := pa / 128
  let m := wordMask pa w
  let wide : Bool := 4 ≤ w || (s.core c).penCovers ln m
  let r := if wide then (s, 0, false) else s.loadNow c x (pa / 4 * 4) 4 cls false
  if r.2.2 then none
  else
    let k := r.1.core c
    let old := match Map.get none k.pen ln with
      | some p => p
      | none => { cls := cls }
    let base := if wide then old.data else putBits old.data (32 * (pa / 4 % 32)) 32 r.2.1
    some (r.1.setCore c { k with pen := Map.set none k.pen ln (some { old with
      data := putBits base (8 * (pa % 128)) (8 * w) v, valid := old.valid ||| m, cls := cls, va := va }) })

/-! ### Lots (R275 to R277) -/

/-- The set of a task that holds an address, by number. -/
def Task.setOf (t : Task) (va : Word) : Option Nat :=
  (List.range t.sets.length).find? (fun i =>
    match t.sets[i]? with
    | some st => st.base ≤ va.toNat && va.toNat < st.base + st.size
    | none => false)

/-- The virtual address of the lot that holds an address, and the logarithm of its size (R275). -/
def Task.lotOf (t : Task) (i : Nat) (va : Word) : Nat × Nat :=
  match t.sets[i]? with
  | some st => (st.base + (va.toNat - st.base) / 2 ^ st.lotlog * 2 ^ st.lotlog, st.lotlog)
  | none => (va.toNat, 7)

/-- The task of core c holds the lot with this key. -/
def State.holdsLot (s : State) (c key log : Nat) : Bool :=
  s.lots.any (fun l => l.key = key && l.log = log && l.core = c)

/-- What a scalar access to `va` must do about atomic sets before it goes on (R276, R277, R286). -/
inductive LotStep where
  | go
  | prot
  | lot (set : Nat)
  | token
deriving DecidableEq, Repr

def State.lotStep (s : State) (c : Nat) (va : Word) (cls : BitVec 2) (ms : Bool) : LotStep :=
  match (s.core c).task with
  | none => .go
  | some t =>
    match t.setOf va with
    | none => .go
    | some i =>
      if ms ∨ 2 ≤ cls then .prot
      else if 8 ≤ t.restarts ∧ t.irrev = false then .token
      else
        let (lv, lg) := t.lotOf i va
        match s.translate c (wnat lv) .read false with
        | .ok (.phys pa _ _) => if s.holdsLot c pa lg then .go else .lot i
        | _ => .lot i

end Sys2Proof.Machine
end

