-- ==== Sys2Proof/Machine/Hints.lean ====
section
/-!
DEFINITION. The forwarding hint caches of the sheds (R381): what a redirected reply installs, and the second attempt after a hinted
home has failed.
-/
namespace Sys2Proof.Machine

/-! ### Hints (R381) -/

/-- A reply that makes the shed drop a hint. -/
def replyFails (r : Reply) : Bool :=
  match r with
  | .xlat => true
  | .prot => true
  | .unreachable => true
  | _ => false

/-- A hint is installed or used: it is the one used most recently, and of more than 256 the least recent goes. -/
def State.putHint (s : State) (c : Nat) (h : Hint) : State :=
  s.updShed (c / 4) (fun d =>
    let l := d.hints.filter (fun g => ! (g.opkg = h.opkg && g.opage = h.opage)) ++ [h]
    { d with hints := l.drop (l.length - Config.hintLen) })

/-- A successful answer to a domain access: ARG1 with V = 1 installs a hint (R380). -/
def State.noteReply (s : State) (c pkg off : Nat) (arg1 : Word) : State :=
  if arg1.getLsbD 63 then
    s.putHint c ⟨arg1.getLsbD 62, pkg, offPage off, wbits arg1 56 6, wbits arg1 19 29⟩
  else match s.hintFor c pkg off with
    | some h => s.putHint c h
    | none => s

/-- A failing answer of a hinted home: the hint is dropped and the access is sent once more, so it still waits. -/
def State.secondTry (s : State) (c pkg off : Nat) (r : Reply) : Option State :=
  if replyFails r ∧ (s.hintFor c pkg off).isSome then some (s.dropHint c pkg off) else none

/-- The same for an access by virtual address. -/
def State.retryAt (s : State) (c : Nat) (va : Word) (n : Need) (atU : Bool) (r : Reply) : Option State :=
  match s.translate c va n atU with
  | .ok (.remote pkg off) => s.secondTry c pkg off r
  | _ => none
def State.noteAt (s : State) (c : Nat) (va : Word) (n : Need) (atU : Bool) (r : Reply) : State :=
  match s.translate c va n atU, r with
  | .ok (.remote pkg off), .value _ a _ => s.noteReply c pkg off a
  | _, _ => s

end Sys2Proof.Machine
end

