-- ==== Sys2Proof/Machine/Csr.lean ====
section
/-!
DEFINITION. Control and status registers (R51 to R53, R94, R95) with the field maps of R26, R27, R85, R115, R117, R123,
R126, R133, R143, R149, R256, R301, R307, R346, R366 and R367.
-/
namespace Sys2Proof.Machine

/-! ### What the configuration registers read (R126, R128) -/

/-- The enabled cores of a paddock block, ascending. -/
def State.pdkCores (s : State) (b : Nat) : List Nat :=
  (List.range Config.numCores).filter (fun c => s.fuses.getLsbD c && (s.pdk b).sheds.testBit (c / 4))

/-- The time counter's integer nanoseconds (R128, R406). -/
def State.timeNs (s : State) : Word := wnat (s.time / 2 ^ 32)

/-- Position of a core among the enabled cores of its paddock. -/
def State.coreRank (s : State) (c : Nat) : Nat := ((s.pdkCores (s.coreBlk c)).filter (· < c)).length

/-! ### Performance counters (R367) -/

/-- The physical counter bound to counter `n` of context `x`. -/
def Core.perfIdx (k : Core) (x n : Nat) : Option Nat :=
  (List.range 16).find? (fun j =>
    match Map.get none k.perfBind j with
    | some b => b.ctx = x && b.num = n
    | none => false)

def Core.perfFree (k : Core) : Option Nat :=
  (List.range 16).find? (fun j => (Map.get none k.perfBind j).isNone)

/-- `perf.ctlN` as read: EN, BOUND and EVENT. -/
def Core.perfCtl (k : Core) (x n : Nat) : Word :=
  let v := Map.get 0 (k.getCtx x).perfCtl n
  let bound := (k.perfIdx x n).isSome
  wnat (bits v.toNat 0 8 + (if bound then 2 ^ 15 + 2 ^ 14 else 0))

/-- A write of `perf.ctlN`: EN = 1 binds the lowest free counter, which counts from 0; EN = 0 frees it; a reserved event
code leaves EVENT. EN = 1 for a counter that is bound already keeps its count: DESIGN CHOICE, the spec does not say whether it restarts
(log 129). -/
def Core.perfWrite (k : Core) (x n : Nat) (v : Word) : Core :=
  let old := Map.get 0 (k.getCtx x).perfCtl n
  let ev := if wbits v 0 8 < 14 then wbits v 0 8 else bits old.toNat 0 8
  let k := k.updCtx x (fun t => { t with perfCtl := Map.set 0 t.perfCtl n (BitVec.ofNat 16 ev) })
  match k.perfIdx x n with
  | some j =>
    if v.getLsbD 15 then { k with perfBind := Map.set none k.perfBind j (some ⟨x, n, ev⟩) }
    else { k with perfBind := Map.set none k.perfBind j none, perf := Map.set 0 k.perf j 0 }
  | none =>
    if v.getLsbD 15 then
      match k.perfFree with
      | some j => { k with perfBind := Map.set none k.perfBind j (some ⟨x, n, ev⟩), perf := Map.set 0 k.perf j 0 }
      | none => k
    else k

/-! ### Numbers, levels and access (R51 to R53) -/

/-- A CSR number that R52 assigns. -/
def csrKnown (n : Nat) : Bool :=
  n ≤ 3 || n = 8 || n = 9 || n = 0x10 || n = 0x11 || (0x18 ≤ n && n ≤ 0x1b) || n = 0x20 || n = 0x21 ||
    (0x40 ≤ n && n ≤ 0x60) && (n ≤ 0x4f || 0x50 ≤ n) || (0x70 ≤ n && n ≤ 0x84) || (0x90 ≤ n && n ≤ 0x9f) ||
    (0x100 ≤ n && n ≤ 0x102)

/-- A CSR that is read-only at level `pl` (R52; RC counts as read-only, R95). -/
def csrReadOnly (n : Nat) (pl : BitVec 2) : Bool :=
  n = 0x10 || n = 0x11 || (0x18 ≤ n && n ≤ 0x1b) || n = 0x20 || n = 0x21 || (0x70 ≤ n && n ≤ 0x7f && pl = 0)

/-- The bank that a trap CSR names at the current level (R22). -/
def Ctx.bank (t : Ctx) : Bank := if t.pl = 2 ∧ t.vb = false then t.hBank else t.sBank
def Ctx.setBank (t : Ctx) (b : Bank) : Ctx :=
  if t.pl = 2 ∧ t.vb = false then { t with hBank := b } else { t with sBank := b }

/-- The oldest entry of the event log, with LOST (R307); 0 when the log is empty. -/
def Ctx.evHead (t : Ctx) : Word :=
  match t.evlog with
  | [] => 0
  | e :: _ => if t.evLost then e ||| 0x4000000000000000 else e

/-- The value of a CSR for a context; a read has no effect but for `evlog` (R95). -/
def csrValue (s : State) (c x n : Nat) : Word :=
  let k := s.core c
  let t := k.getCtx x
  let b := t.bank
  match n with
  | 0x000 => t.fvec
  | 0x001 => t.fepc
  | 0x002 => t.slk.setWidth 64
  | 0x003 => t.gwait.setWidth 64
  | 0x008 => t.vround.setWidth 64
  | 0x009 => t.vseed.setWidth 64
  | 0x010 => match k.task with
    | some tk => tk.stamp
    | none => 0
  | 0x011 => t.evHead
  | 0x018 => wnat (s.pdkCores (s.coreBlk c)).length
  | 0x019 => wnat (s.coreRank c * 256 + c)
  | 0x01a => wnat (c / 4)
  | 0x01b => s.pkg.setWidth 64
  | 0x020 => s.timeNs
  | 0x021 => (s.pdk (s.coreBlk c)).frame
  | 0x060 => t.bktOvf
  | 0x080 => t.status.setWidth 64
  | 0x081 => b.tvec
  | 0x082 => b.epc
  | 0x083 => b.cause.setWidth 64
  | 0x084 => b.tval
  | 0x100 => k.frzMax.setWidth 64
  | 0x101 => k.scopeClamp
  | 0x102 => k.sliceClamp
  | _ =>
    if n < 0x50 then (t.skEntry (n - 0x40)).setWidth 64
    else if n < 0x58 then Map.get 0 t.bktBound (n - 0x50)
    else if n < 0x60 then Map.get 0 t.bktAddr (n - 0x58)
    else if n < 0x80 then (match k.perfIdx x (n - 0x70) with
      | some j => Map.get 0 k.perf j
      | none => 0)
    else k.perfCtl x (n - 0x90)

/-- The effect that a read has: `evlog` loses its oldest entry and the lost flag (R307). -/
def csrReadEffect (s : State) (c x n : Nat) : State :=
  if n = 0x11 then s.updCtx c x (fun t => { t with evlog := t.evlog.tail, evLost := false }) else s

/-- Address fields of CSRs: bits 47:2. -/
def addrMask : Word := 0x0000fffffffffffc

/-- A write of `vxe.round` (R143): SAT, and RM where the value is one of the five. -/
def vroundWrite (old : BitVec 5) (v : Word) : BitVec 5 :=
  let r := putBits old 4 1 (wbits v 4 1)
  if wbits v 0 3 ≤ 4 then putBits r 0 3 (wbits v 0 3) else r

/-- A write of a CSR at the current level: only the fields that are RW there take the value (R94), and a value that a
field does not accept leaves it. -/
def csrWrite (s : State) (c x n : Nat) (v : Word) : State :=
  let set (f : Ctx → Ctx) : State := s.updCtx c x f
  let bank (f : Bank → Bank) : State := set (fun t => t.setBank (f t.bank))
  match n with
  | 0x000 => set (fun t => { t with fvec := v &&& addrMask })
  | 0x001 => set (fun t => { t with fepc := v &&& addrMask })
  | 0x002 => set (fun t => { t with slk := v.setWidth 4 })
  | 0x003 => set (fun t => { t with gwait := v.setWidth 24 })
  | 0x008 => set (fun t => { t with vround := vroundWrite t.vround v })
  | 0x009 => set (fun t => { t with vseed := v.setWidth 16, seedSet := true })
  | 0x060 => set (fun t => { t with bktOvf := v &&& addrMask })
  | 0x080 => set (fun t => { t with status := statusWrite t.pl t.status v })
  | 0x081 => bank (fun b => { b with tvec := v &&& 0x0000ffffffffff01 })
  | 0x082 => bank (fun b => { b with epc := v &&& 0xfffffffffffffffc })
  | 0x083 => bank (fun b => { b with cause := v.setWidth 5 })
  | 0x084 => bank (fun b => { b with tval := v })
  | 0x100 => if 2400 ≤ wbits v 0 32 then s.updCore c (fun k => { k with frzMax := v.setWidth 32 }) else s
  | 0x101 => s.updCore c (fun k => { k with scopeClamp := v })
  | 0x102 => s.updCore c (fun k => { k with sliceClamp := v })
  | _ =>
    if n < 0x50 then set (fun t => { t with sk := Map.set 0x0400400 t.sk (n - 0x40) (v.setWidth 28 &&& 0xfff0fff) })
    else if n < 0x58 then set (fun t => { t with bktBound := Map.set 0 t.bktBound (n - 0x50) (v &&& 0x80000000ffffffff) })
    else if n < 0x60 then set (fun t => { t with bktAddr := Map.set 0 t.bktAddr (n - 0x58) (v &&& addrMask) })
    else if n < 0x80 then (match (s.core c).perfIdx x (n - 0x70) with
      | some j => s.updCore c (fun k => { k with perf := Map.set 0 k.perf j v })
      | none => s)
    else s.updCore c (fun k => k.perfWrite x (n - 0x90) v)

/-- The minimum level of a CSR: bits 8:7 of its number (R51). -/
def csrLevel (n : Nat) : BitVec 2 := BitVec.ofNat 2 (n / 128)

/-- The checks of a CSR word, in the order of R29: ILL for a number that is not assigned (R51) and for a write form on
a read-only CSR (R53), then PRIV (R19). -/
def csrCheck (n : Nat) (pl : BitVec 2) (writes : Bool) : Option (BitVec 5) :=
  if csrKnown n = false then some Cause.ill
  else if writes ∧ pl.toNat ≥ (csrLevel n).toNat ∧ csrReadOnly n pl then some Cause.ill
  else if pl < csrLevel n then some Cause.priv
  else none

/-- `csrr` (R94): the read and its effect, even when d is x0 (R95). -/
def execCsrr (k : Tk) (d : Reg) (r : BitVec 9) (s : State) : Out :=
  control (.csrr k d r) k s (fun c x s =>
    let t := s.ctx c x
    match csrCheck r.toNat t.pl false with
    | some cz => .trap cz (wordVal (.csrr k d r))
    | none =>
      let v := csrValue s c x r.toNat
      .done ((csrReadEffect s c x r.toNat).updCtx c x (fun t => t.wr d v)))

/-- A write form (R94): old := csr; csr := f (old, x[a]); x[d] := old. A write form that names a CSR of level S or H makes
a task that declares atomic sets irrevocable first (R286). -/
def csrForm (i : Instr) (k : Tk) (d a : Reg) (r : BitVec 9) (s : State) (f : Word → Word → Word) : Out :=
  control i k s (fun c x s =>
    let t := s.ctx c x
    match csrCheck r.toNat t.pl true with
    | some cz => .trap cz (wordVal i)
    | none =>
      if csrLevel r.toNat ≠ 0 ∧ (s.core c).penned then .hold .token286 t.gc
      else
        let old := csrValue s c x r.toNat
        .done ((csrWrite s c x r.toNat (f old (t.rd a))).updCtx c x (fun t => t.wr d old)))

def execCsrw (k : Tk) (d a : Reg) (c : BitVec 9) (s : State) : Out := csrForm (.csrw k d a c) k d a c s (fun _ v => v)
def execCsrs (k : Tk) (d a : Reg) (c : BitVec 9) (s : State) : Out := csrForm (.csrs k d a c) k d a c s (fun o v => o ||| v)
def execCsrc (k : Tk) (d a : Reg) (c : BitVec 9) (s : State) : Out :=
  csrForm (.csrc k d a c) k d a c s (fun o v => o &&& ~~~ v)

end Sys2Proof.Machine
end

