-- ==== Sys2Proof/Machine/LoadStore.lean ====
section
/-!
DEFINITION. Scalar loads and stores (R90 to R93), with the atomic-set steps that come before an access (R276, R277,
R286) and the waits for what another agent must answer (R345, R379).
-/
namespace Sys2Proof.Machine

/-- The access can complete now: the pen or the L1 holds its words (R240, R281). -/
def State.ready (s : State) (c x pa w : Nat) (cls : BitVec 2) (ms : Bool) : Bool :=
  let ln := pa / 128
  let m := wordMask pa w
  (s.core c).penCovers ln m || (! ms && cls ≠ 3 && s.l1Hit c x ln m)

/-- The value of a load in its register (R90). -/
def extend (v w : Nat) (signed : Bool) : Word :=
  if signed then (BitVec.ofInt 64 (if v < 2 ^ (8 * w - 1) then (v : Int) else (v : Int) - 2 ^ (8 * w))) else wnat v

/-- A load at a place of this package, performed: the register, or ECC (R28, R244). -/
def loadDone (s : State) (c x : Nat) (d : Reg) (ea : Word) (w : Nat) (signed : Bool) (pa : Nat) (cls : BitVec 2)
    (ms : Bool) : Res :=
  let (s, v, poi) := s.loadNow c x pa w cls ms
  if poi then .trap Cause.ecc ea else .done (s.updCtx c x (fun t => t.wr d (extend v w signed)))

/-- The access of a word that waits for its answer: its packet, its place and the data that it carries (R298, log 26). -/
def Wait.access (w : Wait) : Option (PtPkt × Place × List Word) :=
  match w with
  | .load _ va n _ p => some ({ ty := 0, rlen := n, addr := va, arg0 := wnat n }, p, [])
  | .remoteStore va n v p => some ({ ty := 1, kind := 1, len := n, addr := va, arg0 := wnat (2 ^ n - 1) }, p, [v])
  | .remoteAmo _ op va n v cmp p => 
    some ({ ty := 2, rlen := n, addr := va, arg0 := amoArg op n v, arg1 := cmp, len := if n = 8 then 8 else 0 }, p, if n = 8 then [v] else [])
  | .block va p => some ({ ty := 0, rlen := 8, addr := va, arg0 := 8 }, p, [])
  | .blockStore va v p => some ({ ty := 1, kind := 1, len := 8, addr := va, arg0 := 0xff }, p, [v])
  | _ => none

/-- The access leaves the core, of the class in the context's `ctx.slk` (R302). -/
def State.sendWait (s : State) (c x : Nat) (w : Wait) : State :=
  match w.access with
  | some (p, q, d) => s.sendAccess c x p q d
  | none => s

/-- The access of a word leaves: the word has issued, and waits for the answer (R106, R345, R379, R416). -/
def sendIt (s : State) (c x : Nat) (w : Wait) : Res := .sent (s.sendWait c x w) w

/-- A word that waits at issue for what its block brings: the request of one doubleword is formed, and the word issues once more when
it is answered (R379, R416). -/
def holdBlk (s : State) (c x : Nat) (w : Wait) (bound : Nat) : Res :=
  if w.access.isSome then .again (s.sendWait c x w) w else .hold w bound

/-- The body of a load (R90): its checks in the order of R29, its lot (R277), and its value at once where the pen or
the L1 holds it; otherwise the context waits for its reply (R345). -/
def loadBody (d : Reg) (ea : Word) (w : Nat) (signed : Bool) (c x : Nat) (s : State) : Res :=
  let t := s.ctx c x
  if aligned ea w = false then .trap Cause.misal ea
  else
    match s.translate c ea .read (t.pl = 0) with
    | .bad cz => .trap cz ea
    | .ok (.remote pkg off) =>
      if s.lotStep c ea 3 true = .prot then .trap Cause.prot ea else sendIt s c x (.load d.toNat ea w signed (.remote pkg off))
    | .ok (.phys pa cls ms) =>
      match s.lotStep c ea cls ms with
      | .prot => .trap Cause.prot ea
      | .lot i => .hold (.lot ea i false) t.gc
      | .token => .hold .token286 t.gc
      | .go =>
        if s.ready c x pa w cls ms then loadDone s c x d ea w signed pa cls ms
        else sendIt s c x (.load d.toNat ea w signed (.phys pa cls ms))

/-- A load at base plus scaled offset (R90). -/
def loadWord (i : Instr) (k : Tk) (d a : Reg) (o : BitVec 8) (s : State) (w : Nat) (signed : Bool) : Out :=
  control i k s (fun c x s => loadBody d (offsetAddr (s.ctx c x) a o w) w signed c x s)

def execLb (k : Tk) (d a : Reg) (i : BitVec 8) (s : State) : Out := loadWord (.lb k d a i) k d a i s 1 true
def execLh (k : Tk) (d a : Reg) (i : BitVec 8) (s : State) : Out := loadWord (.lh k d a i) k d a i s 2 true
def execLw (k : Tk) (d a : Reg) (i : BitVec 8) (s : State) : Out := loadWord (.lw k d a i) k d a i s 4 true
def execLd (k : Tk) (d a : Reg) (i : BitVec 8) (s : State) : Out := loadWord (.ld k d a i) k d a i s 8 false
def execLbu (k : Tk) (d a : Reg) (i : BitVec 8) (s : State) : Out := loadWord (.lbu k d a i) k d a i s 1 false
def execLhu (k : Tk) (d a : Reg) (i : BitVec 8) (s : State) : Out := loadWord (.lhu k d a i) k d a i s 2 false
def execLwu (k : Tk) (d a : Reg) (i : BitVec 8) (s : State) : Out := loadWord (.lwu k d a i) k d a i s 4 false

/-- `ldx` (R92). -/
def execLdx (k : Tk) (d a b : Reg) (s : State) : Out :=
  control (.ldx k d a b) k s (fun c x s => loadBody d (indexAddr (s.ctx c x) a b) 8 false c x s)

/-- A place whose stores and AMOs are performed at its home, with no copy in between (R245 to R247). -/
def homeSide (cls : BitVec 2) (ms : Bool) : Bool := ms || cls = 0 || cls = 3

/-- The body of a store (R91): a store that traps writes no byte. A store of a task that declares sets goes to its pen
(R281), which holds no memory-side line (R245), so that a store there needs the token first (R266, R284, log 136); any other is pending until it is performed (R345), and its signals wait for
that (R106). One that goes to the home behind the host port waits for its answer, which may be FWDX (R416). -/
def storeBody (k : Tk) (v ea : Word) (w c x : Nat) (s : State) : Res :=
  let t := s.ctx c x
  let kc := s.core c
  if aligned ea w = false then .trap Cause.misal ea
  else
    match s.translate c ea .write (t.pl = 0) with
    | .bad cz => .trap cz ea
    | .ok (.remote pkg off) =>
      if s.lotStep c ea 3 true = .prot then .trap Cause.prot ea
      else if kc.penned then .hold .token286 t.gc else sendIt s c x (.remoteStore ea w v (.remote pkg off))
    | .ok (.phys pa cls ms) =>
      match s.lotStep c ea cls ms with
      | .prot => .trap Cause.prot ea
      | .lot i => .hold (.lot ea i false) t.gc
      | .token => .hold .token286 t.gc
      | .go =>
        if kc.penned ∧ (ms ∨ s.unbuffered c ea) then .hold .token286 t.gc
        else if kc.penned then
          if kc.penFull (pa / 128) then .hold .token286 t.gc
          else match s.penStore c x ea pa w v.toNat cls with
            | some s' => .done s'
            | none => .trap Cause.ecc ea
        else if (s.linePoison (pa / 128) &&& wordMask pa w) ≠ 0 then .trap Cause.ecc ea
        else if 2 ^ 47 ≤ pa ∧ homeSide cls ms then sendIt s c x (.remoteStore ea w v (.phys pa cls ms))
        else
          let p : PStore := { va := ea, w := w, data := v, place := .phys pa cls ms, tk := k, slk := t.slk.toNat, ske := t.skEntry t.slk.toNat }
          .stored ((s.storePkt c x ea w (.phys pa cls ms)).updCtx c x (fun t => { t with stores := t.stores ++ [p] }))

def storeWord (i : Instr) (k : Tk) (d a : Reg) (o : BitVec 8) (s : State) (w : Nat) : Out :=
  control i k s (fun c x s =>
    let t := s.ctx c x
    storeBody k (t.rd d) (offsetAddr t a o w) w c x s)

def execSb (k : Tk) (d a : Reg) (i : BitVec 8) (s : State) : Out := storeWord (.sb k d a i) k d a i s 1
def execSh (k : Tk) (d a : Reg) (i : BitVec 8) (s : State) : Out := storeWord (.sh k d a i) k d a i s 2
def execSw (k : Tk) (d a : Reg) (i : BitVec 8) (s : State) : Out := storeWord (.sw k d a i) k d a i s 4
def execSd (k : Tk) (d a : Reg) (i : BitVec 8) (s : State) : Out := storeWord (.sd k d a i) k d a i s 8

/-- `stx` (R92). -/
def execStx (k : Tk) (d a b : Reg) (s : State) : Out :=
  control (.stx k d a b) k s (fun c x s =>
    let t := s.ctx c x
    storeBody k (t.rd d) (indexAddr t a b) 8 c x s)

/-! ### Words that access memory at issue (R281) -/

/-- What a word's memory accesses at issue come to. -/
inductive BlkRes where
  | ok (s : State) (ws : List Word)
  | trap (c : BitVec 5) (v : Word)
  | wait (w : Wait) (bound : Nat)

/-- `n` doublewords from `va`, read as loads of the issuing context (R281): the pen first, the lots of set addresses,
another package's answers, and the host port's, one by one (R379, R416). -/
def State.readBlock (s : State) (c x : Nat) (va : Word) (n : Nat) : BlkRes :=
  match n with
  | 0 => .ok s []
  | m + 1 =>
    let t := s.ctx c x
    let next (s : State) (v : Word) : BlkRes := match s.readBlock c x (va + 8) m with
      | .ok s' ws => .ok s' (v :: ws)
      | r => r
    match s.translate c va .read (t.pl = 0) with
    | .bad cz => .trap cz va
    | .ok (.remote pkg off) =>
      if s.lotStep c va 3 true = .prot then .trap Cause.prot va
      else match Map.get none t.gotten va.toNat with
        | some v => next s v
        | none => .wait (.block va (.remote pkg off)) 0
    | .ok (.phys pa cls ms) =>
      match s.lotStep c va cls ms with
      | .prot => .trap Cause.prot va
      | .lot i => .wait (.lot va i false) t.gc
      | .token => .wait .token286 t.gc
      | .go =>
        if 2 ^ 47 ≤ pa ∧ s.ready c x pa 8 cls ms = false then
          match Map.get none t.gotten va.toNat with
          | some v => next s v
          | none => .wait (.block va (.phys pa cls ms)) 0
        else
          let (s', v, poi) := s.loadNow c x pa 8 cls ms
          if poi then .trap Cause.ecc va else next s' (wnat v)

/-- Doublewords written from `va` as a store of the issuing context (R281), performed with the word. -/
def State.writeBlock (s : State) (c x : Nat) (va : Word) (ws : List Word) : BlkRes :=
  match ws with
  | [] => .ok s []
  | v :: r =>
    let t := s.ctx c x
    match s.translate c va .write (t.pl = 0) with
    | .bad cz => .trap cz va
    | .ok (.remote pkg off) =>
      if s.lotStep c va 3 true = .prot then .trap Cause.prot va
      else if (s.core c).penned then .wait .token286 t.gc
      else if (Map.get none t.gotten va.toNat).isSome then s.writeBlock c x (va + 8) r
      else .wait (.blockStore va v (.remote pkg off)) 0
    | .ok (.phys pa cls ms) =>
      match s.lotStep c va cls ms with
      | .prot => .trap Cause.prot va
      | .lot i => .wait (.lot va i false) t.gc
      | .token => .wait .token286 t.gc
      | .go =>
        if (s.core c).penned ∧ (ms ∨ s.unbuffered c va) then .wait .token286 t.gc
        else if (s.core c).penned then
          if (s.core c).penFull (pa / 128) then .wait .token286 t.gc
          else match s.penStore c x va pa 8 v.toNat cls with
            | some s' => s'.writeBlock c x (va + 8) r
            | none => .trap Cause.ecc va
        else if (s.linePoison (pa / 128) &&& wordMask pa 8) ≠ 0 then .trap Cause.ecc va
        else if 2 ^ 47 ≤ pa ∧ homeSide cls ms then
          (if (Map.get none t.gotten va.toNat).isSome then s.writeBlock c x (va + 8) r
          else .wait (.blockStore va v (.phys pa cls ms)) 0)
        else ((s.storePkt c x va 8 (.phys pa cls ms)).placeStore c x (.phys pa cls ms) 8 v.toNat).writeBlock c x (va + 8) r

end Sys2Proof.Machine
end

