-- ==== Sys2Proof/Machine/Order.lean ====
section
/-!
DEFINITION. Ordering: scopes and their clamp (R255, R256, R431), what a release, an acquire and an instruction
invalidation do (R269 to R272), the words of major 0x15 (R268), L1 blocks (R241, R243) and stash windows (R236, R237).
-/
namespace Sys2Proof.Machine

/-- The home of a physical address lies in a scope (R431): a paddock's homes in `shed` and wider, the host port's in
`pkg` and `dom`. -/
def homeInScope (sc pa : Nat) : Bool := if 2 ^ 47 ≤ pa then 3 ≤ sc else 1 ≤ sc

/-- The scope that a word is performed at: as written, clamped to `pdk`, or none because it raises SCOPE (R256). -/
inductive Clamp where
  | at (sc : Nat)
  | clamped
  | scope
deriving DecidableEq, Repr

def State.clamp (s : State) (c x sc : Nat) : Clamp :=
  let f := s.func (s.coreVf c)
  if sc < 3 ∨ (s.ctx c x).pl = 2 ∨ f.vfctl.getLsbD 48 = false then .at sc
  else if f.vfctl.getLsbD 49 then .scope else .clamped

/-- A window's lines that `keep` does not keep are invalid. A line of an NF window stays listed as invalid. -/
def Window.dropLines (w : Window) (keep : Nat → WinLine → Bool) : Window :=
  if w.nf then
    { w with lines := w.lines.map (fun e => match e.2 with
        | some l => if keep e.1 l then e else (e.1, some { inv := true })
        | none => e) }
  else
    { w with lines := w.lines.filter (fun e => match e.2 with
        | some l => keep e.1 l
        | none => true) }

/-- A core's clean SW lines, of its L1 and of its windows where asked, are invalid, and the clean words of its dirty L1 lines
(R261, R270, R272). -/
def Core.dropClean (k : Core) (keep : Nat → Bool) (wins : Bool) : Core :=
  let k := k.dropLines (fun ln l => l.cls = 1 && l.dirty = 0 && ! keep (128 * ln))
  let l1 := k.l1.map (fun e =>
    match e.2 with
    | some l => if l.cls = 1 ∧ l.dirty ≠ 0 ∧ keep (128 * e.1) = false then (e.1, some l.onlyDirty) else e
    | none => e)
  let ws := if wins then k.wins.map (fun w => (w.1, w.2.dropLines (fun _ l => l.cls ≠ 1 || l.dirty || keep l.pa))) else k.wins
  { k with l1 := l1, wins := ws }

/-- The acquire of scope `sc` (R270). -/
def State.acquire (s : State) (c sc : Nat) : State :=
  if sc = 0 then s else s.updCore c (fun k => k.dropClean (fun pa => ! homeInScope sc pa) true)

/-- The virtual address of a window line. -/
def winVa (w : Window) (i : Nat) : Word := w.gb + wnat (128 * i)

/-- The FIFO entry number of a window line. -/
def winEntry (w i : Nat) : Nat := 2 * (65536 * w + i) + 1

/-- A dirty line of the L1 whose home lies behind the host port leaves for it: the line is written back when the port has taken it, and stays dirty
where the port cannot (R269, R416). -/
def State.sendHostLine (s : State) (c ln : Nat) : State :=
  match (s.core c).line ln with
  | none => s
  | some l =>
    if l.dirty = 0 ∨ (s.core c).away.any (fun f => f.host = some ln) then s
    else s.updCore c (fun k => { k with
      away := k.away ++ [{ va := l.va, pkg := 0, off := 0, data := 0, win := 0, idx := 0, since := s.cc, host := some ln }] })

/-- A write-back of a dirty-line FIFO entry, with the translation that a window line's write-back meets (R236, R269). -/
def State.drainChecked (s : State) (c e : Nat) (atU : Bool) : Except (BitVec 5 × Word) State :=
  if e % 2 = 0 then .ok (if e / 2 < 2 ^ 40 then s.drainEntry c e else s.sendHostLine c (e / 2))
  else
    let va := winVa (Map.get {} (s.core c).wins (e / 2 / 65536)) (e / 2 % 65536)
    match s.translate c va .write atU with
    | .bad cz => .error (cz, va)
    | .ok _ => .ok (s.drainEntry c e)

/-- Entries written back in order, up to the first that fails. -/
def State.drainAll (s : State) (c : Nat) (es : List Nat) (atU : Bool) : State × Option (BitVec 5 × Word) :=
  match es with
  | [] => (s, none)
  | e :: r =>
    match s.drainChecked c e atU with
    | .ok s' => s'.drainAll c r atU
    | .error t => (s, some t)

/-- The dirty SW lines of a core's stash windows, as entries of the dirty-line FIFO. -/
def Core.swDirty (k : Core) : List Nat :=
  (List.range 16).flatMap (fun w =>
    let v := Map.get {} k.wins w
    if v.v = false ∨ v.ro then []
    else v.lines.filterMap (fun e =>
      match e.2 with
      | some l => if l.dirty ∧ l.cls = 1 then some (winEntry w e.1) else none
      | none => none))

/-- The release of scope `sc` by a context (R269): its stores are performed; from `shed` on, the dirty-line FIFO of the
core drains, and the dirty SW lines of its windows that are no longer in it (R235). A window line is written back with the
permissions of the releasing context's level (log 106). -/
def State.release (s : State) (c x sc : Nat) : State × Option (BitVec 5 × Word) :=
  let s := s.drainStores c x
  let k := s.core c
  if sc = 0 then (s, none) else s.drainAll c (k.dfifo ++ k.swDirty.filter (fun e => ! k.dfifo.contains e)) ((s.ctx c x).pl = 0)

/-- The rest of a word that has written lines back: a failure, a wait for lines on their way to other packages, or `f` (R236,
R269). -/
def farDone (c : Nat) (r : State × Option (BitVec 5 × Word)) (f : State → Res) : Res :=
  match r with
  | (s, some (cz, va)) => .trapIn s cz va
  | (s, none) => if (s.core c).away = [] then f s else .again s .farLines

/-- The cores in a scope of core c (R255). -/
def State.scopeCores (s : State) (c sc : Nat) : List Nat :=
  if sc = 0 then [c]
  else if sc = 1 then [4 * (c / 4), 4 * (c / 4) + 1, 4 * (c / 4) + 2, 4 * (c / 4) + 3]
  else if sc = 2 then s.pdkCores (s.blkOf c)
  else List.range Config.numCores

/-- The instruction invalidation of scope `sc` (R272). -/
def State.invalidateCode (s : State) (c x sc : Nat) : State :=
  (s.scopeCores c sc).foldl (fun s k => s.updCore k (fun kc =>
    let kc := { kc with icache := [] }
    if sc = 0 then kc else kc.dropClean (fun _ => false) false)) (s.drainStores c x)

/-- An ordering word: its scope is clamped before any effect (R256), its effect follows, and the clamp counts once the word
completes (R20). -/
def orderWord (i : Instr) (k : Tk) (sc : BitVec 3) (s : State) (f : Nat → Nat → Nat → State → Res) : Out :=
  control i k s (fun c x s =>
    match s.clamp c x sc.toNat with
    | .scope => .trap Cause.scope (wordVal i)
    | .at sc => f c x sc s
    | .clamped => match f c x 2 s with
      | .done s' => .done (s'.updCore c (fun k => { k with scopeClamp := k.scopeClamp + 1 }))
      | r => r)

/-- `fence` (R271): the release and then the acquire. -/
def execFence (k : Tk) (sc : BitVec 3) (s : State) : Out :=
  orderWord (.fence k sc) k sc s (fun c x sc s => farDone c (s.release c x sc) (fun s => .done (s.acquire c sc)))

/-- `acq` (R270). -/
def execAcq (k : Tk) (sc : BitVec 3) (s : State) : Out :=
  orderWord (.acq k sc) k sc s (fun c _ sc s => .done (s.acquire c sc))

/-- `rel` (R269). -/
def execRel (k : Tk) (sc : BitVec 3) (s : State) : Out :=
  orderWord (.rel k sc) k sc s (fun c x sc s => farDone c (s.release c x sc) .done)

/-- The packages of the domain that this one reaches: their cores lie in `dom` scope (R255, R382). -/
def State.farPkgs (s : State) (c : Nat) : List Nat :=
  (List.range 64).filter (fun p => p ≠ s.pkg.toNat && (s.routePort p (c / 4) 0).isSome)

/-- A control message to each package, that its cores discard their fetched words (R272). -/
def State.sendInvi (s : State) (c x : Nat) (ps : List Nat) : State :=
  ps.foldl (fun (s : State) p => s.sendReq c x 0 0 { ty := 14 } (s.ctx c x).pl.toNat p 0 []) s

/-- `invi` (R272): at `dom` scope the word waits until the cores of every other package have acknowledged too. -/
def execInvi (k : Tk) (sc : BitVec 3) (s : State) : Out :=
  orderWord (.invi k sc) k sc s (fun c x sc s =>
    let far := if sc = 4 then s.farPkgs c else []
    let s' := s.invalidateCode c x sc
    if far = [] then .done s' else .holdIn (s'.sendInvi c x far) (.farInvi far) 0)

/-! ### Blocks of the L1 (R238, R241, R243) -/

/-- Multi-line blocks that a core can declare (R238). -/
def blkEntries : Nat := 128

/-- The lines of a range leave the blocks that they are in: a block that shares a line with the range is split, its
other lines becoming single-line blocks, and its shared lines joining the new block (R241). -/
def Core.joinBlk (k : Core) (b : Nat) : Core :=
  let shared := k.l1.filterMap (fun e =>
    match e.2 with
    | some l => if blkFirst b ≤ e.1 ∧ e.1 < blkFirst b + blkLen b then some l.blk else none
    | none => none)
  let l1 := k.l1.map (fun e =>
    match e.2 with
    | some l =>
      if blkFirst b ≤ e.1 ∧ e.1 < blkFirst b + blkLen b then (e.1, some { l with blk := b })
      else if shared.contains l.blk then (e.1, some { l with blk := singleBlk e.1 }) else e
    | none => e)
  { k with l1 := l1, blkUse := k.blkUse.filter (fun u => ! shared.contains u) }

/-- A new block: an entry for it, its lines, and the merging fill (R238, R241). -/
def State.declareBlk (s : State) (c x b : Nat) (cls : BitVec 2) : State :=
  let s := s.updCore c (fun k => k.joinBlk b)
  let s := if blkLen b ≤ 1 ∨ (s.core c).blkUse.length < blkEntries then s
    else match (s.core c).blkUse with
      | o :: _ => s.evictBlk c o
      | [] => s
  (s.allocBlk c b cls).fillBlk c x (blkFirst b) cls

/-- Index of the first line of a block that holds a poisoned word. -/
def State.poisonedLine (s : State) (c b : Nat) : Option Nat :=
  (List.range (blkLen b)).find? (fun i =>
    match (s.core c).line (blkFirst b + i) with
    | some l => l.poison ≠ 0
    | none => s.linePoison (blkFirst b + i) ≠ 0)

/-- A block operation in progress: its slot is empty until its completion event (R113, R241). -/
def State.beginBlk (s : State) (c slot code info : Nat) (wb : Bool) : State :=
  (s.emptySlot c slot).updCore c (fun k => { k with blkOps := k.blkOps ++ [⟨slot, info, code, wb⟩] })

/-- A word whose address another package translates: it asks for one doubleword there, and goes on with the answer, or raises what
failed (R241, R293, R379). -/
def farAsk (c x : Nat) (va : Word) (pkg off : Nat) (s : State) (r : Res) : Res :=
  match Map.get none (s.ctx c x).gotten va.toNat with
  | some _ => r
  | none => holdBlk s c x (.block va (.remote pkg off)) 0

/-- The same of a word that accesses the address: no set lies there (R276). -/
def farProbe (c x : Nat) (va : Word) (pkg off : Nat) (s : State) (r : Res) : Res :=
  if s.lotStep c va 3 true = .prot then .trap Cause.prot va else farAsk c x va pkg off s r

/-- A word whose address lies behind the host port asks for one doubleword there, unless the L1 holds it, and goes on with the answer, or raises FWDX
(R241, R416). -/
def hostProbe (c x : Nat) (va : Word) (pa : Nat) (cls : BitVec 2) (ms : Bool) (s : State) (r : Res) : Res :=
  if hostPlace pa cls = false ∨ (Map.get none (s.ctx c x).gotten va.toNat).isSome ∨ s.ready c x (pa / 8 * 8) 8 cls ms then r
  else holdBlk s c x (.block va (.phys (pa / 8 * 8) cls ms)) 0

/-- The fills of a block of `n` lines: a packet for each 8 of them (R298, R302). -/
def State.blkPkts (s : State) (c x : Nat) (va : Word) (n : Nat) : State :=
  (List.range ((n + 7) / 8)).foldl (fun (s : State) i =>
    let a := va + wnat (1024 * i)
    match s.translate c a .read ((s.ctx c x).pl = 0) with
    | .ok p => s.sendAccess c x { ty := 0, kind := 2, seq := va.toNat, rlen := 128 * min 8 (n - 8 * i), addr := a } p []
    | .bad _ => s) s

/-- `lblk` (R241). A page that keeps no L1 line (R245, R246) takes nothing. -/
def execLblk (k : Tk) (d a : Reg) (i : BitVec 8) (s : State) : Out :=
  control (.lblk k d a i) k s (fun c x s =>
    let t := s.ctx c x
    let b := t.rd a
    let n := i.toNat
    if aligned b 128 = false ∨ b.toNat / 2 ^ 19 ≠ (b.toNat + 128 * n - 1) / 2 ^ 19 then .trap Cause.misal b
    else
      match s.translate c b .read (t.pl = 0) with
      | .bad cz => .trap cz b
      | .ok (.remote pkg off) => farProbe c x b pkg off s (.done (s.beginBlk c d.toNat codeDone n false))
      | .ok (.phys pa cls ms) =>
        if s.lotStep c b cls ms = .prot then .trap Cause.prot b
        else hostProbe c x b pa cls ms s <|
        if ms ∨ cls = 3 then .done (s.beginBlk c d.toNat codeDone n false)
        else
          let blk := 128 * (pa / 128) + n
          let s := ((s.blkPkts c x b n).drainStores c x).declareBlk c x blk cls
          match s.poisonedLine c blk with
          | some j => .done (s.beginBlk c d.toNat codeFault j false)
          | none => .done (s.beginBlk c d.toNat codeDone n false))

/-- The dirty lines of a block, and the block written back (R240). -/
def State.writeBackBlk (s : State) (c b : Nat) : State × Nat :=
  (blkLines b).foldl (fun (r : State × Nat) ln =>
    match (r.1.core c).line ln with
    | some l => if l.blk = b ∧ l.dirty ≠ 0 then (r.1.writeBackLine c ln, r.2 + 1) else r
    | none => r) (s, 0)

/-- The body that `wblk` and `eblk` share (R241). -/
def blkBody (d a : Reg) (evict : Bool) (c x : Nat) (s : State) : Res :=
  let t := s.ctx c x
  match s.translate c (t.rd a) .read (t.pl = 0) with
  | .bad cz => .trap cz (t.rd a)
  | .ok (.remote pkg off) => farProbe c x (t.rd a) pkg off s (.done (s.beginBlk c d.toNat codeDone 0 true))
  | .ok (.phys pa cls ms) =>
    if s.lotStep c (t.rd a) cls ms = .prot then .trap Cause.prot (t.rd a)
    else hostProbe c x (t.rd a) pa cls ms s <|
    let s := s.drainStores c x
    match (s.core c).line (pa / 128) with
    | none => .done (s.beginBlk c d.toNat codeDone 0 true)
    | some l =>
      let (s, n) := s.writeBackBlk c l.blk
      .done ((if evict then s.evictBlk c l.blk else s).beginBlk c d.toNat codeDone n true)

def execWblk (k : Tk) (d a : Reg) (s : State) : Out := control (.wblk k d a) k s (blkBody d a false)
def execEblk (k : Tk) (d a : Reg) (s : State) : Out := control (.eblk k d a) k s (blkBody d a true)

/-- The dirty words of a block are dropped, and it leaves the L1 and the dirty-line FIFO (R243). -/
def Core.discardBlk (k : Core) (b : Nat) : Core :=
  let mine (ln : Nat) : Bool := match k.line ln with
    | some l => l.blk = b
    | none => false
  { k with
    l1 := k.l1.filter (fun e => ! mine e.1)
    dfifo := k.dfifo.filter (fun e => ! (e % 2 = 0 && mine (e / 2)))
    blkUse := k.blkUse.filter (· ≠ b) }

/-- `dblk` (R243): on HC pages a write-back and invalidate, on SW and PV pages the dirty words are dropped. -/
def execDblk (k : Tk) (a : Reg) (s : State) : Out :=
  control (.dblk k a) k s (fun c x s =>
    let t := s.ctx c x
    match s.translate c (t.rd a) .read (t.pl = 0) with
    | .bad cz => .trap cz (t.rd a)
    | .ok (.remote pkg off) => farProbe c x (t.rd a) pkg off s (.done s)
    | .ok (.phys pa cls ms) =>
      if s.lotStep c (t.rd a) cls ms = .prot then .trap Cause.prot (t.rd a)
      else hostProbe c x (t.rd a) pa cls ms s <|
      let s := s.drainStores c x
      match (s.core c).line (pa / 128) with
      | none => .done s
      | some l => .done (if l.cls = 0 then s.evictBlk c l.blk else s.updCore c (fun k => k.discardBlk l.blk)))

/-! ### Stash windows (R233, R236, R237) -/

def Core.window (k : Core) (w : Nat) : Window := Map.get {} k.wins w
def Core.setWindow (k : Core) (w : Nat) (v : Window) : Core := { k with wins := Map.set {} k.wins w v }

/-- Indexes of a window's dirty lines, ascending. -/
def Window.dirtyLines (w : Window) : List Nat :=
  w.lines.filterMap (fun e =>
    match e.2 with
    | some l => if l.dirty then some e.1 else none
    | none => none)

/-- The write-back of a whole window (R235), stopping at the first translation failure (R236). -/
def State.flushWindow (s : State) (c w : Nat) (atU : Bool) : State × Option (BitVec 5 × Word) :=
  let wn := (s.core c).window w
  if wn.v = false ∨ wn.ro then (s, none) else s.drainAll c (wn.dirtyLines.map (winEntry w)) atU

/-- A window becomes invalid; its lines leave the dirty-line FIFO. -/
def Core.dropWindow (k : Core) (w : Nat) : Core :=
  { k.setWindow w {} with dfifo := k.dfifo.filter (fun e => ! (e % 2 = 1 && e / 2 / 65536 = w)) }

/-- The checks of a spad word (R44), `opts` naming the option bits that the word defines: ILL, then MISAL. -/
def spadCheck (v : Word) (opts : Nat) : Option (BitVec 5 × Option Word) :=
  let addr := wbits v 0 25
  if wbits v 25 7 ≠ 0 ∨ (wbits v 48 16 &&& (0xffff - opts)) ≠ 0 then some (Cause.ill, none)
  else if addr % 128 ≠ 0 ∨ 2 ^ 25 < addr + 128 * wbits v 32 16 then some (Cause.misal, some (wnat addr))
  else none

/-- A range of bytes meets a set of the core's task. -/
def Core.meetsSet (k : Core) (a n : Nat) : Bool :=
  match k.task with
  | some t => t.sets.any (fun st => a < st.base + st.size && st.base < a + n)
  | none => false

/-- `smap` (R236, R276). -/
def execSmap (k : Tk) (d a b : Reg) (s : State) : Out :=
  control (.smap k d a b) k s (fun c x s =>
    let t := s.ctx c x
    let v := t.rd a
    let g := t.rd b
    let len := wbits v 32 16
    match spadCheck v 3 with
    | some (cz, some tv) => .trap cz tv
    | some (cz, none) => .trap cz (wordVal (.smap k d a b))
    | none =>
      if aligned g 128 = false ∨ 2 ^ 48 < g.toNat + 128 * len then .trap Cause.misal g
      else if (s.core c).meetsSet g.toNat (128 * len) then .trap Cause.prot g
      else
        farDone c (s.flushWindow c d.toNat (t.pl = 0)) (fun s =>
          let w : Window := { v := true, nf := v.getLsbD 48, ro := v.getLsbD 49, addr := wbits v 0 25, len := len, gb := g }
          .done (s.updCore c (fun k => if len = 0 then k.dropWindow d.toNat else (k.dropWindow d.toNat).setWindow d.toNat w))))

/-- `sunmap` (R236): the window is invalid once every line is performed at its home. -/
def execSunmap (k : Tk) (d : Reg) (s : State) : Out :=
  control (.sunmap k d) k s (fun c x s =>
    farDone c (s.flushWindow c d.toNat ((s.ctx c x).pl = 0)) (fun s => .done (s.updCore c (fun k => k.dropWindow d.toNat))))

/-- `sflush` (R236). -/
def execSflush (k : Tk) (d : Reg) (s : State) : Out :=
  control (.sflush k d) k s (fun c x s => farDone c (s.flushWindow c d.toNat ((s.ctx c x).pl = 0)) .done)

/-- The status word of a window (R237). A line that NF holds clean and that nothing has touched counts as filled. -/
def Window.status (w : Window) : Word :=
  if w.v = false then 0
  else
    let invalid := (w.lines.filter (fun e => match e.2 with
      | some l => l.inv
      | none => false)).length
    let filled := if w.nf then w.len - invalid else (w.lines.filter (fun e => e.2.isSome)).length
    wnat (2 ^ 63 + (if w.nf then 2 ^ 62 else 0) + (if w.ro then 2 ^ 61 else 0) + w.dirtyLines.length * 2 ^ 32 + filled)

/-- `sstat` (R237). -/
def execSstat (k : Tk) (d a : Reg) (s : State) : Out :=
  control (.sstat k d a) k s (fun c x s =>
    .done (s.updCtx c x (fun t => t.wr d ((s.core c).window a.toNat).status)))

end Sys2Proof.Machine
end

