-- ==== Sys2Proof/Machine/Spad.lean ====
section
/-!
DEFINITION. The scratchpad as engines, copies and bays reach it, its stash windows included (R223 to R225, R233 to R235).
-/
namespace Sys2Proof.Machine

/-- The window that holds a scratchpad line, the lowest-numbered where several do, and the line's index in it (R233). -/
def Core.windowOf (k : Core) (ln : Nat) : Option (Nat × Nat) :=
  (List.range 16).findSome? (fun w =>
    let v := k.window w
    if v.v ∧ v.addr / 128 ≤ ln ∧ ln < v.addr / 128 + v.len then some (w, ln - v.addr / 128) else none)

/-- A window line holds data: it is listed, and its lease has not ended for the core's contexts (R234). -/
def Core.winHas (k : Core) (w i : Nat) : Bool :=
  match Map.get none (k.window w).lines i with
  | some l => ! l.inv && (l.cls ≠ 0 || l.ms || k.maxPts ≤ l.rts)
  | none => (k.window w).nf

/-- The window line that an access to a scratchpad line must fill first. -/
def Core.lineNeed (k : Core) (ln : Nat) : Option (Nat × Nat) :=
  match k.windowOf ln with
  | some (w, i) => if k.winHas w i then none else some (w, i)
  | none => none

/-- The first line of a list that must be filled. -/
def Core.firstNeed (k : Core) (lns : List Nat) : Option (Nat × Nat) := lns.findSome? k.lineNeed

/-- Whether one of a scratchpad line's four 32-byte sectors is uncorrectable (R225). An engine that reads the line meets the failure of the
line as a whole (R189, R208). -/
def Core.badLine (k : Core) (ln : Nat) : Bool := k.badSec.any (fun x => x / 4 == ln)

/-- The sectors that are uncorrectable after a write that keeps the bits `keep` of a line: a sector written whole is good again (R225). -/
def Core.mendSec (k : Core) (ln : Nat) (keep : Line) : Core :=
  { k with badSec := k.badSec.filter (fun x => x / 4 != ln || keep.extractLsb' (256 * (x % 4)) 256 != 0) }

/-- What a scratchpad line holds: the line, zero for an untouched line of an NF window and for one that has not been filled (R347). -/
def Core.heldLine (k : Core) (ln : Nat) : Line :=
  match k.windowOf ln with
  | none => Map.get 0 k.spad ln
  | some (w, i) =>
    match Map.get none (k.window w).lines i with
    | some l => if l.bad ∨ ¬ k.winHas w i then 0 else Map.get 0 k.spad ln
    | none => 0

/-- What a scratchpad line reads as: what it holds, and zero where its data is uncorrectable (R189, R225, R348). -/
def Core.spadLine (k : Core) (ln : Nat) : Line := if k.badLine ln then 0 else k.heldLine ln

/-- A line of a list whose data is uncorrectable: its scratchpad address. `ws` are stores that the reader sees and that are not in the
scratchpad yet: what they write is good (R188, R225). -/
def Core.firstBad (k : Core) (ws : List SpadWrite) (lns : List Nat) : Option Nat :=
  let k := ws.foldl (fun (k : Core) w => k.mendSec w.ln w.keep) k
  lns.findSome? (fun ln => if k.badLine ln then some (128 * ln) else match k.windowOf ln with
    | some (w, i) => match Map.get none (k.window w).lines i with
      | some l => if l.bad ∧ ws.all (fun v => v.ln ≠ ln) then some (128 * ln) else none
      | none => none
    | none => none)

/-- A window line filled with data (R234). -/
def Core.putWinLine (k : Core) (w i : Nat) (l : WinLine) (data : Line) : Core :=
  let wn := k.window w
  let k := k.setWindow w { wn with lines := Map.set none wn.lines i (some l) }
  { k with spad := Map.set 0 k.spad (wn.addr / 128 + i) data }

/-- The fill of a window line from the home that its virtual address has now (R234): on an HC page a lease, and every context's
pts passes the data's write timestamp (R247, R258). -/
def State.fillWin (s : State) (c w i : Nat) (atU : Bool) : Except (BitVec 5 × Word) State :=
  let k := s.core c
  let va := winVa (k.window w) i
  match s.translate c va .read atU with
  | .bad cz => .error (cz, va)
  | .ok (.remote _ _) => .error (Cause.fwdx, va)
  | .ok (.phys pa cls ms) =>
    let ln := pa / 128
    let (s, rts) := if cls = 0 then let (s, h) := s.hcFetch ln k.maxPts; (s.raisePts c h.wts, h.rts) else (s, 0)
    let l : WinLine := { pa := pa, cls := cls, rts := rts, ms := ms || cls = 3, bad := s.linePoison ln ≠ 0 }
    .ok (s.updCore c (fun k => k.putWinLine w i l (s.homeLine ln)))

/-- A window line that is kept no longer (R245). -/
def Core.dropWinLine (k : Core) (w i : Nat) : Core := k.setWindow w ((k.window w).dropLines (fun j _ => j ≠ i))

/-- A write to an invalid window line fills it first (R234). Who writes has waited for a fill that takes time; a line that cannot be filled
has zeros in its other bytes. -/
def State.fillFirst (s : State) (c ln : Nat) : State :=
  match (s.core c).lineNeed ln with
  | none => s
  | some (w, i) => match s.fillWin c w i false with
    | .ok s' => s'
    | .error _ => s

/-- The home words that the written bytes of a line belong to, poisoned ones among them. -/
def State.poisonUnder (s : State) (ln : Nat) (keep : Line) : Bool :=
  (List.range 32).any (fun j => s.wordPoison (128 * ln + 4 * j) && keep.extractLsb' (32 * j) 32 ≠ BitVec.allOnes 32)

/-- A write of a scratchpad line goes through to a poisoned home word: that access raises ECC and writes nothing (R244, log 119). -/
def State.meetsPoison (s : State) (c : Nat) (w : SpadWrite) : Bool :=
  match (s.core c).windowOf w.ln with
  | none => false
  | some (wi, i) =>
    let wn := (s.core c).window wi
    match (if wn.ro then (Tr.bad 0) else s.translate c (winVa wn i) .write false) with
    | .ok (.phys pa cls ms) => (ms || cls = 0 || cls = 3) && s.poisonUnder (pa / 128) w.keep
    | _ => false

/-- A scratchpad line written by an engine, a copy or a bay: a window line becomes dirty, or its written bytes are written through
on an HC or memory-side page, at the core's largest pts (R247), and it stays clean in an RO window (R233, R234). On an HC page the window then
holds the home's line at that timestamp; of a memory-side page or another package's it holds none (R245). Where the page may not be written, the line is dirty
and its write-back meets the failure (log 94). -/
def State.spadWrite (s : State) (c : Nat) (w : SpadWrite) : State :=
  let s := s.fillFirst c w.ln
  let k := s.core c
  let new := (k.heldLine w.ln &&& w.keep) ||| (w.data &&& ~~~ w.keep)
  let s := s.updCore c (fun k => k.mendSec w.ln w.keep)
  match k.windowOf w.ln with
  | none => s.updCore c (fun k => { k with spad := Map.set 0 k.spad w.ln new })
  | some (wi, i) =>
    let wn := k.window wi
    let old := (Map.get none wn.lines i).getD { cls := 1 }
    if wn.ro then s.updCore c (fun k => k.putWinLine wi i { old with bad := false, inv := false } new)
    else
      match s.translate c (winVa wn i) .write false with
      | .ok (.phys pa cls ms) =>
        let ln := pa / 128
        if ms ∨ cls = 0 ∨ cls = 3 then
          if s.poisonUnder ln w.keep then s
          else
            let s := s.homeBytes ln new w.keep
            if ms ∨ cls = 3 then s.updCore c (fun k => k.dropWinLine wi i)
            else
              let (s, t) := s.hcStore ln k.maxPts
              (s.raisePts c t).updCore c (fun k =>
                k.putWinLine wi i { pa := pa, cls := 0, rts := t, bad := s.linePoison ln ≠ 0 } (s.homeLine ln))
        else
          let s := s.updCore c (fun k => k.putWinLine wi i { old with cls := cls, pa := pa, dirty := true, bad := false, inv := false } new)
          if cls = 1 then s.enterFifo c (winEntry wi i) (fun s e => s.drainEntry c e) else s
      | .ok (.remote pkg off) =>
        (s.sendLine c wi i (winVa wn i) pkg off new w.keep).updCore c (fun k => k.dropWinLine wi i)
      | .bad _ =>
        let s := s.updCore c (fun k => k.putWinLine wi i { old with dirty := true, bad := false, inv := false } new)
        if old.cls = 1 then s.enterFifo c (winEntry wi i) (fun s e => s.drainEntry c e) else s

def State.spadWrites (s : State) (c : Nat) (ws : List SpadWrite) : State := ws.foldl (fun s w => s.spadWrite c w) s

/-- Memory-side lines are kept in no window: they leave it once an access has used them (R245). -/
def Core.dropMs (k : Core) : Core :=
  { k with wins := k.wins.map (fun w => (w.1, w.2.dropLines (fun _ l => ! l.ms))) }

/-- Bytes of the scratchpad as one number, from line `ln`, `n` lines. -/
def lineCat (f : Nat → Line) (ln n : Nat) : Nat :=
  match n with
  | 0 => 0
  | m + 1 => lineCat f ln m + (f (ln + m)).toNat * 2 ^ (1024 * m)

/-- The lines that `n` bytes from an address touch. -/
def spadLines (a n : Nat) : List Nat := (List.range ((a % 128 + n + 127) / 128)).map (fun i => a / 128 + i)

/-- A little-endian number in `n` bytes of the scratchpad. -/
def spadBytes (f : Nat → Line) (a n : Nat) : Nat :=
  lineCat f (a / 128) ((a % 128 + n + 127) / 128) / 2 ^ (8 * (a % 128)) % 2 ^ (8 * n)

/-- The writes that put `n` bytes of a number at an address. -/
def putBytes (a n v : Nat) : List SpadWrite :=
  (spadLines a n).map (fun ln =>
    let lo := max a (128 * ln)
    let hi := min (a + n) (128 * ln + 128)
    let m := BitVec.ofNat 1024 ((2 ^ (8 * (hi - lo)) - 1) * 2 ^ (8 * (lo - 128 * ln)))
    { ln := ln, data := BitVec.ofNat 1024 (bits v (8 * (lo - a)) (8 * (hi - lo)) * 2 ^ (8 * (lo - 128 * ln))), keep := ~~~ m })

/-- A bank of the scratchpad (R224): bank group and bank. -/
def bankOf (ln : Nat) : Nat := ln / 2 ^ 16 * 64 + ln % 64

end Sys2Proof.Machine
end

