-- ==== Sys2Proof/Machine/Fp.lean ====
section
/-!
DEFINITION. Number formats and arithmetic (R134 to R166, and the binary64 of R87): values are exact dyadic numbers
(a sign, a mantissa and a power of two), computed exactly and rounded once, where the rule rounds.
-/
namespace Sys2Proof.Machine

/-- An exact value: NaN, an infinity, or ±m · 2^e; `m = 0` is a signed zero. -/
inductive FV where
  | nan
  | inf (s : Bool)
  | fin (s : Bool) (m : Nat) (e : Int)
deriving DecidableEq, Repr

/-- A floating-point format (R135): widths of E and F, the bias, the pattern of the largest finite magnitude, of the
canonical NaN and of infinity, where there is one. -/
structure Fmt where
  eb : Nat
  fb : Nat
  bias : Nat
  maxCode : Nat
  nanCode : Nat
  infCode : Option Nat
  fp8 : Bool := false
deriving DecidableEq, Repr

def fmt64 : Fmt := ⟨11, 52, 1023, 0x7fefffffffffffff, 0x7ff8000000000000, some 0x7ff0000000000000, false⟩
def fmt32 : Fmt := ⟨8, 23, 127, 0x7f7fffff, 0x7fc00000, some 0x7f800000, false⟩
def fmtBf : Fmt := ⟨8, 7, 127, 0x7f7f, 0x7fc0, some 0x7f80, false⟩
def fmtE4 : Fmt := ⟨4, 3, 7, 0x7e, 0x7f, none, true⟩
def fmtE5 : Fmt := ⟨5, 2, 15, 0x7b, 0x7f, some 0x7c, true⟩

def Fmt.sign (f : Fmt) (c : Nat) : Bool := c.testBit (f.eb + f.fb)
def Fmt.mag (f : Fmt) (c : Nat) : Nat := c % 2 ^ (f.eb + f.fb)
def Fmt.withSign (f : Fmt) (s : Bool) (mag : Nat) : Nat := if s then 2 ^ (f.eb + f.fb) + mag else mag

/-- The value of a pattern (R135): a magnitude above the largest finite one is an infinity or a NaN. -/
def Fmt.dec (f : Fmt) (c : Nat) : FV :=
  let m := f.mag c
  let e := m / 2 ^ f.fb
  if f.maxCode < m then (if some m = f.infCode then .inf (f.sign c) else .nan)
  else if e = 0 then .fin (f.sign c) m (1 - (f.bias : Int) - f.fb)
  else .fin (f.sign c) (2 ^ f.fb + m % 2 ^ f.fb) (e - (f.bias : Int) - f.fb)

/-- A rounding mode (R42, R142): 0 RNE, 1 RTZ, 2 RUP, 3 RDN, and SR with the state of the lane's generator. -/
inductive Mode where
  | rne | rtz | rup | rdn
  | sr (r : Nat)
deriving DecidableEq, Repr

/-- `m / 2^sh` rounded to a whole number, for a value of sign `s` (R142, R147). -/
def roundShift (s : Bool) (m sh : Nat) (md : Mode) : Nat :=
  let n := m / 2 ^ sh
  let rem := m % 2 ^ sh
  if rem = 0 then n
  else
    let up : Bool := match md with
      | .rne => 2 ^ sh < 2 * rem || (2 * rem = 2 ^ sh && n % 2 = 1)
      | .rtz => false
      | .rup => ! s
      | .rdn => s
      | .sr r => 2 ^ 16 ≤ rem * 2 ^ 16 / 2 ^ sh + r
    if up then n + 1 else n

/-- Rounding to a format (R144): at its precision, at the subnormal spacing below, and with the overflow rules. -/
def Fmt.round (f : Fmt) (md : Mode) (sat : Bool) (x : FV) : Nat :=
  match x with
  | .nan => f.nanCode
  | .inf s =>
    if f.fp8 ∧ sat then f.withSign s f.maxCode
    else match f.infCode with
      | some c => f.withSign s c
      | none => f.nanCode
  | .fin s m e =>
    if m = 0 then f.withSign s 0
    else
      let emin : Int := 1 - (f.bias : Int) - f.fb
      let q : Int := max ((m.log2 : Int) + e - f.fb) emin
      let n := if q ≤ e then m * 2 ^ (e - q).toNat else roundShift s m (q - e).toNat md
      let mag := (q - emin).toNat * 2 ^ f.fb + n
      if mag ≤ f.maxCode then f.withSign s mag
      else if f.fp8 ∧ sat then f.withSign s f.maxCode
      else match f.infCode with
        | none => f.nanCode
        | some c =>
          let away : Bool := match md with
            | .rne => true
            | .rtz => false
            | .rup => ! s
            | .rdn => s
            | .sr _ => f.maxCode < (q - emin).toNat * 2 ^ f.fb +
                (if q ≤ e then m * 2 ^ (e - q).toNat else roundShift s m (q - e).toNat md) &&
                (if q ≤ e then true else m / 2 ^ (q - e).toNat < roundShift s m (q - e).toNat md)
          f.withSign s (if away then c else f.maxCode)

/-! ### Exact operations -/

def signed (s : Bool) (m : Nat) : Int := if s then -(m : Int) else m

def FV.neg (x : FV) : FV :=
  match x with
  | .nan => .nan
  | .inf s => .inf (! s)
  | .fin s m e => .fin (! s) m e

/-- An exact sum; an exact zero is +0, unless both addends are −0 (R140). -/
def FV.add (x y : FV) : FV :=
  match x, y with
  | .nan, _ => .nan
  | _, .nan => .nan
  | .inf s, .inf t => if s = t then .inf s else .nan
  | .inf s, .fin _ _ _ => .inf s
  | .fin _ _ _, .inf t => .inf t
  | .fin s m e, .fin t n g =>
    if m = 0 ∧ n = 0 then .fin (s && t) 0 0
    else if m = 0 then .fin t n g
    else if n = 0 then .fin s m e
    else
      let h := min e g
      let z := signed s (m * 2 ^ (e - h).toNat) + signed t (n * 2 ^ (g - h).toNat)
      if z = 0 then .fin false 0 0 else .fin (z < 0) z.natAbs h

def FV.sub (x y : FV) : FV := x.add y.neg

/-- An exact product; 0 · ∞ is invalid (R140). -/
def FV.mul (x y : FV) : FV :=
  match x, y with
  | .nan, _ => .nan
  | _, .nan => .nan
  | .inf s, .inf t => .inf (s != t)
  | .inf s, .fin t n _ => if n = 0 then .nan else .inf (s != t)
  | .fin s m _, .inf t => if m = 0 then .nan else .inf (s != t)
  | .fin s m e, .fin t n g => .fin (s != t) (m * n) (e + g)

/-- A quotient with 65 bits or more and a sticky last bit, so that every later rounding is that of the exact value
(R88). -/
def FV.div (x y : FV) : FV :=
  match x, y with
  | .nan, _ => .nan
  | _, .nan => .nan
  | .inf _, .inf _ => .nan
  | .inf s, .fin t _ _ => .inf (s != t)
  | .fin s _ _, .inf t => .fin (s != t) 0 0
  | .fin s m e, .fin t n g =>
    if n = 0 then (if m = 0 then .nan else .inf (s != t))
    else if m = 0 then .fin (s != t) 0 0
    else
      let k := 66 + n.log2
      let q := m * 2 ^ k / n
      let st := if m * 2 ^ k % n = 0 then 0 else 1
      .fin (s != t) (2 * q + st) (e - g - k - 1)

/-- The integer square root, found bit by bit from bit `n - 1` down. -/
def isqrt (v n acc : Nat) : Nat :=
  match n with
  | 0 => acc
  | k + 1 => if (acc + 2 ^ k) * (acc + 2 ^ k) ≤ v then isqrt v k (acc + 2 ^ k) else isqrt v k acc

/-- A square root with a sticky last bit (R88). -/
def FV.sqrt (x : FV) : FV :=
  match x with
  | .nan => .nan
  | .inf s => if s then .nan else .inf false
  | .fin s m e =>
    if m = 0 then .fin s 0 0
    else if s then .nan
    else
      let t := if e % 2 = 0 then m else 2 * m
      let g := if e % 2 = 0 then e else e - 1
      let v := t * 2 ^ 128
      let r := isqrt v (v.log2 / 2 + 1) 0
      .fin false (2 * r + (if r * r = v then 0 else 1)) ((g - 128) / 2 - 1)

def FV.scale (x : FV) (k : Int) : FV :=
  match x with
  | .fin s m e => .fin s m (e + k)
  | y => y

def FV.ofInt (i : Int) : FV := .fin (i < 0) i.natAbs 0

def FV.isNan (x : FV) : Bool := x = .nan
def FV.isFin (x : FV) : Bool := match x with
  | .fin _ _ _ => true
  | _ => false
def FV.isZero (x : FV) : Bool :=
  match x with
  | .fin _ m _ => m = 0
  | _ => false

/-- A finite value rounded to an integer (R145). -/
def FV.toInt (md : Mode) (s : Bool) (m : Nat) (e : Int) : Int :=
  signed s (if 0 ≤ e then m * 2 ^ e.toNat else roundShift s m (-e).toNat md)

/-- Conversion to a saturating signed integer of `w` bits: a NaN gives 0 (R145). -/
def FV.toSat (w : Nat) (md : Mode) (x : FV) : Int :=
  match x with
  | .nan => 0
  | .inf s => if s then -(2 ^ (w - 1)) else 2 ^ (w - 1) - 1
  | .fin s m e => max (-(2 ^ (w - 1))) (min (2 ^ (w - 1) - 1) (FV.toInt md s m e))

/-- The order of two patterns that are no NaN: −0 equals +0. -/
def Fmt.key (f : Fmt) (c : Nat) : Int := signed (f.sign c) (f.mag c)

/-- The order that puts −0 below +0 (R88, R140). -/
def Fmt.key0 (f : Fmt) (c : Nat) : Int := if f.sign c then -(f.mag c : Int) - 1 else f.mag c

def Fmt.isNan (f : Fmt) (c : Nat) : Bool := (f.dec c).isNan

def Fmt.eq (f : Fmt) (a b : Nat) : Bool := ! f.isNan a && ! f.isNan b && f.key a = f.key b
def Fmt.lt (f : Fmt) (a b : Nat) : Bool := ! f.isNan a && ! f.isNan b && f.key a < f.key b
def Fmt.le (f : Fmt) (a b : Nat) : Bool := ! f.isNan a && ! f.isNan b && f.key a ≤ f.key b

/-- Maximum and minimum with a NaN result when either is a NaN (R140). -/
def Fmt.maxN (f : Fmt) (a b : Nat) : Nat :=
  if f.isNan a || f.isNan b then f.nanCode else if f.key0 a < f.key0 b then b else a
def Fmt.minN (f : Fmt) (a b : Nat) : Nat :=
  if f.isNan a || f.isNan b then f.nanCode else if f.key0 b < f.key0 a then b else a

/-- Maximum and minimum that pass over one NaN (R88). -/
def Fmt.maxNum (f : Fmt) (a b : Nat) : Nat :=
  if f.isNan a then (if f.isNan b then f.nanCode else b)
  else if f.isNan b then a else f.maxN a b
def Fmt.minNum (f : Fmt) (a b : Nat) : Nat :=
  if f.isNan a then (if f.isNan b then f.nanCode else b)
  else if f.isNan b then a else f.minN a b

/-- One operation rounded once with RNE to the format of its operands (R87, R140). -/
def Fmt.rne (f : Fmt) (x : FV) : Nat := f.round .rne false x
def Fmt.op2 (f : Fmt) (g : FV → FV → FV) (a b : Nat) : Nat := f.rne (g (f.dec a) (f.dec b))
def Fmt.addF (f : Fmt) (a b : Nat) : Nat := f.op2 FV.add a b
def Fmt.subF (f : Fmt) (a b : Nat) : Nat := f.op2 FV.sub a b
def Fmt.mulF (f : Fmt) (a b : Nat) : Nat := f.op2 FV.mul a b
def Fmt.divF (f : Fmt) (a b : Nat) : Nat := f.op2 FV.div a b
def Fmt.fmaF (f : Fmt) (a b c : Nat) : Nat := f.rne (((f.dec a).mul (f.dec b)).add (f.dec c))

/-- FP32 operations by pattern, each rounded with RNE. -/
abbrev add32 (a b : Nat) : Nat := fmt32.addF a b
abbrev sub32 (a b : Nat) : Nat := fmt32.subF a b
abbrev mul32 (a b : Nat) : Nat := fmt32.mulF a b

/-! ### DP8 (R138, R139, R146), E8M0 (R137) -/

/-- A DP8 term in units of 2^-6. -/
def dp8Term (n : Nat) : Int := if n % 8 = 7 then 0 else signed (n.testBit 3) (2 ^ (6 - n % 8))

/-- The value of a DP8 byte in units of 2^-6. -/
def dp8Val (b : Nat) : Int := dp8Term (b / 16) + dp8Term (b % 16)

/-- The nonnegative DP8 values with their canonical bytes, in the order of preference of R139. -/
def dp8Table : List (Nat × Nat) :=
  [(0, 0x77)] ++
  (List.range 7).map (fun e => (2 ^ (6 - e), 16 * e + 7)) ++
  (List.range 7).flatMap (fun e => (List.range (7 - e)).map (fun g => (2 ^ (6 - e) + 2 ^ (6 - e - g), 16 * e + (e + g)))) ++
  (List.range 7).flatMap (fun e => (List.range (6 - e)).map (fun g =>
    (2 ^ (6 - e) - 2 ^ (6 - e - (g + 1)), 16 * e + 8 + (e + g + 1))))

/-- The canonical byte with the signs changed: the terms that are present change sign (R139). -/
def dp8Neg (b : Nat) : Nat :=
  (if b / 16 % 8 = 7 then b / 16 % 16 else (b / 16 + 8) % 16) * 16 +
    (if b % 8 = 7 then b % 16 else (b % 16 + 8) % 16)

/-- The canonical byte of the DP8 value nearest to ±m · 2^e, ties to the smaller magnitude (R146). -/
def dp8Near (s : Bool) (m : Nat) (e : Int) : Nat :=
  let num := if 0 ≤ e + 6 then m * 2 ^ (e + 6).toNat else m
  let den := if 0 ≤ e + 6 then 1 else 2 ^ (-(e + 6)).toNat
  let dist (v : Nat) : Nat := ((v * den : Int) - num).natAbs
  let best := dp8Table.foldl (fun (b : Nat × Nat) c =>
    if dist c.1 < dist b.1 || (dist c.1 = dist b.1 && c.1 < b.1) then c else b) (0, 0x77)
  if s ∧ best.1 ≠ 0 then dp8Neg best.2 else best.2

def toDp8 (x : FV) : Nat :=
  match x with
  | .nan => 0x77
  | .inf s => if s then 0x88 else 0x00
  | .fin s m e => if m = 0 then 0x77 else dp8Near s m e

/-- Two's complement of a byte or a word read as an integer, and back. -/
def sInt (w v : Nat) : Int := if v % 2 ^ w < 2 ^ (w - 1) then (v % 2 ^ w : Int) else (v % 2 ^ w : Int) - 2 ^ w
def uInt (w : Nat) (i : Int) : Nat := (i % 2 ^ w).toNat

/-- Element formats by code (R62): the exact value of an element. Code 6, 1-bit, is not a number format. -/
def elemVal (fmt v : Nat) : FV :=
  match fmt with
  | 0 => fmt32.dec v
  | 1 => fmtBf.dec v
  | 2 => fmtE4.dec v
  | 3 => fmtE5.dec v
  | 4 => FV.ofInt (sInt 8 v)
  | 5 => FV.ofInt (sInt 32 v)
  | 7 => (FV.ofInt (dp8Val v)).scale (-6)
  | _ => .fin false 0 0

/-- Conversion of a value into an element format (R144 to R146). -/
def toElem (fmt : Nat) (md : Mode) (sat : Bool) (x : FV) : Nat :=
  match fmt with
  | 0 => fmt32.round md false x
  | 1 => fmtBf.round md false x
  | 2 => fmtE4.round md sat x
  | 3 => fmtE5.round md sat x
  | 4 => uInt 8 (x.toSat 8 md)
  | 5 => uInt 32 (x.toSat 32 md)
  | 7 => toDp8 x
  | _ => 0

/-- The value of an E8M0 scale as a power of two; 255 is NaN (R137). -/
def e8m0 (c : Nat) : Option Int := if c = 255 then none else some ((c : Int) - 127)

/-- The scale chosen for a block (R151). -/
def scaleChoice (xs : List Nat) (fmt : Nat) : Nat :=
  let vs := xs.map fmt32.dec
  if vs.any (fun v => match v with
    | .fin _ _ _ => false
    | _ => true) then 255
  else
    let amax := xs.foldl (fun a x => max a (fmt32.mag x)) 0
    match fmt32.dec amax with
    | .fin _ m e =>
      if m = 0 then 0
      else
        let emax : Int := if fmt = 2 then 8 else if fmt = 3 then 15 else if fmt = 4 then 6 else 0
        ((max (-127) (min 127 ((m.log2 : Int) + e - emax))) + 127).toNat
    | _ => 255

/-- Quantising with a scale (R152). -/
def quantise (fmt c : Nat) (md : Mode) (sat : Bool) (x : FV) : Nat :=
  match e8m0 c with
  | none => toElem fmt md sat .nan
  | some k => toElem fmt md sat (x.scale (-k))

/-- Dequantising to FP32 (R152). -/
def dequantise (fmt c : Nat) (md : Mode) (v : Nat) : Nat :=
  match e8m0 c with
  | none => fmt32.nanCode
  | some k => fmt32.round md false ((elemVal fmt v).scale k)

/-! ### Lane generators (R148) -/

def lfsrStep (s : Nat) : Nat :=
  let b := (s + s / 4 + s / 8 + s / 32) % 2
  s / 2 + b * 2 ^ 15

def laneSeed (seed i : Nat) : Nat := let v := (seed + 0x2b41 * i) % 2 ^ 16; if v = 0 then 1 else v

/-! ### Function evaluation (R160 to R164) -/

/-- texp[j] = rne32(2^(j/64)) (R161). -/
def texpTable : List Nat :=
  [0x3f800000, 0x3f8164d2, 0x3f82cd87, 0x3f843a29, 0x3f85aac3, 0x3f871f62, 0x3f88980f, 0x3f8a14d5,
   0x3f8b95c2, 0x3f8d1adf, 0x3f8ea43a, 0x3f9031dc, 0x3f91c3d3, 0x3f935a2b, 0x3f94f4f0, 0x3f96942d,
   0x3f9837f0, 0x3f99e046, 0x3f9b8d3a, 0x3f9d3eda, 0x3f9ef532, 0x3fa0b051, 0x3fa27043, 0x3fa43516,
   0x3fa5fed7, 0x3fa7cd94, 0x3fa9a15b, 0x3fab7a3a, 0x3fad583f, 0x3faf3b79, 0x3fb123f6, 0x3fb311c4] ++
  [0x3fb504f3, 0x3fb6fd92, 0x3fb8fbaf, 0x3fbaff5b, 0x3fbd08a4, 0x3fbf179a, 0x3fc12c4d, 0x3fc346cd,
   0x3fc5672a, 0x3fc78d75, 0x3fc9b9be, 0x3fcbec15, 0x3fce248c, 0x3fd06334, 0x3fd2a81e, 0x3fd4f35b,
   0x3fd744fd, 0x3fd99d16, 0x3fdbfbb8, 0x3fde60f5, 0x3fe0ccdf, 0x3fe33f89, 0x3fe5b907, 0x3fe8396a,
   0x3feac0c7, 0x3fed4f30, 0x3fefe4ba, 0x3ff28177, 0x3ff5257d, 0x3ff7d0df, 0x3ffa83b3, 0x3ffd3e0c]

/-- llg[j] = rne32(log2(1 + j/64)) (R162). -/
def llgTable : List Nat :=
  [0x00000000, 0x3cb73cb4, 0x3d35d69c, 0x3d8759c5, 0x3db31fb8, 0x3dde4212, 0x3e0462c4, 0x3e19574f,
   0x3e2e00d2, 0x3e42615f, 0x3e567af1, 0x3e6a4f72, 0x3e7de0b6, 0x3e88983f, 0x3e92203d, 0x3e9b8926,
   0x3ea4d3c2, 0x3eae00d2, 0x3eb7110e, 0x3ec0052b, 0x3ec8ddd4, 0x3ed19bb0, 0x3eda3f60, 0x3ee2c97d,
   0x3eeb3a9f, 0x3ef39355, 0x3efbd42b, 0x3f01fed4, 0x3f060828, 0x3f0a0650, 0x3f0df989, 0x3f11e20f] ++
  [0x3f15c01a, 0x3f1993e3, 0x3f1d5da0, 0x3f211d84, 0x3f24d3c2, 0x3f28808c, 0x3f2c2411, 0x3f2fbe80,
   0x3f335004, 0x3f36d8cb, 0x3f3a58ff, 0x3f3dd0c8, 0x3f41404f, 0x3f44a7ba, 0x3f480731, 0x3f4b5ed7,
   0x3f4eaed0, 0x3f51f740, 0x3f553848, 0x3f587209, 0x3f5ba4a4, 0x3f5ed039, 0x3f61f4e5, 0x3f6512c7,
   0x3f6829fb, 0x3f6b3a9f, 0x3f6e44cd, 0x3f7148a1, 0x3f744636, 0x3f773da4, 0x3f7a2f04, 0x3f7d1a71]

def tableAt (t : List Nat) (j : Nat) : Nat := t.getD j 0

/-- `scale` of R160. -/
def scale32 (y : Nat) (k : Int) : Nat :=
  let e := ((y / 2 ^ 23 % 256 : Nat) : Int) - 127 + k
  if 127 < e then 0x7f800000
  else if e < -126 then 0
  else (e + 127).toNat * 2 ^ 23 + y % 2 ^ 23

abbrev one32 : Nat := 0x3f800000

/-- A finite x as 2^-k · num with its floor and fraction: floor, numerator of the fraction, logarithm of its
denominator. -/
def splitFloor (s : Bool) (m : Nat) (e : Int) : Int × Nat × Nat :=
  if 0 ≤ e then (signed s (m * 2 ^ e.toNat), 0, 0)
  else
    let k := (-e).toNat
    let v := signed s m
    (v / 2 ^ k, (v % 2 ^ k).toNat, k)

/-- exp2s of a finite value (R161). -/
def exp2sFin (s : Bool) (m : Nat) (e : Int) : Nat :=
  let (n, fnum, k) := splitFloor s m e
  let j := 64 * fnum / 2 ^ k
  let g : FV := .fin false (64 * fnum - j * 2 ^ k) (-(k : Int) - 6)
  let gm (c : Nat) : Nat := fmt32.rne (g.mul (fmt32.dec c))
  let t1 := gm 0x3d635847
  let t2 := add32 0x3e75fdf0 t1
  let t3 := gm t2
  let t4 := add32 0x3f317218 t3
  let t5 := gm t4
  let p := add32 one32 t5
  scale32 (mul32 (tableAt texpTable j) p) n

/-- `vexp2` of an FP32 pattern, and exp2s of −∞ (R160, R161). -/
def exp2F (c : Nat) : Nat :=
  match fmt32.dec c with
  | .nan => fmt32.nanCode
  | .inf s => if s then 0 else 0x7f800000
  | .fin s m e => if m = 0 then one32 else exp2sFin s m e

/-- k and the pieces of m = 1 + (num / 2^lg) of a finite nonzero value (R160). -/
def splitLog (m : Nat) (e : Int) : Int × Nat × Nat := ((m.log2 : Int) + e, m - 2 ^ m.log2, m.log2)

def log2F (c : Nat) : Nat :=
  match fmt32.dec c with
  | .nan => fmt32.nanCode
  | .inf s => if s then fmt32.nanCode else 0x7f800000
  | .fin s m e =>
    if m = 0 then 0xff800000
    else if s then fmt32.nanCode
    else
      let (k, num, lg) := splitLog m e
      let j := 64 * num / 2 ^ lg
      let rlg := fmt32.rne ((FV.ofInt 64).div (FV.ofInt (64 + j)))
      let t := fmt32.rne ((FV.fin false m (-(lg : Int))).mul (fmt32.dec rlg))
      let u := sub32 t one32
      let q1 := mul32 u 0x3ef6384f
      let q2 := add32 0xbf38aa3b q1
      let q3 := mul32 u q2
      let q4 := add32 0x3fb8aa3b q3
      let q := mul32 u q4
      let s1 := fmt32.rne ((FV.ofInt k).add (fmt32.dec (tableAt llgTable j)))
      add32 s1 q

/-- One Newton step of R163. -/
def rcpStep (m : FV) (y : Nat) : Nat :=
  let p := fmt32.rne (m.mul (fmt32.dec y))
  let e := sub32 one32 p
  add32 y (mul32 y e)

def rcpF (c : Nat) : Nat :=
  match fmt32.dec c with
  | .nan => fmt32.nanCode
  | .inf s => fmt32.withSign s 0
  | .fin s m e =>
    if m = 0 then fmt32.withSign s 0x7f800000
    else
      let (k, num, lg) := splitLog m e
      if num = 0 then fmt32.withSign s (scale32 one32 (-k))
      else
        let j := 64 * num / 2 ^ lg
        let y := fmt32.rne ((FV.ofInt 128).div (FV.ofInt (129 + 2 * j)))
        let mv : FV := .fin false m (-(lg : Int))
        fmt32.withSign s (scale32 (rcpStep mv (rcpStep mv y)) (-k))

/-- One Newton step of R164. -/
def rsqStep (m : FV) (y : Nat) : Nat :=
  let a := mul32 y y
  let b := fmt32.rne (m.mul (fmt32.dec a))
  let h := mul32 0x3f000000 b
  let c := sub32 0x3fc00000 h
  mul32 y c

def rsqrtF (c : Nat) : Nat :=
  match fmt32.dec c with
  | .nan => fmt32.nanCode
  | .inf s => if s then fmt32.nanCode else 0
  | .fin s m e =>
    if m = 0 then fmt32.withSign s 0x7f800000
    else if s then fmt32.nanCode
    else
      let (k0, _, lg) := splitLog m e
      let odd := k0 % 2 ≠ 0
      let mm := if odd then 2 * m else m
      let k := if odd then k0 - 1 else k0
      if mm = 2 ^ lg then scale32 one32 (-k / 2)
      else
        let j := 32 * (mm - 2 ^ lg) / 2 ^ lg
        let y := fmt32.rne ((FV.div (FV.ofInt 64) (FV.ofInt (65 + 2 * j))).sqrt)
        let mv : FV := .fin false mm (-(lg : Int))
        scale32 (rsqStep mv (rsqStep mv y)) (-k / 2)

/-! ### Combining arithmetic (R165, R166) -/

/-- The operations of R165: 0 INT32 sum, 1 FP32 sum, 2 FP32 max. -/
def combOp (op x y : Nat) : Nat :=
  if op = 0 then (x + y) % 2 ^ 32 else if op = 1 then add32 x y else fmt32.maxN x y

/-- The triple fold (R166) of lists m, s, v…; the second component is the NaN-max flag. -/
def tripleFold (a b : List Nat) : List Nat × Bool :=
  match a, b with
  | m :: s :: v, m' :: s' :: v' =>
    let n := fmt32.nanCode
    if fmt32.isNan m || fmt32.isNan m' then (n :: n :: v.map (fun _ => n), true)
    else if m = 0xff800000 ∧ m' = 0xff800000 then (0xff800000 :: 0 :: v.map (fun _ => 0), false)
    else if m = 0xff800000 then (b, false)
    else if m' = 0xff800000 then (a, false)
    else
      let mm := fmt32.maxN m m'
      let ea := if fmt32.key m = fmt32.key mm then one32 else exp2F (sub32 m mm)
      let eb := if fmt32.key m' = fmt32.key mm then one32 else exp2F (sub32 m' mm)
      (mm :: add32 (mul32 s ea) (mul32 s' eb) :: List.zipWith (fun x y => add32 (mul32 x ea) (mul32 y eb)) v v', false)
  | _, _ => (a, false)

end Sys2Proof.Machine
end

