-- ==== Sys2Proof/Machine/System.lean ====
section
/-!
DEFINITION. The system group (R96 to R101), the context group (R131), the time group (R133), `tend` and `twid` (R132),
the words that fetch raises (R16, R49), and the atomic-set words (R291 to R294).
-/
namespace Sys2Proof.Machine

/-! ### Words that raise causes, and returns -/

/-- `sys` (R97); a task that declares atomic sets becomes irrevocable first (R286). -/
def execSys (k : Tk) (i : BitVec 8) (s : State) : Out :=
  control (.sys k i) k s (fun c x s =>
    if (s.core c).penned then .hold .token286 (s.ctx c x).gc else .own Cause.sys (wordVal (.sys k i)))

/-- `trap c, xa` (R98). -/
def execTrap (k : Tk) (a : Reg) (i : BitVec 8) (s : State) : Out :=
  controlAt 1 (.trap k a i) k s (fun c x s => .own (i.setWidth 5) ((s.ctx c x).rd a))

/-- `brk` (R97). -/
def execBrk (k : Tk) (i : BitVec 8) (s : State) : Out :=
  control (.brk k i) k s (fun _ _ _ => .own Cause.brk (wordVal (.brk k i)))

/-- A queue goes on, no earlier than in the clock after (R176). -/
def EngQ.restart (q : EngQ) (clk : Nat) : EngQ := { q with stop := none, lastClk := some clk }

/-- The queues of a core go on from where they stopped (R109, R344), unless another trap of a queue is still to be taken. -/
def Core.restartQueues (k : Core) : Core :=
  match k.headTrap with
  | h :: _ => { k with holdFor := some h.ctx }
  | [] =>
    { k with
      holdFor := none
      vxe := { k.vxe with q := k.vxe.q.restart k.clk }
      mxe := { k.mxe with q := k.mxe.q.restart k.clk, nest := k.mxe.nest.map (fun (n : Nest) => { n with held := false }) }
      cpe := { k.cpe with q := k.cpe.q.restart k.clk } }

/-- A signal that is still held holds the context again, under a cleared counter, once no handler of its level runs (R106). -/
def Ctx.rehold (t : Ctx) : Ctx :=
  if (if t.pl = 2 then t.htip else t.stip) then t
  else match t.heldSig with
    | f :: _ => { t with waived := false, wait := some (.signal f), bound := t.gc, stall := 0 }
    | [] => { t with waived := false }.reachEnd

/-- `eret` (R24, R82): trap return; a handler of a head trap releases the core's other contexts and its queues (R109). -/
def execEret (k : Tk) (s : State) : Out :=
  controlAt 1 (.eret k) k s (fun c x s =>
    let (t, pc) := (s.ctx c x).trapReturn
    let s := s.setCtx c x t
    let s := if (s.core c).holdFor = some x then s.updCore c Core.restartQueues else s
    let r := (s.updCtx c x (fun t => (t.returnTo pc (s.preReq c)).rehold))
    .stay r)

/-- Some signal of a word finds no place. -/
def Core.lacksRoom (k : Core) (fs : List Nat) : Bool := fs.any (fun f => ! k.fifoRoom f)

/-- `halt` (R99): earlier stores are performed, a held signal is pushed first (R106), and the context stops after the
word; with a signal of its own that finds no place, when that is pushed. -/
def execHalt (k : Tk) (s : State) : Out :=
  controlAt 1 (.halt k) k s (fun c x s =>
    let s' := s.drainStores c x
    match (s'.ctx c x).heldSig with
    | f :: _ => .hold (.signal f) (s.ctx c x).gc
    | [] => .stay (s'.updCtx c x (fun t =>
        { t.leaveTo ((s'.core c).lacksRoom (signalFifos k x)) .stopped with pc := t.pc + 4 })))

/-- `fret` (R100). -/
def execFret (k : Tk) (s : State) : Out :=
  control (.fret k) k s (fun c x s =>
    let t := s.ctx c x
    if t.pl ≠ 0 ∨ t.fip = false then .trap Cause.ill (wordVal (.fret k))
    else if aligned t.fepc 4 = false then .trap Cause.misal t.fepc
    else .ret (s.setCtx c x (t.setFip false)) t.fepc)

/-- A fetched word that no encoding assigns (R49): ILL, with the word. -/
def execIllegalWord (w : Code) (s : State) : Out :=
  let c := s.cur.1
  let x := s.cur.2
  .next (takeTrap s c x Cause.ill (w.setWidth 64) (s.ctx c x).pc)

/-- A fetch that fails (R16): XLAT, PROT, or ECC for a word that is poisoned (R244), with the pc. A fetch that does not
fail does nothing here. One through an FWD leaf is performed where it ends in this package or behind the host port, and raises XLAT
where it ends in another package, which no fetch reaches (log 108). -/
def execFetchFault (s : State) : Out :=
  let c := s.cur.1
  let x := s.cur.2
  let t := s.ctx c x
  match s.translate c t.pc .exec (t.pl = 0) with
  | .bad cz => .next (takeTrap s c x cz t.pc t.pc)
  | .ok (.phys pa cls ms) =>
    .next (if (s.codeFill c x pa cls ms t.pc).2.2 then takeTrap s c x Cause.ecc t.pc t.pc else s)
  | .ok (.remote _ _) => .next (takeTrap s c x Cause.xlat t.pc t.pc)

/-! ### Contexts -/

/-- `cstart` (R131): a stopped context starts at level S; a running, parked or ended one is not affected. -/
def execCstart (k : Tk) (d a : Reg) (s : State) : Out :=
  controlAt 1 (.cstart k d a) k s (fun c x s =>
    let v := (s.ctx c x).rd a
    let n := d.toNat
    if aligned v 4 = false then .trap Cause.misal v
    else if (s.ctx c n).run = .stopped then
      .done (s.updCtx c n (fun u => { u.setPl 1 with run := .running, pc := v, stopReq := false }))
    else .done s)

/-- `cstop` (R131): the context stops at its next word boundary; this one, after this word. -/
def execCstop (k : Tk) (d : Reg) (s : State) : Out :=
  controlAt 1 (.cstop k d) k s (fun c _ s =>
    if (s.ctx c d.toNat).run = .running then .done (s.updCtx c d.toNat (fun u => { u with stopReq := true })) else .done s)

/-- A context that was asked to stop does so at a word boundary, once nothing of it is pending (R131, R106). One that waits at a
word stops once that wait ends (log 109). -/
def State.stopAtBoundary (s : State) (c x : Nat) : State :=
  let s := s.drainStores c x
  match (s.ctx c x).heldSig with
  | f :: _ => s.updCtx c x (fun t => { t with wait := some (.signal f), bound := t.gc, stall := 0 })
  | [] => s.updCtx c x (fun t => { t with run := .stopped, stopReq := false })

/-- `cyield` (R131): after the present cc the context issues nothing for n + 1 cc. -/
def execCyield (k : Tk) (i : BitVec 8) (s : State) : Out :=
  control (.cyield k i) k s (fun c x s => .done (s.updCtx c x (fun t => { t with yieldFor := i.toNat + 2 })))

/-- `cid` (R131). -/
def execCid (k : Tk) (d : Reg) (s : State) : Out :=
  control (.cid k d) k s (fun c x s => .done (s.updCtx c x (fun t => t.wr d (wnat x))))

/-- `cwait` (R131). -/
def execCwait (k : Tk) (d : Reg) (w : BitVec 8) (s : State) : Out :=
  control (.cwait k d w) k s (fun c x s =>
    if d.toNat = x then .trap Cause.ill (wordVal (.cwait k d w))
    else if (s.ctx c d.toNat).inSet then .hold (.ctxStop d.toNat) (waitBound w.toNat)
    else .done s)

/-! ### The end of a context's part of a task, and the task's own number -/

/-- The class of the first outstanding request of a context: a bay that serves it, or an `xcmb` without its result
(R328, R400). -/
def State.outstanding (s : State) (c x : Nat) : Option Nat :=
  let bays := s.engs.flatMap (fun e => e.2.bays.filterMap (fun b =>
    match b.2 with
    | some b => if b.req.core = c ∧ b.req.ctx = x then some b.req.cls else none
    | none => none))
  let cmbs := s.cmbs.filterMap (fun p => if p.core = c ∧ p.ctx = x then some 0 else none)
  match bays ++ cmbs with
  | [] => none
  | l => l.min?

/-- The token bits of a `tend` that runs again after it counted as not executed: a signal that has already reached its FIFO's reader is not
pushed again (R109, log 125). -/
def Ctx.unpaid (t : Ctx) (k : Tk) (x : Nat) : Tk :=
  if t.pc = t.tendPc then
    { k with sp := k.sp && ! t.paid.contains (2 * ((x + 3) % 4) + 1), sn := k.sn && ! t.paid.contains (2 * ((x + 1) % 4)) }
  else k

/-- `tend` (R132): earlier words complete, outstanding requests are waited for (R328), a held signal is pushed first
(R106), and the context leaves the running set; with a signal of its own that finds no place, when that is pushed. -/
def execTend (k : Tk) (s : State) : Out :=
  let k := (s.ctx s.cur.1 s.cur.2).unpaid k s.cur.2
  control (.tend k) k s (fun c x s =>
    let t := s.ctx c x
    match s.outstanding c x with
    | some _ => .hold .tendBays t.gc
    | none =>
      let s' := s.drainStores c x
      match (s'.ctx c x).heldSig with
      | f :: _ => .hold (.signal f) t.gc
      | [] => .done (s'.updCtx c x (fun t =>
          { t.leaveTo ((s'.core c).lacksRoom (signalFifos k x)) .ended with tendPc := t.pc, tendTk := k })))

/-- Field n of a WID with the widths of its launch (R121); an absent field reads 0. -/
def widField (wid : Word) (ws : List Nat) (n : Nat) : Word :=
  wnat (wbits wid (ws.take n).sum (ws.getD n 0))

/-- `twid` (R132). -/
def execTwid (k : Tk) (d : Reg) (i : BitVec 8) (s : State) : Out :=
  control (.twid k d i) k s (fun c x s =>
    let v := match (s.core c).task with
      | some t => if i = 6 then t.wid else widField t.wid t.widths i.toNat
      | none => 0
    .done (s.updCtx c x (fun t => t.wr d v)))

/-! ### Time -/

/-- The frame counter that a core reads (R128). -/
def State.frameOf (s : State) (c : Nat) : Word := (s.pdk (s.coreBlk c)).frame

/-- `wtime` (R133). -/
def execWtime (k : Tk) (a : Reg) (w : BitVec 8) (s : State) : Out :=
  control (.wtime k a w) k s (fun c x s =>
    let v := (s.ctx c x).rd a
    if v ≤ s.timeNs then .done s else .hold (.time v) (waitBound w.toNat))

def execRtime (k : Tk) (d : Reg) (s : State) : Out :=
  control (.rtime k d) k s (fun c x s => .done (s.updCtx c x (fun t => t.wr d s.timeNs)))

def execRframe (k : Tk) (d : Reg) (s : State) : Out :=
  control (.rframe k d) k s (fun c x s => .done (s.updCtx c x (fun t => t.wr d (s.frameOf c))))

/-- `wframe` (R133). -/
def execWframe (k : Tk) (a : Reg) (w : BitVec 8) (s : State) : Out :=
  control (.wframe k a w) k s (fun c x s =>
    let v := (s.ctx c x).rd a
    if v ≤ s.frameOf c then .done s else .hold (.frame v) (waitBound w.toNat))

/-- `slk` (R133). -/
def execSlk (k : Tk) (i : BitVec 8) (s : State) : Out :=
  control (.slk k i) k s (fun c x s => .done (s.updCtx c x (fun t => { t with slk := i.setWidth 4 })))

/-! ### Atomic-set words -/

/-- `aage` (R292). -/
def execAage (k : Tk) (d : Reg) (s : State) : Out :=
  control (.aage k d) k s (fun c x s =>
    let kc := s.core c
    let v := match kc.task with
      | some t =>
        let tw := (List.range 4).any (fun y => (kc.getCtx y).wait = some .token286)
        wnat (min t.restarts 255 * 256 + (if tw then 4 else 0) + (if t.irrev then 2 else 0) + (if t.sets = [] then 0 else 1))
      | none => 0
    .done (s.updCtx c x (fun t => t.wr d v)))

/-- `aheld` (R293); an address that another package translates is asked for there. -/
def execAheld (k : Tk) (d a : Reg) (s : State) : Out :=
  control (.aheld k d a) k s (fun c x s =>
    let t := s.ctx c x
    let v := t.rd a
    let put (w : Word) : Res := .done (s.setCtx c x (t.wr d w))
    match (s.core c).task with
    | none => put 0
    | some tk =>
      match tk.setOf v with
      | none => put 0
      | some i =>
        match s.translate c v .read (t.pl = 0) with
        | .bad cz => .trap cz v
        | .ok p =>
          let (lv, lg) := tk.lotOf i v
          let base := match tk.sets[i]? with
            | some st => st.base
            | none => 0
          let held := match s.translate c (wnat lv) .read false with
            | .ok (.phys pa _ _) => s.holdsLot c pa lg
            | _ => false
          let r : Res := put (wnat ((v.toNat - base) / 2 ^ lg * 2 ^ 32 + (if held then 16 else 0) + 8 + i))
          match p with
          | .remote pkg off => farAsk c x v pkg off s r
          | .phys pa cls ms => hostProbe c x v pa cls ms s r)

/-- `airrev` (R294). -/
def execAirrev (k : Tk) (s : State) : Out :=
  control (.airrev k) k s (fun c x s =>
    if (s.core c).penned then .hold .token286 (s.ctx c x).gc else .done s)

end Sys2Proof.Machine
end

