-- ==== Sys2Proof/Machine/Sync.lean ====
section
/-!
DEFINITION. Synchronising words: tokens between cores (R107), future slots (R114), barriers (R119) and scratchpad rings
(R227 to R232).
-/
namespace Sys2Proof.Machine

/-! ### Tokens (R107) -/

/-- The FIFO that a token descriptor names. -/
def tokenFifo (v : Word) : Nat :=
  let member := wbits v 2 2
  match wbits v 4 2 with
  | 0 => 2 * member + wbits v 0 2
  | 1 => 12 + 2 * member + wbits v 0 2
  | _ => 8 + member

/-- A descriptor that raises ILL. -/
def tokenBad (v : Word) : Bool :=
  let kind := wbits v 4 2
  let member := wbits v 2 2
  let side := wbits v 0 2
  wbits v 13 51 ≠ 0 || wbits v 6 2 ≠ 0 || kind = 3 || 1 < side || (kind = 1 && member = 3) || (kind = 2 && side ≠ 0)

/-- A count of a context's requests (R337): class 0 to 3; 0 refusals, 1 admissions, 2 forced refusals. -/
def State.countAdm (s : State) (c x cls ctr : Nat) : State :=
  s.updCtx c x (fun t => { t with admCnt := Map.upd 0 t.admCnt (4 * cls + ctr) (· + 1) })

/-- `tksnd` (R107): a place is promised and the token is on its way, to another core in a token packet (R298), or the sender is refused through `bz`. -/
def execTksnd (k : Tk) (a : Reg) (s : State) : Out :=
  control (.tksnd k a) k s (fun c x s =>
    let v := (s.ctx c x).rd a
    let tc := wbits v 8 5
    let f := tokenFifo v
    if tokenBad v then .trap Cause.ill (wordVal (.tksnd k a))
    else if (s.pdkCores (s.coreBlk c)).contains tc = false ∨ (wbits v 4 2 ≠ 2 ∧ tc ≠ c) then .trap Cause.prot v
    else if (s.core c).penned then .hold .token286 (s.ctx c x).gc
    else if (s.core tc).fifoRoom f then
      let s := s.updCore tc (fun kc => { kc with promised := Map.upd 0 kc.promised f (· + 1) })
      let s := { s with toks := s.toks ++ [TokFlight.mk tc f (s.core tc).starts s.cc] }
      let s := if tc = c then s else ((s.countAdm c x 3 1).count c x 8 1).formAs c x { ty := 9, kind := 11, dst := tc / 4, noted := true, arg0 := v }
      .done (s.setBz c x false)
    else .done (((s.countAdm c x 3 0).count c x 9 1).setBz c x true))

/-- The own FIFO that `tkrcv` and `tktry` name: 0 `pred`, 1 `succ`, 2 `rem`. -/
def ownFifo (x f : Nat) : Nat := if f = 2 then 8 + x else 2 * x + f

/-- `tkrcv` (R107). -/
def execTkrcv (k : Tk) (a : Reg) (w : BitVec 8) (s : State) : Out :=
  control (.tkrcv k a w) k s (fun c x s =>
    let f := ownFifo x a.toNat
    if (s.core c).avail f = 0 then .hold (.tkrcv f) (waitBound w.toNat)
    else .done ((s.updCore c (fun kc => kc.pop f)).count c x 13 1))

/-- `tktry` (R107). -/
def execTktry (k : Tk) (d a : Reg) (s : State) : Out :=
  control (.tktry k d a) k s (fun c x s =>
    let f := ownFifo x a.toNat
    if (s.core c).avail f = 0 then .done (s.updCtx c x (fun t => t.wr d 0))
    else .done (((s.updCore c (fun kc => kc.pop f)).count c x 13 1).updCtx c x (fun t => t.wr d 1)))

/-! ### Future slots (R114) -/

def execPwr (k : Tk) (d a : Reg) (s : State) : Out :=
  control (.pwr k d a) k s (fun c x s => .done (s.fillSlot c d.toNat ((s.ctx c x).rd a)))

/-- `prd` (R114): FUT when the slot is empty; the slot is unchanged. -/
def execPrd (k : Tk) (d a : Reg) (s : State) : Out :=
  control (.prd k d a) k s (fun c x s =>
    if (s.core c).slotFull a.toNat = false then .trap Cause.fut (wordVal (.prd k d a))
    else .done (s.updCtx c x (fun t => t.wr d ((s.core c).slotVal a.toNat))))

def execPclr (k : Tk) (d : Reg) (s : State) : Out :=
  control (.pclr k d) k s (fun c _ s => .done (s.emptySlot c d.toNat))

def execPwait (k : Tk) (d : Reg) (w : BitVec 8) (s : State) : Out :=
  control (.pwait k d w) k s (fun c _ s =>
    if (s.core c).slotFull d.toNat then .done s else .hold (.pslot d.toNat) (waitBound w.toNat))

/-! ### Barriers (R119) -/

def Paddock.cell (p : Paddock) (n : Nat) : BarCell := Map.get {} p.bar n
def Paddock.setCell (p : Paddock) (n : Nat) (b : BarCell) : Paddock := { p with bar := Map.set {} p.bar n b }

/-- `barinit` (R119): GEN is kept. -/
def execBarinit (k : Tk) (a : Reg) (i : BitVec 8) (s : State) : Out :=
  control (.barinit k a i) k s (fun c x s =>
    let v := (s.ctx c x).rd a
    let e : BitVec 16 := if 1 ≤ v.toNat ∧ v.toNat ≤ 65535 then v.setWidth 16 else 0
    .done (s.updPdk (s.coreBlk c) (fun p => p.setCell i.toNat { p.cell i.toNat with exp := e, arr := 0 })))

/-- One arrival at a cell (R119). -/
def BarCell.arrive (b : BarCell) : BarCell :=
  if b.exp = 0 ∨ b.exp.toNat ≤ b.arr.toNat + 1 then { b with arr := 0, gen := b.gen + 1 } else { b with arr := b.arr + 1 }

/-- `bararr` (R119, R286): a release at paddock scope, the ticket, and the arrival. -/
def execBararr (k : Tk) (d : Reg) (i : BitVec 8) (s : State) : Out :=
  control (.bararr k d i) k s (fun c x s =>
    if (s.core c).penned then .hold .token286 (s.ctx c x).gc
    else
      farDone c (s.release c x 2) (fun s =>
        let b := s.coreBlk c
        let cell := (s.pdk b).cell i.toNat
        .done ((s.updPdk b (fun p => p.setCell i.toNat cell.arrive)).updCtx c x (fun t =>
          t.wr d (wnat (i.toNat * 2 ^ 32 + cell.gen.toNat))))))

/-- `barwait` (R119): an acquire at paddock scope once the ticket's generation has passed. -/
def execBarwait (k : Tk) (a : Reg) (w : BitVec 8) (s : State) : Out :=
  control (.barwait k a w) k s (fun c x s =>
    let v := (s.ctx c x).rd a
    let n := wbits v 32 8
    if wbits v 40 24 ≠ 0 ∨ wbits v 16 16 ≠ 0 then .trap Cause.ill (wordVal (.barwait k a w))
    else if ((s.pdk (s.coreBlk c)).cell n).gen = v.setWidth 16 then .hold (.barrier n (v.setWidth 16)) (waitBound w.toNat)
    else .done (s.acquire c 2))

/-! ### Rings (R227 to R232) -/

def Core.ring (k : Core) (n : Nat) : Ring := Map.get {} k.rings n
def Core.setRing (k : Core) (n : Nat) (r : Ring) : Core := { k with rings := Map.set {} k.rings n r }

/-- Slot `n` of a ring lies at BASE + 128 · LINES · n. -/
def Ring.slotAddr (q : Ring) (n : Nat) : Word := wnat (q.base + 128 * q.lines * n)

/-- A claim can be given (R229, R230). -/
def Core.canClaim (k : Core) (n : Nat) : Bool :=
  let q := k.ring n
  q.claimed + q.filled + q.held < q.slots && (! q.expert || k.ec.isNone)

/-- The claim of a slot (R230). -/
def Core.claim (k : Core) (x n : Nat) : Core × Word :=
  let q := k.ring n
  let k := k.setRing n { q with tail := (q.tail + 1) % q.slots, claimed := q.claimed + 1 }
  ({ k with ec := if q.expert then some (x, n) else k.ec }, q.slotAddr q.tail)

/-- The taking of a filled slot (R230). -/
def Core.take (k : Core) (n : Nat) : Core × Word :=
  let q := k.ring n
  (k.setRing n { q with head := (q.head + 1) % q.slots, filled := q.filled - 1, held := q.held + 1 }, q.slotAddr q.head)

/-- The contexts that wait at a ring for a claim or a slot, by the key of `Wait.ringKey`. -/
def Core.ringWaiters (k : Core) (key : Nat) : List Nat :=
  (k.ringWait.filter (fun e => e.1 = key && (match (k.getCtx e.2).wait with
    | some w => w.ringKey = some key
    | none => false))).map (·.2)

/-- The context that is served first of those that wait at a ring: the one that began first, and of one clock the lowest (R228). -/
def Core.ringFirst (k : Core) (key : Nat) : Option Nat :=
  let at_ (x : Nat) : Nat := (k.getCtx x).waitAt * 4 + x
  (k.ringWaiters key).foldl (fun best x =>
    match best with
    | none => some x
    | some y => if at_ x < at_ y then some x else some y) none

/-- `rgclaim` (R229, R230). -/
def execRgclaim (k : Tk) (d a : Reg) (w : BitVec 8) (s : State) : Out :=
  control (.rgclaim k d a w) k s (fun c x s =>
    let n := a.toNat
    let kc := s.core c
    let q := kc.ring n
    let mine : Bool := match kc.ec with
      | some (y, _) => y = x
      | none => false
    if q.expert && mine then .trap Cause.wait (wnat (4 * 2 ^ 56 + n * 2 ^ 48 + x * 2 ^ 40))
    else if kc.canClaim n ∧ kc.ringFirst (2 * n) = none then
      let (kc, v) := kc.claim x n
      .done ((s.setCore c kc).updCtx c x (fun t => t.wr d v))
    else .hold (.ringClaim d.toNat n) (waitBound w.toNat))

/-- `rgfill` (R228, R230): a release at core scope, then the fill. -/
def execRgfill (k : Tk) (a : Reg) (s : State) : Out :=
  control (.rgfill k a) k s (fun c x s =>
    .done ((s.drainStores c x).updCore c (fun kc =>
      let q := kc.ring a.toNat
      if q.claimed = 0 then kc.setRing a.toNat { q with und := true }
      else
        let kc := kc.setRing a.toNat { q with claimed := q.claimed - 1, filled := q.filled + 1 }
        if q.expert then { kc with ec := none } else kc)))

/-- `rgwait` (R230). -/
def execRgwait (k : Tk) (d a : Reg) (w : BitVec 8) (s : State) : Out :=
  control (.rgwait k d a w) k s (fun c x s =>
    let n := a.toNat
    let kc := s.core c
    if 0 < (kc.ring n).filled ∧ kc.ringFirst (2 * n + 1) = none then
      let (kc, v) := kc.take n
      .done ((s.setCore c kc).updCtx c x (fun t => t.wr d v))
    else .hold (.ringWait d.toNat n) (waitBound w.toNat))

/-- `rgfree` (R230). -/
def execRgfree (k : Tk) (a : Reg) (s : State) : Out :=
  control (.rgfree k a) k s (fun c _ s =>
    .done (s.updCore c (fun kc =>
      let q := kc.ring a.toNat
      kc.setRing a.toNat (if q.held = 0 then { q with und := true } else { q with held := q.held - 1 }))))

/-- The read form's value (R231). -/
def Ring.status (q : Ring) : Word :=
  wnat (q.v.toNat * 2 ^ 63 + q.expert.toNat * 2 ^ 62 + q.und.toNat * 2 ^ 61 + q.bad.toNat * 2 ^ 60 + q.held * 2 ^ 32 +
    q.filled * 2 ^ 16 + q.claimed)

/-- The read form of `rgstat` (R231): UND and BAD clear. -/
def execRgstat (k : Tk) (d a : Reg) (s : State) : Out :=
  control (.rgstat k d a) k s (fun c x s =>
    let q := (s.core c).ring a.toNat
    .done ((s.updCore c (fun kc => kc.setRing a.toNat { q with und := false, bad := false })).updCtx c x (fun t =>
      t.wr d q.status)))

/-- A ring descriptor in the layout of R59, or nothing when a check of R232 refuses it. -/
def ringOf (d0 d1 d2 d3 : Word) : Option Ring :=
  let r : Ring :=
    { v := true, base := wbits d0 0 32, slots := wbits d0 32 16, lines := wbits d0 48 16, head := wbits d1 0 16
      tail := wbits d1 16 16, claimed := wbits d1 32 16, expert := d1.getLsbD 48, filled := wbits d2 0 16
      held := wbits d2 16 16 }
  if r.base % 128 ≠ 0 ∨ r.slots = 0 ∨ r.lines = 0 ∨ 2 ^ 25 < r.base + 128 * r.slots * r.lines ∨ wbits d1 49 15 ≠ 0 ∨
      wbits d2 32 32 ≠ 0 ∨ d3 ≠ 0 ∨ r.slots ≤ r.head ∨ r.slots ≤ r.tail ∨ r.slots < r.claimed + r.filled + r.held ∨
      r.tail ≠ (r.head + r.filled + r.claimed) % r.slots ∨ (r.expert ∧ r.claimed ≠ 0) then none
  else some r

/-- The descriptor of a ring's state (R232): four doublewords, zero for an invalid ring. -/
def Ring.words (q : Ring) : List Word :=
  if q.v = false then [0, 0, 0, 0]
  else [wnat (q.base + q.slots * 2 ^ 32 + q.lines * 2 ^ 48),
        wnat (q.head + q.tail * 2 ^ 16 + q.claimed * 2 ^ 32 + q.expert.toNat * 2 ^ 48),
        wnat (q.filled + q.held * 2 ^ 16), 0]

/-- A `set` of a ring (R229, R232): taken or refused, it ends an expert claim of that ring. UND and BAD stay set until the read form
clears them (R227, R231). -/
def Core.putRing (k : Core) (n : Nat) (r : Option Ring) : Core :=
  let k := match k.ec with
    | some (_, m) => if m = n then { k with ec := none } else k
    | none => k
  let old := k.ring n
  match r with
  | some r => k.setRing n { r with und := old.und, bad := old.bad }
  | none => k.setRing n { und := old.und, bad := true }

/-- The `set` form of `rgstat` (R232). -/
def execRgstatSet (k : Tk) (d a : Reg) (s : State) : Out :=
  control (.rgstatSet k d a) k s (fun c x s =>
    let v := (s.ctx c x).rd a
    if aligned v 32 = false then .trap Cause.misal v
    else
      match s.readBlock c x v 4 with
      | .trap cz va => .trap cz va
      | .wait w b => holdBlk s c x w b
      | .ok s [d0, d1, d2, d3] => .done (s.updCore c (fun kc => kc.putRing d.toNat (ringOf d0 d1 d2 d3)))
      | .ok s _ => .done s)

/-- The `save` form of `rgstat` (R232). -/
def execRgstatSave (k : Tk) (d a : Reg) (s : State) : Out :=
  control (.rgstatSave k d a) k s (fun c x s =>
    let v := (s.ctx c x).rd a
    if aligned v 32 = false then .trap Cause.misal v
    else
      match (s.drainStores c x).writeBlock c x v ((s.core c).ring d.toNat).words with
      | .trap cz va => .trap cz va
      | .wait w b => holdBlk s c x w b
      | .ok s _ => .done s)

end Sys2Proof.Machine
end

