-- ==== Sys2Proof/Machine/Launch.lean ====
section
/-!
DEFINITION. Launch packets (R57, R120, R121, R274), their queues, `tlnc` (R132), interrupts (R371 to R373) and mailbox
notices (R417).
-/
namespace Sys2Proof.Machine

/-! ### The packet's fields (R57) -/

def pktWord (d : List Word) (i : Nat) : Word := d.getD i 0
def pktCtl (d : List Word) : Word := pktWord d 3
def pktPrio (d : List Word) : Nat := wbits (pktCtl d) 0 3
def pktSlk (d : List Word) : Nat := wbits (pktCtl d) 4 4
def pktNset (d : List Word) : Nat := wbits (pktCtl d) 8 4
def pktPe (d : List Word) : Bool := (pktCtl d).getLsbD 12
def pktAs (d : List Word) : Bool := (pktCtl d).getLsbD 13
def pktRc (d : List Word) : Bool := (pktCtl d).getLsbD 14
def pktTt (d : List Word) : Nat := wbits (pktCtl d) 16 16
def pktEpi (d : List Word) : Nat := wbits (pktCtl d) 32 32

/-- The 32-bit word at offset 32 + 4i. -/
def pktField (d : List Word) (i : Nat) : Nat := wbits (pktWord d (4 + i / 2)) (32 * (i % 2)) 32

/-- Width, placement and N of field i. -/
def fieldW (f : Nat) : Nat := f % 128
def fieldPl (f : Nat) : Nat := f / 256 % 4
def fieldN (f : Nat) : Nat := f / 1024
def fieldCount (f : Nat) : Nat := if fieldN f = 0 then 2 ^ fieldW f else fieldN f

/-- The lowest byte that holds a one bit of a number's low `n` bytes. -/
def lowByte (v n : Nat) : Option Nat := (List.range n).find? (fun i => bits v (8 * i) 8 ≠ 0)

/-- Offset of the lowest byte that holds a nonzero reserved bit. -/
def pktReserved (d : List Word) : Option Nat :=
  if (pktCtl d).getLsbD 3 then some 24
  else if (pktCtl d).getLsbD 15 then some 25
  else
    match (List.range 6).find? (fun i => (pktField d i).testBit 7) with
    | some i => some (32 + 4 * i)
    | none => (lowByte (pktWord d 7).toNat 8).map (· + 56)

/-- The field at which the running sum of widths first passes 64. -/
def pktWide (d : List Word) : Option Nat :=
  (List.range 6).find? (fun i => 64 < ((List.range (i + 1)).map (fun j => fieldW (pktField d j))).sum)

/-- The lowest field whose PL or N its width forbids. -/
def pktBadField (d : List Word) : Option Nat :=
  (List.range 6).find? (fun i =>
    let f := pktField d i
    if fieldW f = 0 then fieldPl f ≠ 0 || fieldN f ≠ 0 else 2 ^ fieldW f < fieldN f)

/-- The field at which the running product of the non-PKG value counts first passes 65,536. -/
def pktMany (d : List Word) : Option Nat :=
  (List.range 6).find? (fun i => 65536 < ((List.range (i + 1)).map (fun j =>
    let f := pktField d j
    if fieldW f = 0 ∨ fieldPl f = 0 then 1 else fieldCount f)).prod)

/-- A timetable entry, by number (R129). -/
def Paddock.entry (p : Paddock) (e : Nat) : TtEntry := Map.get {} p.tt e
def Paddock.setEntry (p : Paddock) (e : Nat) (t : TtEntry) : Paddock := { p with tt := Map.set {} p.tt e t }
def TtEntry.valid (t : TtEntry) : Bool := t.d1.getLsbD 7
def TtEntry.dl (t : TtEntry) : Bool := t.d1.getLsbD 8
def TtEntry.prio (t : TtEntry) : Nat := wbits t.d1 4 3
def TtEntry.queue (t : TtEntry) : Nat := wbits t.d1 0 4
def TtEntry.release (t : TtEntry) : BitVec 32 := t.d0.setWidth 32
def TtEntry.deadline (t : TtEntry) : BitVec 32 := (t.d0 >>> 32).setWidth 32

/-- The conditions of R120 in the order listed, up to CODE and RC; the INFO of the first that holds. -/
def pktCheck (p : Paddock) (q : Nat) (d : List Word) : Option Nat :=
  match pktReserved d with
  | some o => some o
  | none =>
    if 8 < pktNset d ∨ pktAs d ≠ (0 < pktNset d) then some 24
    else
      match pktWide d with
      | some i => some (32 + 4 * i)
      | none =>
        match pktBadField d with
        | some i => some (32 + 4 * i)
        | none =>
          match pktMany d with
          | some i => some (32 + 4 * i)
          | none =>
            let e := p.entry (pktTt d)
            if pktTt d ≠ 0xffff ∧ (4095 < pktTt d ∨ e.valid = false ∨ e.queue ≠ q) then some 24
            else if wbits (pktWord d 0) 0 2 ≠ 0 then some 0
            else if pktRc d ∧ (pktPe d ∨ pktAs d) then some 24
            else none

/-- The effective priority of a packet (R124): its timetable entry's, where it names one. -/
def pktEffPrio (p : Paddock) (d : List Word) : Nat :=
  if pktTt d = 0xffff then pktPrio d else (p.entry (pktTt d)).prio

/-! ### Declared sets (R58, R274) -/

/-- Where a load of the launch unit goes (R251, R274): a page of this package, one behind the host port, or another package. A PV
page is its owner's alone (R250). -/
def State.unitPlace (s : State) (blk vf va : Nat) : Tr :=
  if va / 2 ^ 48 ≠ 0 then .bad Cause.xlat
  else if va.testBit 47 then
    (if bits va 41 6 = s.pkg.toNat then s.domainPlace 3 (s.ownTaker blk) (bits va 0 41) .read false
    else .ok (.remote (bits va 41 6) (bits va 0 41)))
  else match s.walk 3 (s.rootOf vf) va with
    | none => .bad Cause.xlat
    | some (pte, lvl) =>
      let pa := leafPa pte lvl va
      let cls := bits pte 2 2
      if leafAllows pte .read false = false ∨ cls = 2 then .bad Cause.prot
      else if cls = 3 then
        if pte.testBit 57 then .ok (.phys pa 3 true)
        else if bits pte 58 6 = s.pkg.toNat then s.domainPlace 3 (s.ownTaker blk) (pa % 2 ^ 41) .read false
        else .ok (.remote (bits pte 58 6) (pa % 2 ^ 41))
      else if paOk (s.pdk blk) pa then .ok (.phys pa (BitVec.ofNat 2 cls) (pte.testBit 9)) else .bad Cause.prot

/-- A load of the launch unit at level S of a function (R274). What another package answers is a free value (log 103). -/
def State.unitLoad (s : State) (blk vf va : Nat) : Option Word :=
  if va % 8 ≠ 0 then none
  else
    match s.unitPlace blk vf va with
    | .bad _ => none
    | .ok (.remote pkg off) => if (s.routePort pkg 16 off).isNone then none else Config.freeUnitLoad s.free va
    | .ok (.phys pa _ _) =>
      if s.wordPoison pa || s.wordPoison (pa + 4) then none else some (wnat (s.homeRead pa 8))

/-- One declaration that R58 and R274 allow. -/
def asetOf (b z l : Word) : Option ASet :=
  let lg := l.toNat
  if lg < 7 ∨ 21 < lg ∨ b.toNat % 2 ^ lg ≠ 0 ∨ z = 0 ∨ z.toNat % 2 ^ lg ≠ 0 ∨ 2 ^ 47 < b.toNat + z.toNat then none
  else some ⟨b.toNat, z.toNat, lg⟩

/-- The sets of a packet, or nothing when it is rejected with INFO 16. -/
def State.readSets (s : State) (blk vf va n : Nat) : Option (List ASet) :=
  match n with
  | 0 => some []
  | m + 1 =>
    match s.unitLoad blk vf va, s.unitLoad blk vf (va + 8), s.unitLoad blk vf (va + 16) with
    | some b, some z, some l =>
      match asetOf b z l, s.readSets blk vf (va + 24) m with
      | some a, some r =>
        if r.any (fun t => a.base < t.base + t.size && t.base < a.base + a.size) then none else some (a :: r)
      | _, _ => none
    | _, _, _ => none

/-! ### Arrival at a queue (R120, R411) -/

def Paddock.queue (p : Paddock) (q : Nat) : List Packet := Map.get [] p.queues q

/-- A packet at a launch queue that has room: enqueued, or rejected with an INFO. The paddock's STATE is tested first
(R411), and a function in reset enqueues none (R414; the INFO is DESIGN CHOICE, log 142); the sets are read last (R274). An entry that the packet names is armed (R129). -/
def State.arrive (s : State) (blk q vf : Nat) (d : List Word) (src : Option (Nat × Nat × Word)) : Except Nat State :=
  let p := s.pdk blk
  if wbits p.pctl 60 2 ≠ 0 ∨ (s.func vf).vfctl.getLsbD 62 then .error 0x104
  else
    match pktCheck p q d with
    | some i => .error i
    | none =>
      if Config.launchQueueLen ≤ (p.queue q).length then .error 0x103
      else
        match s.readSets blk vf (pktWord d 2).toNat (pktNset d) with
        | none => .error 16
        | some sets =>
          let p := { p with queues := Map.set [] p.queues q (p.queue q ++ [⟨d, vf, src, sets, s.cc⟩]) }
          let p := if pktTt d = 0xffff then p else p.setEntry (pktTt d) { p.entry (pktTt d) with armed := true }
          .ok (({ s with free := s.free + 1 } : State).setPdk blk p)

/-- The effective priority of the issuing task's own launch (R132). -/
def State.taskPrio (s : State) (c : Nat) : Nat :=
  match (s.core c).task with
  | some t => t.prio
  | none => 7

/-- `tlnc` (R132, R113): a full queue is answered through `bz`; a rejected packet fills the slot with FAULT. -/
def execTlnc (k : Tk) (d a : Reg) (i : BitVec 8) (s : State) : Out :=
  control (.tlnc k d a i) k s (fun c x s =>
    let t := s.ctx c x
    let v := t.rd a
    let blk := s.coreBlk c
    let q := i.toNat
    if aligned v 64 = false then .trap Cause.misal v
    else
      match s.readBlock c x v 8 with
      | .trap cz va => .trap cz va
      | .wait w b => holdBlk s c x w b
      | .ok s' pk =>
        if (s.core c).penned then .hold .token286 t.gc
        else if Config.launchQueueLen ≤ ((s'.pdk blk).queue q).length then .done (s'.setBz c x true)
        else
          let s1 := (s'.setBz c x false).emptySlot c d.toNat
          let stamp := match (s1.core c).task with
            | some tk => tk.stamp
            | none => 0
          match s1.arrive blk q (s1.coreVf c) pk (some (c, d.toNat, stamp)) with
          | .error info => .done (s1.fillSlot c d.toNat (completion codeFault info))
          | .ok s2 =>
            if t.pl = 0 ∧ s1.taskPrio c < pktEffPrio (s1.pdk blk) pk then
              .done (s1.fillSlot c d.toNat (completion codeFault 24))
            else .done s2)

/-! ### Interrupts and notices -/

/-- The function's MSI-X vector of a source, and the physical function's log vector (log 18). -/
def srcVector (src : Nat) : Nat := src
def logVector : Nat := 16

/-- One entry of an interrupt log (R372) at TAIL. -/
def State.logEntry (s : State) (fn src vec info : Nat) : State :=
  let f := s.func fn
  let a := wbits f.ilbase 6 42 * 64 + 16 * f.iltail.toNat
  let n := 2 ^ wbits f.ilsize 0 4
  let s := (s.homeWrite a 8 s.timeNs.toNat).homeWrite (a + 8) 8
    (vec % 64 * 2 ^ 58 + fn % 64 * 2 ^ 52 + src % 16 * 2 ^ 48 + info % 2 ^ 48)
  s.updFunc fn (fun f => { f with iltail := wnat ((f.iltail.toNat + 1) % n) })

/-- The log has no room (R373). -/
def Func.logFull (f : Func) : Bool := (f.iltail.toNat + 1) % 2 ^ wbits f.ilsize 0 4 = f.ilhead.toNat % 2 ^ wbits f.ilsize 0 4

/-- An interrupt of a function (R371, R373): to its vectors, or to its log while the guest is not resident. -/
def State.interrupt (s : State) (fn src info : Nat) : State :=
  let f := s.func fn
  let vec := srcVector src
  if fn = 0 ∨ f.ilres.getLsbD 0 then s.updFunc fn (fun f => { f with msix := f.msix ++ [vec] })
  else if f.logFull then
    s.updFunc fn (fun f => { f with
      ilpend := f.ilpend ||| wnat (2 ^ vec), ilheld := Map.upd 0 f.ilheld vec (· + 1) })
  else (s.logEntry fn src vec info).updFunc 0 (fun f => { f with msix := f.msix ++ [logVector] })

/-- Mailbox entries: dword `j` of entry `e` is at index 32 · e + j. The entries of a function (R417). -/
def Func.mb (f : Func) (e j : Nat) : Word := Map.get 0 f.mbox (32 * e + j)
def Func.setMb (f : Func) (e j : Nat) (v : Word) : Func := { f with mbox := Map.set 0 f.mbox (32 * e + j) v }
def mbEntries (fn : Nat) : Nat := if fn = 0 then 64 else 8
def mbRequests (fn : Nat) : Nat := if fn = 0 then 56 else 6
def mbDone (v : Word) : Bool := v.getLsbD 62
def mbGo (v : Word) : Bool := v.getLsbD 63

/-- The dwords of a notice (R417): dword 0, LEN, and the payload from byte 16. -/
def noticeWords (quiesced : Bool) (blk q lost info : Nat) (d : List Word) : List Word :=
  let head := wnat (2 ^ 62 + (if quiesced then 2 * 2 ^ 24 + 0x101 else 8 * 2 ^ 24 + 0x100))
  let p0 := wnat (info % 2 ^ 32 * 2 ^ 32 + min lost 255 * 2 ^ 16 + q % 256 * 256 + blk % 256)
  [head, 128, p0, 0, 0, 0, 0, 0, 0, 0] ++ (List.range 8).map (pktWord d)

/-- Waiting notices enter the function's notice entries in rotation, while the next entry is free. -/
def Func.placeNotices (f : Func) (fn : Nat) : Func :=
  (List.range 16).foldl (fun f _ =>
    let e := mbRequests fn + f.nextNotice % (mbEntries fn - mbRequests fn)
    match f.notices with
    | [] => f
    | n :: r =>
      if mbDone (f.mb e 0) then f
      else { f with mbox := Map.setList 0 f.mbox (32 * e) n, notices := r
                    nextNotice := (f.nextNotice + 1) % (mbEntries fn - mbRequests fn) }) f

/-- A notice for a packet that the device refused (R417): up to 16 wait; a further one is dropped and counted. -/
def State.notice (s : State) (fn blk q info : Nat) (d : List Word) : State :=
  let f := s.func fn
  if 16 ≤ f.notices.length then s.updFunc fn (fun f => { f with lost := f.lost + 1 })
  else
    let n := noticeWords (info = 0x104) blk q f.lost info d
    let s := s.updFunc fn (fun f => ({ f with notices := f.notices ++ [n], lost := 0 }).placeNotices fn)
    s.interrupt fn 1 info

end Sys2Proof.Machine
end

