-- ==== Sys2Proof/Machine/Tasks.lean ====
section
/-!
DEFINITION. Tasks: indexes, WIDs and placement (R121), choosing work (R124, R433, R365), starting a task (R122), and
completing one and its launch (R112, R434).
-/
namespace Sys2Proof.Machine

/-! ### Task numbers (R121)

A launch's tasks on this package are numbered k · n + index, k counting the PKG values that the package runs and n the
number of indexes. -/

/-- The present fields of a packet: position in the WID, placement, count. -/
def pktFields (d : List Word) : List (Nat × Nat × Nat) :=
  ((List.range 6).filter (fun i => fieldW (pktField d i) ≠ 0)).map (fun i =>
    (((List.range i).map (fun j => fieldW (pktField d j))).sum, fieldPl (pktField d i), fieldCount (pktField d i)))

def ownFields (d : List Word) : List (Nat × Nat × Nat) := (pktFields d).filter (fun f => f.2.1 ≠ 0)
def pkgFields (d : List Word) : List (Nat × Nat × Nat) := (pktFields d).filter (fun f => f.2.1 = 0)

/-- Mixed-radix digits, the first count least significant, and back. -/
def digits (v : Nat) (ns : List Nat) : List Nat :=
  match ns with
  | [] => []
  | n :: r => v % n :: digits (v / n) r
def undigits (ds ns : List Nat) : Nat :=
  match ds, ns with
  | d :: ds, n :: ns => d + n * undigits ds ns
  | _, _ => 0

def counts (fs : List (Nat × Nat × Nat)) : List Nat := fs.map (·.2.2)
def indexCount (d : List Word) : Nat := (counts (ownFields d)).prod

/-- The job size and rank of a paddock (R409). -/
def Paddock.jobSize (p : Paddock) : Nat := wbits p.job 0 6 + 1
def Paddock.jobRank (p : Paddock) : Nat := wbits p.job 8 6

/-- How many tasks a packet has on this package (R121). -/
def taskCount (p : Paddock) (d : List Word) : Nat :=
  let total := (counts (pkgFields d)).prod
  if pkgFields d = [] then indexCount d
  else if p.jobRank < total then (total - p.jobRank + p.jobSize - 1) / p.jobSize * indexCount d
  else 0

/-- The digits of a task over the fields that are not PKG, and its combined value of one placement. -/
def taskDigits (d : List Word) (t : Nat) : List Nat := digits (t % indexCount d) (counts (ownFields d))
def combined (pl : Nat) (fs : List (Nat × Nat × Nat)) (ds : List Nat) : Nat :=
  let z := (fs.zip ds).filter (fun e => e.1.2.1 = pl)
  undigits (z.map (·.2)) (z.map (·.1.2.2))

/-- The WID of a task: field 0 in its low bits, each later field above (R121). -/
def taskWid (p : Paddock) (d : List Word) (t : Nat) : Word :=
  let own := (ownFields d).zip (taskDigits d t)
  let pv := p.jobRank + t / indexCount d * p.jobSize
  let pkg := (pkgFields d).zip (digits pv (counts (pkgFields d)))
  wnat (((own ++ (if pkgFields d = [] then [] else pkg)).map (fun e => e.2 * 2 ^ e.1.1)).sum)

/-- The same task with another combined SEQ value. -/
def withSeq (d : List Word) (t sv : Nat) : Nat :=
  let fs := ownFields d
  let seqNs := (fs.filter (fun f => f.2.1 = 3)).map (·.2.2)
  let rec put (fs : List (Nat × Nat × Nat)) (ds sd : List Nat) : List Nat :=
    match fs, ds with
    | f :: fs, x :: ds => if f.2.1 = 3 then sd.headD 0 :: put fs ds sd.tail else x :: put fs ds sd
    | _, _ => []
  t / indexCount d * indexCount d + undigits (put fs (taskDigits d t) (digits sv seqNs)) (counts fs)

/-- The link before a task in its chain, and the chain's first link (R121). -/
def seqPred (d : List Word) (t : Nat) : Option Nat :=
  let sv := combined 3 (ownFields d) (taskDigits d t)
  if sv = 0 then none else some (withSeq d t (sv - 1))
def seqFirst (d : List Word) (t : Nat) : Nat := withSeq d t 0

/-- The sheds of a paddock, ascending. -/
def Paddock.shedList (p : Paddock) : List Nat := (List.range 8).filter (fun j => p.sheds.testBit j)

/-- A core is admitted by a task's placement (R121), its chain included. -/
def State.admits (s : State) (l : Launch) (t c : Nat) : Bool :=
  let p := s.pdk l.blk
  let d := l.pkt.d
  let fs := ownFields d
  let ds := taskDigits d t
  let sheds := p.shedList
  let shed := if fs.any (fun f => f.2.1 = 1) then sheds[combined 1 fs ds % sheds.length]? else none
  let home := (s.pdkCores l.blk).filter (fun k => match shed with
    | some j => k / 4 = j
    | none => true)
  let here := if fs.any (fun f => f.2.1 = 2) then home[combined 2 fs ds % home.length]? = some c else home.contains c
  let chain := match seqPred d t with
    | none => true
    | some u => l.done.contains u && (match l.ran.find? (fun e => e.1 = seqFirst d t) with
      | some e => e.2 = c
      | none => true)
  here && chain

/-- The tasks of a launch in ascending task index, those of one index in ascending PKG value (R124 step 6). -/
def Launch.order (l : Launch) : List Nat :=
  let n := indexCount l.pkt.d
  (List.range n).flatMap (fun i => (List.range (l.total / n)).map (fun k => k * n + i))

def Launch.unstarted (l : Launch) : List Nat := l.order.filter (fun t => ! l.started.contains t)

/-- The age stamp of a task (R123). -/
def Launch.stamp (l : Launch) (t : Nat) : Word :=
  wnat (l.tick.toNat * 2 ^ 32 + l.seq.toNat * 2 ^ 16 + t % indexCount l.pkt.d % 2 ^ 16)

/-- Stamp a is older than stamp b (R123). -/
def olderStamp (a b : Word) : Bool :=
  let serial (x y n : Nat) : Bool := (y + 2 ^ n - x) % 2 ^ n < 2 ^ (n - 1)
  let at_ := wbits a 32 32
  let bt := wbits b 32 32
  let as_ := wbits a 16 16
  let bs := wbits b 16 16
  if at_ ≠ bt then serial at_ bt 32
  else if as_ ≠ bs then serial as_ bs 16
  else wbits a 0 16 < wbits b 0 16

/-! ### Choosing work (R124, R433, R365) -/

def State.launch (s : State) (n : Nat) : Option Launch := Map.get none s.launches n
def State.setLaunch (s : State) (n : Nat) (l : Option Launch) : State := { s with launches := Map.set none s.launches n l }
def State.updLaunch (s : State) (n : Nat) (f : Launch → Launch) : State :=
  match s.launch n with
  | some l => s.setLaunch n (some (f l))
  | none => s

/-- The task that a launch would start on a core: a saved one before an unstarted one, lowest index first (R124, R365). -/
def State.offerOf (s : State) (l : Launch) (c : Nat) : Option (Nat × Option Nat) :=
  match l.order.findSome? (fun t => if s.admits l t c then l.saved.find? (fun e => e.1 = t) else none) with
  | some e => some (e.1, some e.2)
  | none => (l.unstarted.find? (fun t => s.admits l t c)).map (fun t => (t, none))

/-- Candidates of a core: launch number, launch, task and save slot. -/
def State.candidates (s : State) (c : Nat) : List (Nat × Launch × Nat × Option Nat) :=
  s.launches.filterMap (fun e =>
    match e.2 with
    | some l => if l.blk = s.blkOf c then (s.offerOf l c).map (fun o => (e.1, l, o.1, o.2)) else none
    | none => none)

/-- Deficit round-robin (R433): the function chosen, with the deficits and the pointer after it. -/
def drrChoose (s : State) (p : Paddock) (vfs : List Nat) : Nat × Map Nat × Nat :=
  let drr := p.drr.filter (fun e => vfs.contains e.1)
  let cyc := vfs.filter (fun v => p.drrPtr ≤ v) ++ vfs.filter (fun v => v < p.drrPtr)
  let (drr, v) := match cyc.find? (fun v => 1 ≤ Map.get 0 drr v) with
    | some v => (drr, v)
    | none => (cyc.foldl (fun m v => Map.upd 0 m v (fun d => min 255 (d + wbits (s.func v).vfctl 8 8))) drr, cyc.headD 0)
  let drr := Map.upd 0 drr v (· - 1)
  (v, drr, if Map.get 0 drr v = 0 then (v + 1) % 64 else v)

/-- Ascending, without repeats. -/
def ascending (l : List Nat) : List Nat := (List.range 64).filter (fun v => l.contains v)

/-- The choice of R124 for an idle core, with the paddock's round-robin state after it. -/
def State.choose (s : State) (c : Nat) : State × Option (Nat × Launch × Nat × Option Nat) :=
  let cs := s.candidates c
  let top := cs.foldl (fun m e => max m e.2.1.prio) 0
  let cs := cs.filter (fun e => e.2.1.prio = top)
  let vfs := ascending (cs.map (fun e => e.2.1.pkt.vf))
  let blk := s.blkOf c
  if vfs.length ≤ 1 then (s, cs.head?)
  else
    let (v, drr, ptr) := drrChoose s (s.pdk blk) vfs
    (s.updPdk blk (fun p => { p with drr := drr, drrPtr := ptr }), (cs.filter (fun e => e.2.1.pkt.vf = v)).head?)

/-! ### Starting a task (R122) -/

/-- A context at task start. -/
def startCtx (p : Paddock) (f : Func) (d : List Word) (wid : Word) (pts : Word) : Ctx :=
  { run := .running
    x := Map.set 0 (Map.set 0 [] 1 (pktWord d 1)) 2 wid
    pc := pktWord d 0
    status := 0
    sBank := { tvec := f.vftvec }
    hBank := { tvec := p.htvec }
    slk := BitVec.ofNat 4 (pktSlk d)
    pts := pts }

/-- The lane generators' seed values (R148): lane i starts from the task's seed. -/
def seedLanes (seed : BitVec 16) (i : Nat) : BitVec 16384 :=
  match i with
  | 0 => 0
  | m + 1 => seedLanes seed m ||| BitVec.ofNat 16384 (laneSeed seed.toNat m) <<< (16 * m)

/-- The vector engine at task start (R148, R169). -/
def Vxe.start : Vxe := { gen := seedLanes 0xace1 1024 }

/-- A core that starts a task: every state of the task at its start value; scratchpad, caches and the core's own
registers stay (R122, R226, R362), and so does the count of words retired at U by which a watch knows its end (R350). -/
def Core.startTask (k : Core) (t : Task) (mk : Word → Ctx) (floor : Word) : Core :=
  let pts := maxW k.maxPts floor
  let at_ (x : Nat) : Nat × Ctx := (x, { mk pts with retiredU := (k.getCtx x).retiredU })
  { k with
    ctx := [at_ 0, at_ 1, at_ 2, at_ 3]
    task := some t
    pval := []
    pfull := 0
    fifo := []
    fresh := []
    vxe := Vxe.start
    mxe := {}
    cpe := {}
    fences := []
    fenceNo := 0
    rings := []
    ec := none
    ringWait := []
    wins := []
    dfifo := k.dfifo.filter (fun e => e % 2 = 0)
    oq := []
    pen := []
    hold := []
    blkOps := []
    starts := k.starts + 1
    enqNo := 0
    perf := []
    perfBind := []
    request := none
    point := false
    resuming := false
    headTrap := []
    holdFor := none
    frozen := none
    wounded := false
    rolling := false
    committing := false }

/-- The task record of a launch's task on a core. -/
def State.taskOf (s : State) (ln : Nat) (l : Launch) (t : Nat) : Task :=
  { launch := ln
    idx := t
    wid := taskWid (s.pdk l.blk) l.pkt.d t
    stamp := l.stamp t
    vf := l.pkt.vf
    blk := l.blk
    prio := l.prio
    sets := l.pkt.sets
    pe := pktPe l.pkt.d
    rc := pktRc l.pkt.d
    epi := pktEpi l.pkt.d
    restarts := match l.again.find? (fun e => e.1 = t) with
      | some e => e.2
      | none => 0
    startClk := s.cc
    widths := (List.range 6).map (fun i => fieldW (pktField l.pkt.d i)) }

/-- A core takes up a task at its start state (R122); the pen of one that declares sets takes its ways (R239). -/
def State.beginTask (s : State) (c : Nat) (t : Task) (d : List Word) : State :=
  let p := s.pdk t.blk
  (s.updCore c (fun k => { k.startTask t (startCtx p (s.func t.vf) d t.wid) p.floor with progAt := s.cc })).clearPenWays c

/-- A core is idle and may take work: enabled, ready in a shed that is ready (R422), in a valid paddock that is not quiesced (R411), and with no
task. -/
def State.idle (s : State) (c : Nat) : Bool :=
  s.fuses.getLsbD c && s.rdy1.getLsbD c && s.rdy0.getLsbD (c / 4) && (s.core c).task.isNone && (s.core c).frozen.isNone &&
    (List.range 8).any (fun b => (s.pdk b).valid && (s.pdk b).sheds.testBit (c / 4) && wbits (s.pdk b).pctl 60 2 ≠ 2)

/-- The core chooses now: it is idle, and no idle core below it has work to take (R124). -/
def State.chooses (s : State) (c : Nat) : Bool :=
  s.idle c && (List.range c).all (fun d => ! s.idle d || (s.choose d).2.isNone)

/-- A core takes a task of a launch up: it runs the later links of that task's chain (R121). -/
def Launch.runsOn (l : Launch) (t core : Nat) : Launch :=
  { l with ran := l.ran.filter (fun e => e.1 ≠ seqFirst l.pkt.d t) ++ [(seqFirst l.pkt.d t, core)] }

/-- `TASK_START` (R122, R124): an idle core takes the task of its choice, when that is not a saved one. -/
def execTaskStart (core : Nat) (s : State) : Out :=
  if s.chooses core then
    match s.choose core with
    | (s', some (ln, l, t, none)) =>
      let l' := { l.runsOn t core with started := l.started ++ [t], again := l.again.filter (fun e => e.1 ≠ t) }
      .next ((s'.beginTask core (s'.taskOf ln l t) l.pkt.d).setLaunch ln (some l'))
    | _ => .next s
  else .next s

/-! ### Completing a task and its launch (R112, R434) -/

/-- The core that runs a paddock's task with a stamp, and the save slot that holds it: stamps are a paddock's own (R123). -/
def State.coreOfStamp (s : State) (b : Nat) (st : Word) : Option Nat :=
  (List.range Config.numCores).find? (fun c => match (s.core c).task with
    | some t => t.blk = b && t.stamp = st
    | none => false)
def State.slotOfStamp (s : State) (b : Nat) (st : Word) : Option Nat :=
  s.launches.findSome? (fun e => match e.2 with
    | some l => if l.blk = b then (l.saved.find? (fun u => l.stamp u.1 = st)).map (·.2) else none
    | none => none)

/-- The address of a save slot's image and record (R359). -/
def Paddock.imageAt (p : Paddock) (slot : Nat) : Nat := wbits p.saveb 19 29 * 2 ^ 19 + 2048 * slot
def Paddock.recordAt (p : Paddock) (slot : Nat) : Nat := wbits p.saveb 19 29 * 2 ^ 19 + 2 ^ 19 + 8 * slot

/-- The slot of a `tlnc` fills once, in its task wherever that is in the paddock (R434). The contexts of a running task pass the
launch's timestamp; those of a saved one do at resume, by the paddock's floor (R247). -/
def State.fillLaunch (s : State) (b : Nat) (src : Nat × Nat × Word) (pts v : Word) : State :=
  match s.coreOfStamp b src.2.2 with
  | some c =>
    let s := (List.range 4).foldl (fun s x => s.updCtx c x (fun t => { t with pts := maxW t.pts pts })) s
    s.engineFill c src.2.1 v
  | none =>
    match s.slotOfStamp b src.2.2 with
    | some slot =>
      let a := (s.pdk b).imageAt slot
      let s := s.updPdk b (fun p => { p with floor := maxW p.floor pts })
      let s := s.homeWrite (a + 1728 + 8 * src.2.1) 8 v.toNat
      s.homeWrite (a + 1856) 8 (s.homeRead (a + 1856) 8 ||| 2 ^ src.2.1)
    | none => s

/-- A launch whose every task is done completes: its slot and its function's interrupt. -/
def State.endLaunch (s : State) (ln : Nat) (l : Launch) : State :=
  let s := s.setLaunch ln none
  let v := match l.result with
    | some (code, info) => completion code info
    | none => completion codeDone 0
  let s := match l.pkt.src with
    | some src => s.fillLaunch l.blk src l.ptsMax v
    | none => s
  s.interrupt l.pkt.vf 0 (l.queue * 2 ^ 16 + l.seq.toNat)

/-- A fault of a core counts before the launch's own: it is the first, or of the same clock and from a lower core (R434). -/
def Launch.faultsFirst (l : Launch) (cc core : Nat) : Bool := l.result.isNone || (l.faultAt.1 = cc && core < l.faultAt.2)

/-- A task of a launch is done on a core, with DONE or with a fault's CODE and INFO (R434). -/
def State.taskDone (s : State) (ln t core code info : Nat) (pts : Word) : State :=
  match s.launch ln with
  | none => s
  | some l =>
    let l := { l with
      done := l.done ++ [t], ptsMax := maxW l.ptsMax pts
      result := if code ≠ codeDone ∧ l.faultsFirst s.cc core then some (code, info) else l.result
      faultAt := if code ≠ codeDone ∧ l.faultsFirst s.cc core then (s.cc, core) else l.faultAt }
    if l.total ≤ l.done.length then s.endLaunch ln l else s.setLaunch ln (some l)

/-- An engine counts `n` events of counter `ctr` for a function, and in all (R337). -/
def Eng.countFn (e : Eng) (vf ctr n : Nat) : Eng :=
  { e with cnt := Map.upd 0 (Map.upd 0 e.cnt (8 * vf + ctr) (· + wnat n)) (8 * 64 + ctr) (· + wnat n) }

/-- A ticket ends, claimed or lapsed, in clock `cc`: the engine holds none from the next clock on (R325). -/
def Eng.endTicket (e : Eng) (cc : Nat) : Eng := { e with ticket := none, tkFrom := cc + 1 }

/-- The share that counts an engine's event of a core's function: the hypervisor's, which is function 0's (log 110), in the save and restore
sequences (R337). -/
def State.shareOf (s : State) (c vf : Nat) : Nat := if (s.core c).offTask then 0 else vf

/-- A ticket of a core's contexts lapses (R325); the bay that it held is free. -/
def State.lapseTickets (s : State) (c : Nat) : State :=
  { s with engs := s.engs.map (fun e =>
      match e.2.ticket with
      | some t => if t.key / 4 = c then (e.1, (e.2.endTicket s.cc).countFn (s.shareOf c (s.coreVf c)) 4 1) else e
      | none => e) }

/-- A core's lots, requests and token are released (R283, R284, R287); each lot's loft is sent a release (R290). -/
def State.releaseSets (s : State) (c : Nat) : State :=
  let s := s.lots.foldl (fun (s : State) l => if l.core = c then s.sendCtl c (c / 4) (8 + s.loftOf c l.key) else s) s
  let s := { s with lots := s.lots.filter (fun l => l.core ≠ c), lotReqs := s.lotReqs.filter (fun r => r.core ≠ c) }
  let b := s.coreBlk c
  s.updPdk b (fun p => { p with token := if p.token = some c then none else p.token })

/-- A pre-emption request is cleared, and its save slot is free again (R359). -/
def State.clearRequest (s : State) (c : Nat) : State :=
  match (s.core c).request with
  | none => s
  | some r =>
    (s.updCore c (fun k => { k with request := none, point := false })).updPdk (s.coreBlk c) (fun p =>
      { p with reserved := p.reserved.filter (· ≠ r.slot) })

/-- The task of a core is over: its sets, tickets and request are released, and its launch counts it. -/
def State.finishTask (s : State) (c code info : Nat) : State :=
  match (s.core c).task with
  | none => s
  | some t =>
    let pts := (s.core c).maxPts
    let s := ((s.releaseSets c).lapseTickets c).clearRequest c
    let s := s.updCore c (fun k => { k with task := none, pen := [], hold := [], committing := false, wounded := false })
    s.taskDone t.launch t.idx c code info pts

/-- Every context has left the running set and none is parked (R112). -/
def Core.allLeft (k : Core) : Bool :=
  (List.range 4).all (fun x => (k.getCtx x).run = .ended || (k.getCtx x).run = .stopped)

/-- Every queue has retired its `enote`. -/
def Core.allNoted (k : Core) : Bool := k.vxe.q.noted && k.mxe.q.noted && k.cpe.q.noted

/-- Some queue has no `enote` enqueued: a task whose contexts have left can never complete (R112). -/
def Core.lacksNote (k : Core) : Bool := ! (k.vxe.q.enoted && k.mxe.q.enoted && k.cpe.q.enoted)

/-- Entries that have not started, and their discarding. -/
def Core.unstartedQ (k : Core) : Bool := k.vxe.q.q ≠ [] || k.mxe.q.q ≠ [] || k.cpe.q.q ≠ []
def Core.discardQueues (k : Core) : Core :=
  { k with
    vxe := { k.vxe with q := { k.vxe.q with q := [] } }, mxe := { k.mxe with q := { k.mxe.q with q := [] } }
    cpe := { k.cpe with q := { k.cpe.q with q := [] } }, fences := [] }

/-- The CPE has reached its `enote`: every entry before it has retired or is held (R282). -/
def Core.cpeReached (k : Core) : Bool :=
  k.cpe.q.noted || (k.cpe.q.enoted && k.cpe.q.q = [] && (match k.cpe.q.fl with
    | [f] => match f.ent.ins with
      | .enote _ _ => true
      | _ => false
    | _ => false))

/-- The commit point's conditions hold: from that clock the task is not wounded (R283). -/
def Core.pastCommit (k : Core) : Bool :=
  k.penned && k.allLeft && k.vxe.q.noted && k.mxe.q.noted && k.cpeReached

/-! ### Releases and pre-emption requests (R129, R125) -/

/-- A save slot that is free and not reserved (R359). -/
def State.freeSlot (s : State) (b : Nat) : Option Nat :=
  let p := s.pdk b
  (List.range 256).find? (fun i => ! p.reserved.contains i && s.homeRead (p.recordAt i) 8 < 2 ^ 63)

/-- Cores whose task a request of priority below `prio` may take: the lowest priority, then the youngest stamp
(R125, R287). A core that already has a request is passed over: DESIGN CHOICE, the spec does not say whether it may be chosen again
(log 127). -/
def State.victim (s : State) (ok : Nat → Task → Bool) : Option Nat :=
  (List.range Config.numCores).foldl (fun best c =>
    match (s.core c).task with
    | none => best
    | some t =>
      if t.pe ∧ t.irrev = false ∧ (s.core c).request = none ∧ ok c t then
        match best with
        | none => some c
        | some b => match (s.core b).task with
          | some u => if t.prio < u.prio ∨ (t.prio = u.prio ∧ olderStamp u.stamp t.stamp) then some c else some b
          | none => some c
      else best) none

/-- A core receives a pre-emption request with its save slot; a task that declares sets is wounded instead, which ends a freeze
and lapses its tickets (R285, R289, R325) and has no effect from the commit point on (R283). -/
def State.request (s : State) (c b : Nat) (why : Option Nat) : State :=
  match s.freeSlot b with
  | none => s
  | some i =>
    let wound := match (s.core c).task with
      | some t => t.sets ≠ []
      | none => false
    let s := s.updPdk b (fun p => { p with reserved := p.reserved ++ [i] })
    let k := s.core c
    let hit := wound && ! k.committing && ! k.rolling && ! k.pastCommit
    let s := s.updCore c (fun k =>
      { k with request := some ⟨i, s.cc, wound, why⟩, wounded := k.wounded || hit, frozen := if hit then none else k.frozen })
    if hit then s.lapseTickets c else s

/-- R125, for a launch that has just been released: when no core that its tasks admit is idle. -/
def State.preempt (s : State) (n : Nat) (l : Launch) : State :=
  let ok (c : Nat) : Bool := l.unstarted.any (fun t => s.admits l t c)
  if (List.range Config.numCores).any (fun c => s.idle c && ok c) then s
  else
    match s.victim (fun c t => t.prio < l.prio && t.blk = l.blk && ok c) with
    | some c => s.request c l.blk (some n)
    | none => s

/-- Serial order of ticks (R123, R129): tick a is at or after tick b. -/
def tickAfter (a b : BitVec 32) : Bool := (a - b).toNat < 2 ^ 31

/-- The head packet of a queue may be released (R129, R130). A packet that names a missed entry is released at once, also while the counter
holds: DESIGN CHOICE, R129 and R130 do not say which prevails (log 126). -/
def Paddock.releasable (p : Paddock) (k : Packet) : Bool :=
  if pktTt k.d = 0xffff then true
  else
    let e := p.entry (pktTt k.d)
    e.missed || (p.slip.isNone && tickAfter (p.frame.setWidth 32) e.release)

/-- `LAUNCH_RELEASE` (R123, R129): the head packet of a queue is released and numbered; a launch without a task here is
complete at once (R121). A packet of a `tlnc` is released from the clock after its enqueue (R295), and in STATE 2 a packet stays in its queue
(R411). -/
def execLaunchRelease (blk q : Nat) (s : State) : Out :=
  let p := s.pdk blk
  match p.queue q with
  | [] => .next s
  | k :: r =>
    if p.valid ∧ wbits p.pctl 60 2 ≠ 2 ∧ p.releasable k ∧ (k.src = none ∨ k.at_ < s.cc) then
      let l : Launch :=
        { pkt := k, blk := blk, queue := q, tick := p.frame.setWidth 32, seq := p.seq, prio := pktEffPrio p k.d
          total := taskCount p k.d, entry := if pktTt k.d = 0xffff then none else some (pktTt k.d) }
      let s := s.setPdk blk { p with queues := Map.set [] p.queues q r, seq := p.seq + 1 }
      let s := { s.setLaunch s.nextLaunch (some l) with nextLaunch := s.nextLaunch + 1 }
      if l.total = 0 then .next (s.endLaunch (s.nextLaunch - 1) l) else .next (s.preempt (s.nextLaunch - 1) l)
    else .next s

end Sys2Proof.Machine
end

