-- ==== Sys2Proof/Machine/Queues.lean ====
section
/-!
DEFINITION. What the three engine queues share (R106, R108 to R111, R343): enqueueing, the head's token waits and guard,
fences and notes, traps at a head, retirement, and the waiting that WAIT bounds. Engine 0 is the CPE, 1 the MXE, 2 the
VXE.
-/
namespace Sys2Proof.Machine

def Core.q (k : Core) (e : Nat) : EngQ :=
  match e with
  | 0 => k.cpe.q
  | 1 => k.mxe.q
  | _ => k.vxe.q

def Core.setQ (k : Core) (e : Nat) (q : EngQ) : Core :=
  match e with
  | 0 => { k with cpe := { k.cpe with q := q } }
  | 1 => { k with mxe := { k.mxe with q := q } }
  | _ => { k with vxe := { k.vxe with q := q } }

def Core.updQ (k : Core) (e : Nat) (f : EngQ → EngQ) : Core := k.setQ e (f (k.q e))

/-! ### Enqueueing (R108, R113, R263) -/

/-- The entries of a queue: those that wait and those that have started and not retired. -/
def EngQ.count (q : EngQ) : Nat := q.q.length + q.fl.length

/-- What the issue checks of an engine word answer: the entry and the slot that it empties, a trap, or a wait. -/
inductive EnqRes where
  | ok (s : State) (ent : Entry) (slot : Option Nat)
  | trap (c : BitVec 5) (v : Word)
  | hold (w : Wait) (bound : Nat)

/-- An entry enters its queue with the next sequence number; a `vseed` write that waits for it goes with it (R149). -/
def State.enqueue (s : State) (c x e : Nat) (ent : Entry) : State :=
  let t := s.ctx c x
  let q := (s.core c).q e
  let seed := if e = 2 ∧ t.seedSet then some t.vseed else none
  let cls := if ent.slk = 0 then t.slk.toNat else ent.slk
  let ent := { ent with ctx := x, seq := q.next, seed := seed, atU := t.pl = 0, lvl := t.pl.toNat
                        no := (s.core c).enqNo, slk := cls, ske := t.skEntry cls
                        cslk := t.slk.toNat, cske := t.skEntry t.slk.toNat }
  let s := if e = 2 ∧ t.seedSet then s.setCtx c x { t with seedSet := false } else s
  s.updCore c (fun k => { k with enqNo := k.enqNo + 1 }.updQ e (fun q => { q with q := q.q ++ [ent], next := q.next + 1 }))

/-- The body of an engine word at issue: ILL after the queue's `enote` (R110), the word's own checks, a full queue's
wait (R108), its earlier stores (R263), the slot that it names, and the entry. -/
def enqBody (w : Word) (e : Nat) (tk : Tk) (g : Option (Nat × Bool)) (chk : Nat → Nat → State → EnqRes) (c x : Nat)
    (s : State) : Res :=
  let q := (s.core c).q e
  if q.enoted then .trap Cause.ill w
  else
    match chk c x s with
    | .trap cz v => .trap cz v
    | .hold wt b => holdBlk s c x wt b
    | .ok s' ent slot =>
      if Config.queueLen ≤ q.count then .hold (.queueFull e) (s.ctx c x).gq
      else
        let s := s'.drainStores c x
        let s := match slot with
          | some n => s.emptySlot c n
          | none => s
        .done (s.enqueue c x e { ent with guard := g, tk := tk })

/-- The token bits of an engine word act at its engine; its Y bit acts at the context (R106, R104). -/
def onlyY (k : Tk) : Tk := { Tk.none with y := k.y }

/-! ### Notes and fences (R110) -/

/-- `enote e` (R110). -/
def execEnote (k : Tk) (d : Reg) (s : State) : Out :=
  control (.enote k d) (onlyY k) s (fun c x s =>
    let e := d.toNat
    match enqBody (wordVal (.enote k d)) e k none (fun _ _ s => .ok s { ins := .enote k d } none) c x s with
    | .done s => .done (s.updCore c (fun kc => kc.updQ e (fun q => { q with enoted := true })))
    | r => r)

/-- The queues that an `eqf` mask names. -/
def maskQueues (m : BitVec 3) : List Nat := (List.range 3).filter (fun e => m.getLsbD e)

/-- `eqf` (R110): a fence entry in each named queue. -/
def execEqf (y : Bool) (m : BitVec 3) (s : State) : Out :=
  let i : Instr := .eqf y m
  control i { Tk.none with y := y } s (fun c x s =>
    let k := s.core c
    let es := maskQueues m
    if es.any (fun e => (k.q e).enoted) then .trap Cause.ill (wordVal i)
    else
      match es.find? (fun e => Config.queueLen ≤ (k.q e).count) with
      | some e => .hold (.queueFull e) (s.ctx c x).gq
      | none =>
        let n := k.fenceNo
        let s := (s.drainStores c x).updCore c (fun k => { k with fenceNo := n + 1, fences := k.fences ++ [(n, m, 0)] })
        .done (es.foldl (fun s e => s.enqueue c x e { ins := i, fence := some (n, m) }) s))

/-! ### The head of a queue -/

/-- The head's token waits are satisfied (R106). -/
def Core.headTokens (k : Core) (e : Nat) (ent : Entry) : Bool := (emptyWait k (engWaitFifos ent.tk e)).isNone

/-- What a guard decides (R111): not yet, execute, or retire as a no-op. -/
inductive GuardRes where
  | wait | run | skip
deriving DecidableEq, Repr

def Core.guardOf (k : Core) (ent : Entry) : GuardRes :=
  match ent.guard with
  | none => .run
  | some (n, pol) => if k.slotFull n = false then .wait else if (k.slotVal n ≠ 0) = (pol = true) then .run else .skip

/-- A fence entry's record. -/
def Core.fenceOf (k : Core) (n : Nat) : Option (Nat × BitVec 3 × BitVec 3) := k.fences.find? (fun f => f.1 = n)

/-- Queue `e` stands at its fence, with every earlier entry retired. -/
def Core.fenceArrive (k : Core) (n e : Nat) : Core :=
  { k with fences := k.fences.map (fun f => if f.1 = n then (f.1, f.2.1, f.2.2 ||| BitVec.ofNat 3 (2 ^ e)) else f) }

/-- Every named queue stands at the fence. -/
def Core.fenceOpen (k : Core) (n : Nat) : Bool :=
  match k.fenceOf n with
  | some (_, m, a) => (m &&& ~~~ a) = 0
  | none => true

/-- Queue `e` goes past its fence; a fence that every queue has passed is forgotten. -/
def Core.fencePass (k : Core) (n e : Nat) : Core :=
  let b := ~~~ (BitVec.ofNat 3 (2 ^ e))
  { k with fences := (k.fences.map (fun f => if f.1 = n then (f.1, f.2.1 &&& b, f.2.2) else f)).filter (fun f =>
      f.2.1 ≠ 0) }

/-- A result is due and not yet written: nothing may start before it is. -/
def EngQ.overdue (q : EngQ) (clk : Nat) : Bool := q.fl.any (fun f => ! f.done && f.wclk ≤ clk)
def Core.overdue (k : Core) : Bool := k.vxe.q.overdue k.clk || k.mxe.q.overdue k.clk

/-- The clock of a command whose end is not known yet. -/
def never : Nat := 2 ^ 64

/-- The queue starts nothing in a clock (R109). -/
def EngQ.stopped (q : EngQ) (clk : Nat) : Bool :=
  match q.stop with
  | some n => n ≤ clk
  | none => false

/-- The queue starts nothing from clock `n` on; what its head has waited stays counted (R109). -/
def EngQ.stopFrom (q : EngQ) (n : Nat) : EngQ :=
  { q with stop := some (match q.stop with
             | some m => min m n
             | none => n) }

/-- The task can never note a queue, so that it ends and starts nothing more (R112). -/
def Core.ending (k : Core) : Bool := k.task.isSome && k.allLeft && k.lacksNote

/-- The queue may start an entry in this clock (R171). -/
def Core.mayStart (k : Core) (e : Nat) : Bool :=
  let q := k.q e
  k.frozen.isNone && ! k.ending && ! q.stopped k.clk && q.lastClk ≠ some k.clk && ! k.overdue

/-- The head leaves the waiting entries as a started one, its tokens popped. A command that will end with a cause stops its queue
after it (R189, R208). -/
def State.startEntry (s : State) (c e : Nat) (fl : Flight) : State :=
  let k := s.core c
  let k := (engWaitFifos fl.ent.tk e).foldl Core.pop k
  let k := if fl.cause.isSome then k.updQ e (fun q => q.stopFrom k.clk) else k
  s.setCore c (k.updQ e (fun q => { q with
    q := q.q.tail, fl := q.fl ++ [{ fl with at_ := k.clk }], lastClk := some k.clk, stall := 0, stallOf := none }))

/-- A command that retires without being performed: SKIPPED by its guard, or a note. -/
def idleFlight (k : Core) (ent : Entry) (fill : Option (Nat × Word)) : Flight :=
  { ent := ent, wclk := k.clk, rclk := k.clk, done := true, fill := fill }

/-- The freeze waits for a window line: of a command that has not started, or of the access of one that has (R345). -/
def Freeze.line (f : Freeze) : Bool := f.kind = 0 || f.own.isSome

/-- The request for a window line that an engine's command needs (R234, R302). -/
def State.fillPkt (s : State) (c : Nat) (ent : Entry) (f : Freeze) : State :=
  if f.line = false then s
  else match s.translate c f.loc .read f.atU with
    | .bad _ => s
    | .ok p => s.sendBy c ent.ctx ent.cslk ent.cske f.lvl
        { ty := 0, kind := 3, unit := f.eng + 1, seq := ent.seq.toNat, rlen := 128, addr := f.loc } p []

/-- A core freezes (R345); one that a wound has reached does not: its late reads are abandoned (R285). -/
def State.freeze (s : State) (c : Nat) (f : Freeze) : State :=
  s.updCore c (fun k => if k.wounded then k else { k with frozen := some f })

/-- The access of a started command finds a window line that has become invalid since the start: the core freezes for the reply (KIND 3:
R234, R345, log 114). -/
def Core.ownFreeze (k : Core) (cc e : Nat) (ent : Entry) (w i : Nat) : Freeze :=
  { kind := 3, loc := winVa (k.window w) i, since := cc, ctx := ent.ctx, eng := e, win := w, idx := i, atU := ent.atU, lvl := ent.lvl, own := some ent.seq.toNat }
def State.freezeOwn (s : State) (c e : Nat) (ent : Entry) (w i : Nat) : State :=
  let f := (s.core c).ownFreeze s.cc e ent w i
  (s.fillPkt c ent f).freeze c f

/-! ### Traps at a head, and the cut (R109, R343) -/

/-- Number of the first entry that has not started. -/
def EngQ.cutSeq (q : EngQ) : BitVec 32 :=
  match q.q with
  | e :: _ => e.seq
  | [] => q.next

/-- The cut registers take the present cut (R343). -/
def Core.recordCut (k : Core) : Core :=
  { k with cut :=
      { cpe := k.cpe.q.cutSeq, mxe := k.mxe.q.cutSeq, vxe := k.vxe.q.cutSeq
        pcs := (List.range 4).foldl (fun m x => Map.set 0 m x (k.getCtx x).pc) []
        runs := (List.range 4).foldl (fun m x => if (k.getCtx x).inSet then m ||| BitVec.ofNat 4 (2 ^ x) else m) 0 } }

/-- Every queue of a core stops before its first entry that has not started. -/
def Core.stopQueues (k : Core) : Core := [0, 1, 2].foldl (fun k e => k.updQ e (fun q => q.stopFrom k.clk)) k

/-- Queue `e` stops now, and the others at their next entry boundary: in this clock they may still start (R109, R176). -/
def Core.stopFor (k : Core) (e : Nat) : Core :=
  [0, 1, 2].foldl (fun k f => k.updQ f (fun q => q.stopFrom (if f = e then k.clk else k.clk + 1))) k

/-- The trap of a queue that is taken first: FRZ, then the CPE's, the MXE's, the VXE's (R341). -/
def Core.bestTrap (k : Core) : Option HeadTrap :=
  let frz := k.headTrap.filter (fun h => h.cause = Cause.frz)
  (if frz = [] then k.headTrap else frz).foldl (fun best h =>
    match best with
    | none => some h
    | some b => if h.q < b.q then some h else some b) none

/-- The context has executed `tend`: it has ended, or only the places for its signals are missing (R106). -/
def Ctx.atTend (t : Ctx) : Bool :=
  t.run = .ended || (match t.endTo, t.wait with
    | some (.ended, f), some (.signal _) => f = t.frame
    | _, _ => false)

/-- A signal of a `tend` that counts as not executed: one that is held is dropped, one whose token still stands in its FIFO is taken back,
and one whose token has been popped is not pushed again (R109, log 125). -/
def State.unsignal (s : State) (c x f : Nat) : State :=
  let t := s.ctx c x
  if t.heldSig.contains f then s.setCtx c x { t with heldSig := t.heldSig.erase f }
  else if 0 < (s.core c).fifoCount f then s.updCore c (fun k => k.unpush f)
  else s.setCtx c x { t with paid := f :: t.paid }

/-- A context that a queue's trap finds at its `tend` runs again there, and the `tend` counts as not executed: the tokens that it popped are
back, and its signals are taken back (R109). -/
def State.undoTend (s : State) (c x : Nat) : State :=
  let t := s.ctx c x
  if t.atTend = false then s
  else
    let s := (s.setCtx c x { t.unwait with
      run := .running, endTo := none, pc := t.tendPc, retired := t.retired - 1
      retiredU := if t.pl = 0 then t.retiredU - 1 else t.retiredU }).count c x 1 (2 ^ 64 - 1)
    (signalFifos t.tendTk x).foldl (fun s f => s.unsignal c x f) (s.unpop c x (waitFifos t.tendTk x))

/-- The trap value of FRZ (R347). -/
def frzVal (f : Freeze) : Word := wnat (f.kind * 2 ^ 60) ||| (f.loc &&& 0xffffffffffff)

/-- A trap of a queue (R109), of a command at its head that is not performed (`again`), or of one that has completed: the queues
stop, the other contexts are held, and the enqueuing context takes the trap at its next word boundary. A context that `halt`,
`cstop` or a double trap stopped, or that is parked, takes none: the trap stays pending, with the queues stopped (log 107). -/
def State.raiseHead (s : State) (c e x : Nat) (cause : BitVec 5) (tval : Word) (again : Bool := true) : State :=
  (s.undoTend c x).updCore c (fun k =>
    let k' : Core := { k.stopFor e with headTrap := k.headTrap ++ [HeadTrap.mk e x cause tval k.clk again] }
    { k' with holdFor := match k.holdFor, k.headTrap with
        | some y, [] => some y
        | _, _ => k'.bestTrap.map (·.ctx) })

/-! ### Retirement (R106, R113, R171, R247) -/

/-- The FIFO that holds back a retiring command's signal. -/
def Core.signalFull (k : Core) (e : Nat) (ent : Entry) : Option Nat :=
  (engSignalFifos ent.tk e).find? (fun f => ! k.fifoRoom f)

/-- An `enote` of the CPE waits for the held copies before it (R282). -/
def Core.noteHeld (k : Core) (e : Nat) (f : Flight) : Bool :=
  match f.ent.ins with
  | .enote _ _ => e = 0 && k.hold ≠ []
  | _ => false

/-- The oldest started entry of a queue can retire: its results are written, its clock has come, and no freeze lasts (R311). -/
def Core.retirable (k : Core) (e : Nat) : Option Flight :=
  match (k.q e).fl with
  | f :: _ => if f.done ∧ f.rclk ≤ k.clk ∧ k.frozen = none ∧ k.noteHeld e f = false then some f else none
  | [] => none

/-- A window line that a retiring command writes and that must be filled first (R234); a command that has met a failure, or that a wound has
reached, goes on without it. -/
def Core.postNeed (k : Core) (f : Flight) : Option (Nat × Nat) :=
  if f.cause.isSome ∨ k.wounded then none else k.firstNeed (f.post.map (·.ln))

/-- The first line of a command's writes that goes through to a poisoned home word, by its scratchpad address: the command ends with ECC
(R189, R244). -/
def State.postPoison (s : State) (c : Nat) (ws : List SpadWrite) : Option (BitVec 5 × Word) :=
  (ws.find? (s.meetsPoison c)).map (fun w => (Cause.ecc, wnat (128 * w.ln)))

/-- The started commands of a queue whose writes meet poison end with ECC, and the queue stops after them. -/
def State.metPoison (s : State) (c e : Nat) : State :=
  let fl := ((s.core c).q e).fl.map (fun f => if f.cause.isSome then f else { f with cause := s.postPoison c f.post })
  if fl = ((s.core c).q e).fl then s
  else s.updCore c (fun k => k.updQ e (fun q => ({ q with fl := fl } : EngQ).stopFrom k.clk))

/-- The entry `f` of queue `e` retires: its scratchpad writes are visible, its slot fills, its signals act. -/
def State.retireFlight (s : State) (c e : Nat) (f : Flight) : State :=
  let cause := if f.cause.isSome then f.cause else s.postPoison c f.post
  let s := s.spadWrites c f.post
  let s := if f.ts = 0 then s else s.raisePts c f.ts
  let s := match f.fill with
    | some (n, v) => s.engineFill c n v
    | none => s
  let s := s.updCore c (fun k =>
    let k := (engSignalFifos f.ent.tk e).foldl Core.push k
    k.updQ e (fun q => { q with
      fl := q.fl.tail, last := some f.ent.seq, stall := 0, stallOf := none
      noted := q.noted || (match f.ent.ins with
        | .enote _ _ => true
        | _ => false) }))
  match cause with
  | some (cz, v) => s.raiseHead c e f.ent.ctx cz v false
  | none => s

/-- `ENGINE_COMMAND_RETIRE`: the oldest started entry of queue `q` retires; a command that ends with a cause stops the queues after it (R189, R208, R347). What it
forces has the class of its window lines (R302). -/
def execEngineCommandRetire (core q : Nat) (s : State) : Out :=
  let k := s.core core
  let e := q % 3
  match k.retirable e with
  | none => .next s
  | some f =>
    if (k.signalFull e f.ent).isSome then .next s
    else match k.postNeed f with
    | some (w, i) => .next (s.freezeOwn core e f.ent w i)
    | none => .next (s.under core f.ent.ctx f.ent.cslk f.ent.cske (fun s => s.retireFlight core e f))

/-- The started commands of a queue have written their results, and their clocks have come. -/
def EngQ.written (q : EngQ) (clk : Nat) : Bool := q.fl.all (fun f => f.done && f.rclk ≤ clk)

/-- Every started command of a queue has retired; a head that a full signal FIFO or a held copy holds back (log 124) is written, with all
that has started after it, and a nest whose window line has trapped is left as it is (R109, R176, R343). -/
def Core.queueCut (k : Core) (e : Nat) : Bool :=
  match (k.q e).fl with
  | [] => true
  | f :: _ => ((k.noteHeld e f || (k.signalFull e f.ent).isSome) && (k.q e).written k.clk) || (match f.ent.ins with
      | .mxgo _ _ _ => k.mxe.nest.isSome
      | _ => false)

/-- Every command of a core that has started is complete, as a cut needs it (R176, R208, R343). -/
def Core.cutDone (k : Core) : Bool :=
  k.cpe.work = [] && (match k.mxe.nest with
    | some n => n.held
    | none => true) && [0, 1, 2].all k.queueCut

/-- The scratchpad writes of commands that have started and that nothing will retire: the task is over (R112, R284). -/
def State.flushPosts (s : State) (c : Nat) : State :=
  [0, 1, 2].foldl (fun s e => s.spadWrites c (((s.core c).q e).fl.flatMap (·.post))) s

end Sys2Proof.Machine
end

