-- ==== Sys2Proof/Machine/VecOps.lean ====
section
/-!
DEFINITION. What vector commands compute (R168, R178 to R195): functions over lanes.
-/
namespace Sys2Proof.Machine

/-! ### Lanes (R167, R168) -/

def laneOf (v : VReg) (i : Nat) : Nat := bits v.toNat (32 * i) 32
def lanesOf (v : VReg) : List Nat := let n := v.toNat; (List.range 1024).map (fun i => bits n (32 * i) 32)

/-- A number from its 32-bit digits, the first in the low bits. -/
def catLanes (l : List Nat) : Nat :=
  match l with
  | [] => 0
  | x :: r => x % 2 ^ 32 + 2 ^ 32 * catLanes r

def ofLanes (l : List Nat) : VReg := BitVec.ofNat 32768 (catLanes l)

/-- A mask from its bits, lane 0 first. -/
def catBits (l : List Bool) : Nat :=
  match l with
  | [] => 0
  | b :: r => b.toNat + 2 * catBits r
def ofBits (l : List Bool) : Mask := BitVec.ofNat 1024 (catBits l)

/-- The lanes whose byte q alone is written: what stays (R168). -/
def byteKeep (q : Nat) : VReg := ofLanes (List.replicate 1024 (0xffffffff - 0xff * 2 ^ (8 * q)))

/-- Byte q of a lane, and a lane that holds only byte q. -/
def laneByte (x q : Nat) : Nat := bits x (8 * q) 8

/-! ### Arithmetic (R178) -/

/-- A two-operand function in the view of a type: f32, bf16 or i32 (R168). -/
def viewOp (e : BitVec 2) (f : Fmt → Nat → Nat → Nat) (g : Nat → Nat → Nat) (a b : Nat) : Nat :=
  if e = 0 then f fmt32 a b
  else if e = 1 then f fmtBf (a / 2 ^ 16) (b / 2 ^ 16) * 2 ^ 16
  else g a b % 2 ^ 32

/-- The fused operation, one rounding (R178). -/
def viewFma (e : BitVec 2) (a b c : Nat) : Nat :=
  if e = 0 then fmt32.fmaF a b c
  else if e = 1 then fmtBf.fmaF (a / 2 ^ 16) (b / 2 ^ 16) (c / 2 ^ 16) * 2 ^ 16
  else (a * b + c) % 2 ^ 32

def viewAdd (e : BitVec 2) : Nat → Nat → Nat := viewOp e Fmt.addF (· + ·)
def viewSub (e : BitVec 2) : Nat → Nat → Nat := viewOp e Fmt.subF (fun a b => a + 2 ^ 32 - b)
def viewMul (e : BitVec 2) : Nat → Nat → Nat := viewOp e Fmt.mulF (· * ·)
def viewMax (e : BitVec 2) : Nat → Nat → Nat :=
  viewOp e Fmt.maxN (fun a b => if sInt 32 a < sInt 32 b then b else a)
def viewMin (e : BitVec 2) : Nat → Nat → Nat :=
  viewOp e Fmt.minN (fun a b => if sInt 32 b < sInt 32 a then b else a)

/-- Absolute value and negation change only the sign bit of a number in floating point (R140). -/
def viewAbs (e : BitVec 2) (a : Nat) : Nat :=
  if e = 0 then a % 2 ^ 31
  else if e = 1 then a / 2 ^ 16 % 2 ^ 15 * 2 ^ 16
  else if 2 ^ 31 ≤ a then 2 ^ 32 - a else a
def viewNeg (e : BitVec 2) (a : Nat) : Nat :=
  if e = 0 then a ^^^ 2 ^ 31
  else if e = 1 then (a ^^^ 2 ^ 31) / 2 ^ 16 * 2 ^ 16
  else (2 ^ 32 - a) % 2 ^ 32

def viewLt (e : BitVec 2) (a b : Nat) : Bool :=
  if e = 0 then fmt32.lt a b
  else if e = 1 then fmtBf.lt (a / 2 ^ 16) (b / 2 ^ 16)
  else sInt 32 a < sInt 32 b
def viewEq (e : BitVec 2) (a b : Nat) : Bool :=
  if e = 0 then fmt32.eq a b
  else if e = 1 then fmtBf.eq (a / 2 ^ 16) (b / 2 ^ 16)
  else a = b

/-- Shifts by b[4:0] (R141). -/
def laneSll (a b : Nat) : Nat := a * 2 ^ (b % 32) % 2 ^ 32
def laneSrl (a b : Nat) : Nat := a / 2 ^ (b % 32)
def laneSra (a b : Nat) : Nat := uInt 32 (sInt 32 a / 2 ^ (b % 32))

/-! ### Conversions and block scales (R180 to R183) -/

/-- The rounding mode in force (R142): the word's RM, or `vround.RM` captured at issue; code 4 is SR, which only a
narrowing conversion uses. -/
def modeOf (rm : Nat) (narrow : Bool) (gen : Nat) : Mode :=
  match rm with
  | 1 => .rtz
  | 2 => .rup
  | 3 => .rdn
  | 4 => if narrow then .sr gen else .rne
  | _ => .rne

/-- The code of the mode of a conversion word: its RM field, `dyn` taking the captured one (R42, R142). -/
def rmCode (m : BitVec 3) (dyn : BitVec 3) : Nat := if m = 0 then dyn.toNat else m.toNat - 1

/-- Conversions that SR can govern (R180): to BF16, to FP8 and to INT8. -/
def cvtNarrow (b : Nat) : Bool := b = 0 || (4 ≤ b && b ≤ 15)

/-- One lane of `vcvt` (R180), in the lane's place. -/
def cvtLane (b rm : Nat) (sat : Bool) (gen x : Nat) : Nat :=
  let md := modeOf rm (cvtNarrow b) gen
  let q := b % 4
  match b with
  | 0 => fmtBf.round md false (fmt32.dec x) * 2 ^ 16
  | 1 => fmt32.rne (fmtBf.dec (x / 2 ^ 16))
  | 2 => uInt 32 ((fmt32.dec x).toSat 32 md)
  | 3 => fmt32.round md false (FV.ofInt (sInt 32 x))
  | _ =>
    if b < 8 then toElem 2 md sat (fmt32.dec x) * 2 ^ (8 * q)
    else if b < 12 then toElem 3 md sat (fmt32.dec x) * 2 ^ (8 * q)
    else if b < 16 then toElem 4 md sat (fmt32.dec x) * 2 ^ (8 * q)
    else if b < 20 then fmt32.rne (elemVal 2 (laneByte x q))
    else if b < 24 then fmt32.rne (elemVal 3 (laneByte x q))
    else fmt32.rne (elemVal 4 (laneByte x q))

/-- The element format of the code g of `vq` and `vdq` (R183). -/
def blockFmt (g : Nat) : Nat := if g = 0 then 2 else if g = 1 then 3 else if g = 2 then 4 else 7

/-- The lane generators, and those of the lanes that round an element stepped once (R147). -/
def genAt (g : BitVec 16384) (i : Nat) : Nat := bits g.toNat (16 * i) 16
def catGen (l : List Nat) : Nat :=
  match l with
  | [] => 0
  | x :: r => x % 2 ^ 16 + 2 ^ 16 * catGen r
def stepGens (g : BitVec 16384) (p : Nat → Bool) : BitVec 16384 :=
  BitVec.ofNat 16384 (catGen ((List.range 1024).map (fun i => if p i then lfsrStep (genAt g i) else genAt g i)))

/-- Byte j of a scale register. -/
def scByte (v : BitVec 256) (j : Nat) : Nat := bits v.toNat (8 * j) 8

/-- Bytes, the first lowest. -/
def catBytes (l : List Nat) : Nat :=
  match l with
  | [] => 0
  | x :: r => x % 2 ^ 8 + 2 ^ 8 * catBytes r

/-- The 32 block scales of a register (R182). -/
def blockScales (a : VReg) (fmt : Nat) : List Nat :=
  let l := lanesOf a
  (List.range 32).map (fun j => scaleChoice ((l.drop (32 * j)).take 32) fmt)

/-! ### Reductions (R184) -/

/-- Pairs combined once: one level of the tree. -/
def pairUp (f : Nat → Nat → Nat) (l : List Nat) : List Nat :=
  match l with
  | a :: b :: r => f a b :: pairUp f r
  | l => l

/-- The tree over a power of two of elements. -/
def treeFold (f : Nat → Nat → Nat) (l : List Nat) (levels : Nat) : Nat :=
  match levels with
  | 0 => l.headD 0
  | n + 1 => treeFold f (pairUp f l) n

/-- Whole-register or per-row reduction of lanes; a bf16 element stays in its place in the lane. -/
def reduceLanes (f : Nat → Nat → Nat) (l : List Nat) (perRow : Bool) : List Nat :=
  let rows := (List.range 8).map (fun r => treeFold f ((l.drop (128 * r)).take 128) 7)
  if perRow then rows.flatMap (fun v => List.replicate 128 v) else List.replicate 1024 (treeFold f rows 3)

/-- The elements of a reduction, as lanes of their view (R168). -/
def viewLane (e : BitVec 2) (x : Nat) : Nat := if e = 1 then x / 2 ^ 16 * 2 ^ 16 else x

/-! ### Gating (R192, R193) -/

/-- Column c comes before column d in rank order. -/
def ranksBefore (l : List Nat) (c d : Nat) : Bool :=
  let a := l.getD c 0
  let b := l.getD d 0
  if fmt32.isNan a ≠ fmt32.isNan b then fmt32.isNan b
  else if fmt32.isNan a then c < d
  else if fmt32.key a = fmt32.key b then c < d
  else fmt32.key b < fmt32.key a

/-- The first `k` columns in rank order. -/
def chooseCols (l : List Nat) (k : Nat) (left : List Nat) : List Nat :=
  match k with
  | 0 => []
  | n + 1 =>
    match left with
    | [] => []
    | c :: r =>
      let best := r.foldl (fun m d => if ranksBefore l d m then d else m) c
      best :: chooseCols l n (left.filter (· ≠ best))

def posInf32 : Nat := 0x7f800000
def negInf32 : Nat := 0xff800000

/-- One row of `vsoftk`: weights and information lanes of its 128 columns. -/
def softRow (l : List Nat) (k : Nat) : List Nat × List Nat :=
  let chosen := chooseCols l k (List.range 128)
  let val (c : Nat) : Nat := l.getD c 0
  let ninf := (chosen.filter (fun c => val c = posInf32)).length
  let gate := chosen.any (fun c => fmt32.isNan (val c))
  let fin := chosen.filter (fun c => ! fmt32.isNan (val c) && val c ≠ posInf32 && val c ≠ negInf32)
  let es := fin.map (fun c => (c, exp2F (sub32 (val c) (val (fin.headD 0)))))
  let sum := es.foldl (fun a e => add32 a e.2) 0
  let y := rcpF sum
  let dead := ninf = 0 && fin = []
  let w (c : Nat) : Nat :=
    if ninf ≠ 0 then (if chosen.contains c ∧ val c = posInf32 then fmt32.rne ((FV.ofInt 1).div (FV.ofInt ninf)) else 0)
    else match es.find? (fun e => e.1 = c) with
      | some e => mul32 e.2 y
      | none => 0
  let info (c : Nat) : Nat :=
    dead.toNat * 2 ^ 17 + gate.toNat * 2 ^ 16 + (if chosen.contains c then 8 + chosen.idxOf c else 0)
  ((List.range 128).map w, (List.range 128).map info)

/-! ### Histograms and routing (R185, R194) -/

/-- Counts of the bins below 1,024 that masked lanes name, added to the old lanes. -/
def histLanes (old a : List Nat) (m : Mask) : List Nat :=
  let bins := ((List.range 1024).filter (fun i => m.getLsbD i)).map (fun i => a.getD i 0)
  (List.range 1024).map (fun n => (old.getD n 0 + (bins.filter (· = n)).length) % 2 ^ 32)

/-- Bits of `vmset` (R195). -/
def maskKind (kind : Nat) (v : Nat) (old : Mask) : Mask :=
  match kind with
  | 0 => ofBits ((List.range 1024).map (fun i => decide (i < v)))
  | 1 => ofBits ((List.range 1024).map (fun i => decide (i % 128 < v)))
  | 2 => ofBits ((List.range 1024).map (fun i => v.testBit (i / 128)))
  | _ => ~~~ old

/-- Lane addresses of `vldx` and `vstx` (R186). -/
def gatherAddrs (base : Nat) (idx : VReg) : List Nat := (lanesOf idx).map (fun x => base + 4 * x)

/-- The lowest lane address whose word passes the scratchpad's end (R187). -/
def gatherBad (l : List Nat) : Option Nat := (l.filter (fun a => 2 ^ 25 < a + 4)).min?

/-- Distinct lines, in first-use order, and the greatest number of them that one bank serves (R187). -/
def distinct (l : List Nat) : List Nat := l.foldl (fun r x => if r.contains x then r else r ++ [x]) []
def bankLoad (lns : List Nat) : Nat := ((lns.map bankOf).map (fun b => (lns.filter (fun x => bankOf x = b)).length)).foldl max 0

end Sys2Proof.Machine
end

