-- ==== Sys2Proof/Machine/MatOps.lean ====
section
/-!
DEFINITION. What matrix commands compute: format entries, element layouts, steps, ranks and stored rows (R200 to R203,
R153 to R159, R220, R221).
-/
namespace Sys2Proof.Machine

/-! ### Format entries (R61, R200, R216) -/

def fmtA (e : Nat) : Nat := bits e 0 4
def fmtB (e : Nat) : Nat := bits e 4 4
def fmtScl (e : Nat) : Nat := bits e 8 2
def fmtSpr (e : Nat) : Nat := bits e 10 2
def fmtOut (e : Nat) : Nat := bits e 12 4

def isFp8 (f : Nat) : Bool := f = 2 || f = 3

/-- A combination of the table of R200. -/
def fmtOk (e : Nat) : Bool :=
  let a := fmtA e
  let b := fmtB e
  let fp := fmtOut e ≤ 4
  if fmtSpr e ≠ 0 then fmtSpr e < 3 && isFp8 a && isFp8 b && fp
  else if a = 0 ∨ a = 1 then b = a && fmtScl e = 0 && fp
  else if isFp8 a || a = 7 then isFp8 b && fp
  else if a = 4 ∨ a = 6 then b = a && fmtScl e = 0 && (fmtOut e = 5 || fmtOut e = 4)
  else false

/-- K, L_A and L_B of an entry (R200). -/
def geom (e : Nat) : Nat × Nat × Nat :=
  match fmtSpr e with
  | 1 => (16, 1152, 2048)
  | 2 => (32, 1408, 4096)
  | _ => match fmtA e with
    | 0 => (1, 512, 512)
    | 1 => (4, 1024, 1024)
    | 6 => (64, 1024, 1024)
    | 7 => (16, 2048, 2048)
    | _ => (8, 1024, 1024)

/-- Bytes of an operand's scales. -/
def sclA (e : Nat) : Nat := if fmtScl e % 2 = 1 then 128 else 0
def sclB (e : Nat) : Nat := if 2 ≤ fmtScl e then 128 else 0
def lenA (e : Nat) : Nat := (geom e).2.1 + sclA e
def lenB (e : Nat) : Nat := (geom e).2.2 + sclB e

/-- The kinds of steps: 0 mm, 1 sp, 2 bin (R217), and whether an entry fits one (R219). -/
def fitsKind (e kind : Nat) : Bool :=
  match kind with
  | 0 => fmtSpr e = 0 && fmtA e ≠ 6
  | 1 => fmtSpr e ≠ 0
  | _ => fmtA e = 6

/-- The tile holds INT32 elements for an entry (R210). -/
def tileInt (e : Nat) : Bool := fmtA e = 4 || fmtA e = 6

/-- Bytes of an element in a format (R62). -/
def elemSize (f : Nat) : Nat := if f = 0 ∨ f = 5 then 4 else if f = 1 then 2 else 1

/-- Element i of an operand in a format (R134). -/
def elemAt (f v i : Nat) : Nat := bits v (8 * elemSize f * i) (8 * elemSize f)

/-! ### Tiles -/

/-- Elements of a row, and a row of elements. -/
def rowElems (r : TileRow) : List Nat := let n := r.toNat; (List.range 128).map (fun j => bits n (32 * j) 32)
def ofRow (l : List Nat) : TileRow := BitVec.ofNat 4096 (catLanes l)

/-- The writes of a whole tile, its rows in order. -/
def tileWrites (t : Nat) (rows : List (List Nat)) : List RegWrite :=
  (List.range 128).map (fun i => .tile (128 * t + i) (ofRow (rows.getD i [])))

/-! ### Steps (R201, R202) -/

/-- A kept position of A: its k and its value. -/
abbrev Kept := Nat × FV

/-- The positions that a 4:8 half keeps (R158). -/
def half48 (c : Nat) : List Nat :=
  match c with
  | 0 => [0, 1]
  | 1 => [2, 3]
  | 2 => [0, 2]
  | _ => [1, 3]

/-- Row i of a sparse A operand, with its malformed groups (R158, R159, R201). -/
def sparseRow (e a i : Nat) : List Kept × Nat :=
  let val (n : Nat) : FV := elemVal (fmtA e) (elemAt 2 a (8 * i + n))
  if fmtSpr e = 1 then
    let m := bits a (8 * (1024 + i)) 8
    ((List.range 2).flatMap (fun g =>
      let ps := half48 (bits m (4 * g) 2) ++ (half48 (bits m (4 * g + 2) 2)).map (· + 4)
      (List.zip ps (List.range 4)).map (fun p => (8 * g + p.1, val (4 * g + p.2)))), 0)
  else
    let m := bits a (8 * (1024 + 3 * i)) 24
    let gs := (List.range 4).map (fun g => (g, bits m (6 * g) 3, bits m (6 * g + 3) 3))
    (gs.flatMap (fun p => if p.2.1 < p.2.2 then
        [(8 * p.1 + p.2.1, val (2 * p.1)), (8 * p.1 + p.2.2, val (2 * p.1 + 1))] else []),
     (gs.filter (fun p => p.2.2 ≤ p.2.1)).length)

/-- Row i of A for an entry. -/
def rowOfA (e a i : Nat) : List Kept × Nat :=
  if fmtSpr e = 0 then
    let k := (geom e).1
    ((List.range k).map (fun j => (j, elemVal (fmtA e) (elemAt (fmtA e) a (i * k + j)))), 0)
  else sparseRow e a i

/-- A scale byte applied to a value; 255 makes it NaN (R137, R154). -/
def scaled (x : FV) (c : Nat) : FV :=
  match e8m0 c with
  | none => .nan
  | some k => x.scale k

/-- The scale byte i of an operand; 127 stands for a scale of 1. -/
def sclByte (has : Bool) (v i : Nat) : Nat := if has then bits v (8 * i) 8 else 127

/-- One floating-point step: the new rows and the malformed groups (R153, R154, R156). -/
def stepFp (e a sa b sb : Nat) (rows : List (List Nat)) : List (List Nat) × Nat :=
  let out := (List.range 128).map (fun i =>
    let (ks, bad) := rowOfA e a i
    let ai := sclByte (0 < sclA e) sa i
    let row := rows.getD i []
    ((List.range 128).map (fun j =>
      let bj := sclByte (0 < sclB e) sb j
      fmt32.rne (ks.foldl (fun (acc : FV) (p : Kept) =>
        acc.add (scaled (scaled (p.2.mul (elemVal (fmtB e) (elemAt (fmtB e) b (128 * p.1 + j)))) ai) bj))
        (fmt32.dec (row.getD j 0)))), bad))
  (out.map (·.1), (out.map (·.2)).sum)

/-- One INT8 step (R155). -/
def stepInt (e a b : Nat) (rows : List (List Nat)) : List (List Nat) :=
  let k := (geom e).1
  (List.range 128).map (fun i => (List.range 128).map (fun j =>
    uInt 32 (((rows.getD i []).getD j 0 : Int) + ((List.range k).map (fun n =>
      sInt 8 (elemAt 4 a (i * k + n)) * sInt 8 (elemAt 4 b (128 * n + j)))).sum)))

/-- One binary step: mode 0 XOR, 1 AND (R202). -/
def stepBin (mode a b : Nat) (rows : List (List Nat)) : List (List Nat) :=
  (List.range 128).map (fun i => (List.range 128).map (fun j =>
    ((rows.getD i []).getD j 0 + ((List.range 64).filter (fun n =>
      let x := a.testBit (64 * i + n)
      let y := b.testBit (128 * n + j)
      if mode = 0 then x != y else x && y)).length) % 2 ^ 32))

/-- A step of a kind, from the operands' elements and scales. -/
def stepRows (kind mode e a sa b sb : Nat) (rows : List (List Nat)) : List (List Nat) × Nat :=
  if kind = 2 then (stepBin mode a b rows, 0)
  else if fmtA e = 4 then (stepInt e a b rows, 0)
  else stepFp e a sa b sb rows

/-- Some element is a NaN that was none before (R202). -/
def newNan (old new : List (List Nat)) : Bool :=
  (List.zip old new).any (fun p => (List.zip p.1 p.2).any (fun q => fmt32.isNan q.2 && ! fmt32.isNan q.1))

/-- A count that saturates at 65,535 (R202). -/
def satAdd (c : BitVec 16) (n : Nat) : BitVec 16 := BitVec.ofNat 16 (min 65535 (c.toNat + n))

/-! ### Ranks (R220) -/

/-- The order of R220: a NaN below every number, −0 equal to +0. -/
def rankKey (c : Nat) : Int := if fmt32.isNan c then -(2 ^ 40) else fmt32.key c

def rankRows (g : Nat) (s d : List (List Nat)) : List (List Nat) :=
  (List.range 128).map (fun i =>
    let ks := (s.getD i []).map rankKey
    (List.range 128).map (fun j =>
      let n := ((List.range 8).map (· + 8 * g)).filter (fun k =>
        k ≠ j && (ks.getD j 0 < ks.getD k 0 || (ks.getD k 0 = ks.getD j 0 && k < j)))
      ((d.getD i []).getD j 0 + n.length) % 2 ^ 32))

/-! ### Stored rows (R157, R199, R210, R221) -/

/-- A tile element in a stored format: FP32 and INT32 keep the 32 bits; INT32 to INT8 saturates; FP32 rounds with RNE and
saturates. -/
def outElem (isInt : Bool) (f x : Nat) : Nat :=
  if f = 0 ∨ f = 5 then x
  else if isInt then uInt 8 (max (-128) (min 127 (sInt 32 x)))
  else toElem f .rne true (fmt32.dec x)

/-- The bytes of elements in index order, as one number. -/
def packElems (isInt : Bool) (f : Nat) (l : List Nat) : Nat :=
  match l with
  | [] => 0
  | x :: r => outElem isInt f x + 2 ^ (8 * elemSize f) * packElems isInt f r

end Sys2Proof.Machine
end

