-- ==== Sys2Proof/Machine/Vector.lean ====
section
/-!
DEFINITION. Vector words: their issue (R170, R177, R186), their start with every operand read (R171, R173), and the
engine's events.
-/
namespace Sys2Proof.Machine

/-! ### Issue -/

/-- A scratchpad address register of a VLS word fails its check for `n` bytes with alignment `al` (R186). -/
def vlsBad (v : Word) (al n : Nat) : Bool := 2 ^ 25 ≤ v.toNat || v.toNat % al ≠ 0 || 2 ^ 25 < v.toNat + n

/-- The checks of a VLS word at issue, in the order of the table; the value of the first that fails (R186). -/
def vlsCheck (i : Instr) (t : Ctx) : Option Word :=
  let strided (a b : Reg) : Option Word :=
    let v := t.rd a
    let st := t.rd b
    if vlsBad v 128 4096 then some v
    else if 2 ^ 25 ≤ st.toNat ∨ st.toNat % 128 ≠ 0 then some st
    else if 2 ^ 25 < v.toNat + 7 * st.toNat + 512 then some (v + 7 * st)
    else none
  match i with
  | .vld _ _ a => if vlsBad (t.rd a) 128 4096 then some (t.rd a) else none
  | .vst _ _ a => if vlsBad (t.rd a) 128 4096 then some (t.rd a) else none
  | .vlds _ _ a b => strided a b
  | .vsts _ _ a b => strided a b
  | .vldx _ _ a _ => if vlsBad (t.rd a) 4 0 then some (t.rd a) else none
  | .vstx _ _ a _ => if vlsBad (t.rd a) 4 0 then some (t.rd a) else none
  | .vldb _ a => if vlsBad (t.rd a) 32 32 then some (t.rd a) else none
  | _ => none

/-- The X values that a vector word carries with it (R170). -/
def vecXs (i : Instr) (t : Ctx) : Word × Word :=
  match i with
  | .vld _ _ a => (t.rd a, 0)
  | .vst _ _ a => (t.rd a, 0)
  | .vlds _ _ a b => (t.rd a, t.rd b)
  | .vsts _ _ a b => (t.rd a, t.rd b)
  | .vldx _ _ a _ => (t.rd a, 0)
  | .vstx _ _ a _ => (t.rd a, 0)
  | .vldb _ a => (t.rd a, 0)
  | .vsplat _ _ a => (t.rd a, 0)
  | .vmset _ _ a _ => (t.rd a, 0)
  | .vlane _ _ _ b => (0, t.rd b)
  | .vbcast _ _ _ b => (0, t.rd b)
  | _ => (0, 0)

/-- The slot that a vector word names for completion (R190, R195). -/
def vecSlot (i : Instr) : Option Nat :=
  match i with
  | .vbal _ d _ => some d.toNat
  | .vlane _ d _ _ => some d.toNat
  | _ => none

/-- The issue of a vector word: its checks, and its entry with the X values and the rounding of the context (R142). -/
def vecIssue (i : Instr) (c x : Nat) (s : State) : EnqRes :=
  let t := s.ctx c x
  match vlsCheck i t with
  | some v => .trap Cause.misal v
  | none =>
    let (va, vb) := vecXs i t
    .ok s { ins := i, va := va, vb := vb, rm := t.vround.setWidth 3, sat := t.vround.getLsbD 4 } (vecSlot i)

/-- A vector word, enqueued in the VXE queue. -/
def vecWord (i : Instr) (k : Tk) (s : State) : Out :=
  control i (onlyY k) s (enqBody (wordVal i) 2 k none (vecIssue i))

/-! ### Results -/

/-- What a command's start gives: the engine after it, its latency, its register writes, the scratchpad bytes that they take, its
scratchpad writes, and the greatest load of one bank. -/
structure VxeOut where
  vxe    : Vxe
  lat    : Nat
  writes : List RegWrite := []
  post   : List SpadWrite := []
  look   : List (Nat × Nat) := []
  load   : Nat := 0

/-- What a start answers: the results, a trap at the head, or the window line that must be filled first. -/
inductive VxeRes where
  | ok (o : VxeOut)
  | trap (c : BitVec 5) (v : Word)
  | fill (w i : Nat)

def Vxe.vr (v : Vxe) (r : Reg) : VReg := Map.get 0 v.v r.toNat
def Vxe.mr (v : Vxe) (r : Reg) : Mask := Map.get 0 v.m r.toNat
def Vxe.scr (v : Vxe) (n : BitVec 2) : BitVec 256 := Map.get 0 v.sc n.toNat

/-- A scratchpad line with the stores of a queue's commands that have not retired (R188). -/
def EngQ.overlay (q : EngQ) (ln : Nat) (l : Line) : Line :=
  q.fl.foldl (fun l f => f.post.foldl (fun l w => if w.ln = ln then (l &&& w.keep) ||| (w.data &&& ~~~ w.keep) else l) l) l

/-- The scratchpad as the VXE sees it: with its own stores that have not retired (R188). -/
def Core.vecLine (k : Core) (ln : Nat) : Line := k.vxe.q.overlay ln (k.spadLine ln)

/-- Stores of words at addresses; the later of the list prevails (R187). -/
def scatter (ws : List (Nat × Nat)) : List SpadWrite :=
  (distinct (ws.map (fun w => w.1 / 128))).map (fun ln =>
    ws.foldl (fun (p : SpadWrite) w =>
      if w.1 / 128 = ln then
        { p with data := putBits p.data (8 * (w.1 % 128)) 32 w.2, keep := putBits p.keep (8 * (w.1 % 128)) 32 0 } else p)
      { ln := ln, data := 0, keep := BitVec.allOnes 1024 })

/-- Lane-wise results of two registers, one register, a compare. -/
def Vxe.lanes2 (v : Vxe) (d a b : Reg) (lat : Nat) (f : Nat → Nat → Nat) : VxeRes :=
  .ok { vxe := v, lat := lat
        writes := [.vreg d.toNat (ofLanes (List.zipWith f (lanesOf (v.vr a)) (lanesOf (v.vr b)))) 0] }
def Vxe.lanes1 (v : Vxe) (d a : Reg) (lat : Nat) (f : Nat → Nat) : VxeRes :=
  .ok { vxe := v, lat := lat, writes := [.vreg d.toNat (ofLanes ((lanesOf (v.vr a)).map f)) 0] }
def Vxe.cmp2 (v : Vxe) (d a b : Reg) (f : Nat → Nat → Bool) : VxeRes :=
  .ok { vxe := v, lat := 4
        writes := [.mask d.toNat (ofBits (List.zipWith f (lanesOf (v.vr a)) (lanesOf (v.vr b))))] }

/-- An access of the scratchpad starts when its window lines are filled; of several that are not, the first in the order of the access is
filled first, and is the one whose XLAT or PROT is raised (R196, log 111). -/
def Core.vecLoad (k : Core) (late : Bool) (lns : List Nat) (f : VxeOut) : VxeRes :=
  match (if late then none else k.firstNeed lns) with
  | some (w, i) => .fill w i
  | none => .ok f

/-- The bytes that a command's access reads, in order (R188). -/
def lookVal (line : Nat → Line) (ps : List (Nat × Nat)) : Nat :=
  ps.foldr (fun p acc => spadBytes line p.1 p.2 + 2 ^ (8 * p.2) * acc) 0

/-- A write of the bytes that an access has read, the j-th of its command. -/
def RegWrite.filled (w : RegWrite) (v j : Nat) : RegWrite :=
  match w with
  | .vreg n _ keep => .vreg n (BitVec.ofNat 32768 v) keep
  | .scale n _ => .scale n (BitVec.ofNat 256 v)
  | .tile key _ => .tile key (BitVec.ofNat 4096 (bits v (4096 * j) 4096))
  | w => w

/-- The access of a command reads the scratchpad, in the clock after its start. A line that is uncorrectable ends the command with ECC; of
several, the first in the order of the access is named (R189, R208, log 112). -/
def Core.look (k : Core) (ws : List SpadWrite) (line : Nat → Line) (f : Flight) : Flight :=
  if f.look = [] then f
  else
    let v := lookVal line f.look
    let bad := (k.firstBad ws (f.look.flatMap (fun p => spadLines p.1 p.2))).map (fun a => (Cause.ecc, wnat a))
    { f with
      writes := f.writes.mapIdx (fun j w => w.filled v j), look := [], cause := if f.cause.isSome then f.cause else bad }

/-- The started commands of a queue make their accesses; a queue of which one then ends with a cause stops (R189, R208). -/
def Core.lookAll (k : Core) (e : Nat) (line : Nat → Line) : Core :=
  if (k.q e).fl.all (fun f => f.look = []) then k
  else
    let fl := (k.q e).fl.map (k.look ((k.q e).fl.flatMap (·.post)) line)
    k.updQ e (fun q => if fl.any (fun f => f.cause.isSome) then ({ q with fl := fl } : EngQ).stopFrom k.clk else { q with fl := fl })

/-- `vpopc` (R190): the popped values of masked lanes, what stays of the others, and the buffer after it. -/
def popStream (l : List Code) (m : Mask) (i n : Nat) : List Nat × List Code × Bool :=
  match n with
  | 0 => ([], l, false)
  | r + 1 =>
    if m.getLsbD i = false then
      let (xs, l', u) := popStream l m (i + 1) r
      (0 :: xs, l', u)
    else
      match l with
      | x :: l1 =>
        let (xs, l', u) := popStream l1 m (i + 1) r
        (x.toNat :: xs, l', u)
      | [] =>
        let (xs, l', _) := popStream [] m (i + 1) r
        (0 :: xs, l', true)

/-- The lanes of a mask that are not written. -/
def laneKeep (m : Mask) : VReg := ofLanes ((List.range 1024).map (fun i => if m.getLsbD i then 0 else 0xffffffff))

/-- The effect of a vector command at its start, every register operand read now (R171); `late` takes unfilled lines as zero
(R347). Where rows of one `vsts` overlap, the higher row prevails (DESIGN CHOICE: R186 does not say which; log 137). -/
def Core.vecRun (k : Core) (ent : Entry) (late : Bool) : VxeRes :=
  let v := k.vxe
  let a0 := ent.va.toNat
  match ent.ins with
  | .vadd _ d a b e => v.lanes2 d a b 4 (viewAdd e)
  | .vsub _ d a b e => v.lanes2 d a b 4 (viewSub e)
  | .vmul _ d a b e => v.lanes2 d a b 4 (viewMul e)
  | .vfma _ d a b e =>
    .ok { vxe := v, lat := 6, writes := [.vreg d.toNat (ofLanes (List.zipWith (fun p c => viewFma e p.1 p.2 c)
      (List.zip (lanesOf (v.vr a)) (lanesOf (v.vr b))) (lanesOf (v.vr d)))) 0] }
  | .vmax _ d a b e => v.lanes2 d a b 4 (viewMax e)
  | .vmin _ d a b e => v.lanes2 d a b 4 (viewMin e)
  | .vabs _ d a e => v.lanes1 d a 4 (viewAbs e)
  | .vneg _ d a e => v.lanes1 d a 4 (viewNeg e)
  | .vand _ d a b => v.lanes2 d a b 4 (· &&& ·)
  | .vor _ d a b => v.lanes2 d a b 4 (· ||| ·)
  | .vxor _ d a b => v.lanes2 d a b 4 (· ^^^ ·)
  | .vsll _ d a b => v.lanes2 d a b 4 laneSll
  | .vsra _ d a b => v.lanes2 d a b 4 laneSra
  | .vsrl _ d a b => v.lanes2 d a b 4 laneSrl
  | .vcmplt _ d a b e => v.cmp2 d a b (viewLt e)
  | .vcmpeq _ d a b e => v.cmp2 d a b (viewEq e)
  | .vexp2 _ d a => v.lanes1 d a 8 exp2F
  | .vlog2 _ d a => v.lanes1 d a 8 log2F
  | .vrcp _ d a => v.lanes1 d a 8 rcpF
  | .vrsqrt _ d a => v.lanes1 d a 8 rsqrtF
  | .vcvt _ d a b m =>
    let rm := rmCode m ent.rm
    let b := b.toNat
    let ls := (List.range 1024).map (fun i => cvtLane b rm ent.sat (genAt v.gen i) (laneOf (v.vr a) i))
    let keep := if 4 ≤ b ∧ b < 16 then byteKeep (b % 4) else 0
    .ok { vxe := if rm = 4 ∧ cvtNarrow b then { v with gen := stepGens v.gen (fun i => (fmt32.dec (laneOf (v.vr a) i)).isFin) } else v
          lat := 4, writes := [.vreg d.toNat (ofLanes ls) keep] }
  | .vbmax _ d a b =>
    let cs := catBytes (blockScales (v.vr a) b.toNat)
    .ok { vxe := { v with wp := v.wp + 1 }, lat := 4
          writes := [.scale v.wp.toNat (BitVec.ofNat 256 cs), .vreg d.toNat (BitVec.ofNat 32768 cs) 0] }
  | .vq _ d a b m =>
    let rm := rmCode m ent.rm
    let q := b.toNat % 4
    let g := b.toNat / 4
    let sc := v.scr v.rp
    let ls := (List.range 1024).map (fun i =>
      quantise (blockFmt g) (scByte sc (i / 32)) (modeOf rm true (genAt v.gen i)) ent.sat (fmt32.dec (laneOf (v.vr a) i))
        * 2 ^ (8 * q))
    let rounds (i : Nat) : Bool := (fmt32.dec (laneOf (v.vr a) i)).isFin && scByte sc (i / 32) ≠ 255
    .ok { vxe := { v with rp := v.rp + 1, gen := if rm = 4 ∧ g ≠ 3 then stepGens v.gen rounds else v.gen }
          lat := 4, writes := [.vreg d.toNat (ofLanes ls) (byteKeep q)] }
  | .vdq _ d a b m =>
    let rm := rmCode m ent.rm
    let q := b.toNat % 4
    let g := b.toNat / 4
    let sc := v.scr v.rp
    let ls := (List.range 1024).map (fun i =>
      dequantise (blockFmt g) (scByte sc (i / 32)) (modeOf rm false 0) (laneByte (laneOf (v.vr a) i) q))
    .ok { vxe := { v with rp := v.rp + 1 }, lat := 4, writes := [.vreg d.toNat (ofLanes ls) 0] }
  | .vredmax _ d a e g =>
    .ok { vxe := v, lat := 12, writes := [.vreg d.toNat
      (ofLanes (reduceLanes (viewMax e) ((lanesOf (v.vr a)).map (viewLane e)) (g = 1))) 0] }
  | .vredsum _ d a e g =>
    .ok { vxe := v, lat := 12, writes := [.vreg d.toNat
      (ofLanes (reduceLanes (viewAdd e) ((lanesOf (v.vr a)).map (viewLane e)) (g = 1))) 0] }
  | .vredmin _ d a e g =>
    .ok { vxe := v, lat := 12, writes := [.vreg d.toNat
      (ofLanes (reduceLanes (viewMin e) ((lanesOf (v.vr a)).map (viewLane e)) (g = 1))) 0] }
  | .vbcast _ d a _ =>
    .ok { vxe := v, lat := 8, writes := [.vreg d.toNat
      (ofLanes (List.replicate 1024 (laneOf (v.vr a) (ent.vb.toNat % 1024)))) 0] }
  | .vperm _ d a b =>
    .ok { vxe := v, lat := 8, writes := [.vreg d.toNat
      (ofLanes ((lanesOf (v.vr b)).map (fun x => laneOf (v.vr a) (x % 1024)))) 0] }
  | .vld _ d _ =>
    k.vecLoad late (spadLines a0 4096) { vxe := v, lat := 6, writes := [.vreg d.toNat 0 0], look := [(a0, 4096)] }
  | .vst _ d _ =>
    k.vecLoad late (spadLines a0 4096) { vxe := v, lat := 2, post := putBytes a0 4096 (v.vr d).toNat }
  | .vlds _ d _ _ =>
    let at_ (r : Nat) : Nat := a0 + r * ent.vb.toNat
    k.vecLoad late ((List.range 8).flatMap (fun r => spadLines (at_ r) 512))
      { vxe := v, lat := 6, writes := [.vreg d.toNat 0 0], look := (List.range 8).map (fun r => (at_ r, 512)) }
  | .vsts _ d _ _ =>
    let at_ (r : Nat) : Nat := a0 + r * ent.vb.toNat
    k.vecLoad late ((List.range 8).flatMap (fun r => spadLines (at_ r) 512))
      { vxe := v, lat := 2
        post := (List.range 8).flatMap (fun r => putBytes (at_ r) 512 (bits (v.vr d).toNat (4096 * r) 4096)) }
  | .vldx _ d _ b =>
    let as_ := gatherAddrs a0 (v.vr b)
    match gatherBad as_ with
    | some a => .trap Cause.misal (wnat a)
    | none =>
      let lns := distinct (as_.map (· / 128))
      k.vecLoad late lns
        { vxe := v, lat := 12, load := bankLoad lns, writes := [.vreg d.toNat 0 0], look := as_.map (fun a => (a, 4)) }
  | .vstx _ d _ b =>
    let as_ := gatherAddrs a0 (v.vr b)
    match gatherBad as_ with
    | some a => .trap Cause.misal (wnat a)
    | none =>
      let lns := distinct (as_.map (· / 128))
      k.vecLoad late lns
        { vxe := v, lat := 2, load := bankLoad lns, post := scatter (List.zip as_ (lanesOf (v.vr d))) }
  | .vldb _ _ =>
    k.vecLoad late (spadLines a0 32)
      { vxe := { v with wp := v.wp + 1 }, lat := 6, writes := [.scale v.wp.toNat 0], look := [(a0, 32)] }
  | .vpushc _ a b =>
    let m := v.mr b
    let xs := ((List.range 1024).filter (fun i => m.getLsbD i)).map (fun i => BitVec.ofNat 32 (laneOf (v.vr a) i))
    let room := 2048 - v.stream.length
    .ok { vxe := { v with stream := v.stream ++ xs.take room, ovf := v.ovf || room < xs.length }, lat := 8 }
  | .vpopc _ d b =>
    let m := v.mr b
    let (xs, l, u) := popStream v.stream m 0 1024
    .ok { vxe := { v with stream := l, unf := v.unf || u }, lat := 8, writes := [.vreg d.toNat (ofLanes xs) (laneKeep m)] }
  | .vbal _ d a =>
    let st := wnat (v.unf.toNat * 2 ^ 45 + v.ovf.toNat * 2 ^ 44 + v.stream.length * 2 ^ 32 + 1)
    .ok { vxe := { v with ovf := false, unf := false, stream := if a = 1 then [] else v.stream }, lat := 4
          writes := [.slot d.toNat st] }
  | .vsoftk _ d a b =>
    let l := lanesOf (v.vr a)
    let rows := (List.range 8).map (fun r => softRow ((l.drop (128 * r)).take 128) b.toNat)
    .ok { vxe := v, lat := 24
          writes := [.vreg d.toNat (ofLanes (rows.flatMap (·.1))) 0, .vreg (d.toNat + 1) (ofLanes (rows.flatMap (·.2))) 0] }
  | .vhist _ d a b =>
    .ok { vxe := v, lat := 12, writes := [.vreg d.toNat (ofLanes (histLanes (lanesOf (v.vr d)) (lanesOf (v.vr a)) (v.mr b))) 0] }
  | .vmov _ d a => .ok { vxe := v, lat := 4, writes := [.vreg d.toNat (v.vr a) 0] }
  | .vsplat _ d _ => .ok { vxe := v, lat := 4, writes := [.vreg d.toNat (ofLanes (List.replicate 1024 a0)) 0] }
  | .vlane _ d a _ =>
    .ok { vxe := v, lat := 4, writes := [.slot d.toNat (completion codeDone (laneOf (v.vr a) (ent.vb.toNat % 1024)))] }
  | .vsel _ d a b =>
    let m := v.mr b
    .ok { vxe := v, lat := 4, writes := [.vreg d.toNat (ofLanes ((List.range 1024).map (fun i =>
      if m.getLsbD i then laneOf (v.vr a) i else laneOf (v.vr d) i))) 0] }
  | .vmset _ d _ b => .ok { vxe := v, lat := 4, writes := [.mask d.toNat (maskKind b.toNat a0 (v.mr d))] }
  | .vidx _ d => .ok { vxe := v, lat := 4, writes := [.vreg d.toNat (ofLanes (List.range 1024)) 0] }
  | _ => .ok { vxe := v, lat := 1 }

/-! ### Events of the VXE -/

/-- Fills that a no-op retirement makes: SKIPPED in the slot that the word names (R111). -/
def skipFill (slot : Option Nat) : Option (Nat × Word) := slot.map (fun n => (n, completion codeSkipped 0))

/-- A command of the VXE starts with its register operands read; a line that is not filled freezes the core first (R188). -/
def State.startVxe (s : State) (c : Nat) (ent : Entry) (late : Option Freeze) : State :=
  let k := s.core c
  match k.vecRun ent late.isSome with
  | .trap cz v => s.raiseHead c 2 ent.ctx cz v
  | .fill w i =>
    let f : Freeze := { kind := 0, loc := winVa (k.window w) i, since := s.cc, ctx := ent.ctx, eng := 2, win := w, idx := i, atU := ent.atU, lvl := ent.lvl }
    (s.fillPkt c ent f).freeze c f
  | .ok o =>
    let fl : Flight :=
      { ent := ent, wclk := k.clk + o.lat, rclk := k.clk + o.lat, writes := o.writes, post := o.post, look := o.look
        done := o.writes = [], cause := late.map (fun f => (Cause.frz, frzVal f))
        pushed := o.vxe.stream.length - k.vxe.stream.length }
    let s := s.updCore c (fun k => { k with vxe := o.vxe })
    let s := (s.startEntry c 2 fl).count c ent.ctx 3 1
    if 6 < o.load then
      s.freeze c { kind := 2, loc := ent.va, since := s.cc, ctx := ent.ctx, eng := 2, idx := ent.seq.toNat, ends := some (s.cc + (o.load - 6)) }
    else s

/-- The lanes are reseeded when an entry that carries a `vseed` write is at the head (R149). -/
def Core.reseed (k : Core) : Core :=
  match k.vxe.q.q with
  | ent :: r =>
    match ent.seed with
    | some sd => { k with vxe := { k.vxe with
        gen := seedLanes sd 1024, q := { k.vxe.q with q := { ent with seed := none } :: r } } }
    | none => k
  | [] => k

/-- The head of any queue, up to its own start: a fence, a note, a guard that skips (R106, R110, R111). `go` starts a
command. -/
def State.headStep (s : State) (c e : Nat) (slotOf : Instr → Option Nat) (go : State → Entry → State) : State :=
  let k := s.core c
  if k.mayStart e = false then s
  else
    match (k.q e).q with
    | [] => s
    | ent :: _ =>
      match ent.fence with
      | some (n, _) =>
        if (k.q e).fl ≠ [] then s
        else
          let k := k.fenceArrive n e
          if k.fenceOpen n then (s.setCore c (k.fencePass n e)).startEntry c e (idleFlight k ent none) else s.setCore c k
      | none =>
        if k.headTokens e ent = false then s
        else
          match k.guardOf ent with
          | .wait => s
          | .skip => s.startEntry c e (idleFlight k ent (skipFill (slotOf ent.ins)))
          | .run =>
            match ent.ins with
            | .enote _ _ => s.startEntry c e (idleFlight k ent none)
            | _ => go s ent

/-- `VXE_COMMAND_START` (R149, R171, R176). -/
def execVxeCommandStart (core : Nat) (s : State) : Out :=
  .next ((s.updCore core Core.reseed).headStep core 2 vecSlot (fun s ent => s.startVxe core ent none))

/-- One result reaches the register file (R168, R175). -/
def Core.applyWrite (k : Core) (w : RegWrite) : Core :=
  match w with
  | .vreg n v keep =>
    { k with vxe := { k.vxe with v := Map.upd 0 k.vxe.v n (fun o => (o &&& keep) ||| (v &&& ~~~ keep)) } }
  | .mask n v => { k with vxe := { k.vxe with m := Map.set 0 k.vxe.m n v } }
  | .scale n v => { k with vxe := { k.vxe with sc := Map.set 0 k.vxe.sc n v } }
  | .tile key v => { k with mxe := { k.mxe with t := Map.set 0 k.mxe.t key v, badT := k.mxe.badT.filter (fun b => b / 128 ≠ key) } }
  | .slot n v => k.fillSlot n v

/-- The due command whose results are written next: the earliest write clock, and the earlier entry of equal ones. -/
def dueFlight (fl : List Flight) (clk : Nat) : Option Flight :=
  fl.foldl (fun m f =>
    if f.done ∨ clk < f.wclk then m
    else match m with
      | some g => if f.wclk < g.wclk then some f else m
      | none => some f) none

/-- The results of queue `e`'s next due command are written. -/
def Core.writeDue (k : Core) (e : Nat) : Core :=
  match dueFlight (k.q e).fl k.clk with
  | none => k
  | some f =>
    let k := f.writes.foldl Core.applyWrite k
    k.updQ e (fun q => { q with fl := q.fl.map (fun g => if g.ent.seq = f.ent.seq then { g with done := true } else g) })

/-- A command writes a slot with its results. -/
def Flight.writesSlot (f : Flight) : Bool := f.writes.any (fun w => match w with
  | .slot _ _ => true
  | _ => false)

/-- `VXE_WRITEBACK` (R171, R175). -/
def execVxeWriteback (core : Nat) (s : State) : Out :=
  let k := s.core core
  let slot := (dueFlight k.vxe.q.fl k.clk).any Flight.writesSlot
  .next (s.updCore core (fun k => { k.writeDue 2 with filledAt := if slot then some s.cc else k.filledAt }))

/-! ### The words -/

def execVadd (k : Tk) (d a b : Reg) (e : BitVec 2) (s : State) : Out := vecWord (.vadd k d a b e) k s
def execVsub (k : Tk) (d a b : Reg) (e : BitVec 2) (s : State) : Out := vecWord (.vsub k d a b e) k s
def execVmul (k : Tk) (d a b : Reg) (e : BitVec 2) (s : State) : Out := vecWord (.vmul k d a b e) k s
def execVfma (k : Tk) (d a b : Reg) (e : BitVec 2) (s : State) : Out := vecWord (.vfma k d a b e) k s
def execVmax (k : Tk) (d a b : Reg) (e : BitVec 2) (s : State) : Out := vecWord (.vmax k d a b e) k s
def execVmin (k : Tk) (d a b : Reg) (e : BitVec 2) (s : State) : Out := vecWord (.vmin k d a b e) k s
def execVabs (k : Tk) (d a : Reg) (e : BitVec 2) (s : State) : Out := vecWord (.vabs k d a e) k s
def execVneg (k : Tk) (d a : Reg) (e : BitVec 2) (s : State) : Out := vecWord (.vneg k d a e) k s
def execVand (k : Tk) (d a b : Reg) (s : State) : Out := vecWord (.vand k d a b) k s
def execVor (k : Tk) (d a b : Reg) (s : State) : Out := vecWord (.vor k d a b) k s
def execVxor (k : Tk) (d a b : Reg) (s : State) : Out := vecWord (.vxor k d a b) k s
def execVsll (k : Tk) (d a b : Reg) (s : State) : Out := vecWord (.vsll k d a b) k s
def execVsra (k : Tk) (d a b : Reg) (s : State) : Out := vecWord (.vsra k d a b) k s
def execVsrl (k : Tk) (d a b : Reg) (s : State) : Out := vecWord (.vsrl k d a b) k s
def execVcmplt (k : Tk) (d a b : Reg) (e : BitVec 2) (s : State) : Out := vecWord (.vcmplt k d a b e) k s
def execVcmpeq (k : Tk) (d a b : Reg) (e : BitVec 2) (s : State) : Out := vecWord (.vcmpeq k d a b e) k s
def execVexp2 (k : Tk) (d a : Reg) (s : State) : Out := vecWord (.vexp2 k d a) k s
def execVlog2 (k : Tk) (d a : Reg) (s : State) : Out := vecWord (.vlog2 k d a) k s
def execVrcp (k : Tk) (d a : Reg) (s : State) : Out := vecWord (.vrcp k d a) k s
def execVrsqrt (k : Tk) (d a : Reg) (s : State) : Out := vecWord (.vrsqrt k d a) k s
def execVcvt (k : Tk) (d a b : Reg) (m : BitVec 3) (s : State) : Out := vecWord (.vcvt k d a b m) k s
def execVbmax (k : Tk) (d a b : Reg) (s : State) : Out := vecWord (.vbmax k d a b) k s
def execVq (k : Tk) (d a b : Reg) (m : BitVec 3) (s : State) : Out := vecWord (.vq k d a b m) k s
def execVdq (k : Tk) (d a b : Reg) (m : BitVec 3) (s : State) : Out := vecWord (.vdq k d a b m) k s
def execVredmax (k : Tk) (d a : Reg) (e : BitVec 2) (g : BitVec 1) (s : State) : Out := vecWord (.vredmax k d a e g) k s
def execVredsum (k : Tk) (d a : Reg) (e : BitVec 2) (g : BitVec 1) (s : State) : Out := vecWord (.vredsum k d a e g) k s
def execVredmin (k : Tk) (d a : Reg) (e : BitVec 2) (g : BitVec 1) (s : State) : Out := vecWord (.vredmin k d a e g) k s
def execVbcast (k : Tk) (d a b : Reg) (s : State) : Out := vecWord (.vbcast k d a b) k s
def execVperm (k : Tk) (d a b : Reg) (s : State) : Out := vecWord (.vperm k d a b) k s
def execVld (k : Tk) (d a : Reg) (s : State) : Out := vecWord (.vld k d a) k s
def execVst (k : Tk) (d a : Reg) (s : State) : Out := vecWord (.vst k d a) k s
def execVlds (k : Tk) (d a b : Reg) (s : State) : Out := vecWord (.vlds k d a b) k s
def execVsts (k : Tk) (d a b : Reg) (s : State) : Out := vecWord (.vsts k d a b) k s
def execVldx (k : Tk) (d a b : Reg) (s : State) : Out := vecWord (.vldx k d a b) k s
def execVstx (k : Tk) (d a b : Reg) (s : State) : Out := vecWord (.vstx k d a b) k s
def execVldb (k : Tk) (a : Reg) (s : State) : Out := vecWord (.vldb k a) k s
def execVpushc (k : Tk) (a b : Reg) (s : State) : Out := vecWord (.vpushc k a b) k s
def execVpopc (k : Tk) (d b : Reg) (s : State) : Out := vecWord (.vpopc k d b) k s
def execVbal (k : Tk) (d a : Reg) (s : State) : Out := vecWord (.vbal k d a) k s
def execVsoftk (k : Tk) (d a b : Reg) (s : State) : Out := vecWord (.vsoftk k d a b) k s
def execVhist (k : Tk) (d a b : Reg) (s : State) : Out := vecWord (.vhist k d a b) k s
def execVmov (k : Tk) (d a : Reg) (s : State) : Out := vecWord (.vmov k d a) k s
def execVsplat (k : Tk) (d a : Reg) (s : State) : Out := vecWord (.vsplat k d a) k s
def execVlane (k : Tk) (d a b : Reg) (s : State) : Out := vecWord (.vlane k d a b) k s
def execVsel (k : Tk) (d a b : Reg) (s : State) : Out := vecWord (.vsel k d a b) k s
def execVmset (k : Tk) (d a b : Reg) (s : State) : Out := vecWord (.vmset k d a b) k s
def execVidx (k : Tk) (d : Reg) (s : State) : Out := vecWord (.vidx k d) k s

end Sys2Proof.Machine
end

