-- ==== Sys2Proof/Machine/Matrix.lean ====
section
/-!
DEFINITION. Matrix words: their issue (R203, R214 to R217, R219, R221), the start of a command with its interlocks (R205,
R206), the loop nest (R209 to R213), and the engine's events.
-/
namespace Sys2Proof.Machine

/-! ### Operand words (R203) -/

def opOq (w : Word) : Bool := w.getLsbD 63
def opQn (w : Word) : Nat := wbits w 56 3
def opInt (w : Word) : Bool := w.getLsbD 52
def opOpt (w : Word) : Nat := wbits w 48 4
def opAddr (w : Word) : Nat := wbits w 0 25

/-- A word keeps the layout; `opts` are the OPT bits that it may set, `oqOk` and `intOk` whether it may set OQ and INT. -/
def opLayout (w : Word) (opts : Nat) (oqOk intOk : Bool) : Bool :=
  wbits w 59 4 = 0 && wbits w 53 3 = 0 && wbits w 25 23 = 0 && (intOk || ! opInt w) && (opOpt w &&& (15 - opts)) = 0 &&
    (if opOq w then oqOk && opAddr w = 0 else opQn w = 0)

/-- ADDR[6:0] of a word. -/
def opLow (w : Word) : Bool := opAddr w % 128 ≠ 0

/-- The first word of a list whose address is misaligned raises MISAL. -/
def opMisal (ws : List Word) : Option Word := (ws.find? opLow).map (fun w => wnat (opAddr w))

/-- Checks of operand words at issue, ILL before MISAL (R203). -/
def opCheck (word : Word) (ok : Bool) (ws : List Word) (go : EnqRes) : EnqRes :=
  if ok = false then .trap Cause.ill word
  else match opMisal ws with
    | some v => .trap Cause.misal v
    | none => go

/-! ### Issue -/

/-- A nest table of twelve doublewords, or nothing where it breaks R60 (R215). -/
def nestLevels (ws : List Word) : Option (List NestLevel) :=
  let lv (l : Nat) : NestLevel :=
    let a := ws.getD (2 * l) 0
    let b := ws.getD (2 * l + 1) 0
    { cnt := a.setWidth 16, zt := a.getLsbD 16, st := a.getLsbD 17, sa := (a >>> 32).setWidth 32
      sb := b.setWidth 32, sc := (b >>> 32).setWidth 32 }
  let stOk (v : BitVec 32) : Bool := bits v.toNat 25 7 = 0 || bits v.toNat 25 7 = 127
  if (List.range 6).all (fun l => wbits (ws.getD (2 * l) 0) 18 14 = 0 && stOk (lv l).sa && stOk (lv l).sb && stOk (lv l).sc)
  then some ((List.range 6).map lv) else none

/-- A NEST trap value: the word, the reason and the format entry (R222). -/
def goVal (word : Word) (reason ent : Nat) : Word := word ||| wnat (reason * 2 ^ 32 + ent * 2 ^ 40)

/-- A block of doublewords read at issue, as loads (R215, R217). -/
def withBlock (s : State) (c x : Nat) (va : Word) (al n : Nat) (f : State → List Word → EnqRes) : EnqRes :=
  if aligned va al = false then .trap Cause.misal va
  else match s.readBlock c x va n with
    | .trap cz v => .trap cz v
    | .wait w b => .hold w b
    | .ok s ws => f s ws

/-- The checks of a go block (R217). -/
def goCheck (word : Word) (ws : List Word) (go : EnqRes) : EnqRes :=
  let aw := ws.getD 0 0
  let bw := ws.getD 1 0
  let cw := ws.getD 2 0
  let ctl := ws.getD 3 0
  let kind := wbits ctl 2 2
  let om := if kind = 2 then 1 else 0
  opCheck word (opLayout aw om true false && opLayout bw om true false && opLayout cw 0 false false) [aw, bw, cw]
    (if wbits ctl 8 56 ≠ 0 ∨ kind = 3 then .trap Cause.nest (goVal word 9 0) else go)

/-- The issue of a matrix word. A move's operand word has OQ = 0, or the word raises MISAL (R221). -/
def matIssue (i : Instr) (c x : Nat) (s : State) : EnqRes :=
  let t := s.ctx c x
  let word := wordVal i
  let step (a b : Reg) (opts : Nat) : EnqRes :=
    opCheck word (opLayout (t.rd a) opts true false && opLayout (t.rd b) 0 true false) [t.rd a, t.rd b]
      (.ok s { ins := i, va := t.rd a, vb := t.rd b } none)
  match i with
  | .mxcfg _ a => withBlock s c x (t.rd a) 16 12 (fun s ws =>
      match nestLevels ws with
      | none => .trap Cause.nest (goVal word 9 0)
      | some _ => .ok s { ins := i, tab := ws } none)
  | .mxfmt _ _ a =>
    if wbits (t.rd a) 16 48 ≠ 0 ∨ fmtOk (t.rd a).toNat = false then .trap Cause.ill word
    else .ok s { ins := i, va := t.rd a } none
  | .mxgo _ d a => withBlock s c x (t.rd a) 32 4 (fun s ws =>
      goCheck word ws (.ok s { ins := i, tab := ws } (some d.toNat)))
  | .mxstat _ d _ => .ok s { ins := i } (some d.toNat)
  | .mxmm _ _ a b => step a b 15
  | .mxbin _ _ a b => step a b 1
  | .mxsp _ _ a b => step a b 15
  | .mxst _ _ a _ =>
    let w := t.rd a
    let f := opOpt w
    opCheck word (opLayout w 15 true true && f ≤ 5 && (! opInt w || f = 4 || f = 5)) [w]
      (if opOq w ∨ 2 ^ 25 < opAddr w + 1024 * elemSize f then .trap Cause.misal (wnat (opAddr w)) else .ok s { ins := i, va := w } none)
  | .mxld _ _ a _ =>
    let w := t.rd a
    opCheck word (opLayout w 0 true false) [w]
      (if opOq w ∨ 2 ^ 25 < opAddr w + 4096 then .trap Cause.misal (wnat (opAddr w)) else .ok s { ins := i, va := w } none)
  | _ => .ok s { ins := i } none

/-- A matrix word, enqueued in the MXE queue. -/
def matWord (i : Instr) (k : Tk) (s : State) : Out :=
  control i (onlyY k) s (enqBody (wordVal i) 1 k none (matIssue i))

/-- The slot that a matrix word names for completion. -/
def matSlot (i : Instr) : Option Nat :=
  match i with
  | .mxgo _ d _ => some d.toNat
  | .mxstat _ d _ => some d.toNat
  | _ => none

/-! ### Operands of a step (R201, R204) -/

/-- What an operand waits for: a window line, or an entry of an operand queue. -/
inductive Miss where
  | line (w i : Nat)
  | entry (q i : Nat)

/-- A scratchpad line as a step reads it: `fill` where its data is late or uncorrectable (R208, R347). -/
def Core.matLine (k : Core) (fill : Line) (ln : Nat) : Line :=
  let hole : Bool := k.badLine ln || (match k.windowOf ln with
    | none => false
    | some (w, i) => ! k.winHas w i || (match Map.get none (k.window w).lines i with
      | some l => l.bad
      | none => false))
  if hole then fill else k.mxe.q.overlay ln (k.spadLine ln)

/-- Every byte of a line 0x77: zero in DP8. -/
def dp8Line : Line := BitVec.ofNat 1024 (0x77 * ((2 ^ 1024 - 1) / 255))

def Core.queueOf (k : Core) (q : Nat) : List OqEntry := Map.get [] k.oq q

/-- Entries popped from an operand queue; a late one gives `fill`, a free one is not consumed (R204, R347). -/
def takeEntries (l : List OqEntry) (fill : Nat) (n : Nat) : Nat × List OqEntry :=
  match n with
  | 0 => (0, l)
  | m + 1 =>
    match l with
    | [] => let (v, l') := takeEntries [] fill m; (fill + 2 ^ 8192 * v, l')
    | e :: r => let (v, l') := takeEntries r fill m; ((if e.left = [] then e.data.toNat else fill) + 2 ^ 8192 * v, l')

/-- One operand at a step's start, `len` bytes of elements and `scl` of scales: its entries are popped, or its lines are filled. `late`
takes an entry that has not arrived as elements of 0, 0x77 in DP8, and scales of 0 (R204, R347). -/
def Core.takeOpd (k : Core) (late : Bool) (w : Word) (addr len scl : Nat) (dp8 : Bool) : Except Miss (OpdSrc × Core) :=
  if opOq w then
    let q := opQn w
    let n := (len + scl + 1023) / 1024
    let l := k.queueOf q
    match (if late then none else (List.range n).find? (fun i => match l[i]? with
      | some e => e.left ≠ []
      | none => true)) with
    | some i => .error (.entry q i)
    | none =>
      let v := (takeEntries l (if dp8 then 0x77 * ((2 ^ 8192 - 1) / 255) else 0) n).1
      let (z, l') := takeEntries l 0 n
      .ok (.popped (v % 2 ^ (8 * len)) (bits z (8 * len) (8 * scl)), { k with oq := Map.set [] k.oq q l' })
  else
    match (if late then none else k.firstNeed (spadLines addr (len + scl))) with
    | some (w, i) => .error (.line w i)
    | none => .ok (.spad addr, k)

/-- An operand as read: its elements, its scales, and a line that is uncorrectable; of several, the first. -/
structure Opd where
  elems  : Nat
  scales : Nat
  bad    : Option Nat := none

/-- The operand of a step that started in the clock before (R206): an uncorrectable line gives elements of 0, 0x77 in DP8, and scales
of 0 (R208). -/
def Core.seeOpd (k : Core) (o : OpdSrc) (len scl : Nat) (dp8 : Bool) : Opd :=
  match o with
  | .popped e s => { elems := e, scales := s }
  | .spad addr =>
    { elems := spadBytes (k.matLine (if dp8 then dp8Line else 0)) addr len
      scales := spadBytes (k.matLine 0) (addr + len) scl, bad := k.firstBad [] (spadLines addr (len + scl)) }

/-- The rows of a tile with the results of every started command that has not written them (R206: steps chain through the
accumulation path). A step that is still to read its operands has no result yet. -/
def Core.tileNow (k : Core) (t : Nat) : List (List Nat) :=
  (List.range 128).map (fun i =>
    rowElems (k.mxe.q.fl.foldl (fun r f => if f.done || f.step.isSome then r else f.writes.foldl (fun r w =>
      match w with
      | .tile key v => if key = 128 * t + i then v else r
      | _ => r) r) (Map.get 0 k.mxe.t (128 * t + i))))

/-- A step starts: A is taken before B (R204), `zero` adds to +0 (R210). -/
def Core.stepAt (k : Core) (late : Bool) (kind mode e t : Nat) (aw bw : Word) (aa ba : Nat) (zero : Bool) :
    Except Miss (StepIn × Core) :=
  match k.takeOpd late aw aa (geom e).2.1 (sclA e) (fmtA e = 7) with
  | .error m => .error m
  | .ok (a, k1) =>
    match k1.takeOpd late bw ba (geom e).2.2 (sclB e) false with
    | .error m => .error (match m with
      | .entry q i => .entry q (if opOq aw ∧ opQn aw = q then i + (lenA e + 1023) / 1024 else i)
      | m => m)
    | .ok (b, k2) => .ok ({ kind := kind, mode := mode, e := e, tile := t, zero := zero, a := a, b := b }, k2)

/-- A step as made: the tile's new rows, a line that is uncorrectable, and the core with its counts. -/
structure StepOut where
  rows : List (List Nat)
  bad  : Option Nat
  core : Core

/-- The step itself, on the tile `old` (R202). -/
def Core.stepOut (k : Core) (p : StepIn) (old : List (List Nat)) : StepOut :=
  let a := k.seeOpd p.a (geom p.e).2.1 (sclA p.e) (fmtA p.e = 7)
  let b := k.seeOpd p.b (geom p.e).2.2 (sclB p.e) false
  let from_ := if p.zero then List.replicate 128 (List.replicate 128 0) else old
  let (rows, malf) := stepRows p.kind p.mode p.e a.elems a.scales b.elems b.scales from_
  let x := k.mxe
  { rows := rows
    bad := if a.bad.isSome then a.bad else b.bad
    core := { k with mxe := { x with malf := satAdd x.malf malf, nans := satAdd x.nans (if newNan old rows then 1 else 0) } } }

/-! ### Checks at the head (R203, R205, R211, R219) -/

/-- The range of an operand: its base and its first and last bytes; none for a queue. -/
abbrev Range3 := Option (Nat × Int × Int)

/-- MISAL of ranges, in order. -/
def rangeMisal (rs : List Range3) : Option Word :=
  rs.findSome? (fun r => match r with
    | some (b, lo, hi) => if lo < 0 ∨ 2 ^ 25 ≤ hi then some (wnat b) else none
    | none => none)

/-- BANK: crossings of A, B, C, then A with B, then C with A or B (R205). -/
def bankTrap (a b c : Range3) : Option Word :=
  let cross := [a, b, c].findSome? (fun r => match r with
    | some (bs, lo, hi) => if lo / 2 ^ 23 ≠ hi / 2 ^ 23 then some (wnat (2 ^ 56 + bs)) else none
    | none => none)
  let same (x y : Range3) : Bool := match x, y with
    | some (_, lo, _), some (_, lo', _) => lo / 2 ^ 23 = lo' / 2 ^ 23
    | _, _ => false
  match cross with
  | some v => some v
  | none =>
    if same a b then b.map (fun r => wnat r.1)
    else if same a c || same b c then c.map (fun r => wnat (2 * 2 ^ 56 + r.1))
    else none

/-- The head's checks in the order MISAL, BANK, NEST. -/
def headChecks (a b c : Range3) (nest : Option Word) : Option (BitVec 5 × Word) :=
  match rangeMisal [a, b, c] with
  | some v => some (Cause.misal, v)
  | none => match bankTrap a b c with
    | some v => some (Cause.bank, v)
    | none => nest.map (fun v => (Cause.nest, v))

/-- The range of a step's operand. -/
def stepRange (w : Word) (len : Nat) : Range3 :=
  if opOq w then none else some (opAddr w, opAddr w, (opAddr w : Int) + len - 1)

def Mxe.entry (m : Mxe) (n : Nat) : Nat := (Map.get 0 m.fmt n).toNat

/-! ### Starting a command -/

/-- What a start answers. -/
inductive MxeRes where
  | ok (k : Core) (fl : Flight)
  | trap (c : BitVec 5) (v : Word)
  | miss (m : Miss)

/-- The tiles that a command reads, and the one that it writes with whether it is a step (R206, R220). -/
def matReads (i : Instr) : List Nat :=
  match i with
  | .mxrank _ _ a _ => [a.toNat]
  | .mxst _ d _ _ => [d.toNat]
  | .mxtov _ _ a _ => [a.toNat]
  | _ => []
def matWrites (ent : Entry) : Option (Nat × Bool) :=
  match ent.ins with
  | .mxmm _ d _ _ => some (d.toNat, true)
  | .mxbin _ d _ _ => some (d.toNat, true)
  | .mxsp _ d _ _ => some (d.toNat, true)
  | .mxrank _ d _ _ => some (d.toNat, true)
  | .mxzero _ d => some (d.toNat, false)
  | .mxld _ d _ _ => some (d.toNat, false)
  | .mxfromv _ d _ _ => some (d.toNat, false)
  | .mxgo _ _ _ => some (wbits (ent.tab.getD 3 0) 0 2, false)
  | _ => none

/-- The interlocks of the head (R206, R213): no nest, unless it is `mxcfg`; the tiles it reads or writes written, except
that steps chain; for `mxstat`, every step written (R218). -/
def Core.matReady (k : Core) (ent : Entry) : Bool :=
  let busy := k.mxe.q.fl.filter (fun f => ! f.done)
  let writes (t : Nat) (steps : Bool) : Bool := busy.any (fun f => match matWrites f.ent with
    | some (u, st) => u = t && (steps || ! st)
    | none => false)
  match ent.ins with
  | .mxcfg _ _ => true
  | .mxstat _ _ _ => k.mxe.nest.isNone && ! busy.any (fun f => match matWrites f.ent with
      | some (_, st) => st
      | none => false)
  | i => k.mxe.nest.isNone && (matReads i).all (fun t => ! writes t true) &&
      (match matWrites ent with
        | some (t, st) => ! writes t (! st)
        | none => true)

/-- The power cap's wait at the head (R427): one step start in every N clocks. -/
def State.capOk (s : State) (k : Core) : Bool :=
  ! s.tack.capped || (match k.mxe.stepClk with
    | some c => c + s.tack.pstep.toNat ≤ k.clk
    | none => true)

/-- The step of a command (R219). The word of `mxbin` names no format entry, so that its step is one of 1-bit elements without scales, and
always fits its kind (log 113). -/
def Core.stepCmd (k : Core) (ent : Entry) (late : Bool) (kind d : Nat) : MxeRes :=
  let n := opOpt ent.va
  let e := if kind = 2 then 0x66 else k.mxe.entry n
  match headChecks (stepRange ent.va (lenA e)) (stepRange ent.vb (lenB e)) none
      (if fitsKind e kind then none else some (goVal (wordVal ent.ins) 8 n)) with
  | some (cz, v) => .trap cz v
  | none =>
    match k.stepAt late kind (n % 2) e d ent.va ent.vb (opAddr ent.va) (opAddr ent.vb) false with
    | .error m => .miss m
    | .ok (p, k') =>
      .ok { k' with mxe := { k'.mxe with stepClk := some k.clk } }
        { ent := ent, wclk := k.clk + 8, rclk := k.clk + 8, writes := tileWrites d [], step := some p }

/-- Levels of the active table. -/
def NestLevel.count (l : NestLevel) : Nat := l.cnt.toNat + 1
def strideOf (v : BitVec 32) : Int := v.toInt

/-- The range that an operand of a nest touches (R211). -/
def nestRange (w : Word) (ls : List NestLevel) (st : NestLevel → BitVec 32) (len : Nat) : Range3 :=
  if opOq w then none
  else
    let b : Int := opAddr w
    some (opAddr w, b + (ls.map (fun l => min 0 (((l.count : Int) - 1) * strideOf (st l)))).sum
                  , b + (ls.map (fun l => max 0 (((l.count : Int) - 1) * strideOf (st l)))).sum + len - 1)

/-- `mxgo` at the head: the active table, the checks of R211, and the nest (R209, R217). -/
def Core.goCmd (k : Core) (ent : Entry) : MxeRes :=
  let ls := (List.range 6).map (fun l => Map.get {} k.mxe.shadow l)
  let aw := ent.tab.getD 0 0
  let bw := ent.tab.getD 1 0
  let cw := ent.tab.getD 2 0
  let ctl := ent.tab.getD 3 0
  let kind := wbits ctl 2 2
  let fb := wbits ctl 4 4
  let ns := (List.range (min 16 (ls.getD 5 {}).count)).map (fun i => (fb + i) % 16)
  let es := ns.map (fun n => k.mxe.entry n)
  let top (f : Nat → Nat) : Nat := (es.map f).foldl max 0
  let cr := if ls.any (·.st) then nestRange cw ls (·.sc) (top (fun e => 16384 * elemSize (fmtOut e))) else none
  match headChecks (nestRange aw ls (·.sa) (top lenA)) (nestRange bw ls (·.sb) (top lenB)) cr
      ((ns.find? (fun n => ! fitsKind (k.mxe.entry n) kind)).map (fun n => goVal (wordVal ent.ins) 8 n)) with
  | some (cz, v) => .trap cz v
  | none =>
    let total := (ls.map (·.count)).prod
    let nest : Nest :=
      { ent := ent, aw := aw, bw := bw, cw := cw, tile := wbits ctl 0 2, kind := kind, fb := fb, levels := ls, total := total
        nextClk := k.clk + 4 }
    .ok { k with mxe := { k.mxe with nest := some nest } }
      { ent := ent, wclk := never, rclk := never, fill := (matSlot ent.ins).map (fun n => (n, completion codeDone total)) }

/-- The rows 8g to 8g + 7 of a tile as the 1024 elements of a group (R199). -/
def Core.group (k : Core) (t g : Nat) : List Nat := ((k.tileNow t).drop (8 * g)).take 8 |>.flatten

/-- The writes of one row group. -/
def groupWrites (t g : Nat) (l : List Nat) : List RegWrite :=
  (List.range 8).map (fun q => .tile (128 * t + 8 * g + q) (ofRow ((l.drop (128 * q)).take 128)))

/-- The first uncorrectable element of a group that a move reads, as ECC reports it (R208). -/
def Core.badElem (k : Core) (t g : Nat) : Option (BitVec 5 × Word) :=
  ((List.range 1024).find? (fun i => k.mxe.badT.contains (128 * (128 * t + 8 * g + i / 128) + i % 128))).map (fun i =>
    (Cause.ecc, wnat (2 ^ 62 + (8 * g + i / 128) * 256 + t)))

/-- The elements of a group as a move reads them: an uncorrectable one is 0 (R208). -/
def Core.moveGroup (k : Core) (t g : Nat) : List Nat :=
  if k.mxe.badT = [] then k.group t g
  else (k.group t g).mapIdx (fun i v => if k.mxe.badT.contains (128 * (128 * t + 8 * g + i / 128) + i % 128) then 0 else v)

/-- A command of the MXE at its start, its tile and register operands read now. -/
def Core.matRun (k : Core) (ent : Entry) (late : Bool) : MxeRes :=
  let done (lat : Nat) (ws : List RegWrite) (k : Core) : MxeRes :=
    .ok k { ent := ent, wclk := k.clk + lat, rclk := k.clk + lat, writes := ws, done := ws = [] }
  let m := k.mxe
  match ent.ins with
  | .mxcfg _ _ =>
    let ls := (nestLevels ent.tab).getD []
    done 1 [] { k with mxe := { m with shadow := Map.setList {} [] 0 ls } }
  | .mxfmt _ d _ => done 1 [] { k with mxe := { m with fmt := Map.set 0 m.fmt d.toNat (ent.va.setWidth 32) } }
  | .mxgo _ _ _ => k.goCmd ent
  | .mxzero _ d => done 2 (tileWrites d.toNat []) k
  | .mxstat _ d clr =>
    let m' := if clr = 1 then { m with malf := 0, nans := 0 } else m
    .ok { k with mxe := m' }
      { ent := ent, wclk := k.clk + 2, rclk := k.clk + 2, done := true
        fill := some (d.toNat, completion codeDone (m.malf.toNat * 2 ^ 16 + m.nans.toNat)) }
  | .mxmm _ d _ _ => k.stepCmd ent late 0 d.toNat
  | .mxsp _ d _ _ => k.stepCmd ent late 1 d.toNat
  | .mxbin _ d _ _ => k.stepCmd ent late 2 d.toNat
  | .mxrank _ d a b =>
    let old := k.tileNow d.toNat
    let rows := rankRows b.toNat (k.tileNow a.toNat) old
    done 8 (tileWrites d.toNat rows) { k with mxe := { m with nans := satAdd m.nans (if newNan old rows then 1 else 0) } }
  | .mxst _ d _ b =>
    let f := opOpt ent.va
    let n := 1024 * elemSize f
    let a := opAddr ent.va
    match (if late then none else k.firstNeed (spadLines a n)) with
    | some (w, i) => .miss (.line w i)
    | none =>
      .ok k { ent := ent, wclk := k.clk + 2, rclk := k.clk + 2, done := true
              post := putBytes a n (packElems (opInt ent.va) f (k.moveGroup d.toNat b.toNat)), cause := k.badElem d.toNat b.toNat }
  | .mxld _ d _ b =>
    let a := opAddr ent.va
    let lns := spadLines a 4096
    match (if late then none else k.firstNeed lns) with
    | some (w, i) => .miss (.line w i)
    | none =>
      .ok k { ent := ent, wclk := k.clk + 4, rclk := k.clk + 4, writes := groupWrites d.toNat b.toNat [], look := [(a, 4096)] }
  | .mxtov _ d a b =>
    .ok k { ent := ent, wclk := k.clk + 4, rclk := k.clk + 4, cause := k.badElem a.toNat b.toNat
            writes := [.vreg d.toNat (ofLanes (k.moveGroup a.toNat b.toNat)) 0] }
  | .mxfromv _ d a b => done 4 (groupWrites d.toNat b.toNat (lanesOf (k.vxe.vr a))) k
  | _ => done 1 [] k

/-- The freeze that a miss causes (R345). -/
def Core.missFreeze (k : Core) (cc : Nat) (ent : Entry) (m : Miss) : Freeze :=
  match m with
  | .line w i => { kind := 0, loc := winVa (k.window w) i, since := cc, ctx := ent.ctx, eng := 1, win := w, idx := i, atU := ent.atU, lvl := ent.lvl }
  | .entry q i => { kind := 1, loc := wnat q, since := cc, ctx := ent.ctx, eng := 1, win := q, idx := i }

/-- A core freezes for a line, which is asked for, or an entry (R345). -/
def State.missed (s : State) (c : Nat) (ent : Entry) (m : Miss) : State :=
  let f := (s.core c).missFreeze s.cc ent m
  (s.fillPkt c ent f).freeze c f

/-- A step of the MXE, for the event counters (R368). -/
def isStep (i : Instr) : Bool :=
  match i with
  | .mxmm _ _ _ _ => true
  | .mxbin _ _ _ _ => true
  | .mxsp _ _ _ _ => true
  | _ => false

/-- A command of the MXE starts; a line or an entry that is not filled freezes the core first. -/
def State.startMxe (s : State) (c : Nat) (ent : Entry) (late : Option Freeze) : State :=
  let k := s.core c
  if k.matReady ent = false ∨ (isStep ent.ins ∧ s.capOk k = false) then s
  else
    match k.matRun ent late.isSome with
    | .trap cz v => s.raiseHead c 1 ent.ctx cz v
    | .miss m => s.missed c ent m
    | .ok k' fl =>
      let fl := match late with
        | some f => { fl with cause := some (Cause.frz, frzVal f) }
        | none => fl
      let s := (s.setCore c k').startEntry c 1 fl
      if isStep ent.ins then s.count c ent.ctx 2 1 else s

/-- `MXE_COMMAND_START` (R206). -/
def execMxeCommandStart (core : Nat) (s : State) : Out :=
  .next (s.headStep core 1 matSlot (fun s ent => s.startMxe core ent none))

/-- `MXE_WRITEBACK` (R206, R207): a VXE result of the same clock is written before it; the end of `mxgo` ends the nest once
its stores have drained (R212). -/
def execMxeWriteback (core : Nat) (s : State) : Out :=
  let k := s.core core
  match dueFlight k.mxe.q.fl k.clk with
  | none => .next s
  | some f =>
    let first : Bool := match dueFlight k.vxe.q.fl k.clk with
      | some g => g.wclk ≤ f.wclk
      | none => false
    if first then .next s
    else
      match f.ent.ins, k.mxe.nest with
      | .mxgo _ _ _, some n =>
        if n.stores = [] then
          .next (s.updCore core (fun k => ({ k with mxe := { k.mxe with nest := none } } : Core).writeDue 1))
        else .next s
      | _, _ => .next (s.updCore core (fun k => k.writeDue 1))

/-! ### The loop nest (R209, R210, R212) -/

/-- The indices of a step, level 0 first. -/
def Nest.indices (n : Nest) : List Nat := digits n.step (n.levels.map (·.count))

/-- An address of a step: its base and its indices' strides. -/
def nestAddr (base : Nat) (ix : List Nat) (ls : List NestLevel) (st : NestLevel → BitVec 32) : Nat :=
  ((base : Int) + (List.zipWith (fun (i : Nat) (l : NestLevel) => (i : Int) * strideOf (st l)) ix ls).sum).toNat

/-- Levels at whose pass a step is the first: their indices and those within them are 0. -/
def firstLevels (ix : List Nat) : Nat := (ix.takeWhile (· = 0)).length
/-- Levels at whose pass a step is the last. -/
def lastLevels (ix : List Nat) (ls : List NestLevel) : Nat :=
  ((List.zip ix ls).takeWhile (fun p => p.1 + 1 = p.2.count)).length

/-- The address of the store at level l: the strides of the enclosing levels (R210). -/
def storeAddr (base l : Nat) (ix : List Nat) (ls : List NestLevel) : Nat :=
  nestAddr base (ix.drop (l + 1)) (ls.drop (l + 1)) (·.sc)

/-- The stores of a step that starts in clock `clk`, innermost first: each enters the buffer when it is free. -/
def nestStores (n : Nest) (ix : List Nat) (clk e : Nat) (rows : List (List Nat)) : List NestStore × Nat :=
  let f := fmtOut e
  let bytes := 16384 * elemSize f
  let data := packElems (tileInt e) f rows.flatten
  (List.range (lastLevels ix n.levels)).foldl (fun (r : List NestStore × Nat) l =>
    if (n.levels.getD l {}).st then
      let start := max (clk + 8) r.2
      (r.1 ++ [{ addr := storeAddr (opAddr n.cw) l ix n.levels, due := clk + 8, start := start
                 ends := start + 2 * elemSize f, bytes := bytes, data := data }], start + 2 * elemSize f)
    else r) ([], n.lastEnd)

/-- A copy is due while the buffer drains: the address generators pause (R212). -/
def Nest.paused (n : Nest) (clk : Nat) : Bool := n.stores.any (fun t => t.due ≤ clk && clk < t.start)

/-- A cause that the nest's command will report when it retires, with its queue stopped after it (R208). -/
def Core.nestCause (k : Core) (n : Nest) (cause : Option (BitVec 5 × Word)) : Core :=
  match cause with
  | none => k
  | some cv => k.updQ 1 (fun q => ({ q with fl := q.fl.map (fun f =>
      if f.ent.seq = n.ent.seq ∧ f.cause = none then { f with cause := some cv } else f) } : EngQ).stopFrom k.clk)

/-- One step of the nest of a core; a line or an entry that is not filled freezes the core first. A core that a wound has reached takes late
data as zero: its late reads are abandoned (R285). -/
def State.nestStep (s : State) (c : Nat) (late : Option Freeze) : State :=
  let k := s.core c
  match k.mxe.nest with
  | none => s
  | some n =>
    if n.held ∨ n.pend.isSome ∨ n.total ≤ n.step ∨ k.clk < n.nextClk ∨ n.paused k.clk ∨ k.frozen.isSome ∨ s.capOk k = false then s
    else
      let ix := n.indices
      let e := k.mxe.entry ((n.fb + ix.getD 5 0) % 16)
      let zero := (n.levels.take (firstLevels ix)).any (·.zt)
      match k.stepAt (late.isSome || k.wounded) n.kind (opOpt n.aw % 2) e n.tile n.aw n.bw (nestAddr (opAddr n.aw) ix n.levels (·.sa))
          (nestAddr (opAddr n.bw) ix n.levels (·.sb)) zero with
      | .error m => s.missed c n.ent m
      | .ok (p, k') =>
        let n' := { n with step := n.step + 1, nextClk := k.clk + 1, pend := some p }
        let k' := { k' with mxe := { k'.mxe with nest := some n', stepClk := some k.clk } }
        let k' := k'.nestCause n (late.map (fun f => (Cause.frz, frzVal f)))
        (s.setCore c k').count c n.ent.ctx 2 1

/-- The step that a nest has started is made (R202, R206, R210): the tile, its stores, and after the last step the clock in which the
nest retires (R212). The results of a nest whose residue check failed are 0 (R348). -/
def Core.nestMade (k : Core) : Core :=
  match k.mxe.nest with
  | none => k
  | some n => match n.pend with
    | none => k
    | some p =>
      let o := k.stepOut p (k.tileNow n.tile)
      let rows := if n.void then [] else o.rows
      let ix := digits (n.step - 1) (n.levels.map (·.count))
      let (st, lastEnd) := nestStores n ix k.clk p.e (if n.void then List.replicate 128 (List.replicate 128 0) else rows)
      let n' := { n with pend := none, stores := n.stores ++ st, lastEnd := lastEnd }
      let m := o.core.mxe
      let t := (List.range 128).foldl (fun t i => Map.set 0 t (128 * n.tile + i) (ofRow (rows.getD i []))) m.t
      let k' := { o.core with mxe := { m with t := t, nest := some n', badT := m.badT.filter (fun b => b / 2 ^ 14 ≠ n.tile) } }
      let k' := k'.nestCause n (o.bad.map (fun a => (Cause.ecc, wnat a)))
      let ends := max (k.clk + 8) lastEnd
      if n.step < n.total then k' else k'.updQ 1 (fun q => { q with fl := q.fl.map (fun f =>
        if f.ent.seq = n.ent.seq then { f with wclk := ends, rclk := ends } else f) })

/-- The step that a command has started is made. -/
def Core.stepMade (k : Core) : Core :=
  match k.mxe.q.fl.find? (fun f => f.step.isSome) with
  | none => k
  | some f => match f.step with
    | none => k
    | some p =>
      let o := k.stepOut p (k.tileNow p.tile)
      let bad := o.bad.map (fun a => (Cause.ecc, wnat a))
      let g := { f with writes := tileWrites p.tile o.rows, step := none, cause := if f.cause.isSome then f.cause else bad }
      o.core.updQ 1 (fun q =>
        let q := { q with fl := q.fl.map (fun h => if h.ent.seq = f.ent.seq then g else h) }
        if g.cause.isSome then q.stopFrom k.clk else q)

/-- The scratchpad writes of moves that started in this clock (R206). -/
def State.movesLand (s : State) (c : Nat) : State :=
  let k := s.core c
  let ws := k.mxe.q.fl.flatMap (·.post)
  if ws = [] then s
  else ((s.metPoison c 1).updCore c (fun k => k.updQ 1 (fun q => { q with fl := q.fl.map (fun f => { f with post := [] }) }))).spadWrites c ws

/-- `NEST_STEP` (R212). -/
def execNestStep (core : Nat) (s : State) : Out := .next (s.nestStep core none)

/-- The oldest store of a nest has drained: its image is in the scratchpad (R212). -/
def State.drainNest (s : State) (c : Nat) (late : Option Freeze) : State :=
  let k := s.core c
  match k.mxe.nest with
  | none => s
  | some n =>
    match n.stores with
    | [] => s
    | t :: r =>
      if n.held ∨ k.clk < t.ends ∨ k.frozen.isSome then s
      else
        match (if late.isSome ∨ k.wounded then none else k.firstNeed (spadLines t.addr t.bytes)) with
        | some (w, i) => s.missed c n.ent (.line w i)
        | none =>
          let s := s.updCore c (fun k =>
            ({ k with mxe := { k.mxe with nest := some { n with stores := r } } } : Core).nestCause n
              (late.map (fun f => (Cause.frz, frzVal f))))
          s.under c n.ent.ctx n.ent.cslk n.ent.cske (fun s => s.spadWrites c (putBytes t.addr t.bytes t.data))

/-- `NEST_STORE_DRAIN_END` (R212). -/
def execNestStoreDrainEnd (core : Nat) (s : State) : Out := .next (s.drainNest core none)

/-! ### The words -/

def execMxcfg (k : Tk) (a : Reg) (s : State) : Out := matWord (.mxcfg k a) k s
def execMxfmt (k : Tk) (d a : Reg) (s : State) : Out := matWord (.mxfmt k d a) k s
def execMxgo (k : Tk) (d a : Reg) (s : State) : Out := matWord (.mxgo k d a) k s
def execMxzero (k : Tk) (d : Reg) (s : State) : Out := matWord (.mxzero k d) k s
def execMxstat (k : Tk) (d : Reg) (c : BitVec 1) (s : State) : Out := matWord (.mxstat k d c) k s
def execMxmm (k : Tk) (d a b : Reg) (s : State) : Out := matWord (.mxmm k d a b) k s
def execMxbin (k : Tk) (d a b : Reg) (s : State) : Out := matWord (.mxbin k d a b) k s
def execMxrank (k : Tk) (d a b : Reg) (s : State) : Out := matWord (.mxrank k d a b) k s
def execMxsp (k : Tk) (d a b : Reg) (s : State) : Out := matWord (.mxsp k d a b) k s
def execMxst (k : Tk) (d a b : Reg) (s : State) : Out := matWord (.mxst k d a b) k s
def execMxld (k : Tk) (d a b : Reg) (s : State) : Out := matWord (.mxld k d a b) k s
def execMxtov (k : Tk) (d a b : Reg) (s : State) : Out := matWord (.mxtov k d a b) k s
def execMxfromv (k : Tk) (d a b : Reg) (s : State) : Out := matWord (.mxfromv k d a b) k s

end Sys2Proof.Machine
end

