-- ==== Sys2Proof/Machine/Sets.lean ====
section
/-!
DEFINITION. The lot directory and wound-wait (R275, R278, R279, R297), and the drain of a pen (R283, R286).
-/
namespace Sys2Proof.Machine

/-- The task of a core is irrevocable. -/
def State.irrev (s : State) (c : Nat) : Bool :=
  match (s.core c).task with
  | some t => t.irrev
  | none => false

def State.stampOf (s : State) (c : Nat) : Word :=
  match (s.core c).task with
  | some t => t.stamp
  | none => 0

/-- The key of the lot that starts at a virtual address: the physical address now (R275). -/
def State.lotKey (s : State) (c va : Nat) : Option Nat :=
  match s.translate c (wnat va) .read false with
  | .ok (.phys pa _ _) => some pa
  | _ => none

def State.lotHolder (s : State) (key log : Nat) : Option Lot := s.lots.find? (fun l => l.key = key && l.log = log)

/-- A directory entry of a loft is free (R278): one is used per held lot and per waiting request. -/
def State.dirRoom (s : State) (c key : Nat) : Bool :=
  let k := s.loftOf c key
  (s.lots.filter (fun l => s.loftOf l.core l.key = k)).length +
    (s.lotReqs.filter (fun r => s.loftOf r.core r.key = k)).length < Config.lotDirLen

/-- The effective age of core c's task is older than that of core d's: the token holder is older than every stamp (R279). -/
def State.olderTask (s : State) (c d : Nat) : Bool :=
  if s.irrev d then false else s.irrev c || olderStamp (s.stampOf c) (s.stampOf d)

/-- A wound reaches a core (R279, R283 to R285): it has no effect on an irrevocable task, from the commit point on, or during
a rollback; it ends a freeze, and the tickets of the core's contexts lapse (R325). -/
def State.woundCore (s : State) (c : Nat) : State :=
  let k := s.core c
  if k.task.isNone ∨ s.irrev c ∨ k.committing ∨ k.rolling ∨ k.pastCommit then s
  else (s.updCore c (fun k => { k with wounded := true, frozen := none })).lapseTickets c

/-- A wound that a loft sends to the holder of a lot, on the control channel (R279, R290). -/
def State.sendWound (s : State) (key c : Nat) : State := (s.woundCore c).sendCtl c (8 + s.loftOf c key) (c / 4)

/-- The physical pieces of a lot: one, or one for each page of 512 KiB of a larger lot (R58, R249). -/
def State.lotPieces (s : State) (c va key log : Nat) : List Nat :=
  if log ≤ 19 then [key] else (List.range (2 ^ (log - 19))).filterMap (fun i => s.lotKey c (va + 2 ^ 19 * i))

/-- The clean L1 lines of a lot leave the acquiring core, and the clean words of its dirty ones are invalid (R297). -/
def Core.dropLot (k : Core) (pieces : List Nat) (log : Nat) : Core :=
  let mine (ln : Nat) : Bool := pieces.any (fun a => a / 128 ≤ ln && ln < (a + 2 ^ min log 19) / 128)
  let k := k.dropLines (fun ln l => l.dirty = 0 && mine ln)
  { k with l1 := k.l1.map (fun e =>
      match e.2 with
      | some l => if l.dirty ≠ 0 ∧ mine e.1 then (e.1, some l.onlyDirty) else e
      | none => e) }

/-- A lot passes to a core's task, for the access of context x: its timestamp and the fresh copies of R297. -/
def State.giveLot (s : State) (c x va key log : Nat) : State :=
  let ts := Map.get 0 s.lotTs (s.loftOf c key)
  let s := { s with lots := s.lots ++ [Lot.mk key log c (s.stampOf c) (s.coreBlk c) (s.irrev c)] }
  let ps := s.lotPieces c va key log
  (s.updCore c (fun k => k.dropLot ps log)).updCtx c x (fun t => { t with pts := maxW t.pts ts })

/-- The core's task holds the lot of an address in its i-th set. -/
def State.taskHolds (s : State) (c : Nat) (va : Word) (i : Nat) : Bool :=
  match (s.core c).task with
  | none => false
  | some t => match s.lotKey c (t.lotOf i va).1 with
    | some key => s.holdsLot c key (t.lotOf i va).2
    | none => false

/-- The requests of a core's CPE are withdrawn (R280). -/
def State.withdrawHead (s : State) (c : Nat) : State :=
  { s with lotReqs := s.lotReqs.filter (fun r => ! (r.core = c && r.who = 4)) }

/-- What a request for a lot comes to: held by its task now, waiting at the loft, or not taken (a full directory). -/
inductive LotAns where
  | held (s : State)
  | waits (s : State)
  | full

/-- A request of core c for a lot (R277 to R279), `who` the context or 4 for the CPE, `x` the context that gains the
timestamp. -/
def State.askLot (s : State) (c who x va key log : Nat) : LotAns :=
  if s.holdsLot c key log then .held s
  else if s.dirRoom c key = false then .full
  else
    let waiting := s.lotReqs.any (fun r => r.key = key && r.log = log)
    match s.lotHolder key log, waiting with
    | none, false => .held (s.giveLot c x va key log)
    | h, _ =>
      let s := { s with lotReqs := s.lotReqs ++ [LotReq.mk key log c who (s.stampOf c) va] }
      match h with
      | some l => .waits (if s.olderTask c l.core then s.sendWound key l.core else s)
      | none => .waits s

/-- The oldest request that waits for a lot. -/
def State.oldestReq (s : State) (key : Nat) : Option LotReq :=
  s.lotReqs.foldl (fun best r =>
    if r.key ≠ key ∨ (s.lotHolder r.key r.log).isSome then best
    else match best with
      | none => some r
      | some b => if s.olderTask r.core b.core then some r else some b) none

/-! ### Draining a pen (R283 steps 1 to 4, R286) -/

/-- The commit timestamp of a core (R283 step 2). -/
def State.commitTs (s : State) (c : Nat) : Word :=
  (s.core c).pen.foldl (fun m e =>
    match e.2 with
    | some p => if p.cls = 0 then maxW m ((s.hcLine e.1).rts + 1) else m
    | none => m) (s.core c).maxPts

/-- The words of one pen line at its home, with the timestamp on an HC page; the core's own copy takes them too, clean (R283). -/
def State.drainPenLine (s : State) (c ln : Nat) (p : PenLine) (ts : Word) : State :=
  let s := (s.homeWords ln p.data p.valid).setPoison ln p.valid false
  let s := if p.cls = 0 then s.setHcLine ln ⟨ts, ts⟩ else s
  let s := { s with lotTs := Map.upd 0 s.lotTs (s.loftOf c (128 * ln)) (maxW ts) }
  match (s.core c).line ln with
  | none => s
  | some l =>
    let d := l.dirty &&& ~~~ p.valid
    s.updCore c (fun k => { k.setLine ln (some { l with
      data := mergeWords l.data p.data p.valid, poison := l.poison &&& ~~~ p.valid, dirty := d }) with
      dfifo := if d = 0 then k.dfifo.filter (· ≠ 2 * ln) else k.dfifo })

/-- The packets of a commit, one for each pen line, of the class of context 3 (R283, R302). -/
def State.commitPkts (s : State) (c : Nat) (ts : Word) : State :=
  let t := s.ctx c 3
  (s.core c).pen.foldl (fun s e =>
    match e.2 with
    | some _ => s.form c 3 t.slk.toNat (t.skEntry t.slk.toNat)
        { ty := 13, kind := 10, len := 128, dst := s.homeStop c (128 * e.1), adr := wnat (2 ^ 63 + 128 * e.1), ts := ts, age := s.stampOf c }
    | none => s) s

/-- The pen of a core is written at one timestamp and is empty (R283, R286). Its lots' lofts keep the timestamp (R297). -/
def State.drainPen (s : State) (c : Nat) : State :=
  let ts := s.commitTs c
  let s := s.commitPkts c ts
  let s := (s.core c).pen.foldl (fun s e =>
    match e.2 with
    | some p => s.drainPenLine c e.1 p ts
    | none => s) s
  let s := { s with lotTs := s.lots.foldl (fun m (l : Lot) =>
      if l.core = c then Map.upd 0 m (s.loftOf c l.key) (maxW ts) else m) s.lotTs }
  (s.updCore c (fun k => { k with pen := [] })).raisePts c ts

end Sys2Proof.Machine
end

