-- ==== Sys2Proof/Machine/Copy.lean ====
section
/-!
DEFINITION. Copy words and the copy engine (R309 to R319): issue, start, packets, lines, and held copies (R282).
-/
namespace Sys2Proof.Machine

/-! ### What a copy moves -/

/-- One side of a 128-byte line of a copy. -/
inductive Side where
  | spad (a : Nat)
  | glob (va : Word)
  | oq (q k i : Nat)
deriving DecidableEq, Repr

/-- Fields of the operands (R44, R313, R317). -/
def spadAddr (w : Word) : Nat := wbits w 0 25
def spadLen (w : Word) : Nat := wbits w 32 16
def spadOpt (w : Word) : Nat := wbits w 48 16
def rowCount (d : List Word) : Nat := wbits (d.getD 1 0) 0 16
def rowLen (d : List Word) : Nat := wbits (d.getD 1 0) 16 16
def rowSide (base r : Nat) (stride : Word) : Int := (base : Int) + r * stride.toInt
def rowGlob (d : List Word) (r : Nat) : Word := d.getD 0 0 + wnat r * d.getD 3 0

/-- Lines that a command moves, and the INFO of its completion (R311). -/
def copyTotal (ent : Entry) : Nat :=
  match ent.ins with
  | .cpoq _ _ _ _ _ => 8 * wbits ent.va 16 5
  | _ => spadLen ent.va
def copyInfo (ent : Entry) : Nat :=
  match ent.ins with
  | .cpoq _ _ _ _ _ => wbits ent.va 16 5
  | _ => spadLen ent.va

/-- Line n of a command: where it comes from and where it goes (R312 to R314, R317). -/
def copySides (ent : Entry) (n : Nat) : Side × Side :=
  let a := spadAddr ent.va
  match ent.ins with
  | .cpin _ _ _ _ _ => (.glob (ent.vb + wnat (128 * n)), .spad (a + 128 * n))
  | .cpoq _ _ _ _ _ => (.glob (ent.vb + wnat (128 * n)), .oq (wbits ent.va 0 3) (n / 8) (n % 8))
  | .cpss _ _ _ _ _ =>
    let d := ent.tab
    let r := n / rowLen d
    let j := 128 * (n % rowLen d)
    let sp : Side := .spad ((rowSide a r (d.getD 2 0)).toNat + j)
    match spadOpt ent.va % 4 with
    | 0 => (.spad ((rowSide (d.getD 0 0).toNat r (d.getD 3 0)).toNat + j), sp)
    | 1 => (.glob (rowGlob d r + wnat j), sp)
    | _ => (sp, .glob (rowGlob d r + wnat j))
  | _ => (.spad (a + 128 * n), .glob (ent.vb + wnat (128 * n)))

/-- The command is a reduction, or copies rows inside the scratchpad. -/
def isCpred (i : Instr) : Bool :=
  match i with
  | .cpred _ _ _ _ _ => true
  | _ => false
def isRowCopy (ent : Entry) : Bool :=
  match ent.ins with
  | .cpss _ _ _ _ _ => true
  | _ => false
def isInnerCopy (ent : Entry) : Bool := isRowCopy ent && spadOpt ent.va % 4 = 0

/-- The command writes global memory; such a copy of a task that declares sets is held (R282). -/
def writesGlobal (ent : Entry) : Bool :=
  match (copySides ent 0).2 with
  | .glob _ => true
  | _ => false

/-- The slot of a copy word. -/
def copySlot (i : Instr) : Option Nat :=
  match i with
  | .cpin _ _ p _ _ => some p.toNat
  | .cpout _ _ p _ _ => some p.toNat
  | .cpss _ _ p _ _ => some p.toNat
  | .cpred _ _ p _ _ => some p.toNat
  | .cpoq _ _ p _ _ => some p.toNat
  | _ => none

/-! ### Issue (R310) -/

/-- `check_global` (R310). -/
def checkGlobal (g : Word) (n : Nat) : Option (BitVec 5 × Word) :=
  let v := g.toNat
  let e := v + n - 1
  if v % 128 ≠ 0 ∨ e.testBit 47 ≠ v.testBit 47 ∨ (v.testBit 47 ∧ bits e 41 6 ≠ bits v 41 6) then some (Cause.misal, g)
  else if 2 ^ 48 ≤ v ∨ 2 ^ 48 ≤ e then some (Cause.xlat, g)
  else none

/-- A row's range in the scratchpad. -/
def rowBad (b : Int) (len : Nat) : Option (BitVec 5 × Word) :=
  if b < 0 ∨ 2 ^ 25 < b + 128 * len then some (Cause.misal, BitVec.ofInt 64 b) else none

/-- The checks of a `cpss` descriptor (R313). -/
def rowsCheck (word xb v : Word) (d : List Word) : Option (BitVec 5 × Word) :=
  let kind := spadOpt v % 4
  let rs := List.range (rowCount d)
  if rowCount d * rowLen d ≠ spadLen v ∨ wbits (d.getD 1 0) 32 32 ≠ 0 then some (Cause.ill, word)
  else if (d.getD 2 0).toNat % 128 ≠ 0 ∨ (d.getD 3 0).toNat % 128 ≠ 0 then some (Cause.misal, xb)
  else
    match rs.findSome? (fun r => match rowBad (rowSide (spadAddr v) r (d.getD 2 0)) (rowLen d) with
      | some b => some b
      | none => if kind = 0 then rowBad (rowSide (d.getD 0 0).toNat r (d.getD 3 0)) (rowLen d) else none) with
    | some b => some b
    | none => if kind = 0 then none else rs.findSome? (fun r => checkGlobal (rowGlob d r) (128 * rowLen d))

/-- The task of a core is of a launch with RC = 1 (R315). -/
def State.mayReduce (s : State) (c : Nat) : Bool :=
  match (s.core c).task with
  | some t => t.rc
  | none => false

/-- The slack class of an X word's entry: its field, or that of the context (R43, R302). -/
def classOf (t : Ctx) (f : BitVec 4) : Nat := if f = 0 then t.slk.toNat else f.toNat

/-- The issue of a copy word with a spad word (R310); `opts` are its option bits. -/
def copyIssue (i : Instr) (f p : BitVec 4) (a b : Reg) (opts : Nat) (c x : Nat) (s : State) : EnqRes :=
  let t := s.ctx c x
  let v := t.rd a
  let g := t.rd b
  let word := wordVal i
  let ent : Entry := { ins := i, va := v, vb := g, slk := classOf t f }
  let fin (s : State) (ent : Entry) : EnqRes :=
    if isCpred i ∧ s.mayReduce c = false then .trap Cause.pred word
    else if isCpred i ∧ (s.core c).penned then .hold .token286 t.gc
    else .ok s ent (some p.toNat)
  let badOpt := (isRowCopy ent ∧ spadOpt v = 3) ∨ (isCpred i ∧ 2 < spadOpt v)
  match spadCheck v opts with
  | some (cz, some tv) => if badOpt then .trap Cause.ill word else .trap cz tv
  | some (cz, none) => .trap cz word
  | none =>
    if badOpt then .trap Cause.ill word
    else if spadLen v = 0 then fin s ent
    else if isRowCopy ent then
      if aligned g 32 = false then .trap Cause.misal g
      else match s.readBlock c x g 4 with
        | .trap cz tv => .trap cz tv
        | .wait w bd => .hold w bd
        | .ok s d => match rowsCheck word g v d with
          | some (cz, tv) => .trap cz tv
          | none => fin s { ent with tab := d }
    else match checkGlobal g (128 * spadLen v) with
      | some (cz, tv) => .trap cz tv
      | none => fin s ent

/-- The issue of `cpoq` (R317). -/
def cpoqIssue (i : Instr) (f p : BitVec 4) (a b : Reg) (c x : Nat) (s : State) : EnqRes :=
  let t := s.ctx c x
  let v := t.rd a
  let n := wbits v 16 5
  if wbits v 21 43 ≠ 0 ∨ wbits v 3 13 ≠ 0 ∨ n = 0 ∨ 16 < n then .trap Cause.ill (wordVal i)
  else match checkGlobal (t.rd b) (1024 * n) with
    | some (cz, tv) => .trap cz tv
    | none => .ok s { ins := i, va := v, vb := t.rd b, slk := classOf t f } (some p.toNat)

/-- A copy word's checks at issue. -/
def copyChk (i : Instr) (c x : Nat) (s : State) : EnqRes :=
  match i with
  | .cpin _ f p a b => copyIssue i f p a b 0 c x s
  | .cpout _ f p a b => copyIssue i f p a b 0 c x s
  | .cpss _ f p a b => copyIssue i f p a b 3 c x s
  | .cpred _ f p a b => copyIssue i f p a b 15 c x s
  | .cpoq _ f p a b => cpoqIssue i f p a b c x s
  | _ => .ok s { ins := i } none

def copyWord (i : Instr) (k : Tk) (s : State) : Out :=
  control i (onlyY k) s (enqBody (wordVal i) 0 k none (copyChk i))

def execCpin (k : Tk) (f p : BitVec 4) (a b : Reg) (s : State) : Out := copyWord (.cpin k f p a b) k s
def execCpout (k : Tk) (f p : BitVec 4) (a b : Reg) (s : State) : Out := copyWord (.cpout k f p a b) k s
def execCpss (k : Tk) (f p : BitVec 4) (a b : Reg) (s : State) : Out := copyWord (.cpss k f p a b) k s
def execCpred (k : Tk) (f p : BitVec 4) (a b : Reg) (s : State) : Out := copyWord (.cpred k f p a b) k s
def execCpoq (k : Tk) (f p : BitVec 4) (a b : Reg) (s : State) : Out := copyWord (.cpoq k f p a b) k s

/-! ### What the head waits for (R277, R282, R286, R317) -/

/-- The global addresses that a command touches, line by line. -/
def globLines (ent : Entry) : List (Word × Need) :=
  (List.range (copyTotal ent)).filterMap (fun n =>
    match copySides ent n with
    | (.glob va, _) => some (va, .read)
    | (_, .glob va) => some (va, .write)
    | _ => none)

/-- The lots of a command's set addresses, ascending (R277): the virtual address, the size and the set. -/
def copyLots (t : Task) (ent : Entry) : List (Nat × Nat × Nat) :=
  let ls := (globLines ent).filterMap (fun g => (t.setOf g.1).map (fun i =>
    let l := t.lotOf i g.1
    (l.1, l.2, i)))
  (ls.foldl (fun r l => if r.contains l then r else r ++ [l]) []).mergeSort (fun a b => a.1 ≤ b.1)

/-- The first lot of a command that the core's task does not hold. -/
def State.lotMissing (s : State) (c : Nat) (ent : Entry) : Option (Nat × Nat × Nat) :=
  match (s.core c).task with
  | none => none
  | some t => (copyLots t ent).find? (fun l => match s.lotKey c l.1 with
    | some key => ! s.holdsLot c key l.2.1
    | none => false)

/-- Lines of the hold buffer in use. -/
def Core.heldLines (k : Core) : Nat := (k.hold.map (fun h => h.lines.length)).sum

/-- What the head of the CPE queue waits for. -/
inductive CpeNeed where
  | lot (va log set : Nat)
  | token
  | oq (q : Nat)
  | room

/-- The commands of the CPE in progress: started and not retired (R311). -/
def Core.inProgress (k : Core) : Nat := (k.cpe.q.fl.filter (fun f => (copySlot f.ent.ins).isSome)).length

/-- A held copy has lines that another package has not acknowledged (R282, R286). -/
def Core.heldAway (k : Core) : Bool := k.cpe.work.any (fun w => w.held ≠ [])

/-- The command touches a set of a task after its eighth restart, which needs the token (R286). -/
def Core.lateSets (k : Core) (ent : Entry) : Bool :=
  match k.task with
  | some t => 8 ≤ t.restarts && ! t.irrev && copyLots t ent ≠ []
  | none => false

def State.cpeNeed (s : State) (c : Nat) (ent : Entry) : Option CpeNeed :=
  let k := s.core c
  if k.lateSets ent then some .token
  else match s.lotMissing c ent with
  | some (va, lg, i) => some (.lot va lg i)
  | none =>
    if k.penned ∧ writesGlobal ent ∧ Config.holdLines < k.heldLines + copyTotal ent then some .token
    else if 16 ≤ k.inProgress ∨ k.heldAway then some .room
    else match ent.ins with
      | .cpoq _ _ _ _ _ =>
        let q := wbits ent.va 0 3
        if 16 < (k.queueOf q).length + wbits ent.va 16 5 then some (.oq q) else none
      | _ => none

/-- The command at the head of the CPE queue that may start but for what it waits for. -/
def Core.cpeHead (k : Core) : Option Entry :=
  match k.cpe.q.q with
  | ent :: _ =>
    if k.mayStart 0 ∧ ent.fence = none ∧ k.headTokens 0 ent ∧ k.guardOf ent = .run ∧ (copySlot ent.ins).isSome then some ent
    else none
  | [] => none

/-! ### Starting (R311, R317, R318) -/

/-- The address is one of the task's atomic sets. -/
def Core.inSets (k : Core) (va : Word) : Bool :=
  match k.task with
  | some t => (t.setOf va).isSome
  | none => false

/-- The first package-local page of a command that does not translate, or an address of a set whose page keeps none: XLAT or PROT with the
address (R276, R318). -/
def State.copyFault (s : State) (c : Nat) (ent : Entry) : Option (BitVec 5 × Word) :=
  (globLines ent).findSome? (fun g =>
    if g.1.getLsbD 47 then none
    else match s.translate c g.1 g.2 ent.atU with
      | .bad cz => if cz = Cause.fwdx then none else some (cz, g.1)
      | .ok p =>
        let none_ : Bool := match p with
          | .phys _ cls ms => ms || 2 ≤ cls
          | .remote _ _ => true
        if none_ ∧ (s.core c).inSets g.1 then some (Cause.prot, g.1) else none)

/-- The scratchpad lines that a command reads or writes. -/
def copySpads (ent : Entry) : List Nat :=
  (List.range (copyTotal ent)).flatMap (fun n =>
    let side (x : Side) : List Nat := match x with
      | .spad a => spadLines a 128
      | _ => []
    side (copySides ent n).1 ++ side (copySides ent n).2)

/-- The window lines among scratchpad lines are filled (R234), or the first translation that fails. -/
def State.fillLines (s : State) (c : Nat) (atU : Bool) (lns : List Nat) : Except (BitVec 5 × Word) State :=
  match lns with
  | [] => .ok s
  | ln :: r =>
    match (s.core c).lineNeed ln with
    | none => s.fillLines c atU r
    | some (w, i) => match s.fillWin c w i atU with
      | .ok s' => s'.fillLines c atU r
      | .error t => .error t

/-- The first window line among scratchpad lines whose data another package holds: its user waits until the line has come
(`LOAD_REPLY`). -/
def State.remoteNeed (s : State) (c : Nat) (atU : Bool) (lns : List Nat) : Option (Nat × Nat) :=
  let k := s.core c
  lns.findSome? (fun ln => match k.lineNeed ln with
    | some (w, i) => match s.translate c (winVa (k.window w) i) .read atU with
      | .ok (.remote _ _) => some (w, i)
      | _ => none
    | none => none)

/-- A scratchpad line as a copy reads it, and whether it is uncorrectable. -/
def Core.copyLine (k : Core) (a : Nat) : Line × Bool :=
  (BitVec.ofNat 1024 (spadBytes k.spadLine a 128), (k.firstBad [] (spadLines a 128)).isSome)

/-- The scratchpad source of a line. -/
def Core.srcSpad (k : Core) (ent : Entry) (n : Nat) : Line × Bool :=
  match (copySides ent n).1 with
  | .spad a => k.copyLine a
  | _ => (0, false)

/-- Entries reserved at the tail of an operand queue (R317). -/
def Core.reserveOq (k : Core) (ent : Entry) : Core :=
  let q := wbits ent.va 0 3
  { k with oq := Map.set [] k.oq q (k.queueOf q ++ (List.range (wbits ent.va 16 5)).map (fun i => { seq := ent.seq, k := i })) }

/-- The flight of a copy that has started: its end is not known. -/
def copyFlight (ent : Entry) : Flight := { ent := ent, wclk := never, rclk := never }

/-- Lines of a command that are not complete. -/
def Copy.left (w : Copy) : List Nat := w.out ++ (List.range (w.total - w.formed)).map (· + w.formed)

/-- The cells that a side names, for the hazards between commands: scratchpad lines, and home or domain lines. -/
def State.cellsOf (s : State) (c : Nat) (x : Side) : List (Nat × Nat) :=
  match x with
  | .spad a => (spadLines a 128).map (fun l => (0, l))
  | .glob va => match s.translate c va .read false with
    | .ok (.phys pa _ _) => [(1, pa / 128)]
    | .ok (.remote pkg off) => [(2 + pkg, off / 128)]
    | .bad _ => []
  | .oq _ _ _ => []

def meets (a b : List (Nat × Nat)) : Bool := a.any (fun x => b.contains x)

/-- A line must wait for an earlier command's unfinished line: it touches what that one writes, or writes what that one
reads (R311). -/
def State.lineClash (s : State) (c : Nat) (earlier : List Copy) (src dst : Side) : Bool :=
  let si := s.cellsOf c src
  let di := s.cellsOf c dst
  earlier.any (fun w => w.left.any (fun m =>
    let (a, b) := copySides w.ent m
    let wb := s.cellsOf c b
    meets wb si || meets wb di || meets (s.cellsOf c a) di))

/-- A held copy's source waits for the lines that earlier commands are to write there (R263). -/
def State.holdWaits (s : State) (c : Nat) (ent : Entry) : Bool :=
  (List.range (copyTotal ent)).any (fun n => s.lineClash c (s.core c).cpe.work (copySides ent n).1 (.oq 0 0 0))

/-- A held copy leaves the queue with its source read (R282). -/
def State.holdCopy (s : State) (c : Nat) (ent : Entry) : State :=
  let k := s.core c
  let h : HeldCopy := { ent := ent, lines := (List.range (copyTotal ent)).map (fun n => k.srcSpad ent n) }
  let k := (engWaitFifos ent.tk 0).foldl Core.pop { k with hold := k.hold ++ [h] }
  s.setCore c (k.updQ 0 (fun q => { q with q := q.q.tail, lastClk := some k.clk, stall := 0 }))

/-- The freeze of a core for a window line that the CPE's head needs (R234, R312). -/
def Core.cpeFreeze (k : Core) (cc : Nat) (ent : Entry) (w i : Nat) : Freeze :=
  { kind := 0, loc := winVa (k.window w) i, since := cc, ctx := ent.ctx, eng := 0, win := w, idx := i, atU := ent.atU, lvl := ent.lvl }

/-- A command of the CPE starts when its window lines are filled; `late` takes one that is not as zero, and the command ends with FRZ
(R347). -/
def State.startCpe (s : State) (c : Nat) (ent : Entry) (late : Option Freeze) : State :=
  let k := s.core c
  let total := copyTotal ent
  if total = 0 then
    s.startEntry c 0 { copyFlight ent with wclk := k.clk, rclk := k.clk, done := true
                                           fill := (copySlot ent.ins).map (fun n => (n, completion codeDone 0)) }
  else if (s.cpeNeed c ent).isSome then s
  else match s.copyFault c ent with
    | some (cz, v) => s.raiseHead c 0 ent.ctx cz v
    | none =>
      match (if late.isSome then none else k.firstNeed (copySpads ent)) with
      | some (w, i) => (s.fillPkt c ent (k.cpeFreeze s.cc ent w i)).freeze c (k.cpeFreeze s.cc ent w i)
      | none =>
        let cause := late.map (fun f => (Cause.frz, frzVal f))
        if k.penned ∧ writesGlobal ent then
          if s.holdWaits c ent then s
          else
            let s := s.holdCopy c ent
            match cause with
            | some (cz, v) => s.raiseHead c 0 ent.ctx cz v false
            | none => s
        else
          let s := s.startEntry c 0 { copyFlight ent with cause := cause }
          s.updCore c (fun k =>
            let k := { k with cpe := { k.cpe with work := k.cpe.work ++ [{ ent := ent, total := total }] } }
            match ent.ins with
            | .cpoq _ _ _ _ _ => k.reserveOq ent
            | _ => k)

/-- `CPE_COMMAND_START` (R277, R311, R318). -/
def execCpeCommandStart (core : Nat) (s : State) : Out :=
  .next (s.headStep core 0 copySlot (fun s ent => s.startCpe core ent none))

/-! ### Packets and lines (R311, R312) -/

/-- The command that forms packets now: the first with lines to form, and those before it. -/
def formOf (before : List Copy) (l : List Copy) : Option (List Copy × Copy) :=
  match l with
  | [] => none
  | w :: r => if w.formed < w.total then some (before, w) else formOf (before ++ [w]) r

/-- The 1 KiB block of a line's global address, or of its scratchpad address where it has none, and its home. -/
def State.packetOf (s : State) (c : Nat) (ent : Entry) (n : Nat) : Nat × Option Nat :=
  let of_ (va : Word) : Nat × Option Nat := (va.toNat / 1024, match s.translate c va .read false with
    | .ok (.phys pa _ _) => some (s.loftOf c pa)
    | _ => none)
  match copySides ent n with
  | (.glob va, _) => of_ va
  | (_, .glob va) => of_ va
  | (.spad a, _) => (a / 1024, none)
  | _ => (0, none)

/-- The lines of the next packet: up to 8, in one 1 KiB block and of one home; of a row copy, in one row (R311, R313). -/
def State.packetLines (s : State) (c : Nat) (w : Copy) : Nat :=
  let key (n : Nat) : (Nat × Option Nat) × Nat :=
    (s.packetOf c w.ent n, if isRowCopy w.ent then n / rowLen w.ent.tab else 0)
  ((List.range (min 8 (w.total - w.formed))).takeWhile (fun i => key (w.formed + i) = key w.formed)).length

/-- The row of a copy inside the scratchpad is read whole when its first line is formed (R313). -/
def Core.rowBuf (k : Core) (w : Copy) : List Line :=
  if isInnerCopy w.ent ∧ w.formed % rowLen w.ent.tab = 0 then
    (List.range (rowLen w.ent.tab)).map (fun j => (k.srcSpad w.ent (w.formed + j)).1)
  else w.buf

/-- The packet of `n` lines from line `m` of a command, for a home of this package, or the request of those that another package is asked
to read (R298, R302, R312, R379). Lines that another package is to write leave with their data. -/
def State.copyPkt (s : State) (c : Nat) (w : Copy) (m n : Nat) : State :=
  let lvl := w.ent.lvl
  let p : PtPkt := { kind := 5, unit := 1, seq := w.ent.seq.toNat, noted := w.noted }
  match copySides w.ent m with
  | (.glob va, _) => match s.translate c va .read w.ent.atU with
    | .ok q => s.sendBy c w.ent.ctx w.ent.slk w.ent.ske lvl { p with ty := 0, rlen := 128 * n, addr := va, arg0 := wnat (128 * n) } q []
    | .bad _ => s
  | (_, .glob va) => match s.translate c va .write w.ent.atU with
    | .ok (.phys pa cls ms) => s.sendBy c w.ent.ctx w.ent.slk w.ent.ske lvl
        { p with ty := if isCpred w.ent.ins then 3 else 1, len := 128 * n, addr := va, arg0 := wnat (spadOpt w.ent.va) } (.phys pa cls ms) []
    | _ => s
  | _ => s

/-- The global side of a line, as an access. -/
def lineVa (ent : Entry) (n : Nat) : Option (Word × Need) :=
  match copySides ent n with
  | (.glob va, _) => some (va, .read)
  | (_, .glob va) => some (va, .write)
  | _ => none

/-- The lines from `m` on that another package is asked to read, with the clock in which their request left (R382). -/
def State.asksOf (s : State) (c : Nat) (w : Copy) (m n : Nat) : List (Nat × Nat) :=
  (List.range n).filterMap (fun i => match copySides w.ent (m + i) with
    | (.glob va, _) => match s.translate c va .read w.ent.atU with
      | .ok (.remote _ _) => some (m + i, s.cc)
      | _ => none
    | _ => none)

/-- `COPY_PACKET_FORM` (R311): at most one packet of a command in a clock; rows of one command are performed in ascending order
(R313). -/
def execCopyPacketForm (core : Nat) (s : State) : Out :=
  let k := s.core core
  match formOf [] k.cpe.work with
  | none => .next s
  | some (before, w) =>
    let rowStart := isRowCopy w.ent && w.formed % rowLen w.ent.tab = 0
    let n := s.packetLines core w
    let clash := (List.range n).any (fun i =>
      let (a, b) := copySides w.ent (w.formed + i)
      s.lineClash core before a b)
    if (rowStart ∧ w.out ≠ []) ∨ clash ∨ w.formAt = some s.cc then .next s
    else
      let w' := { w with
        formed := w.formed + n, out := w.out ++ (List.range n).map (· + w.formed), buf := k.rowBuf w, formAt := some s.cc
        got := if rowStart then [] else w.got, sent := w.sent ++ s.asksOf core w w.formed n }
      let s := s.updCore core (fun k => { k with cpe := { k.cpe with
        work := k.cpe.work.map (fun u => if u.ent.seq = w.ent.seq then w' else u) } })
      .next (s.copyPkt core w w.formed n)

/-- A line read or written: its data and what failed, or nothing while its answer has not come. -/
inductive SrcRes where
  | data (l : Line) (fail : Option (BitVec 5 × Word))
  | none

/-- What a reply other than data reports (R318, R382). -/
def replyCause (r : Reply) : Option (BitVec 5) :=
  match r with
  | .xlat => some Cause.xlat
  | .prot => some Cause.prot
  | .unreachable => some Cause.fwdx
  | .ecc => some Cause.ecc
  | _ => none

/-- A line from doublewords. -/
def lineOfWords (ws : List Word) : Line :=
  BitVec.ofNat 1024 ((ws.take 16).foldr (fun w acc => w.toNat + 2 ^ 64 * acc) 0)

/-- The source of a line, at its home (R312), as a held copy or its row has read it, or as another package or the host port answered. -/
def State.srcLine (s : State) (c : Nat) (w : Copy) (n : Nat) (rep : Reply) : SrcRes :=
  match (copySides w.ent n).1 with
  | .spad a =>
    let (l, bad) := if w.held = [] then (s.core c).copyLine a else w.held.getD n (0, false)
    let l := if isInnerCopy w.ent then w.buf.getD (n % rowLen w.ent.tab) l else l
    .data (if bad then 0 else l) (if bad then some (Cause.ecc, wnat a) else none)
  | .glob va =>
    match s.translate c va .read w.ent.atU with
    | .bad cz => .data 0 (some (cz, va))
    | .ok (.phys pa cls _) =>
      if rep = .unreachable ∧ hostPlace pa cls then .data 0 (some (Cause.fwdx, va))
      else if s.linePoison (pa / 128) = 0 then .data (s.homeLine (pa / 128)) Option.none else .data 0 (some (Cause.ecc, va))
    | .ok (.remote pkg off) => match rep with
      | .home => if (s.reach c (c / 4) pkg off).isNone then .data 0 (some (Cause.fwdx, va)) else .none
      | .value d _ _ => .data (lineOfWords d) Option.none
      | r => .data 0 ((replyCause r).map (fun cz => (cz, va)))
  | .oq _ _ _ => .none

/-- A line written or combined at its home, with its timestamp on an HC page (R247, R314); a poisoned line reports ECC and stays as it
is (R244). -/
def State.homePut (s : State) (c pa : Nat) (cls : BitVec 2) (comb : Option Nat) (l : Line) (bad : Bool) :
    State × Word × Bool :=
  let ln := pa / 128
  match comb with
  | none =>
    if s.linePoison ln ≠ 0 then (s, 0, true)
    else
      let s := (s.homeWords ln l 0xffffffff).setPoison ln 0xffffffff bad
      if cls = 0 then let (s, t) := s.hcAnon ln; (s, t, false) else (s, 0, false)
  | some op =>
    let s := if cls = 1 ∨ cls = 2 then s.writeBackLine c ln else s
    if s.linePoison ln ≠ 0 then (s, 0, true)
    else if bad then (s, 0, false)
    else
      let old := (s.homeLine ln).toNat
      let new := (List.range 32).foldl (fun v i => v + combOp op (bits old (32 * i) 32) (bits l.toNat (32 * i) 32) * 2 ^ (32 * i)) 0
      let s := s.homeWords ln (BitVec.ofNat 1024 new) 0xffffffff
      if cls = 0 then let (s, t) := s.hcAnon ln; (s, t, false) else (s, 0, false)

/-- The operation of a reduction. -/
def copyComb (ent : Entry) : Option Nat := if isCpred ent.ins then some (spadOpt ent.va) else none

/-- A line of an operand-queue entry arrives (R316); an entry that was popped late takes nothing (R347). -/
def Core.fillOq (k : Core) (q : Nat) (seq : BitVec 32) (n i : Nat) (l : Line) : Core :=
  { k with oq := Map.set [] k.oq q ((k.queueOf q).map (fun e =>
      if e.seq = seq ∧ e.k = n then
        { e with data := putBits e.data (1024 * i) 1024 l.toNat, left := e.left.filter (· ≠ i) } else e)) }

/-- What writing a line comes to: its timestamp, what failed, or nothing while its answer has not come. -/
inductive DstRes where
  | done (s : State) (ts : Word) (fail : Option (BitVec 5 × Word))
  | none

/-- The destination of a line. -/
def State.dstLine (s : State) (c : Nat) (ent : Entry) (n : Nat) (l : Line) (bad : Bool) (rep : Reply) : DstRes :=
  match (copySides ent n).2 with
  | .spad a =>
    let ws := putBytes a 128 l.toNat
    .done (s.spadWrites c ws) 0 (if ws.any (s.meetsPoison c) then some (Cause.ecc, wnat a) else Option.none)
  | .oq q k i => .done (s.updCore c (fun kc => kc.fillOq q ent.seq k i l)) 0 Option.none
  | .glob va =>
    match s.translate c va .write ent.atU with
    | .bad cz => .done s 0 (some (cz, va))
    | .ok (.phys pa cls _) =>
      if rep = .unreachable ∧ hostPlace pa cls then .done s 0 (some (Cause.fwdx, va)) else
      let (s, ts, ecc) := s.homePut c pa cls (copyComb ent) l bad
      .done s ts (if ecc then some (Cause.ecc, va) else Option.none)
    | .ok (.remote pkg off) => match rep with
      | .home => if (s.reach c (c / 4) pkg off).isNone then .done s 0 (some (Cause.fwdx, va)) else .none
      | .value _ _ ts => .done s ts Option.none
      | r => .done s 0 ((replyCause r).map (fun cz => (cz, va)))

/-- The n-th line that is formed and not complete, over the commands in order. -/
def pickLine (l : List Copy) (n : Nat) : Option (Copy × Nat) :=
  (l.flatMap (fun w => w.out.map (fun m => (w, m))))[n]?

/-- The first failing line of a command (R318). -/
def firstFail (f : Option (Nat × BitVec 5 × Word)) (n : Nat) (g : Option (BitVec 5 × Word)) :
    Option (Nat × BitVec 5 × Word) :=
  match f, g with
  | some (m, x), some y => if n < m then some (n, y) else some (m, x)
  | none, some y => some (n, y)
  | f, none => f

/-- A command whose lines are all complete: its flight can retire (R311, R318). -/
def Core.copyDone (k : Core) (w : Copy) : Core :=
  if w.formed < w.total ∨ w.out ≠ [] then k
  else
    let fill := (copySlot w.ent.ins).map (fun p => (p, match w.fail with
      | some (n, _) => completion codeFault n
      | none => completion codeDone (copyInfo w.ent)))
    let k := { k with cpe := { k.cpe with work := k.cpe.work.filter (fun u => u.ent.seq ≠ w.ent.seq) } }
    k.updQ 0 (fun q => { q with fl := q.fl.map (fun f =>
      if f.ent.seq = w.ent.seq then
        { f with
          wclk := k.clk, rclk := k.clk, done := true, fill := fill, cause := if f.cause.isSome then f.cause else w.fail.map (·.2)
          ts := w.ts } else f) })

/-- A line whose hinted home failed is sent once more (R381). -/
def State.lineRetry (s : State) (c : Nat) (ent : Entry) (n : Nat) (rep : Reply) : Option State :=
  match lineVa ent n with
  | some (va, nd) => s.retryAt c va nd ent.atU rep
  | none => none
def State.lineNote (s : State) (c : Nat) (ent : Entry) (n : Nat) (rep : Reply) : State :=
  match lineVa ent n with
  | some (va, nd) => s.noteAt c va nd ent.atU rep
  | none => s

/-- A source line that fails with another cause than uncorrectable data leaves its destination line unwritten (R318). -/
def lostSource (f : Option (BitVec 5 × Word)) : Bool :=
  match f with
  | some (cz, _) => cz != Cause.ecc
  | none => false

/-- Memory-side lines leave the windows once an access has used them (R245), but for those that a copy in progress has still to use. -/
def Core.dropUsed (k : Core) : Core :=
  let need := k.cpe.work.flatMap (fun w => w.left.flatMap (fun m =>
    let side (x : Side) : List Nat := match x with
      | .spad a => spadLines a 128
      | _ => []
    side (copySides w.ent m).1 ++ side (copySides w.ent m).2))
  { k with wins := k.wins.map (fun w => (w.1, w.2.dropLines (fun i l => ! l.ms || need.contains (w.2.addr / 128 + i)))) }

/-- A command of the copy engine in its new state; one whose lines are all complete can retire. -/
def Core.putCopy (k : Core) (w : Copy) : Core :=
  let k := ({ k with cpe := { k.cpe with work := k.cpe.work.map (fun u => if u.ent.seq = w.ent.seq then w else u) } } : Core).copyDone w
  if w.formed < w.total ∨ w.out ≠ [] then k else k.dropUsed

/-- A line of a command is performed: what it writes, and what failed (R318). -/
def State.lineDone (s : State) (c : Nat) (w : Copy) (m : Nat) (sf df : Option (BitVec 5 × Word)) (ts : Word) : State :=
  s.updCore c (fun k => k.putCopy { w with
    out := w.out.filter (· ≠ m), fail := firstFail (firstFail w.fail m sf) m df, ts := maxW w.ts ts })

/-- A line leaves for another package, once (R312); one that is uncorrectable leaves as poison (R318, log 26). -/
def State.sendCopyLine (s : State) (c : Nat) (w : Copy) (m : Nat) (l : Line) (sf : Option (BitVec 5 × Word)) : State :=
  if w.sent.any (fun e => e.1 = m) then s
  else match (copySides w.ent m).2 with
    | .glob va => match s.translate c va .write w.ent.atU with
      | .ok (.remote pkg off) =>
        let mark := if sf.isSome then 2 ^ 44 else 0
        let ty := if isCpred w.ent.ins then 3 else 1
        let arg := if isCpred w.ent.ins then wnat (spadOpt w.ent.va) else BitVec.allOnes 64
        (s.sendReq c w.ent.ctx w.ent.slk w.ent.ske { ty := ty, kind := 5, unit := 1, seq := w.ent.seq.toNat, noted := w.noted
                                                     addr := va, arg0 := arg, arg1 := arg }
          w.ent.lvl pkg off (lineDwords l) mark).updCore c (fun k =>
          k.putCopy { w with sent := w.sent ++ [(m, s.cc)], fail := firstFail w.fail m sf })
      | _ => s
    | _ => s

/-- Lines of the row of line m that have been read (R313). -/
def Copy.rowRead (w : Copy) (m : Nat) : Bool :=
  (w.got.filter (fun g => g.1 / rowLen w.ent.tab = m / rowLen w.ent.tab)).length = rowLen w.ent.tab

/-- The line that is taken on: of a row that has been read in part, one that has not been read (R313). -/
def Copy.nextOf (w : Copy) (m : Nat) : Nat :=
  if isRowCopy w.ent ∧ isInnerCopy w.ent = false ∧ w.held = [] ∧ (w.got.any (fun g => g.1 = m)) ∧ w.rowRead m = false then
    (w.out.find? (fun n => ! w.got.any (fun g => g.1 = n))).getD m
  else m

/-- The window line of a copy's line in the scratchpad that has become invalid again since the command started: it must be filled (R234). -/
def Core.sideNeed (k : Core) (x : Side) : Option (Nat × Nat) :=
  match x with
  | .spad a => k.firstNeed (spadLines a 128)
  | _ => none

/-- A line of a copy waits for its window line: the core freezes for it, unless it is frozen already (R234, R312, R345); a translation that
fails fails the line. -/
def State.sideWait (s : State) (c : Nat) (w : Copy) (m wi i : Nat) : State :=
  if (s.core c).frozen.isSome then s
  else match s.translate c (winVa ((s.core c).window wi) i) .read w.ent.atU with
    | .bad cz => s.lineDone c w m (some (cz, winVa ((s.core c).window wi) i)) none 0
    | .ok _ => s.freezeOwn c 0 w.ent wi i

/-- Nothing is written of a line whose source is lost, or that a reduction cannot read (R318). -/
def noWrite (ent : Entry) (sf : Option (BitVec 5 × Word)) : Bool := lostSource sf || (sf.isSome && isCpred ent.ins)

/-- A line with its source read: it is written, or leaves for another package. A line that fails is no line moved (R368). -/
def State.putLine (s : State) (c : Nat) (w : Copy) (m : Nat) (l : Line) (sf : Option (BitVec 5 × Word)) (rep : Reply) : State :=
  match (if noWrite w.ent sf then .done s 0 none else s.dstLine c w.ent m l sf.isSome rep) with
  | .none => s.sendCopyLine c w m l sf
  | .done s' ts df =>
    ((s'.lineDone c w m sf df ts).lineNote c w.ent m rep).count c w.ent.ctx 4 (if sf.isNone && df.isNone then 1 else 0)

/-- The row of a gather or a scatter is read whole before it is written (R313): a line that is read is kept until then. -/
def State.rowLine (s : State) (c : Nat) (w : Copy) (m : Nat) (rep : Reply) : State :=
  match w.got.find? (fun g => g.1 = m) with
  | some (_, l, bad) =>
    if w.rowRead m then s.putLine c w m l (if bad then some (Cause.ecc, 0) else none) rep else s
  | none => match s.srcLine c w m rep with
    | .none => s
    | .data l sf =>
      if lostSource sf then s.lineDone c { w with got := w.got ++ [(m, l, false)] } m sf none 0
      else s.updCore c (fun k => k.putCopy { w with got := w.got ++ [(m, l, sf.isSome)], fail := firstFail w.fail m sf })

/-- A line whose hinted home failed is sent once more (R381): a read at once, a write with its data. -/
def State.lineAgain (s : State) (c : Nat) (w : Copy) (m : Nat) : State :=
  match (copySides w.ent m).1 with
  | .glob _ =>
    (s.copyPkt c w m 1).updCore c (fun k => k.putCopy { w with sent := w.sent.filter (fun e => e.1 ≠ m) ++ [(m, s.cc)] })
  | _ => match s.srcLine c w m .home with
    | .data l sf => s.sendCopyLine c { w with sent := w.sent.filter (fun e => e.1 ≠ m) } m l sf
    | .none => s

/-- A line of a copy is performed, or waits (R311 to R313, R318); `rep` brings what another package answered. -/
def State.copyLine (s : State) (c : Nat) (w : Copy) (m : Nat) (rep : Reply) : State :=
  match s.lineRetry c w.ent m rep with
  | some s' => s'.lineAgain c w m
  | none =>
    let k := s.core c
    let late := k.wounded || k.cpe.q.fl.any (fun f => f.ent.seq = w.ent.seq && f.cause.isSome)
    match (if late ∨ rep ≠ .home then none else (k.sideNeed (copySides w.ent m).1).or (k.sideNeed (copySides w.ent m).2)) with
    | some (wi, i) => s.sideWait c w m wi i
    | none =>
      if isRowCopy w.ent ∧ isInnerCopy w.ent = false ∧ w.held = [] then s.rowLine c w m rep
      else match s.srcLine c w m rep with
        | .none => s
        | .data l sf => s.putLine c w m l sf rep

/-- `COPY_LINE_COMPLETE` (R311 to R313, R318): the n-th line on its way is performed; `rep` brings what another package
answered. A write-back that it forces has the class of the copy, or of
its window lines (R302). -/
def execCopyLineComplete (core n : Nat) (rep : Reply) (s : State) : Out :=
  match pickLine (s.core core).cpe.work n with
  | none => .next s
  | some (w, m) =>
    let (k, e) := if writesGlobal w.ent then (w.ent.slk, w.ent.ske) else (w.ent.cslk, w.ent.cske)
    .next (s.under core w.ent.ctx k e (fun s => s.copyLine core w (if rep = .home then w.nextOf m else m) rep))

/-- A line whose request has left is not answered. -/
def Copy.awaits (w : Copy) (m : Nat) : Bool :=
  w.out.contains m && (match (copySides w.ent m).1 with
    | .glob _ => ! w.got.any (fun g => g.1 = m)
    | _ => true)

/-- The first line of a core's copies that has waited `lim` cc for another package's answer (R382). -/
def State.lateLine (s : State) (c lim : Nat) : Option (Copy × Nat) :=
  (s.core c).cpe.work.findSome? (fun w =>
    (w.sent.find? (fun e => w.awaits e.1 && e.2 + lim ≤ s.cc)).map (fun e => (w, e.1)))

/-! ### Held copies (R282, R283, R286) -/

/-- A held copy goes on as a started command, with the lines that it has read as its source: its lines are written at their homes, those of
this package at once, and it retires in queue order (R282). -/
def State.performHeld (s : State) (c : Nat) (h : HeldCopy) : State :=
  let n := h.lines.length
  let w : Copy := { ent := h.ent, total := n, formed := n, out := List.range n, held := h.lines }
  let s := s.updCore c (fun k => { k with cpe := { k.cpe with work := k.cpe.work ++ [w] } })
  (List.range n).foldl (fun (s : State) m =>
    match (s.core c).cpe.work.find? (fun u => u.ent.seq = h.ent.seq) with
    | none => s
    | some w =>
      let s := if m % 8 = 0 then s.copyPkt c w m (min 8 (n - m)) else s
      match s.srcLine c w m .home with
      | .none => s
      | .data l sf => s.putLine c w m l sf .home) s

/-- Every held copy of a core writes, in order, and stands before what has started after it. -/
def State.performHold (s : State) (c : Nat) : State :=
  let hs := (s.core c).hold
  let s := s.updCore c (fun k => { k with hold := [] }.updQ 0 (fun q => { q with fl := hs.map (fun (h : HeldCopy) => copyFlight h.ent) ++ q.fl }))
  hs.foldl (fun (s : State) h => s.performHeld c h) s

/-! ### What an engine queue waits for (R116, R118, R280, R317) -/

/-- The head of a queue waits for a bounded thing: the KIND and NAME of R118. -/
def State.headWait (s : State) (c e : Nat) : Option (Nat × Nat) :=
  let k := s.core c
  let q := k.q e
  match k.retirable e with
  | some f =>
    match k.signalFull e f.ent with
    | some n => some (0, n % 12)
    | none => none
  | none =>
    if k.mayStart e = false then none
    else
      match q.q with
      | [] => none
      | ent :: _ =>
        match emptyWait k (engWaitFifos ent.tk e) with
        | some n => some (0, n - 12)
        | none =>
          match k.guardOf ent, ent.guard with
          | .wait, some (n, _) => some (8, n)
          | .run, _ =>
            match (if e = 0 then k.cpeHead else none) with
            | none => none
            | some ent => match s.cpeNeed c ent with
              | some (.lot _ _ i) => some (10, i)
              | some .token => some (11, 0)
              | some (.oq q) => some (12, q)
              | _ => none
          | _, _ => none

end Sys2Proof.Machine
end

