-- ==== Sys2Proof/Machine/Fetch.lean ====
section
/-!
DEFINITION. Instruction fetch (R16, R17) and what moves next (the model's own scheduler: log 1).
-/
namespace Sys2Proof.Machine

/-- A fetched word enters the instruction cache. A full cache loses one word; which one is not architectural (R7, R17). -/
def State.keepCode (s : State) (c at_ : Nat) (w : Code) : State :=
  let m := (s.core c).icache
  if m.length < Config.icacheWords then s.updCore c (fun k => { k with icache := Map.set none k.icache at_ (some w) })
  else
    let j := (Config.freeCodeVictim s.free).toNat % m.length
    ({ s with free := s.free + 1 } : State).updCore c (fun k => { k with icache := Map.set none (k.icache.eraseIdx j) at_ (some w) })

/-- The word at a context's pc, or nothing where the fetch fails (R16). A word of the instruction cache that differs from
memory is old or new (R17, log 11); a miss reads through the L1 and the pen. -/
def State.fetchCode (s : State) (c x : Nat) (pc : Word) : Option (State × Code) :=
  let t := s.ctx c x
  match s.translate c pc .exec (t.pl = 0) with
  | .ok (.phys pa cls ms) =>
    match Map.get none (s.core c).icache (pa / 4) with
    | some old =>
      let new := BitVec.ofNat 32 (s.readView c x pa 4 (! ms && cls ≠ 3)).1
      if old = new then some (s, new)
      else some ({ s with free := s.free + 1 }, if Config.freeFetchOld s.free then old else new)
    | none =>
      let (s', v, poi) := s.codeFill c x pa cls ms pc
      if poi then none else some (s'.keepCode c (pa / 4) (BitVec.ofNat 32 v), BitVec.ofNat 32 v)
  | _ => none

/-- A context is at a word boundary and nothing holds it there (R103, R109, R285, R345). -/
def State.atBoundary (s : State) (c x : Nat) : Bool :=
  let k := s.core c
  let t := k.getCtx x
  t.run = .running && t.wait = none && k.frozen = none && (k.holdFor = none || k.holdFor = some x) &&
    ! (k.wounded && t.pl = 0)

/-- A wound can be taken: no context of the task runs at S or H (R285). -/
def Core.woundReady (k : Core) : Bool :=
  k.wounded && (List.range 4).all (fun y => let t := k.getCtx y; t.run ≠ .running || t.pl = 0)

/-- The context can issue its next word. -/
def State.canIssue (s : State) (c x : Nat) : Bool :=
  s.atBoundary c x && (s.ctx c x).yieldFor = 0

/-- An engine-enqueue word: majors 0x20 to 0x2a and 0x2c to 0x30, `enote`, `eqf`, and an `egrd` pair (R102). -/
def engineWord (w : Code) (i : Instr) : Bool :=
  let m := bits w.toNat 21 6
  match i with
  | .enote _ _ => true
  | .eqf _ _ => true
  | .egrd _ _ => true
  | _ => (0x20 ≤ m && m ≤ 0x2a) || (0x2c ≤ m && m ≤ 0x30)

/-- The context has a slot for a word in the present clock: two words for contexts 0 and 1, where context 0's second is an
engine-enqueue word and its first is not, and one for 2 and 3 (R102); the contexts of a clock issue in ascending order, so that their engine
words enter in that order (R108). After an engine's fill of a slot in a clock no word issues in it: words take effect before fills (R113). -/
def State.hasSlot (s : State) (c x : Nat) (eng : Bool) : Bool :=
  (s.core c).filledAt ≠ some s.cc && match (s.core c).issued with
  | (t, y, n) => t ≠ s.cc || n = 0 || y < x || (y = x && n = 1 && (x = 1 || (x = 0 && eng)))

/-- The context has issued a word in the present clock; an engine-enqueue word of context 0 leaves it no slot. With the first word the span of a
restore ends (R370). -/
def State.takeSlot (s : State) (c x : Nat) (eng : Bool) : State :=
  s.updCore c (fun k =>
    let n := if k.issued.1 = s.cc ∧ k.issued.2.1 = x then k.issued.2.2 else 0
    { k with issued := (s.cc, x, if x = 0 ∧ eng then 2 else n + 1), resuming := false })

/-- What a step does: run a decoded instruction, or what an event's meaning answers. -/
inductive Move where
  | run (i : Instr) (s : State)
  | out (o : Out)

/-- The next word of a context: the decoded word where its context has a slot for it in this clock, or the word's ILL, or the fetch's fault. -/
def State.issue (s : State) (c x : Nat) : Move :=
  match s.fetchCode c x (s.ctx c x).pc with
  | none => .out (execFetchFault s)
  | some (s', w) =>
    match decode w with
    | some i =>
      if s'.hasSlot c x (engineWord w i) then .run i (s'.takeSlot c x (engineWord w i)) else .out (.next s)
    | none => .out (execIllegalWord w s')

end Sys2Proof.Machine
end

