-- ==== Sys2Proof/Machine/Guard.lean ====
section
/-!
DEFINITION. Guarded pairs (R45, R110, R111).
-/
namespace Sys2Proof.Machine

/-- The token bits and Y of a word (R36). -/
def tkOfWord (w : Code) : Tk := ⟨w.getLsbD 31, w.getLsbD 30, w.getLsbD 29, w.getLsbD 28, w.getLsbD 27⟩

/-- The engine of a word by its major (R45): 0 CPE, 1 MXE, 2 VXE. -/
def engineOf (w : Code) : Option Nat :=
  let m := bits w.toNat 21 6
  if 0x20 ≤ m ∧ m ≤ 0x27 then some 2
  else if 0x28 ≤ m ∧ m ≤ 0x2a then some 1
  else if 0x2c ≤ m ∧ m ≤ 0x30 then some 0
  else none

/-- The slot that an entry fills. -/
def entrySlot (i : Instr) : Option Nat :=
  match copySlot i, matSlot i with
  | some n, _ => some n
  | none, some n => some n
  | none, none => vecSlot i

/-- The checks at issue of an engine's word. -/
def engIssue (e : Nat) (i : Instr) : Nat → Nat → State → EnqRes :=
  match e with
  | 0 => copyChk i
  | 1 => matIssue i
  | _ => vecIssue i

/-- The cause of a failed fetch at an address (R16, R244). -/
def State.fetchCause (s : State) (c x : Nat) (pc : Word) : BitVec 5 :=
  match s.translate c pc .exec ((s.ctx c x).pl = 0) with
  | .bad cz => cz
  | .ok (.remote _ _) => Cause.xlat
  | .ok (.phys _ _ _) => Cause.ecc

/-- `egrd` (R45): the next word is fetched and the two issue as one; every trap of the pair has the `egrd` address. A guard that
names the slot of the guarded word raises ILL before that word's own checks (R111, R342). -/
def execEgrd (d : Reg) (g : BitVec 1) (s : State) : Out :=
  let c := s.cur.1
  let x := s.cur.2
  let pc := (s.ctx c x).pc
  let i : Instr := .egrd d g
  if i.wf = false then .next (takeTrap s c x Cause.ill (wordVal i) pc)
  else
    match s.fetchCode c x (pc + 4) with
    | none => .next (takeTrap s c x (s.fetchCause c x (pc + 4)) (pc + 4) pc)
    | some (s, w) =>
      match engineOf w, decode w with
      | none, _ => .next (takeTrap s c x Cause.ill (wordVal i) pc)
      | some _, none => .next (takeTrap s c x Cause.ill (w.setWidth 64) pc)
      | some e, some j =>
        let k := tkOfWord w
        control j (onlyY k) s (fun c x s =>
          if entrySlot j = some d.toNat then .trap Cause.ill (wordVal i)
          else match enqBody (wordVal j) e k (some (d.toNat, g = 1)) (engIssue e j) c x s with
          | .done s => .done (s.updCtx c x (fun t => { t with pc := t.pc + 4 }))
          | r => r)

end Sys2Proof.Machine
end

