-- ==== Sys2Proof/Machine/Adm.lean ====
section
/-!
DEFINITION. Admission to the shared engines (R320 to R326, R339): route tables, decisions, refusal runs, tickets and
answers, and the ADM group (R335 to R338). Class 0 is XCE, 1 SFE, 2 loft, 3 token.
-/
namespace Sys2Proof.Machine

/-! ### Engines and routes -/

/-- Bays of an engine of a class (R320). -/
def bayCount (cls : Nat) : Nat := if cls = 0 then 6 else if cls = 1 then 3 else if cls = 2 then 4 else 0

def engKey (cls unit : Nat) : Nat := 8 * cls + unit
def State.eng (s : State) (cls unit : Nat) : Eng := Map.get Eng.reset s.engs (engKey cls unit)
def State.setEng (s : State) (cls unit : Nat) (e : Eng) : State :=
  { s with engs := Map.set Eng.reset s.engs (engKey cls unit) e }
def State.updEng (s : State) (cls unit : Nat) (f : Eng → Eng) : State := s.setEng cls unit (f (s.eng cls unit))

def Eng.bay (e : Eng) (n : Nat) : Option Bay := Map.get none e.bays n
def Eng.setBay (e : Eng) (n : Nat) (b : Option Bay) : Eng := { e with bays := Map.set none e.bays n b }

/-- The bay that the engine's ticket holds. -/
def Eng.held (e : Eng) : Option Nat := match e.ticket with
  | some t => t.bay
  | none => none

/-- The engine's ready bit (R422). -/
def State.engReady (s : State) (cls unit : Nat) : Bool :=
  s.rdy0.getLsbD ((if cls = 0 then 48 else if cls = 1 then 56 else 8) + unit)

/-- A route entry at reset (R322). -/
def routeReset (cls rt : Nat) : Word :=
  if cls < 2 then (if rt = 3 then 0 else wnat (128 + rt)) else if rt = 0 then 128 else 0

/-- A route entry; those of classes 2 and 3 are fixed. -/
def Paddock.routeEntry (p : Paddock) (cls rt : Nat) : Word :=
  if cls < 2 then Map.get (routeReset cls rt) p.route (4 * cls + rt) else routeReset cls rt
def Paddock.setRoute (p : Paddock) (cls rt : Nat) (v : Word) : Paddock :=
  if cls < 2 then { p with route := Map.set (routeReset cls rt) p.route (4 * cls + rt) (v &&& 0x87) } else p

/-- The engine that a route names for a core (R322); `home` is the loft of the request's first global line. -/
def State.routeTo (s : State) (c cls rt : Nat) (home : Option Nat) : Option Nat :=
  let p := s.pdk (s.coreBlk c)
  let v := p.routeEntry cls rt
  if v.getLsbD 7 = false then none
  else if cls = 2 then home
  else
    let l := p.shedList
    let j := (l.takeWhile (· ≠ c / 4)).length
    l[(j + wbits v 0 3) % l.length]?

/-! ### A request, from its word to its answer (R321) -/

/-- What a request word's checks at issue come to. -/
inductive ChkRes where
  | trap (c : BitVec 5) (v : Word)
  | wait (w : Wait) (bound : Nat)
  | noop
  | forced
  | go (home : Option Nat)

/-- The word needs the irrevocability token in a task that declares sets (R286, R404). -/
def outside (i : Instr) : Bool :=
  match i with
  | .xput _ _ _ _ _ _ => true
  | .xmc _ _ _ _ _ _ => true
  | .xcmb _ _ _ _ _ _ => true
  | .xamo _ _ _ _ _ _ => true
  | .xlnc _ _ _ _ _ _ => true
  | _ => false

/-- The admission of a request with LEN 0, which the core answers itself (R321), in the clock of its issue, and without holding back what may issue
after it (DESIGN CHOICE: R321 gives no clock for it; log 139). -/
def State.ownAnswer (s : State) (c x cls slot : Nat) : State :=
  (((s.countAdm c x cls 1).count c x 8 1).setBz c x false).fillSlot c slot (completion codeDone 0)

/-- What a request moves in its global range: the type of its packets, and lines (R298, R331). -/
def Req.globals (q : Req) : Nat × Nat :=
  let n := spadLen q.va
  match q.ins with
  | .lftopRed _ _ _ _ _ _ => (3, n)
  | .lftopHist _ _ _ _ _ _ => (3, spadOpt q.va)
  | .xput _ _ _ _ _ _ => if (spadOpt q.va).testBit 4 then (0, 0) else (1, n)
  | .xget _ _ _ _ _ _ => (0, n)
  | .xamo _ _ _ _ _ _ => (2, 1)
  | _ => (0, 0)

/-- The virtual address of a request's global line. -/
def Req.lineAt (q : Req) (i : Nat) : Word := q.vb + wnat (128 * i)

/-- The places of a request's global lines, as they are translated now. -/
def State.placesOf (s : State) (q : Req) : List Tr :=
  let (ty, n) := q.globals
  (List.range n).map (fun i => s.translate q.core (q.lineAt i) (if ty = 0 then .read else .write) q.atU)

/-- The body of a request word: its checks, the irrevocability token, its earlier stores (R263), and the request on its
way. The context waits for the answer. A refusal that no engine decides is answered in the clock of the issue (DESIGN CHOICE: R339 gives it no clock;
log 139). A request of LEN 0 has no effect outside the core, and needs no token (R321). -/
def reqBody (i : Instr) (cls : Nat) (f : BitVec 4) (rt : BitVec 2) (p : BitVec 4) (a b : Reg)
    (chk : Nat → Nat → State → ChkRes) (c x : Nat) (s : State) : Res :=
  let t := s.ctx c x
  let token := (s.core c).penned && outside i
  let ask (unit : Option Nat) (ans : Option Answer) : Res :=
    let near : Bool := match unit with
      | some u => u = c / 4
      | none => true
    let r : Req :=
      { core := c, ctx := x, ins := i, cls := cls, unit := unit, rt := rt.toNat, slot := p.toNat, va := t.rd a, vb := t.rd b
        slk := classOf t f, ske := t.skEntry (classOf t f), vf := s.coreVf c, stamp := (s.core c).task.map Task.stamp, atU := t.pl = 0, lvl := t.pl.toNat
        due := if ans.isSome then s.cc else s.cc + (if near then 4 else 6), answer := ans }
    let r := if cls = 2 then { r with trs := s.placesOf r } else r
    let s := s.drainStores c x
    .holdIn { s with reqs := s.reqs ++ [r] } .answer 0
  match chk c x s with
  | .trap cz v => .trap cz v
  | .wait w bd => .hold w bd
  | .noop => .done (s.ownAnswer c x cls p.toNat)
  | .forced => ask none (some .forced)
  | .go home =>
    if token then .hold .token286 t.gc
    else match s.routeTo c cls rt.toNat home with
      | none => ask none (some .forced)
      | some u => ask (some u) none

def reqWord (i : Instr) (k : Tk) (cls : Nat) (f : BitVec 4) (rt : BitVec 2) (p : BitVec 4) (a b : Reg) (s : State)
    (chk : Nat → Nat → State → ChkRes) : Out :=
  control i k s (reqBody i cls f rt p a b chk)

/-! ### Refusal runs (R324) -/

def Ctx.runOf (t : Ctx) (cls : Nat) : RefRun := Map.get {} t.runs cls
def Ctx.setRun (t : Ctx) (cls : Nat) (r : RefRun) : Ctx := { t with runs := Map.set {} t.runs cls r }

/-- The run after a refusal by an engine. -/
def RefRun.refused (r : RefRun) (unit : Nat) : RefRun :=
  if r.eng = some unit then { r with run := min (r.run + 1) 15 } else { eng := some unit, run := 1 }

/-- NTK and RSV as they govern the decisions of clock `cc`: a write governs those from the clock after it (R323). -/
def Eng.governs (e : Eng) (cc : Nat) : BitVec 4 × BitVec 3 :=
  match e.was with
  | some (at_, n, r) => if at_ = cc then (n, r) else (e.ntk, e.rsv)
  | none => (e.ntk, e.rsv)

/-- The context is a candidate at an engine in clock `cc`. -/
def Ctx.candidate (t : Ctx) (cls unit : Nat) (e : Eng) (cc : Nat) : Bool :=
  (t.runOf cls).eng = some unit && (e.governs cc).1.toNat ≤ (t.runOf cls).run

/-! ### Decisions (R323) -/

/-- Free bays in clock `cc`: neither serving, nor held, and not completed in this clock. -/
def Eng.freeBays (e : Eng) (cls cc : Nat) : List Nat :=
  (List.range (bayCount cls)).filter (fun n => (e.bay n).isNone && e.held ≠ some n && Map.get 0 e.ends n ≤ cc)

/-- Bays that a ticket may take at the end of a clock. -/
def Eng.emptyBays (e : Eng) (cls : Nat) : List Nat :=
  (List.range (bayCount cls)).filter (fun n => (e.bay n).isNone && e.held ≠ some n)

/-- The bay into which an engine admits a request, and whether the ticket is claimed; nothing when it refuses. -/
def Eng.decide (e : Eng) (cls cc key rt : Nat) : Option (Nat × Bool) :=
  let free := e.freeBays cls cc
  let first : Option (Nat × Bool) :=
    if (rt = 0 ∧ 0 < free.length) ∨ (0 < rt ∧ (e.governs cc).2.toNat < free.length) then free.head?.map (fun n => (n, false)) else none
  match e.ticket with
  | some t => match t.bay with
    | some n => if t.key = key ∧ t.h ≤ cc ∧ cc ≤ t.h + 255 then some (n, true) else first
    | none => first
  | none => first

/-- The bound S + 2 · M of a request (R327), of service bound `svc`, with the slack entry that its issue read (R302). -/
def boundOf (ske : BitVec 28) (svc : Nat) : Nat := svc + 2 * (16 * bits ske.toNat 0 12 + 1024)

/-- Ceilings of the bounds. -/
def ceilDiv (a b : Nat) : Nat := (a + b - 1) / b
def ceilLog (n : Nat) : Nat := if n ≤ 1 then 0 else (n - 1).log2 + 1

/-- The Ganor hops to a package (R382, R403): none to the own one, and else those of the domain's links, from 1 to 7 (log 56). -/
def hopCost (own far : Nat) : Nat := if own = far then 0 else 768 * (1 + Config.freeHops own far % 7)

/-- The package that an access of a request reaches, through its page where it has one (R251, R379, R403). -/
def State.farPkg (s : State) (r : Req) : Nat :=
  match s.translate r.core r.vb .read r.atU with
  | .ok (.remote pkg _) => pkg
  | _ => s.pkg.toNat

/-- The LINES of a proxy request's true ring (R403); those of a ring of another package are the shadow ring's, which R395 makes equal. -/
def State.trueLines (s : State) (r : Req) : Nat :=
  if wbits r.vb 16 6 = s.pkg.toNat then ((s.core (wbits r.vb 8 5)).ring (wbits r.vb 0 4)).lines
  else ((s.core r.core).ring (spadOpt r.va % 16)).lines

/-- The service bound of a request (R327, R403). -/
def State.service (s : State) (r : Req) : Nat :=
  let len := spadLen r.va
  let opt := spadOpt r.va
  let hop := hopCost s.pkg.toNat (s.farPkg r)
  match r.ins with
  | .sfsort _ _ _ _ _ _ => 128 + ceilDiv (16 * len) 64 * (ceilLog (16 * len) + 1)
  | .sftopk _ _ _ _ _ _ => 128 + ceilDiv (16 * len) 64 * (ceilLog (bits (spadOpt r.vb) 0 8 + 1) + 2)
  | .lftopRed _ _ _ _ _ _ => 32 + 8 * len
  | .lftopHist _ _ _ _ _ _ => 32 + ceilDiv (32 * len) 8 + 8 * opt
  | .xput _ _ _ _ _ _ =>
    if opt.testBit 4 then 5376 + 2 * len * s.trueLines r + hopCost s.pkg.toNat (wbits r.vb 16 6)
    else 384 + 2 * len + hop
  | .xget _ _ _ _ _ _ => 384 + 2 * len + hop
  | .xamo _ _ _ _ _ _ => 448 + hop
  | .xlnc _ _ _ _ _ _ => 512 + hopCost s.pkg.toNat (wbits r.vb 0 6)
  | _ => 384 + 8 * len

/-- The occupancy that an admitted bay will have: open from 1 cc to W (R327, log 13). -/
def State.occupancy (s : State) (r : Req) : Nat :=
  1 + (Config.freeOccupancy s.free).toNat % boundOf r.ske (s.service r)

/-- Contributions to a group that one XCE has injected and that await their results (R400). -/
def State.awaiting (s : State) (shed group : Nat) : Nat :=
  (s.cmbs.filter (fun p => p.shed = shed && p.group = group)).length

/-- The engine refuses a request whatever its bays (R400). -/
def State.xceFull (s : State) (r : Req) (unit : Nat) : Bool :=
  match r.ins with
  | .xcmb _ _ _ _ _ _ => 16 ≤ s.awaiting unit (wbits r.vb 0 16)
  | _ => false

/-- Rank of a request among those that one engine decides in a clock (R323). -/
def Eng.rank (e : Eng) (r : Req) : Nat :=
  let key := 4 * r.core + r.ctx
  match e.ticket with
  | some t => if t.key = key then 0 else (if r.rt = 0 then 1 else 2) * 128 + key
  | none => (if r.rt = 0 then 1 else 2) * 128 + key

/-- A request awaits its decision in this clock. -/
def State.undecided (s : State) (r : Req) : Bool := r.answer = none && r.due ≤ s.cc

/-- The request of a context. -/
def State.reqOf (s : State) (c x : Nat) : Option Req := s.reqs.find? (fun r => r.core = c && r.ctx = x)
def State.updReq (s : State) (c x : Nat) (f : Req → Req) : State :=
  { s with reqs := s.reqs.map (fun r => if r.core = c ∧ r.ctx = x then f r else r) }

/-- An engine's answer to a request, on its way back (R339). -/
def State.answerReq (s : State) (r : Req) (a : Answer) : State :=
  s.updReq r.core r.ctx (fun r => { r with answer := some a, due := s.cc + 6 })

/-- The decision of an engine on a request. The slot of an admitted request is empty from here on, since its bay may
complete before the answer arrives. -/
def State.decideReq (s : State) (r : Req) (unit : Nat) : State :=
  let e := s.eng r.cls unit
  if s.engReady r.cls unit = false then s.answerReq r .forced
  else
    match (if s.xceFull r unit then none else e.decide r.cls s.cc (4 * r.core + r.ctx) r.rt) with
    | some (n, claimed) =>
      let b : Bay := { req := if r.cls = 2 then r else { r with trs := s.placesOf r }, since := s.cc, occ := s.occupancy r }
      let e := (e.setBay n (some b)).countFn r.vf 0 1
      let e := if 0 < r.rt then e.countFn r.vf 2 1 else e
      let e := if claimed then e.endTicket s.cc else e
      let s := { s.setEng r.cls unit e with free := s.free + 1 }
      let s := s.updCtx r.core r.ctx (fun t => t.setRun r.cls { t.runOf r.cls with run := 0 })
      (s.emptySlot r.core r.slot).answerReq r .admitted
    | none =>
      let s := s.setEng r.cls unit (e.countFn r.vf 1 1)
      let s := s.updCtx r.core r.ctx (fun t => t.setRun r.cls ((t.runOf r.cls).refused unit))
      s.answerReq r .refused

/-- `ADMISSION_DECISION` (R323): requests of one clock are decided in the order of that rule. -/
def execAdmissionDecision (core ctx : Nat) (s : State) : Out :=
  match s.reqOf core ctx with
  | none => .next s
  | some r =>
    match r.unit with
    | none => .next s
    | some u =>
      let e := s.eng r.cls u
      let ahead := s.reqs.any (fun q => q.cls = r.cls && q.unit = some u && s.undecided q && e.rank q < e.rank r)
      if s.undecided r ∧ ahead = false then .next (s.decideReq r u) else .next s

/-- `ADMISSION_ANSWER` (R321, R339): `bz` and the counters, and the word completes with its token bits; the context's next word issues
in the clock after at the earliest. -/
def execAdmissionAnswer (core ctx : Nat) (s : State) : Out :=
  match s.reqOf core ctx with
  | none => .next s
  | some r =>
    match r.answer with
    | none => .next s
    | some a =>
      if s.cc < r.due then .next s
      else
        let s := { s with reqs := s.reqs.filter (fun q => ! (q.core = core && q.ctx = ctx)) }
        let ctr := match a with
          | .refused => 0
          | .admitted => 1
          | .forced => 2
        let s := (s.countAdm core ctx r.cls ctr).count core ctx (if a = .admitted then 8 else 9) 1
        .next (s.complete core ctx (fun t => { t with bz := a ≠ .admitted, yieldFor := max 1 t.yieldFor }))

/-! ### Tickets (R325) -/

/-- The candidates of an engine, contexts of running tasks, with their RUN: key and count. -/
def State.candidatesAt (s : State) (cls unit : Nat) : List (Nat × Nat) :=
  let e := s.eng cls unit
  (List.range (4 * Config.numCores)).filterMap (fun key =>
    let t := s.ctx (key / 4) (key % 4)
    if t.candidate cls unit e s.cc ∧ (s.core (key / 4)).task.isSome then some (key, (t.runOf cls).run) else none)

/-- The next holder: the largest RUN, and in rotation after the previous holder's key. -/
def nextHolder (prev : Nat) (l : List (Nat × Nat)) : Option Nat :=
  let top := l.foldl (fun m e => max m e.2) 0
  let dist (key : Nat) : Nat := (key + 127 - prev) % 128
  ((l.filter (fun e => e.2 = top)).foldl (fun best e =>
    match best with
    | none => some e.1
    | some b => if dist e.1 < dist b then some e.1 else some b) none)

/-- Every request that an engine decides in this clock is decided. -/
def State.settled (s : State) (cls unit : Nat) : Bool :=
  ! s.reqs.any (fun q => q.cls = cls && q.unit = some unit && s.undecided q)

/-- An engine issues a ticket at the end of this clock. -/
def State.ticketDue (s : State) (cls unit : Nat) : Option Nat :=
  let e := s.eng cls unit
  if cls < 3 ∧ e.ticket = none ∧ e.tkFrom ≤ s.cc ∧ s.settled cls unit then nextHolder e.prev (s.candidatesAt cls unit) else none

/-- `TICKET_ISSUE` (R325). -/
def execTicketIssue (cls unit : Nat) (s : State) : Out :=
  match s.ticketDue cls unit with
  | none => .next s
  | some key =>
    let e := s.eng cls unit
    let t : Ticket := { key := key, bay := (e.emptyBays cls).head?, h := s.cc + 1 }
    .next (s.setEng cls unit (({ e with ticket := some t, prev := key } : Eng).countFn (s.shareOf (key / 4) (s.coreVf (key / 4))) 3 1))

/-- The hold of a ticket has run out (R325). -/
def State.lapseDue (s : State) (cls unit : Nat) : Bool :=
  match (s.eng cls unit).ticket with
  | some t => t.bay.isSome && t.h + 255 ≤ s.cc && s.settled cls unit
  | none => false

/-- A ticket lapses: its bay is free, and the engine counts it. -/
def State.lapse (s : State) (cls unit : Nat) : State :=
  let e := s.eng cls unit
  match e.ticket with
  | some t => s.setEng cls unit ((e.endTicket s.cc).countFn (s.shareOf (t.key / 4) (s.coreVf (t.key / 4))) 4 1)
  | none => s

/-- `TICKET_LAPSE` (R325). -/
def execTicketLapse (cls unit : Nat) (s : State) : Out :=
  if s.lapseDue cls unit then .next (s.lapse cls unit) else .next s

/-- A bay completes in this clock: a ticket that waits for one holds it from the next (R323, R325). -/
def Eng.endBay (e : Eng) (n cc : Nat) : Eng :=
  let e := { e.setBay n none with ends := Map.set 0 e.ends n (cc + 1) }
  match e.ticket with
  | some t => if t.bay = none then { e with ticket := some { t with bay := some n, h := cc + 1 } } else e
  | none => e

/-! ### The ADM group (R335 to R338) -/

/-- A unit number outside the paddock of a core (R335). -/
def State.unitOutside (s : State) (c cls unit : Nat) : Bool :=
  let p := s.pdk (s.coreBlk c)
  (cls < 2 && ! p.sheds.testBit unit) || (cls = 2 && ! p.stacks.testBit unit)

/-- An engine control register (R336). -/
def Eng.control (e : Eng) (cls : Nat) : Word :=
  let busy := ((List.range (bayCount cls)).filter (fun n => (e.bay n).isSome || e.held = some n)).length
  wnat (bayCount cls * 2 ^ 20 + busy * 2 ^ 16 + e.ntk.toNat * 2 ^ 8 + e.rsv.toNat)

/-- A write of an engine control register in clock `cc` (R323, R336): NTK from 2 to 15, RSV below the bays. -/
def Eng.setControl (e : Eng) (cls cc : Nat) (v : Word) : Eng :=
  { e with was := some (cc, e.governs cc)
           ntk := if 2 ≤ wbits v 8 4 then BitVec.ofNat 4 (wbits v 8 4) else e.ntk
           rsv := if wbits v 0 3 < bayCount cls then BitVec.ofNat 3 (wbits v 0 3) else e.rsv }

/-- `admrt` (R336). -/
def execAdmrt (k : Tk) (d a b : Reg) (s : State) : Out :=
  let i : Instr := .admrt k d a b
  control i k s (fun c x s =>
    let t := s.ctx c x
    let v := t.rd a
    let w := v.getLsbD 15
    let unit := wbits v 12 3
    let ty := wbits v 8 2
    let cls := wbits v 2 2
    let rt := wbits v 0 2
    if wbits v 16 48 ≠ 0 ∨ wbits v 10 2 ≠ 0 ∨ wbits v 4 4 ≠ 0 ∨ 2 ≤ ty ∨ (ty = 0 ∧ unit ≠ 0) ∨ (ty = 1 ∧ rt ≠ 0) then
      .trap Cause.ill (wordVal i)
    else if w ∧ t.pl.toNat < ty + 1 then .trap Cause.priv (wordVal i)
    else if ty = 0 then
      let blk := s.coreBlk c
      let old := (s.pdk blk).routeEntry cls rt
      let s := if w then s.updPdk blk (fun p => p.setRoute cls rt (t.rd b)) else s
      .done (s.updCtx c x (fun t => t.wr d old))
    else if s.unitOutside c cls unit then .trap Cause.prot v
    else if cls = 3 then .done (s.updCtx c x (fun t => t.wr d 0))
    else
      let old := (s.eng cls unit).control cls
      let s := if w then s.updEng cls unit (fun e => e.setControl cls s.cc (t.rd b)) else s
      .done (s.updCtx c x (fun t => t.wr d old)))

/-- `admctr` (R337). -/
def execAdmctr (k : Tk) (d a : Reg) (s : State) : Out :=
  let i : Instr := .admctr k d a
  control i k s (fun c x s =>
    let t := s.ctx c x
    let v := t.rd a
    let clr := v.getLsbD 15
    let unit := wbits v 12 3
    let scope := wbits v 8 2
    let ctr := wbits v 4 4
    let cls := wbits v 2 2
    if wbits v 16 48 ≠ 0 ∨ wbits v 10 2 ≠ 0 ∨ wbits v 0 2 ≠ 0 ∨ scope = 3 ∨ (scope = 0 ∧ (unit ≠ 0 ∨ 2 < ctr)) ∨
        (scope ≠ 0 ∧ (cls = 3 ∨ 5 < ctr)) then .trap Cause.ill (wordVal i)
    else if (scope = 1 ∧ clr ∧ t.pl = 0) ∨ (scope = 2 ∧ t.pl ≠ 2) then .trap Cause.priv (wordVal i)
    else if scope ≠ 0 ∧ s.unitOutside c cls unit then .trap Cause.prot v
    else if scope = 0 then
      let old := Map.get 0 t.admCnt (4 * cls + ctr)
      let s := if clr then s.updCtx c x (fun t => { t with admCnt := Map.set 0 t.admCnt (4 * cls + ctr) 0 }) else s
      .done (s.updCtx c x (fun t => t.wr d old))
    else
      let key := 8 * (if scope = 1 then s.coreVf c else 64) + ctr
      let old := Map.get 0 (s.eng cls unit).cnt key
      let s := if clr then s.updEng cls unit (fun e => { e with cnt := Map.set 0 e.cnt key 0 }) else s
      .done (s.updCtx c x (fun t => t.wr d old)))

/-- The ticket word of R338; LEFT counts the clocks of the hold that are to come, this one included. -/
def State.ticketWord (s : State) (c x cls unit : Nat) : Word :=
  let t := s.ctx c x
  let e := s.eng cls unit
  let run := (t.runOf cls).run * 2 ^ 52 + (if t.candidate cls unit e s.cc then 2 ^ 62 else 0)
  match e.ticket with
  | none => wnat run
  | some tk =>
    let left := if tk.bay.isSome then tk.h + 256 - max s.cc tk.h else 0
    wnat (run + (if tk.key = 4 * c + x then 2 ^ 63 else 0) + left * 2 ^ 16 + 2 ^ 15 + tk.key)

/-- `admtk` (R338). -/
def execAdmtk (k : Tk) (d a b : Reg) (s : State) : Out :=
  let i : Instr := .admtk k d a b
  control i k s (fun c x s =>
    let t := s.ctx c x
    let v := t.rd a
    let unit := wbits v 12 3
    let cls := wbits v 2 2
    if wbits v 15 49 ≠ 0 ∨ wbits v 4 8 ≠ 0 ∨ wbits v 0 2 ≠ 0 ∨ cls = 3 then .trap Cause.ill (wordVal i)
    else if s.unitOutside c cls unit then .trap Cause.prot v
    else
      let old := s.ticketWord c x cls unit
      let mine : Bool := match (s.eng cls unit).ticket with
        | some tk => tk.key = 4 * c + x
        | none => false
      let s := if b = 0 then s
        else (if mine then s.lapse cls unit else s).updCtx c x (fun t => t.setRun cls { t.runOf cls with run := 0 })
      .done (s.updCtx c x (fun t => t.wr d old)))

end Sys2Proof.Machine
end

