-- ==== Sys2Proof/Machine/Alu.lean ====
section
/-!
DEFINITION. Integer arithmetic, immediates and constants (R64 to R68). No member writes any state but `x[d]` (R65).
-/
namespace Sys2Proof.Machine

/-- A word with `x[d] := f (x[a], x[b])` (R64). -/
def alu2 (i : Instr) (k : Tk) (d a b : Reg) (s : State) (f : Word → Word → Word) : Out :=
  regWord i k d s (fun t => f (t.rd a) (t.rd b))

/-- A word with `x[d] := f (x[a])` (R64, R66, R67). -/
def alu1 (i : Instr) (k : Tk) (d a : Reg) (s : State) (f : Word → Word) : Out :=
  regWord i k d s (fun t => f (t.rd a))

/-- Bits 127:64 of a product (R64). -/
def mulHigh (a b : Int) : Word := BitVec.ofInt 64 (a * b / 2 ^ 64)

/-- Division (R64): truncated, never trapping; the two corner cases are the table's. -/
def divS (a b : Word) : Word :=
  if b = 0 then 0xffffffffffffffff
  else if a = 0x8000000000000000 ∧ b = 0xffffffffffffffff then 0x8000000000000000
  else BitVec.ofInt 64 (a.toInt.tdiv b.toInt)
def divU (a b : Word) : Word := if b = 0 then 0xffffffffffffffff else wnat (a.toNat / b.toNat)
def remS (a b : Word) : Word :=
  if b = 0 then a
  else if a = 0x8000000000000000 ∧ b = 0xffffffffffffffff then 0
  else BitVec.ofInt 64 (a.toInt - b.toInt * a.toInt.tdiv b.toInt)
def remU (a b : Word) : Word := if b = 0 then a else wnat (a.toNat - b.toNat * (a.toNat / b.toNat))

/-- Number of one bits among the low `n` bits. -/
def onesBelow (v n : Nat) : Nat :=
  match n with
  | 0 => 0
  | m + 1 => onesBelow v m + (if v.testBit m then 1 else 0)

/-- Zero bits above the highest one bit among the low `n` bits; `n` when there is none. -/
def zerosAbove (v n : Nat) : Nat :=
  match n with
  | 0 => 0
  | m + 1 => if v.testBit m then 0 else zerosAbove v m + 1

/-- Zero bits from bit `i` up to the lowest one bit, among `n` bits. -/
def zerosFrom (v i n : Nat) : Nat :=
  match n with
  | 0 => 0
  | m + 1 => if v.testBit i then 0 else zerosFrom v (i + 1) m + 1

def clzW (a : Word) : Word := wnat (zerosAbove a.toNat 64)
def ctzW (a : Word) : Word := wnat (zerosFrom a.toNat 0 64)
def popcW (a : Word) : Word := wnat (onesBelow a.toNat 64)

def execAdd (k : Tk) (d a b : Reg) (s : State) : Out := alu2 (.add k d a b) k d a b s (· + ·)
def execSub (k : Tk) (d a b : Reg) (s : State) : Out := alu2 (.sub k d a b) k d a b s (· - ·)
def execAnd (k : Tk) (d a b : Reg) (s : State) : Out := alu2 (.and k d a b) k d a b s (· &&& ·)
def execOr (k : Tk) (d a b : Reg) (s : State) : Out := alu2 (.or k d a b) k d a b s (· ||| ·)
def execXor (k : Tk) (d a b : Reg) (s : State) : Out := alu2 (.xor k d a b) k d a b s (· ^^^ ·)
def execAndn (k : Tk) (d a b : Reg) (s : State) : Out := alu2 (.andn k d a b) k d a b s (fun a b => a &&& ~~~ b)
def execSll (k : Tk) (d a b : Reg) (s : State) : Out := alu2 (.sll k d a b) k d a b s (fun a b => a <<< shiftReg b)
def execSrl (k : Tk) (d a b : Reg) (s : State) : Out := alu2 (.srl k d a b) k d a b s (fun a b => a >>> shiftReg b)
def execSra (k : Tk) (d a b : Reg) (s : State) : Out :=
  alu2 (.sra k d a b) k d a b s (fun a b => a.sshiftRight (shiftReg b))
def execSlt (k : Tk) (d a b : Reg) (s : State) : Out := alu2 (.slt k d a b) k d a b s (fun a b => flagWord (ltS a b))
def execSltu (k : Tk) (d a b : Reg) (s : State) : Out := alu2 (.sltu k d a b) k d a b s (fun a b => flagWord (ltU a b))
def execMin (k : Tk) (d a b : Reg) (s : State) : Out :=
  alu2 (.min k d a b) k d a b s (fun a b => if ltS b a then b else a)
def execMax (k : Tk) (d a b : Reg) (s : State) : Out :=
  alu2 (.max k d a b) k d a b s (fun a b => if ltS a b then b else a)
def execMinu (k : Tk) (d a b : Reg) (s : State) : Out :=
  alu2 (.minu k d a b) k d a b s (fun a b => if ltU b a then b else a)
def execMaxu (k : Tk) (d a b : Reg) (s : State) : Out :=
  alu2 (.maxu k d a b) k d a b s (fun a b => if ltU a b then b else a)
def execMul (k : Tk) (d a b : Reg) (s : State) : Out := alu2 (.mul k d a b) k d a b s (· * ·)
def execMulh (k : Tk) (d a b : Reg) (s : State) : Out :=
  alu2 (.mulh k d a b) k d a b s (fun a b => mulHigh a.toInt b.toInt)
def execMulhu (k : Tk) (d a b : Reg) (s : State) : Out :=
  alu2 (.mulhu k d a b) k d a b s (fun a b => mulHigh a.toNat b.toNat)
def execDiv (k : Tk) (d a b : Reg) (s : State) : Out := alu2 (.div k d a b) k d a b s divS
def execDivu (k : Tk) (d a b : Reg) (s : State) : Out := alu2 (.divu k d a b) k d a b s divU
def execRem (k : Tk) (d a b : Reg) (s : State) : Out := alu2 (.rem k d a b) k d a b s remS
def execRemu (k : Tk) (d a b : Reg) (s : State) : Out := alu2 (.remu k d a b) k d a b s remU
def execClz (k : Tk) (d a : Reg) (s : State) : Out := alu1 (.clz k d a) k d a s clzW
def execCtz (k : Tk) (d a : Reg) (s : State) : Out := alu1 (.ctz k d a) k d a s ctzW
def execPopc (k : Tk) (d a : Reg) (s : State) : Out := alu1 (.popc k d a) k d a s popcW
def execSextb (k : Tk) (d a : Reg) (s : State) : Out := alu1 (.sextb k d a) k d a s (fun a => sx (a.setWidth 8))
def execSexth (k : Tk) (d a : Reg) (s : State) : Out := alu1 (.sexth k d a) k d a s (fun a => sx (a.setWidth 16))
def execSextw (k : Tk) (d a : Reg) (s : State) : Out := alu1 (.sextw k d a) k d a s (fun a => sx (a.setWidth 32))

def execAddi (k : Tk) (d a : Reg) (i : BitVec 11) (s : State) : Out := alu1 (.addi k d a i) k d a s (· + sx i)
def execAndi (k : Tk) (d a : Reg) (i : BitVec 8) (s : State) : Out := alu1 (.andi k d a i) k d a s (· &&& sx i)
def execOri (k : Tk) (d a : Reg) (i : BitVec 8) (s : State) : Out := alu1 (.ori k d a i) k d a s (· ||| sx i)
def execXori (k : Tk) (d a : Reg) (i : BitVec 8) (s : State) : Out := alu1 (.xori k d a i) k d a s (· ^^^ sx i)
def execSlli (k : Tk) (d a : Reg) (i : BitVec 6) (s : State) : Out := alu1 (.slli k d a i) k d a s (· <<< i.toNat)
def execSrli (k : Tk) (d a : Reg) (i : BitVec 6) (s : State) : Out := alu1 (.srli k d a i) k d a s (· >>> i.toNat)
def execSrai (k : Tk) (d a : Reg) (i : BitVec 6) (s : State) : Out :=
  alu1 (.srai k d a i) k d a s (fun a => a.sshiftRight i.toNat)
def execSlti (k : Tk) (d a : Reg) (i : BitVec 8) (s : State) : Out :=
  alu1 (.slti k d a i) k d a s (fun a => flagWord (ltS a (sx i)))
def execSltiu (k : Tk) (d a : Reg) (i : BitVec 8) (s : State) : Out :=
  alu1 (.sltiu k d a i) k d a s (fun a => flagWord (ltU a (sx i)))

/-- `lim xd, imm`: x[d] := sext(imm16) (R68). -/
def execLim (k : Tk) (d : Reg) (i : BitVec 16) (s : State) : Out := regWord (.lim k d i) k d s (fun _ => sx i)

/-- `lis xd, imm`: x[d] := (x[d] << 16) | imm16 (R68). -/
def execLis (k : Tk) (d : Reg) (i : BitVec 16) (s : State) : Out :=
  regWord (.lis k d i) k d s (fun t => (t.rd d <<< 16) ||| i.setWidth 64)

end Sys2Proof.Machine
end

