-- ==== Sys2Proof/Machine/Amo.lean ====
section
/-!
DEFINITION. Atomic memory operations (R248): performed at the line's home, atomically against every other access.
-/
namespace Sys2Proof.Machine

/-- The new value of an atomic operation of `w` bytes, by the op codes of R46. -/
def amoNew (op w old v cmp : Nat) : Nat :=
  let lt := sInt (8 * w) old < sInt (8 * w) v
  match op with
  | 0 => (old + v) % 2 ^ (8 * w)
  | 1 => old &&& v
  | 2 => old ||| v
  | 3 => old ^^^ v
  | 4 => if lt then old else v
  | 5 => if lt then v else old
  | 6 => min old v
  | 7 => max old v
  | 8 => v
  | 9 => if old = cmp then v else old
  | _ => if w = 4 then add32 old v else fmt64.addF old v

/-- Whether the operation writes: `amocas` writes only on a match. -/
def amoWrites (op old cmp : Nat) : Bool := op ≠ 9 || old = cmp

/-- The old value as the register receives it (R248). -/
def amoOld (w old : Nat) : Word := extend old w (w = 4)

/-- The operation performed at the home of a place of this package, for a context of a core (R248): on SW and PV pages the
core's own dirty words of the line are written back first; a PV page's is performed in its owner's L1; on an HC page it
is a load and a store at one timestamp (R247). Answers the old value and its poison. -/
def amoAt (s : State) (c x op pa w v cmp : Nat) (cls : BitVec 2) (ms : Bool) : State × Nat × Bool :=
  let ln := pa / 128
  let s := if (cls = 1 ∨ cls = 2) ∧ ms = false then s.writeBackLine c ln else s
  if cls = 2 ∧ ms = false then
    let (s, old, poi) := s.loadNow c x pa w cls ms
    (if amoWrites op old cmp ∧ poi = false then 
      (if (s.core c).direct then s.directStore c pa w (amoNew op w old v cmp) else s.l1Store c x pa w (amoNew op w old v cmp) cls) else s, old, poi)
  else
    let old := s.homeRead pa w
    let poi := (s.linePoison ln &&& wordMask pa w) ≠ 0
    if poi then (s, old, true)
    else if cls = 0 then
      let s := s.updCtx c x (fun t => { t with pts := maxW t.pts (s.hcLine ln).wts })
      if amoWrites op old cmp then (s.homeStore c x pa w (amoNew op w old v cmp) cls ms false, old, false)
      else ((s.hcFetch ln (s.ctx c x).pts).1, old, false)
    else
      let s := if amoWrites op old cmp then s.homeWrite pa w (amoNew op w old v cmp) else s
      let s := match (s.core c).line ln with
        | none => s
        | some l => if ms then s
          else s.updCore c (fun k => k.setLine ln (some { l with
            data := mergeWords l.data (s.homeLine ln) (wordMask pa w), valid := l.valid ||| wordMask pa w }))
      (s, old, false)

/-- The body of an atomic operation (R248, R277, R281, R286): traps as a store; a task that declares sets performs it in
its pen inside a set, and needs the irrevocability token outside. One that is performed behind the host port waits for its answer (R416). -/
def amoBody (op : Nat) (d a b : Reg) (z : BitVec 1) (c x : Nat) (s : State) : Res :=
  let t := s.ctx c x
  let k := s.core c
  let w := if z = 0 then 4 else 8
  let ea := t.rd a
  let v := (t.rd b).toNat % 2 ^ (8 * w)
  let cmp := (t.rd d).toNat % 2 ^ (8 * w)
  if aligned ea w = false then .trap Cause.misal ea
  else
    match s.translate c ea .write (t.pl = 0) with
    | .bad cz => .trap cz ea
    | .ok (.remote pkg off) =>
      if s.lotStep c ea 3 true = .prot then .trap Cause.prot ea
      else if k.penned then .hold .token286 t.gc else sendIt s c x (.remoteAmo d.toNat op ea w (wnat v) (wnat cmp) (.remote pkg off))
    | .ok (.phys pa cls ms) =>
      match s.lotStep c ea cls ms with
      | .prot => .trap Cause.prot ea
      | .lot j => .hold (.lot ea j false) t.gc
      | .token => .hold .token286 t.gc
      | .go =>
        if k.penned then
          let inSet := match k.task with
            | some tk => (tk.setOf ea).isSome
            | none => false
          if inSet = false ∨ k.penFull (pa / 128) then .hold .token286 t.gc
          else
            let (s, old, poi) := s.loadNow c x pa w cls ms
            if poi then .trap Cause.ecc ea
            else
              match (if amoWrites op old cmp then s.penStore c x ea pa w (amoNew op w old v cmp) cls else some s) with
              | some s => .done (s.updCtx c x (fun t => t.wr d (amoOld w old)))
              | none => .trap Cause.ecc ea
        else if 2 ^ 47 ≤ pa ∧ (cls ≠ 2 ∨ ms) then sendIt s c x (.remoteAmo d.toNat op ea w (wnat v) (wnat cmp) (.phys pa cls ms))
        else
          let s := if cls = 2 ∧ ms = false then s
            else s.sendWait c x (.remoteAmo d.toNat op ea w (wnat v) (wnat cmp) (.phys pa cls ms))
          let (s, old, poi) := amoAt (s.drainStores c x) c x op pa w v cmp cls ms
          if poi then .trap Cause.ecc ea else .done (s.updCtx c x (fun t => t.wr d (amoOld w old)))

def amoWord (i : Instr) (op : Nat) (k : Tk) (d a b : Reg) (z : BitVec 1) (s : State) : Out :=
  control i k s (amoBody op d a b z)

def execAmoadd (k : Tk) (d a b : Reg) (z : BitVec 1) (s : State) : Out := amoWord (.amoadd k d a b z) 0 k d a b z s
def execAmoand (k : Tk) (d a b : Reg) (z : BitVec 1) (s : State) : Out := amoWord (.amoand k d a b z) 1 k d a b z s
def execAmoor (k : Tk) (d a b : Reg) (z : BitVec 1) (s : State) : Out := amoWord (.amoor k d a b z) 2 k d a b z s
def execAmoxor (k : Tk) (d a b : Reg) (z : BitVec 1) (s : State) : Out := amoWord (.amoxor k d a b z) 3 k d a b z s
def execAmomin (k : Tk) (d a b : Reg) (z : BitVec 1) (s : State) : Out := amoWord (.amomin k d a b z) 4 k d a b z s
def execAmomax (k : Tk) (d a b : Reg) (z : BitVec 1) (s : State) : Out := amoWord (.amomax k d a b z) 5 k d a b z s
def execAmominu (k : Tk) (d a b : Reg) (z : BitVec 1) (s : State) : Out := amoWord (.amominu k d a b z) 6 k d a b z s
def execAmomaxu (k : Tk) (d a b : Reg) (z : BitVec 1) (s : State) : Out := amoWord (.amomaxu k d a b z) 7 k d a b z s
def execAmoswap (k : Tk) (d a b : Reg) (z : BitVec 1) (s : State) : Out := amoWord (.amoswap k d a b z) 8 k d a b z s
def execAmocas (k : Tk) (d a b : Reg) (z : BitVec 1) (s : State) : Out := amoWord (.amocas k d a b z) 9 k d a b z s
def execAmofadd (k : Tk) (d a b : Reg) (z : BitVec 1) (s : State) : Out := amoWord (.amofadd k d a b z) 10 k d a b z s

end Sys2Proof.Machine
end

