-- ==== Sys2Proof/Machine/Link.lean ====
section
/-!
DEFINITION. The sending side of a Ganor link (R384 to R386): sequence numbers, credit, the replay buffer, idle units and slot returns.
-/
namespace Sys2Proof.Machine

def State.link (s : State) (port : Nat) : Link := Map.get {} s.links port
def State.setLink (s : State) (port : Nat) (l : Link) : State := { s with links := Map.set {} s.links port l }
def State.linkReady (s : State) (port : Nat) : Bool := s.rdy0.getLsbD (18 + port)

/-- Places in use at the far end of a link for a channel, and the places of its buffer (R385). -/
def Link.inUse (l : Link) (vc : Nat) : Nat := (Map.get 0 l.sent vc - Map.get 0 l.lastRet vc).toNat
def linkBuf (vc : Nat) : Nat := if vc = 3 then 32 else 256

/-- The sideband of a unit that is sent now (R384), with a data flit or idle, with the last SEQ received in order and the freed count of the channel
whose turn it is (R385). -/
def Link.sideband (l : Link) (f : Option Flit) : Word :=
  let own := match f with
    | some f => f.seq.toNat * 2 ^ 52 + f.vc % 4 * 2 ^ 38 + f.sop.toNat * 2 ^ 37
    | none => 2 ^ 36
  let side := wnat (own + (l.expect - 1).toNat * 2 ^ 40 + 2 ^ 35 + l.rot.toNat * 2 ^ 33 + (Map.get 0 l.freed l.rot.toNat).toNat * 2 ^ 17)
  side ||| (Config.unitCrc l.units.length side).setWidth 64

/-- A unit is sent in clock `cc`, with a data flit or idle; slot returns rotate over the channels (R385). -/
def Link.sendUnit (l : Link) (cc : Nat) (f : Option Flit) : Link :=
  { l with units := l.units ++ [(l.sideband f, (f.map Flit.data).getD [])], rot := l.rot + 1, lastAt := cc }

/-- The flits of a packet's words: the header, then 64 bytes each (R298), with their sequence numbers from `seq` on. -/
def flitList (seq : BitVec 12) (vc : Nat) (ws : List Word) : List Flit :=
  (List.range ((ws.length + 7) / 8)).map (fun i => { seq := seq + BitVec.ofNat 12 i, vc := vc, sop := i = 0, data := (ws.drop (8 * i)).take 8 })

/-- A packet leaves on a channel of a link: each of its flits takes a sequence number and stays in the replay buffer until it
is acknowledged (R384 to R386). -/
def Link.sendWords (l : Link) (cc vc : Nat) (ws : List Word) : Link :=
  let fs := flitList l.sendSeq vc ws
  fs.foldl (fun (l : Link) f => l.sendUnit cc (some f)) { l with
    sendSeq := l.sendSeq + BitVec.ofNat 12 fs.length
    sent := Map.upd 0 l.sent vc (· + BitVec.ofNat 16 fs.length)
    replay := l.replay ++ fs }

/-- Flits of the replay buffer are sent once more, in their order (R386). -/
def Link.sendAgain (l : Link) (cc : Nat) (fs : List Flit) : Link :=
  fs.foldl (fun (l : Link) f => l.sendUnit cc (some f)) { l with resend := fs }

/-- The link of a port has credit and replay room for a packet of `n` flits. -/
def State.portCredit (s : State) (port vc n : Nat) : Bool :=
  let l := s.link port
  s.linkReady port && l.inUse vc + n ≤ linkBuf vc && l.replay.length + n ≤ 1024

/-- Places of a link's input buffer are free again (R385). -/
def State.freePlaces (s : State) (port vc n : Nat) : State :=
  s.setLink port { s.link port with freed := Map.upd 0 (s.link port).freed vc (· + BitVec.ofNat 16 n) }

/-- Every ready link that has sent nothing for 64 cc sends an idle unit, so that each channel's return is sent every 256 cc (R385). -/
def State.idleLinks (s : State) : State :=
  (List.range 18).foldl (fun (s : State) p =>
    if s.linkReady p ∧ (s.link p).lastAt + 64 ≤ s.cc then s.setLink p ((s.link p).sendUnit s.cc none) else s) s

/-- A packet leaves the package on a Ganor port: entry 64 + port of the outbox. -/
def State.sendPort (s : State) (port : Nat) (ws : List Word) : State := { s with outbox := s.outbox ++ [(64 + port, ws)] }

end Sys2Proof.Machine
end

