-- ==== Sys2Proof/Machine/Switch.lean ====
section
/-!
DEFINITION. Multicast and in-switch combining (R387 to R393), and where their packets land (R389, R400). Stops are numbered
as in R298; a branch is a bit of EGRESS: 0 to 7 a shed, 8 to 25 a Ganor port.
-/
namespace Sys2Proof.Machine

/-! ### The group table (R387) -/

structure Group where
  d0 : Word
  d1 : Word

def State.group (s : State) (g : Nat) : Group :=
  ⟨Map.get 0 s.groups (2 * (g % 4096)), Map.get 0 s.groups (2 * (g % 4096) + 1)⟩
def Group.cmb (e : Group) : Bool := e.d0.getLsbD 62
def Group.vf (e : Group) : Nat := wbits e.d0 52 6
def Group.parent (e : Group) : Nat := wbits e.d0 46 6
def Group.egress (e : Group) : BitVec 26 := e.d0.setWidth 26
def Group.cores (e : Group) : Nat := wbits e.d1 32 32
def Group.inmask (e : Group) : Nat := wbits e.d1 0 26

/-- The entry of a group is valid and its TAG agrees. -/
def Group.ok (e : Group) (g : Nat) : Bool := e.d0.getLsbD 63 && wbits e.d0 58 4 = g / 4096

/-- Valid entries with CMB = 1 (R387: at most 64). -/
def State.cmbEntries (s : State) : Nat :=
  ((List.range 4096).filter (fun g => (Map.get 0 s.groups (2 * g)).getLsbD 63 && (Map.get 0 s.groups (2 * g)).getLsbD 62)).length

/-- A stop in EGRESS code, and back. -/
def stopCode (stop : Nat) : Nat := if stop < 8 then stop else if 18 ≤ stop ∧ stop < 36 then stop - 10 else 63
def codeStop (code : Nat) : Nat := if code < 8 then code else code + 10

/-- Bit n of a mask cleared. -/
def clearBit {w : Nat} (m : BitVec w) (n : Nat) : BitVec w := m &&& ~~~ (BitVec.ofNat w (2 ^ n))

/-! ### Packets of the switch (R388) -/

/-- The channel of a packet of the switch (R299). -/
def McPkt.vc (p : McPkt) : Nat := if p.res.isSome then 2 else 0

/-- A packet of the same input and channel that still has branches to send stands before a packet; a formed packet stands in its place, behind none. -/
def McPkt.behind (p : McPkt) (before : List McPkt) : Bool :=
  ! p.formed && before.any (fun q => ! q.formed && q.inp = p.inp && q.mask ≠ 0 && q.vc = p.vc)

/-- The packets that have become the heads of their inputs have done so in clock `cc` (R304). -/
def promoteMcs (cc : Nat) (before l : List McPkt) : List McPkt :=
  match l with
  | [] => []
  | p :: r =>
    let p := if p.headAt.isNone && ! p.behind before then { p with headAt := some cc } else p
    p :: promoteMcs cc (before ++ [p]) r

/-- Packets with no branch left free the places of a port's input buffer (R388); those with nothing left to send or to place leave the switch. -/
def State.sweepMcs (s : State) : State :=
  let s := s.mcs.foldl (fun (s : State) p => if p.mask = 0 ∧ 0 < p.places then s.freePlaces (p.inp - 18) p.vc p.places else s) s
  let l := (s.mcs.filter (fun p => p.mask ≠ 0 || p.deliver ≠ [])).map (fun p => if p.mask = 0 then { p with places := 0 } else p)
  { s with mcs := promoteMcs s.cc [] l }

/-- A packet enters the switch from a stop, none at the root: its mask is EGRESS less the stop that it came from. -/
def State.inject (s : State) (e : Group) (stop : Option Nat) (p : McPkt) : State :=
  let m := match stop with
    | some k => clearBit e.egress (stopCode k)
    | none => e.egress
  { s with mcs := s.mcs ++ [{ p with mask := m, since := s.cc, inp := stop.getD 63 }] }.sweepMcs

/-- A packet that the switch discards and counts (R388, R390): its input's places are free. -/
def State.mcDiscard (s : State) (stop vc places : Nat) : State :=
  let s := { s with discards := s.discards + 1 }
  if places = 0 then s else s.freePlaces (stop - 18) vc places

/-- A multicast packet that arrives from a stop: forwarded, or discarded and counted at the switch. -/
def State.arriveMc (s : State) (stop : Nat) (p : McPkt) : State :=
  let e := s.group p.group
  if e.ok p.group ∧ e.vf = p.vf then s.inject e (some stop) p else s.mcDiscard stop p.vc p.places

/-! ### Combining (R390 to R392) -/

/-- The index of an instance's place. -/
def placeKey (group num : Nat) : Nat := 16 * (group % 4096) + num % 16
def State.place (s : State) (group num : Nat) : Option CombPlace := Map.get none s.places (placeKey group num)
def State.setPlace (s : State) (group num : Nat) (p : Option CombPlace) : State :=
  { s with places := Map.set none s.places (placeKey group num) p }

/-- Slack after a wait (R303). -/
def waited (slack cc : Nat) : Nat := slack - cc / 16

/-- Two contributions folded (R165, R166, R391). One that disagrees with the lowest input in OP or length is left out. -/
def Contrib.fold (a b : Contrib) : Contrib :=
  let slack := min a.slack b.slack
  let e := a.e || b.e
  if a.op ≠ b.op ∨ a.elems.length ≠ b.elems.length then { a with mis := true, slack := slack, e := e }
  else
    let xs := a.elems.map BitVec.toNat
    let ys := b.elems.map BitVec.toNat
    let (r, nan) := if a.op = 3 then tripleFold xs ys else (List.zipWith (combOp a.op) xs ys, false)
    { op := a.op, elems := r.map (BitVec.ofNat 32), nanm := a.nanm || b.nanm || nan, mis := a.mis || b.mis, slack := slack, e := e }

/-- A contribution after a wait of `n` cc, and whether that wait has set E (R303). -/
def Contrib.after (v : Contrib) (n : Nat) : Contrib × Bool :=
  let spent : Bool := v.slack ≤ n / 16 && 16 ≤ n && ! v.e
  ({ v with slack := waited v.slack n, e := v.e || spent }, spent)

/-- The contributions of a place in ascending stop order, each with its wait: it is folded when it and every lower input have arrived, `t` the latest of
the lower ones (R391). Answers with each its stop and whether its wait has set E. -/
def foldWaits (t : Nat) (l : List (Nat × Option (Contrib × Nat))) : List (Nat × Contrib × Bool) :=
  match l with
  | [] => []
  | (stop, some (v, at_)) :: r => (stop, Contrib.after v (max t at_ - at_)) :: foldWaits (max t at_) r
  | (_, none) :: r => foldWaits t r

/-- The fold of a complete place in ascending stop order. -/
def CombPlace.result (p : CombPlace) : Option Contrib :=
  match (foldWaits 0 p.recv).map (fun x => x.2.1) with
  | [] => none
  | a :: r => some (r.foldl Contrib.fold a)

/-- A packet of the combine channel has set E at the switch's input of a stop (R303). -/
def State.countSpent (s : State) (stop : Nat) : State := s.updPoint stop (fun q => { q with exh := Map.upd 0 q.exh 2 (· + 1) })

/-- Header dwords of a packet of the switch (R298, R383) with `payload` bytes: type, channel, slack and E, FLOOR and CLASS from
`top`, dword 1, ARG0 and the LINK field. -/
def pktHeader (ty vc slack : Nat) (e : Bool) (payload : Nat) (top head arg0 link : Word) : List Word :=
  [wnat (ty + vc * 2 ^ 4 + (if e then 2 ^ 6 else 0) + slack * 2 ^ 8 + payload * 2 ^ 36) ||| (top &&& 0xffff00000), head, 0, 0, 0,
    arg0, 0, link]

/-- The number of a paddock block, PDK of its PCTL. -/
def Paddock.number (p : Paddock) : Nat := wbits p.pctl 40 6

/-- Dword 1 of a packet that an XCE sends for a context (R298): its source, paddock and function. -/
def State.srcHead (s : State) (stop core ctx vf : Nat) : Word :=
  wnat (s.pkg.toNat + stop % 64 * 2 ^ 6 + core % 32 * 2 ^ 12 + ctx % 4 * 2 ^ 17 + 4 * 2 ^ 19 +
    (s.pdk (s.coreBlk core)).number * 2 ^ 35 + vf % 64 * 2 ^ 41)

/-- The elements of a contribution in doublewords, those of a triple without m and s. -/
def elemWords (v : Contrib) : List Word :=
  let es := (if v.op = 3 then v.elems.drop 2 else v.elems).map BitVec.toNat
  (List.range ((es.length + 1) / 2)).map (fun i => wnat (es.getD (2 * i) 0 + es.getD (2 * i + 1) 0 * 2 ^ 32))

/-- Bytes of the elements in a packet's payload, those of a triple without m and s (R400). -/
def elemBytes (v : Contrib) : Nat := 4 * (if v.op = 3 then v.elems.length - 2 else v.elems.length)

/-- m and s of a triple in ARG0 (R400). -/
def tripleArg (v : Contrib) : Word :=
  if v.op = 3 then (v.elems.getD 0 0).setWidth 64 + ((v.elems.getD 1 0).setWidth 64 <<< 32) else 0

def combLink (group num hops : Nat) (v : Contrib) (res abn : Bool) : Word :=
  wnat (v.op * 2 ^ 44 + (if v.mis then 2 ^ 41 else 0) + (if v.nanm then 2 ^ 40 else 0) + (if abn then 2 ^ 39 else 0) +
    (if res then 2 ^ 38 else 0) + hops % 8 * 2 ^ 32 + num * 2 ^ 16 + group)

/-- A result that its place has formed: to PARENT as this switch's contribution, or, at the root, as a result packet, which
arrived from no stop (R388, R392). The place frees when it has left the switch, at once where it goes nowhere. -/
def State.sendResult (s : State) (group num : Nat) (v : Contrib) (abn : Bool) : State :=
  let e := s.group group
  let up : Bool := e.parent ≠ 63 && ! abn
  let mask : BitVec 26 := if up then (if 18 ≤ e.parent ∧ e.parent < 36 then BitVec.ofNat 26 (2 ^ stopCode e.parent) else 0)
    else e.egress
  let p : McPkt :=
    { inp := 63, group := group, num := num, ring := 0, vf := e.vf, lines := [], slack := v.slack, mask := mask, since := s.cc
      res := some v, abn := abn, e := v.e, head := wnat (s.pkg.toNat + e.vf * 2 ^ 41), formed := true, up := up, headAt := some s.cc }
  if mask = 0 then s.setPlace group num none else { s with mcs := s.mcs ++ [p] }

/-- A contribution or a result reaches the switch at a stop (R390, R392), of function `vf`, with dword 1 and HOPS of its packet and the places that it
occupies: nothing when it must wait at its input. A result is forwarded that PARENT has sent; any other packet that fails R388 or R390 is discarded and
counted. -/
def State.contribute (s : State) (stop group num vf : Nat) (v : Contrib) (res abn : Bool) (head : Word := 0) (hops : Nat := 0) (places : Nat := 0) :
    Option State :=
  let e := s.group group
  let free (s : State) : State := if places = 0 then s else s.freePlaces (stop - 18) 2 places
  let drop : State := s.mcDiscard stop 2 places
  if e.ok group = false ∨ e.cmb = false ∨ e.vf ≠ vf then some drop
  else if res then
    if stop ≠ e.parent then some drop
    else some (s.inject e (some stop)
      { inp := stop, group := group, num := num, ring := 0, vf := e.vf, lines := [], slack := v.slack, e := v.e, mask := 0, since := s.cc
        res := some v, abn := abn, head := head, hops := hops, places := places })
  else if s.abandoned.contains (group, num, stop) then
    some (free { s with abandoned := s.abandoned.filter (· ≠ (group, num, stop)) })
  else if e.inmask.testBit (stopCode stop) = false then some drop
  else
    let go (p : CombPlace) : Option State :=
      let s := free s
      let p := { p with recv := Map.set none p.recv stop (some (v, s.cc)) }
      let full := (List.range 26).all (fun b => ! e.inmask.testBit b || (Map.get none p.recv (codeStop b)).isSome)
      if full then
        let s := (foldWaits 0 p.recv).foldl (fun (s : State) x => if x.2.2 then s.countSpent x.1 else s) s
        match p.result with
        | some r => some ((s.setPlace group num (some { p with done := true })).sendResult group num r false)
        | none => some s
      else some (s.setPlace group num (some p))
    match s.place group num with
    | none => go { num := num }
    | some p =>
      if p.num ≠ num then none
      else if (Map.get none p.recv stop).isSome then some drop
      else go p

/-- `COMBINE_CONTRIBUTION` (R390 to R392): a contribution, or a result with RES, arrives from another package. -/
def execCombineContribution (stop group num : Nat) (v : CombIn) (s : State) : Out :=
  match s.contribute (stop % 36) (group % 65536) (num % 65536) (wbits v.head 41 6) v.val v.res v.abn v.head with
  | some s' => .next s'
  | none => .next s

/-- Every incomplete place of a function's groups is abandoned (R393): its result carries ABN. -/
def State.abandon (s : State) (vf : Nat) : State :=
  (List.range 4096).foldl (fun s g =>
    let d0 := Map.get 0 s.groups (2 * g)
    let group := wbits d0 58 4 * 4096 + g
    let e := s.group group
    if d0.getLsbD 63 ∧ e.cmb ∧ e.vf = vf then
      (List.range 16).foldl (fun s i =>
        match Map.get none s.places (16 * g + i) with
        | none => s
        | some p =>
          if p.done then s else
          let late := (List.range 26).filterMap (fun b =>
            if e.inmask.testBit b ∧ (Map.get none p.recv (codeStop b)).isNone then some (group, p.num, codeStop b) else none)
          let s := { s.setPlace group p.num none with abandoned := s.abandoned ++ late }
          s.sendResult group p.num ⟨0, [], false, false, 0, false⟩ true) s
    else s) s

/-! ### Forwarding (R388) -/

/-- Payload bytes of a packet of the switch. -/
def McPkt.bytes (p : McPkt) : Nat := match p.res with
  | some v => elemBytes v
  | none => 128 * p.lines.length

/-- Flits of a packet (R298). -/
def McPkt.flits (p : McPkt) : Nat := 1 + (p.bytes + 63) / 64

/-- The words of a copy that leaves on a port, with the branch's slack and E. -/
def McPkt.words (p : McPkt) (slack : Nat) (e : Bool) : List Word :=
  match p.res with
  | some v => pktHeader 12 2 slack e (elemBytes v) p.top p.head (tripleArg v)
      (combLink p.group p.num (p.hops + 1) v (! p.up) p.abn) ++ elemWords v
  | none => pktHeader 1 0 slack e p.bytes p.top p.head (wnat p.ring) (wnat (2 ^ 37 + (p.hops + 1) % 8 * 2 ^ 32 + p.group)) ++
      p.lines.flatMap (fun l => (List.range 16).map (fun j => wnat (bits l.toNat (64 * j) 64)))

/-- The cores of a shed that a copy on its branch reaches: those of CORES, or for a result those that have it pending. -/
def State.branchCores (s : State) (p : McPkt) (shed : Nat) : List Nat :=
  (List.range 4).filterMap (fun i =>
    let c := 4 * shed + i
    let want := if p.res.isSome then s.cmbs.any (fun q => q.core = c && q.group = p.group && q.num = p.num)
      else (s.group p.group).cores.testBit c
    if want then some c else none)

/-- The source of a packet of the switch: SPKG, SCORE and SCTX of dword 1 (R267, R298). -/
def McPkt.source (p : McPkt) : Nat × Nat × Nat := (wbits p.head 0 6, wbits p.head 12 5, wbits p.head 17 2)

/-- A packet cannot be sent on a branch yet: it is behind another of its input (R388), or an earlier multicast of its source to its group has that branch
still to send (R267). -/
def State.mcBehind (s : State) (n branch : Nat) : Bool :=
  match s.mcs[n]? with
  | some p => p.behind (s.mcs.take n) || (p.res.isNone && (s.mcs.take n).any (fun q =>
      q.res.isNone && q.group = p.group && q.source = p.source && q.mask.getLsbD branch))
  | none => true

/-- The arbitration key of a packet of the switch for a branch (R304), with the slack that its branch has left (R388). -/
def McPkt.key (p : McPkt) (cc : Nat) : Nat := (waited p.slack (cc - p.since) * 2 ^ 64 + p.headAt.getD p.since) * 2 ^ 8 + p.inp

/-- The packets of the switch that ask for a branch on a channel now: their positions. -/
def State.askers (s : State) (branch vc : Nat) : List Nat :=
  (List.range s.mcs.length).filter (fun n => match s.mcs[n]? with
    | some p => p.vc = vc && p.mask.getLsbD branch && ! s.mcBehind n branch
    | none => false)

/-- A key is the smallest among the packets of the switch that ask for a branch on a channel. -/
def State.firstAsker (s : State) (branch vc key : Nat) : Bool :=
  (s.askers branch vc).all (fun n => match s.mcs[n]? with
    | some q => key ≤ q.key s.cc
    | none => true)

/-- The n-th packet of the switch wins a branch (R304): no other packet of the switch with a smaller key asks for it on its channel, and no packet of the
port's queue goes before it. -/
def State.mcGrant (s : State) (n branch : Nat) (p : McPkt) : Bool :=
  ! s.mcBehind n branch && s.firstAsker branch p.vc (p.key s.cc) &&
    (branch < 8 || (let t := s.point (202 + branch)
      match (t.grant (fun q => q.vc = p.vc && q.acc.isNone && q.since ≤ s.cc)).bind (fun i => t.pkts[i]?) with
      | some q => p.key s.cc < q.key
      | none => true))

/-- A branch of a packet is done; the place of a result that has left the switch wholly is free (R392, R393). -/
def State.mcSent (s : State) (n branch : Nat) (p : McPkt) : State :=
  let m := clearBit p.mask branch
  let mine : Bool := match s.place p.group p.num with
    | some q => q.num = p.num && q.done
    | none => false
  let s := if p.formed ∧ m = 0 ∧ mine then s.setPlace p.group p.num none else s
  { s with mcs := s.mcs.set n { p with mask := m } }

/-- `MULTICAST_FORWARD` (R388): a copy of the n-th packet is sent on one branch. Its slack and E are the packet's less the
branch's own wait (R303). -/
def execMulticastForward (n branch : Nat) (s : State) : Out :=
  match s.mcs[n]? with
  | none => .next s
  | some p =>
    if 26 ≤ branch ∨ p.mask.getLsbD branch = false ∨ s.mcGrant n branch p = false then .next s
    else
      let slack := waited p.slack (s.cc - p.since)
      let spent : Bool := p.slack ≤ (s.cc - p.since) / 16 && 16 ≤ s.cc - p.since
      let e := p.e || spent
      let cnt (s : State) : State :=
        if spent && ! p.e then s.updPoint p.inp (fun q => { q with exh := Map.upd 0 q.exh p.vc (· + 1) }) else s
      if branch < 8 then
        .next (cnt (s.mcSent n branch { p with deliver := p.deliver ++ (s.branchCores p branch).map (fun c => (c, s.cc)) })).sweepMcs
      else
        let port := branch - 8
        if s.portCredit port p.vc p.flits = false then .next s
        else
          let ws := p.words slack e
          .next (cnt (((s.setLink port ((s.link port).sendWords s.cc p.vc ws)).sendPort port ws).mcSent n branch p)).sweepMcs

/-! ### Deliveries (R389) -/

/-- A filled slot placed at the ring's TAIL, with its lines (R389, R405). -/
def State.placeSlot (s : State) (c q : Nat) (ls : List Line) : State :=
  let r := (s.core c).ring q
  let s := s.spadWrites c ((List.zip (List.range ls.length) ls).flatMap (fun p =>
    putBytes ((r.slotAddr r.tail).toNat + 128 * p.1) 128 p.2.toNat))
  s.updCore c (fun k => k.setRing q { r with tail := (r.tail + 1) % r.slots, filled := r.filled + 1 })

/-- Room for `n` delivered slots in a ring: none claimed, and so many free. -/
def Ring.takes (r : Ring) (n : Nat) : Bool := r.claimed = 0 && r.filled + r.held + n ≤ r.slots

/-- A core has a delivery of packet `n` that no earlier packet of the group precedes. -/
def State.deliverNow (s : State) (core n : Nat) : Option (McPkt × Nat) :=
  match s.mcs[n]? with
  | none => none
  | some p =>
    match p.deliver.find? (fun d => d.1 = core) with
    | none => none
    | some d =>
      if (s.mcs.take n).any (fun q => q.group = p.group && q.deliver.any (fun d => d.1 = core)) then none else some (p, d.2)

/-- The delivery of packet `n` to a core is over. -/
def State.delivered (s : State) (core n : Nat) (p : McPkt) : State :=
  { s with mcs := s.mcs.set n { p with deliver := p.deliver.filter (fun d => d.1 ≠ core) } }.sweepMcs

def State.dropDelivery (s : State) (core n : Nat) (p : McPkt) : State :=
  { s with sheds := Map.upd {} s.sheds (core / 4) (fun h => { h with mcDrop := h.mcDrop + 1 }) }.delivered core n p

/-- The ring cannot take a packet at all: it is invalid, or its slot is too small (R389). -/
def ringRefuses (r : Ring) (p : McPkt) : Bool := ! r.v || r.lines < p.lines.length

/-- `MULTICAST_DELIVERY` (R389): one filled slot of the ring that the packet names, once the ring takes it. -/
def execMulticastDelivery (core n : Nat) (s : State) : Out :=
  match s.deliverNow core n with
  | none => .next s
  | some (p, _) =>
    let r := (s.core core).ring p.ring
    if p.res.isSome then .next s
    else if ringRefuses r p then .next (s.dropDelivery core n p)
    else if r.takes 1 then .next ((s.placeSlot core p.ring p.lines).delivered core n p)
    else .next s

/-- `MULTICAST_DROP_TIMEOUT` (R389): a delivery that cannot be placed, and has waited 4,096 cc, is dropped and counted. -/
def execMulticastDropTimeout (core n : Nat) (s : State) : Out :=
  match s.deliverNow core n with
  | none => .next s
  | some (p, t) => if p.res.isNone ∧ t + 4096 ≤ s.cc ∧ ((s.core core).ring p.ring).takes 1 = false then .next (s.dropDelivery core n p) else .next s

/-- The result of an `xcmb` written at its address, in the contribution's layout, and its slot filled (R400); a line that goes through to an uncorrectable
home fails (R244, R404). -/
def State.landResult (s : State) (q : CmbPend) (v : Contrib) (abn : Bool) : State :=
  let s := { s with cmbs := s.cmbs.filter (· ≠ q) }
  let live : Bool := match (s.core q.core).task with
    | some t => t.stamp = q.stamp
    | none => false
  if live = false then s
  else if abn then s.engineFill q.core q.slot (completion codeAbandoned 0)
  else
    let es := v.elems.map BitVec.toNat
    let put (a : Nat) (l : List Nat) : List SpadWrite := putBytes a (4 * l.length) (catLanes l)
    let ws := if v.op = 3 then put q.addr (es.take 2) ++ put (q.addr + 128) (es.drop 2) else put q.addr es
    let info := (if v.nanm then 1 else 0) + (if v.mis then 2 else 0)
    match ws.find? (s.meetsPoison q.core) with
    | some w => ((s.spadWrites q.core ws).engineFill q.core q.slot (completion codeFault (w.ln - q.addr / 128))).updCtx q.core q.ctx (fun t =>
        { t with bayPend := t.bayPend ++ [⟨Cause.ecc, wnat (128 * w.ln)⟩] })
    | none => (s.spadWrites q.core ws).engineFill q.core q.slot (completion (if v.mis then codeFault else codeDone) info)

/-- `COMBINE_RESULT_LAND` (R392, R400): a result packet reaches a core that has its instance pending. -/
def execCombineResultLand (core n : Nat) (s : State) : Out :=
  match s.deliverNow core n with
  | none => .next s
  | some (p, _) =>
    match p.res, s.cmbs.find? (fun q => q.core = core && q.group = p.group && q.num = p.num) with
    | some v, some q => .next ((s.landResult q v p.abn).delivered core n p)
    | some _, none => .next (s.delivered core n p)
    | none, _ => .next s

end Sys2Proof.Machine
end

