-- ==== Sys2Proof/Machine/Shared.lean ====
section
/-!
DEFINITION. The words of the shared engines at issue: exchange words (R397 to R402), sort/select and loft words (R331 to
R334), with their checks in the order of R310.
-/
namespace Sys2Proof.Machine

/-- What the options and length of a spad word break (R397: a length or an option outside the table is ILL), before the
range of R44 is checked; `bad` names what else is ILL there, and `badB` what is ILL in the word's other operand, which LEN = 0
leaves unchecked (R310). Every ILL of the word comes before its MISAL (R342). -/
def spadFirst (v : Word) (opts : Nat) (bad badB : Bool) (word : Word) : Option ChkRes :=
  match spadCheck v opts with
  | some (_, none) => some (.trap Cause.ill word)
  | r =>
    if bad || (spadLen v ≠ 0 && badB) then some (.trap Cause.ill word)
    else match r with
      | some (cz, some tv) => some (.trap cz tv)
      | _ => if spadLen v = 0 then some .noop else none

/-- A range of lines in the scratchpad at `addr`: aligned and inside (R44). -/
def rangeCheck (addr lines : Nat) (k : ChkRes) : ChkRes :=
  if addr % 128 ≠ 0 ∨ 2 ^ 25 < addr + 128 * lines then .trap Cause.misal (wnat addr) else k

/-- Two ranges of lines meet. -/
def overlap (a n b m : Nat) : Bool := a < b + 128 * m && b < a + 128 * n

/-- The set lots that an `xget` still needs, by address (R404, R277). -/
def State.lotsFor (s : State) (c : Nat) (g : Word) (n : Nat) : Option Word :=
  match (s.core c).task with
  | none => none
  | some t =>
    (List.range n).findSome? (fun i =>
      let va := g + wnat (128 * i)
      match t.setOf va with
      | none => none
      | some j =>
        let (lv, lg) := t.lotOf j va
        match s.lotKey c lv with
        | some key => if s.holdsLot c key lg then none else some va
        | none => none)

/-- An `xget` touches a set of a task after its eighth restart, which needs the token (R286). -/
def State.lateGet (s : State) (c : Nat) (g : Word) (n : Nat) : Bool :=
  match (s.core c).task with
  | some t => 8 ≤ t.restarts && ! t.irrev && (List.range n).any (fun i => (t.setOf (g + wnat (128 * i))).isSome)
  | none => false

/-! ### Exchange words -/

/-- `xput` (R398), a proxy request among them (R395). -/
def putChk (i : Instr) (a b : Reg) (c x : Nat) (s : State) : ChkRes :=
  let t := s.ctx c x
  let v := t.rd a
  let g := t.rd b
  let word := wordVal i
  if (spadOpt v).testBit 4 then
    let far := wbits g 16 6
    let core := wbits g 8 5
    let bad := spadAddr v ≠ 0 || 8 < spadLen v
    let badB := wbits g 4 4 ≠ 0 || wbits g 13 3 ≠ 0 || wbits g 22 42 ≠ 0 || (far = s.pkg.toNat && core / 4 = c / 4)
    match spadFirst v 31 bad badB word with
    | some r => r
    | none => .go none
  else
    match spadFirst v 0 (8192 < spadLen v) false word with
    | some r => r
    | none => match checkGlobal g (128 * spadLen v) with
      | some (cz, tv) => .trap cz tv
      | none => .go none

/-- The first address of an `xget`'s source that is one of a set, on a page that keeps none (R276). -/
def State.badSet (s : State) (c : Nat) (g : Word) (n : Nat) (atU : Bool) : Option Word :=
  match (s.core c).task with
  | none => none
  | some t => ((List.range n).map (fun i => g + wnat (128 * i))).find? (fun va =>
      (t.setOf va).isSome && (match s.translate c va .read atU with
        | .ok (.phys _ cls ms) => ms || 2 ≤ cls
        | .ok (.remote _ _) => true
        | .bad cz => cz = Cause.fwdx))

/-- `xget` (R398). -/
def getChk (i : Instr) (a b : Reg) (c x : Nat) (s : State) : ChkRes :=
  let t := s.ctx c x
  let v := t.rd a
  let g := t.rd b
  match spadFirst v 0 (8192 < spadLen v) false (wordVal i) with
  | some r => r
  | none => match checkGlobal g (128 * spadLen v) with
    | some (cz, tv) => .trap cz tv
    | none => match s.badSet c g (spadLen v) (t.pl = 0) with
      | some va => .trap Cause.prot va
      | none => if s.lateGet c g (spadLen v) then .wait .token286 t.gc
      else match s.lotsFor c g (spadLen v) with
      | some va => .wait (.lot va ((match (s.core c).task with
          | some t => t.setOf va
          | none => none).getD 0) false) t.gc
      | none => .go none

/-- `xmc` (R399). -/
def mcChk (i : Instr) (a b : Reg) (c x : Nat) (s : State) : ChkRes :=
  let t := s.ctx c x
  let v := t.rd a
  match spadFirst v 0 (8 < spadLen v) (wbits (t.rd b) 20 44 ≠ 0) (wordVal i) with
  | some r => r
  | none => .go none

/-- Operation, element count and lines of an `xcmb` (R400). -/
def cmbOp (v : Word) : Nat := spadOpt v % 4
def cmbN (v : Word) : Nat := bits (spadOpt v) 2 8 + 1
def cmbLines (v : Word) : Nat := (if cmbOp v = 3 then 1 else 0) + ceilDiv (cmbN v) 32
def cmbAddr (g : Word) : Nat := wbits g 32 25

/-- `xcmb` (R400). -/
def cmbChk (i : Instr) (a b : Reg) (c x : Nat) (s : State) : ChkRes :=
  let t := s.ctx c x
  let v := t.rd a
  let g := t.rd b
  match spadFirst v 0x3ff (spadLen v ≠ 0 && spadLen v < cmbLines v) (wbits g 57 7 ≠ 0 || wbits g 32 7 ≠ 0) (wordVal i) with
  | some r => r
  | none => rangeCheck (cmbAddr g) (spadLen v) (.go none)

/-- `xamo` (R401). -/
def xamoChk (i : Instr) (a b : Reg) (c x : Nat) (s : State) : ChkRes :=
  let t := s.ctx c x
  let v := t.rd a
  let g := t.rd b
  match spadFirst v 0x3f (1 < spadLen v || 10 < bits (spadOpt v) 0 5) false (wordVal i) with
  | some r => r
  | none => if aligned g (if (spadOpt v).testBit 5 then 8 else 4) = false then .trap Cause.misal g else .go none

/-- `xlnc` (R402). -/
def lncChk (i : Instr) (a b : Reg) (c x : Nat) (s : State) : ChkRes :=
  let t := s.ctx c x
  let v := t.rd a
  let g := t.rd b
  match spadFirst v 0 (1 < spadLen v) (wbits g 6 2 ≠ 0 || wbits g 14 2 ≠ 0 || wbits g 20 44 ≠ 0) (wordVal i) with
  | some r => r
  | none => .go none

def execXput (k : Tk) (f : BitVec 4) (r : BitVec 2) (p : BitVec 4) (a b : Reg) (s : State) : Out :=
  reqWord (.xput k f r p a b) k 0 f r p a b s (putChk (.xput k f r p a b) a b)
def execXget (k : Tk) (f : BitVec 4) (r : BitVec 2) (p : BitVec 4) (a b : Reg) (s : State) : Out :=
  reqWord (.xget k f r p a b) k 0 f r p a b s (getChk (.xget k f r p a b) a b)
def execXmc (k : Tk) (f : BitVec 4) (r : BitVec 2) (p : BitVec 4) (a b : Reg) (s : State) : Out :=
  reqWord (.xmc k f r p a b) k 0 f r p a b s (mcChk (.xmc k f r p a b) a b)
def execXcmb (k : Tk) (f : BitVec 4) (r : BitVec 2) (p : BitVec 4) (a b : Reg) (s : State) : Out :=
  reqWord (.xcmb k f r p a b) k 0 f r p a b s (cmbChk (.xcmb k f r p a b) a b)
def execXamo (k : Tk) (f : BitVec 4) (r : BitVec 2) (p : BitVec 4) (a b : Reg) (s : State) : Out :=
  reqWord (.xamo k f r p a b) k 0 f r p a b s (xamoChk (.xamo k f r p a b) a b)
def execXlnc (k : Tk) (f : BitVec 4) (r : BitVec 2) (p : BitVec 4) (a b : Reg) (s : State) : Out :=
  reqWord (.xlnc k f r p a b) k 0 f r p a b s (lncChk (.xlnc k f r p a b) a b)

/-! ### Sort and select -/

/-- `sfsort` (R332): a destination LEN of 0 stands for the source's. -/
def sortChk (i : Instr) (a b : Reg) (c x : Nat) (s : State) : ChkRes :=
  let t := s.ctx c x
  let v := t.rd a
  let g := t.rd b
  let n := spadLen v
  let d := spadAddr g
  let badB := wbits g 25 7 ≠ 0 || spadOpt g ≠ 0 || (spadLen g ≠ 0 && spadLen g ≠ n) || (overlap (spadAddr v) n d n && d ≠ spadAddr v)
  match spadFirst v 7 (4096 < n || bits (spadOpt v) 1 2 = 3) badB (wordVal i) with
  | some r => r
  | none => rangeCheck d n (.go none)

/-- `sftopk` (R333). -/
def topkChk (i : Instr) (a b : Reg) (c x : Nat) (s : State) : ChkRes :=
  let t := s.ctx c x
  let v := t.rd a
  let g := t.rd b
  let n := spadLen v
  let d := spadAddr g
  let k := bits (spadOpt g) 0 8 + 1
  let badB := wbits g 25 7 ≠ 0 || 256 ≤ spadOpt g || spadLen g < ceilDiv k 16 || overlap (spadAddr v) n d (spadLen g)
  match spadFirst v 7 (4096 < n || bits (spadOpt v) 1 2 = 3) badB (wordVal i) with
  | some r => r
  | none => rangeCheck d (spadLen g) (.go none)

def execSfsort (k : Tk) (f : BitVec 4) (r : BitVec 2) (p : BitVec 4) (a b : Reg) (s : State) : Out :=
  reqWord (.sfsort k f r p a b) k 1 f r p a b s (sortChk (.sfsort k f r p a b) a b)
def execSftopk (k : Tk) (f : BitVec 4) (r : BitVec 2) (p : BitVec 4) (a b : Reg) (s : State) : Out :=
  reqWord (.sftopk k f r p a b) k 1 f r p a b s (topkChk (.sftopk k f r p a b) a b)

/-! ### Loft words (R334) -/

/-- The leaf of an address has class PV or FWD (R249, R334). -/
def State.pvOrFwd (s : State) (c : Nat) (va : Word) : Bool :=
  match s.leafOf c (s.coreVf c) va.toNat with
  | some (pte, _) => 2 ≤ bits pte 2 2
  | none => false

/-- The global lines of a loft word, translated as a store: the home stack of the first, or the cause of the first that
fails. -/
def State.loftLines (s : State) (c : Nat) (atU : Bool) (g : Word) (n i : Nat) (home : Option Nat) : ChkRes :=
  match n with
  | 0 => .go home
  | m + 1 =>
    let va := g + wnat (128 * i)
    if va.getLsbD 47 ∨ s.pvOrFwd c va then .trap Cause.prot g
    else match s.translate c va .write atU with
      | .bad cz => .trap cz va
      | .ok (.remote _ _) => .trap Cause.prot g
      | .ok (.phys pa _ _) =>
        match home with
          | none => s.loftLines c atU g m (i + 1) (some (s.loftOf c pa))
          | some h => if h = s.loftOf c pa then s.loftLines c atU g m (i + 1) home else .trap Cause.misal va

/-- `lftop`: in a task whose launch declares sets, a forced refusal (R329); so is one whose first line lies behind the host port, where no loft is
(DESIGN CHOICE: R334 names no loft for it; log 138). -/
def loftChk (i : Instr) (a b : Reg) (hist : Bool) (c x : Nat) (s : State) : ChkRes :=
  let t := s.ctx c x
  let v := t.rd a
  let g := t.rd b
  let bad := 64 < spadLen v || (if hist then spadOpt v = 0 || 64 < spadOpt v else 2 < spadOpt v)
  let decl : Bool := match (s.core c).task with
    | some tk => tk.sets ≠ []
    | none => false
  match spadFirst v 0xffff bad false (wordVal i) with
  | some r => r
  | none =>
    let n := if hist then spadOpt v else spadLen v
    match checkGlobal g (128 * n) with
    | some (cz, tv) => .trap cz tv
    | none => match s.loftLines c (t.pl = 0) g n 0 none with
      | .go h => if decl then .forced else match h with
        | some n => if n < 8 then .go h else .forced
        | none => .forced
      | r => r

def execLftopRed (k : Tk) (f : BitVec 4) (r : BitVec 2) (p : BitVec 4) (a b : Reg) (s : State) : Out :=
  reqWord (.lftopRed k f r p a b) k 2 f r p a b s (loftChk (.lftopRed k f r p a b) a b false)
def execLftopHist (k : Tk) (f : BitVec 4) (r : BitVec 2) (p : BitVec 4) (a b : Reg) (s : State) : Out :=
  reqWord (.lftopHist k f r p a b) k 2 f r p a b s (loftChk (.lftopHist k f r p a b) a b true)

end Sys2Proof.Machine
end

