-- ==== Sys2Proof/Machine/Bays.lean ====
section
/-!
DEFINITION. What the bays of the shared engines do for their requests (R327 to R334, R395 to R404), and their completion
(R328).
-/
namespace Sys2Proof.Machine

/-- A failing line: its index, the cause and the address (R328, R404). -/
abbrev LineFail := Option (Nat × BitVec 5 × Word)

/-- How a bay's work ends: its CODE and INFO, the cause for the issuing context, and the completion timestamp (R247). -/
structure BayEnd where
  st   : State
  code : Nat := codeDone
  info : Nat := 0
  fail : Option (BitVec 5 × Word) := none
  ts   : Word := 0

/-- A bay's end with the first failing line, or DONE. -/
def endWith (s : State) (ts : Word) (f : LineFail) (info : Nat) : BayEnd :=
  match f with
  | some (n, cz) => { st := s, code := codeFault, info := n, fail := some cz, ts := ts }
  | none => { st := s, info := info, ts := ts }

/-! ### Scratchpad lines -/

/-- Lines read from the requester's scratchpad, its window lines filled first, up to the first that fails. -/
def State.bayRead (s : State) (c : Nat) (atU : Bool) (a n i : Nat) : State × List Line × LineFail :=
  match n with
  | 0 => (s, [], none)
  | m + 1 =>
    match s.fillLines c atU (spadLines a 128) with
    | .error t => (s, [], some (i, t))
    | .ok s =>
      let (l, bad) := (s.core c).copyLine a
      if bad then (s, [], some (i, Cause.ecc, wnat a))
      else
        let (s, r, f) := s.bayRead c atU (a + 128) m (i + 1)
        (s, l :: r, f)

/-- `n` bytes written to the requester's scratchpad, and the first line that goes through to an uncorrectable home and is not written (R244). -/
def State.bayWrite (s : State) (c a n v : Nat) : State × LineFail :=
  let ws := putBytes a n v
  (s.spadWrites c ws, (List.range ws.length).findSome? (fun i => match ws[i]? with
    | some w => if s.meetsPoison c w then some (i, Cause.ecc, wnat (128 * w.ln)) else none
    | none => none))

/-! ### Sorting (R331 to R333) -/

/-- The key order of a type: 0 u32, 1 i32, 2 f32 as in R220. -/
def recKey (ty r : Nat) : Int :=
  let k : Nat := r % 2 ^ 32
  if ty = 0 then (k : Int) else if ty = 1 then sInt 32 k else rankKey k

/-- A record placed after every record that does not come after it. -/
def insertRec (before : Nat → Nat → Bool) (r : Nat) (l : List Nat) : List Nat :=
  match l with
  | [] => [r]
  | x :: t => if before r x then r :: x :: t else x :: insertRec before r t

/-- The stable order of records, descending or ascending by key; equal keys keep their order. -/
def sortRecs (ty : Nat) (desc : Bool) (l : List Nat) : List Nat :=
  l.foldl (fun acc r => insertRec (fun a b => if desc then recKey ty b < recKey ty a else recKey ty a < recKey ty b) r acc) []

/-- The records of lines, and lines of records. -/
def recsOf (ls : List Line) : List Nat := ls.flatMap (fun l => (List.range 16).map (fun i => bits l.toNat (64 * i) 64))
def catRecs (l : List Nat) : Nat :=
  match l with
  | [] => 0
  | x :: r => x + 2 ^ 64 * catRecs r

def sortBay (s : State) (b : Req) : BayEnd :=
  let opt := spadOpt b.va
  let n := spadLen b.va
  let (s, ls, f) := s.bayRead b.core b.atU (spadAddr b.va) n 0
  if f.isSome then endWith s 0 f 0
  else
    let rs := sortRecs (bits opt 1 2) (opt.testBit 0) (recsOf ls)
    let (s, f) := s.bayWrite b.core (spadAddr b.vb) (128 * n) (catRecs rs)
    endWith s 0 f (16 * n)

def topkBay (s : State) (b : Req) : BayEnd :=
  let opt := spadOpt b.va
  let n := spadLen b.va
  let k := bits (spadOpt b.vb) 0 8 + 1
  let (s, ls, f) := s.bayRead b.core b.atU (spadAddr b.va) n 0
  if f.isSome then endWith s 0 f 0
  else
    let sel := (sortRecs (bits opt 1 2) (! opt.testBit 0) (recsOf ls)).take k
    let all := sel ++ List.replicate (k - sel.length) (0xffffffff * 2 ^ 32)
    match s.fillLines b.core b.atU (spadLines (spadAddr b.vb) (8 * k)) with
    | .error t => endWith s 0 (some (0, t)) 0
    | .ok s =>
      let (s, f) := s.bayWrite b.core (spadAddr b.vb) (8 * k) (catRecs all)
      endWith s 0 f sel.length

/-! ### Lofts (R334, R314) -/

/-- Lines folded one by one at their homes, in ascending order; their places are those of the issue. -/
def State.foldLines (s : State) (q : Req) (op : Nat) (ls : List Line) (i : Nat) (ts : Word) (f : LineFail) : State × Word × LineFail :=
  match ls with
  | [] => (s, ts, f)
  | l :: r =>
    match q.trs.getD i (.bad Cause.xlat) with
    | .ok (.phys pa cls _) =>
      let (s, t, ecc) := s.homePut q.core pa cls (some op) l false
      s.foldLines q op r (i + 1) (maxW ts t) (firstFail f i (if ecc then some (Cause.ecc, q.lineAt i) else none))
    | .ok (.remote _ _) => s.foldLines q op r (i + 1) ts (firstFail f i (some (Cause.prot, q.lineAt i)))
    | .bad cz => s.foldLines q op r (i + 1) ts (firstFail f i (some (cz, q.lineAt i)))

def redBay (s : State) (b : Req) : BayEnd :=
  let n := spadLen b.va
  let (s, ls, f) := s.bayRead b.core b.atU (spadAddr b.va) n 0
  let (s, ts, f) := s.foldLines b (spadOpt b.va % 16) ls 0 0 f
  endWith s ts f n

/-- A histogram: every bin gains the number of indexes that name it. -/
def histBay (s : State) (b : Req) : BayEnd :=
  let nbl := spadOpt b.va
  let (s, ls, f) := s.bayRead b.core b.atU (spadAddr b.va) (spadLen b.va) 0
  if f.isSome then endWith s 0 f 0
  else
    let us := ls.flatMap (fun l => (List.range 32).map (fun i => bits l.toNat (32 * i) 32))
    let add (j : Nat) : Line := BitVec.ofNat 1024 (catLanes ((List.range 32).map (fun i => (us.filter (· = 32 * j + i)).length)))
    let (s, ts, f) := s.foldLines b 0 ((List.range nbl).map add) 0 0 none
    endWith s ts f (us.filter (fun u => 32 * nbl ≤ u)).length

/-- `LOFT_LINE_OPERATION` (R314): a line that comes from outside is folded at its home as one access. Operations 0 to 2. -/
def execLoftLineOperation (line op : Nat) (data : Line) (s : State) : Out :=
  if 2 < op ∨ 2 ^ 40 ≤ line ∨ s.linePoison line ≠ 0 then .next s
  else
    let old := (s.homeLine line).toNat
    let new := catLanes ((List.range 32).map (fun i => combOp op (bits old (32 * i) 32) (bits data.toNat (32 * i) 32)))
    .next ((s.homeWords line (BitVec.ofNat 1024 new) 0xffffffff).hcAnon line).1

/-! ### Exchange transfers (R398, R401, R402) -/

/-- The request of a bay that carries line i. -/
def Bay.askOf (b : Bay) (i : Nat) : Option BayAsk := b.asks.find? (fun a => a.line ≤ i && i < a.line + a.len)

/-- What line i of a transfer has been answered: its part of its request's reply. -/
def Bay.lineRep (b : Bay) (i : Nat) : Reply :=
  match b.askOf i with
  | some { line := l, len := _, at_ := _, rep := some (.value d a ts) } => .value (d.drop (16 * (i - l))) a ts
  | some { line := _, len := _, at_ := _, rep := some r } => r
  | _ => .home

/-- The request that begins with a line goes to another package, and not to the host port. -/
def Bay.far (b : Bay) (line : Nat) : Bool := match b.req.trs.getD line (.bad 0) with
  | .ok (.phys _ _ _) => false
  | _ => true

/-- A request of a bay for another package is not answered. -/
def Bay.waits (b : Bay) : Bool := b.asks.any (fun a => a.rep.isNone && b.far a.line)

/-- A line of an `xput` at its home: its timestamp, and what failed. -/
def State.putOne (s : State) (q : Req) (i : Nat) (rep : Reply) : State × Word × Option (BitVec 5 × Word) :=
  let a := spadAddr q.va + 128 * i
  let (l, bad) := (s.core q.core).copyLine a
  if bad then (s, 0, some (Cause.ecc, wnat a))
  else match q.trs.getD i (.bad Cause.xlat) with
    | .bad cz => (s, 0, some (cz, q.lineAt i))
    | .ok (.phys pa cls _) =>
      if rep = .unreachable ∧ hostPlace pa cls then (s, 0, some (Cause.fwdx, q.lineAt i))
      else
        let (s, ts, ecc) := s.homePut q.core pa cls none l false
        (s, ts, if ecc then some (Cause.ecc, q.lineAt i) else none)
    | .ok (.remote _ _) => match rep with
      | .value _ _ ts => (s, ts, none)
      | r => (s, 0, some ((replyCause r).getD Cause.ecc, q.lineAt i))

/-- A line of an `xget`. -/
def State.getOne (s : State) (q : Req) (i : Nat) (rep : Reply) : State × Word × Option (BitVec 5 × Word) :=
  let put (s : State) (l : Line) : State × Word × Option (BitVec 5 × Word) :=
    let (s, f) := s.bayWrite q.core (spadAddr q.va + 128 * i) 128 l.toNat
    (s, 0, f.map (·.2))
  match q.trs.getD i (.bad Cause.xlat) with
  | .bad cz => (s, 0, some (cz, q.lineAt i))
  | .ok (.phys pa cls _) =>
    if rep = .unreachable ∧ hostPlace pa cls then (s, 0, some (Cause.fwdx, q.lineAt i))
    else if s.linePoison (pa / 128) = 0 then put s (s.homeLine (pa / 128)) else (s, 0, some (Cause.ecc, q.lineAt i))
  | .ok (.remote _ _) => match rep with
    | .value d _ _ => put s (lineOfWords d)
    | r => (s, 0, some ((replyCause r).getD Cause.ecc, q.lineAt i))

/-- Lines moved one by one, each as its own access (R398, R404). -/
def State.moveLines (s : State) (b : Bay) (put : Bool) (n i : Nat) (ts : Word) (f : LineFail) : State × Word × LineFail :=
  match n with
  | 0 => (s, ts, f)
  | m + 1 =>
    match s.fillLines b.req.core b.req.atU (spadLines (spadAddr b.req.va + 128 * i) 128) with
    | .error t => s.moveLines b put m (i + 1) ts (firstFail f i (some t))
    | .ok s =>
      let (s, t, g) := if put then s.putOne b.req i (b.lineRep i) else s.getOne b.req i (b.lineRep i)
      s.moveLines b put m (i + 1) (maxW ts t) (firstFail f i g)

/-- The transfer of an `xput` or `xget`: nothing while an answer of another package has not come. -/
def xferBay (s : State) (b : Bay) (put : Bool) : Option BayEnd :=
  if b.waits then none
  else
    let n := spadLen b.req.va
    let r := s.moveLines b put n 0 0 none
    some (endWith r.1 r.2.1 r.2.2 n)

/-- An atomic operation at the home of a place of this package, timestamped as a write that no context performs (R401). -/
def State.amoAnon (s : State) (c op pa w v cmp : Nat) (cls : BitVec 2) (ms : Bool) : State × Nat × Bool × Word :=
  if cls = 0 then
    let old := s.homeRead pa w
    if (s.linePoison (pa / 128) &&& wordMask pa w) ≠ 0 then (s, old, true, 0)
    else if amoWrites op old cmp then
      let (s, t) := (s.homeWrite pa w (amoNew op w old v cmp)).hcAnon (pa / 128)
      (s, old, false, t)
    else (s, old, false, 0)
  else
    let (s, old, poi) := amoAt s c 0 op pa w v cmp cls ms
    (s, old, poi, 0)

def xamoBay (s : State) (y : Bay) : Option BayEnd :=
  let b := y.req
  let rep := y.lineRep 0
  let a := spadAddr b.va
  let op := bits (spadOpt b.va) 0 5
  let w := if (spadOpt b.va).testBit 5 then 8 else 4
  let (s, ls, f) := s.bayRead b.core b.atU a 1 0
  let l := (ls.headD 0).toNat
  let v := bits l 0 (8 * w)
  let cmp := bits l 64 (8 * w)
  let finish (s : State) (old : Nat) (ts : Word) : BayEnd :=
    let (s, f) := s.bayWrite b.core (a + 16) 8 (amoOld w old).toNat
    endWith s ts f (old % 2 ^ 32)
  if f.isSome then some (endWith s 0 f 0)
  else if y.waits then none
  else
    match b.trs.getD 0 (.bad Cause.xlat) with
    | .bad cz => some (endWith s 0 (some (0, cz, b.vb)) 0)
    | .ok (.phys pa cls ms) =>
      if rep = .unreachable ∧ hostPlace pa cls then some (endWith s 0 (some (0, Cause.fwdx, b.vb)) 0)
      else
        let (s, old, poi, ts) := s.amoAnon b.core op pa w v cmp cls ms
        some (if poi then endWith s 0 (some (0, Cause.ecc, b.vb)) 0 else finish s old ts)
    | .ok (.remote _ _) => match rep with
      | .value d _ ts => some (finish s ((d.headD 0).toNat % 2 ^ (8 * w)) ts)
      | r => some (endWith s 0 (some (0, (replyCause r).getD Cause.ecc, b.vb)) 0)

/-- The launch access-control table (R396): the INFO with which a packet of a source paddock is rejected. A full queue is the last condition
that is tested (R120), with the packet's own. -/
def laclCheck (p : Paddock) (spkg spdk q : Nat) (d : List Word) : Option Nat :=
  match (List.range 128).find? (fun j => let e := Map.get 0 p.lacl j; e.getLsbD 63 && wbits e 41 6 = spkg && wbits e 35 6 = spdk) with
  | none => some 0x100
  | some j =>
    let e := Map.get 0 p.lacl j
    if e.getLsbD q = false then some 0x100
    else if wbits e 32 3 < pktPrio d then some 0x101
    else if 0 < pktNset d ∧ e.getLsbD 16 = false then some 0x102
    else none

/-- A launch packet from a peer at this package (R396, R411): the INFO of its rejection, or the state with it enqueued. -/
def State.peerLaunch (s : State) (spkg spdk pdk q : Nat) (d : List Word) : Except Nat State :=
  match (List.range 8).find? (fun b => (s.pdk b).valid && (s.pdk b).number = pdk) with
  | none => .error 0x100
  | some b =>
    let p := s.pdk b
    if wbits p.pctl 60 2 ≠ 0 then .error 0x104
    else match laclCheck p spkg spdk q d with
      | some i => .error i
      | none => s.arrive b q 0 d none

def xlncBay (s : State) (y : Bay) : Option BayEnd :=
  let b := y.req
  let (s, ls, f) := s.bayRead b.core b.atU (spadAddr b.va) 1 0
  let l := (ls.headD 0).toNat
  let d := (List.range 8).map (fun i => wnat (bits l (64 * i) 64))
  let far := wbits b.vb 0 6
  let done (s : State) (r : Option Nat) : BayEnd := match r with
    | none => endWith s 0 none 0
    | some i => { st := s, code := codeFault, info := i }
  if f.isSome then some (endWith s 0 f 0)
  else if far = s.pkg.toNat then
    match s.peerLaunch far (s.pdk (s.coreBlk b.core)).number (wbits b.vb 8 6) (wbits b.vb 16 4) d with
    | .ok s' => some (done s' none)
    | .error i => some (done s (some i))
  else match y.lineRep 0 with
    | .home => none
    | .value (i :: _) _ _ => some (done s (if i = 0 then none else some i.toNat))
    | .value [] _ _ => some (done s none)
    | r => some (endWith s 0 ((replyCause r).map (fun cz => (0, cz, b.vb))) 0)

/-! ### Multicast and combining (R399, R400) -/

/-- The elements of a contribution in the scratchpad's layout. -/
def contribOf (v : Word) (ls : List Line) (slack : Nat) : Contrib :=
  let w (i : Nat) : Code := BitVec.ofNat 32 (bits (ls.getD (i / 32) 0).toNat (32 * (i % 32)) 32)
  let es := if cmbOp v = 3 then w 0 :: w 1 :: (List.range (cmbN v)).map (fun i => w (32 + i)) else (List.range (cmbN v)).map w
  ⟨cmbOp v, es, false, false, slack, false⟩

/-- Initial slack of a request (R302). -/
def Req.initSlack (b : Req) : Nat := bits b.ske.toNat 0 12

/-- The source switch accepts the contribution of an `xcmb` (R400). -/
def State.cmbOk (s : State) (b : Req) : Bool :=
  let g := wbits b.vb 0 16
  let e := s.group g
  e.ok g && e.cmb && e.vf = b.vf && bits e.cores (4 * (b.core / 4)) 4 = 2 ^ (b.core % 4)

/-- An `xcmb`: nothing while its place holds another incomplete instance. It waits at its switch's input then, which counts as queuing (R390). Its slot
stays empty. -/
def cmbBay (s : State) (y : Bay) (unit : Nat) : Option (BayEnd × Bool) :=
  let b := y.req
  let g := wbits b.vb 0 16
  let num := wbits b.vb 16 16
  if s.cmbOk b = false then some ({ st := s, code := codeFault, info := 2 }, true)
  else
    let (s, ls, f) := s.bayRead b.core b.atU (spadAddr b.va) (cmbLines b.va) 0
    if f.isSome then some (endWith s 0 f 0, true)
    else
      let q : CmbPend :=
        { core := b.core, ctx := b.ctx, slot := b.slot, group := g, num := num, addr := cmbAddr b.vb, shed := unit
          op := cmbOp b.va, n := cmbN b.va, stamp := b.stamp.getD 0 }
      let (v, spent) := Contrib.after (contribOf b.va ls b.initSlack) (s.cc - y.inAt.getD s.cc)
      (({ s with cmbs := s.cmbs ++ [q] } : State).contribute unit g num b.vf v false false).map
        (fun s => (endWith (if spent then s.countSpent unit else s) 0 none 0, false))

/-- An `xmc` enters the switch, or fails R388 there (R399). -/
def mcStart (s : State) (b : Req) (unit bay : Nat) : State × Option BayEnd :=
  let g := wbits b.vb 0 16
  let e := s.group g
  if e.ok g = false ∨ e.vf ≠ b.vf then (s, some { st := s, code := codeFault, info := 2 })
  else
    let n := spadLen b.va
    let (s, ls, f) := s.bayRead b.core b.atU (spadAddr b.va) n 0
    if f.isSome then (s, some (endWith s 0 f 0))
    else
      let p : McPkt :=
        { inp := unit, group := g, num := 0, ring := wbits b.vb 16 4, vf := b.vf, lines := ls, slack := b.initSlack
          mask := 0, since := s.cc, src := some (unit, bay), top := wnat (bits b.ske.toNat 16 12 * 2 ^ 20 + b.slk % 16 * 2 ^ 32)
          head := s.srcHead unit b.core b.ctx b.vf }
      ((s.inject e (some unit) p).sweepMcs, none)

/-- An `xmc` that its context issued before that of a bay has not entered the switch yet: packets of one source keep the order in which it
issued them (R267). -/
def State.xmcBehind (s : State) (b : Bay) : Bool :=
  s.engs.any (fun e => e.2.bays.any (fun y => match y.2 with
    | some a => (match a.req.ins with
        | .xmc _ _ _ _ _ _ => true
        | _ => false) && a.req.core = b.req.core && a.req.ctx = b.req.ctx && a.inj = false && a.since < b.since
    | none => false))

/-- The packet of an `xmc` has branches to send (R399). -/
def State.mcGoing (s : State) (unit bay : Nat) : Bool := s.mcs.any (fun p => p.src = some (unit, bay) && p.mask ≠ 0)

/-! ### Completion (R328, R404) -/

/-- The task of a request still runs on its core. -/
def State.reqLive (s : State) (b : Req) : Bool := (s.core b.core).task.map Task.stamp = b.stamp

/-- A bay ends: its writes are visible, contexts take its timestamp, its slot fills, its cause is pending (R247, R328,
R404), and the engine counts its occupancy (R337). -/
def State.endBay (s : State) (cls unit n : Nat) (b : Bay) (r : BayEnd) (fill : Bool) : State :=
  let q := b.req
  let occ := s.cc - b.since
  let s := r.st
  let s := s.setEng cls unit (((s.eng cls unit).endBay n s.cc).countFn (s.shareOf q.core q.vf) 5 occ)
  if s.reqLive q = false then s
  else
    let s := s.count q.core q.ctx 10 occ
    let s := if r.ts = 0 then s else s.raisePts q.core r.ts
    let s := if fill then s.engineFill q.core q.slot (completion r.code r.info) else s
    match r.fail with
    | some (cz, v) => s.updCtx q.core q.ctx (fun t => { t with bayPend := t.bayPend ++ [⟨cz, v⟩] })
    | none => s

/-- What a bay's work comes to now. -/
inductive BayStep where
  | later (s : State)
  | ends (r : BayEnd) (fill : Bool)

def ofEnd (s : State) (r : Option BayEnd) : BayStep := match r with
  | some r => .ends r true
  | none => .later s

/-- The work of a bay, by its word. -/
def State.bayWork (s : State) (cls unit n : Nat) (b : Bay) : BayStep :=
  let q := b.req
  match q.ins with
  | .sfsort _ _ _ _ _ _ => .ends (sortBay s q) true
  | .sftopk _ _ _ _ _ _ => .ends (topkBay s q) true
  | .lftopRed _ _ _ _ _ _ => .ends (redBay s q) true
  | .lftopHist _ _ _ _ _ _ => .ends (histBay s q) true
  | .xput _ _ _ _ _ _ =>
    if (spadOpt q.va).testBit 4 then match b.res with
      | some (code, info, fail) => .ends { st := s, code := code, info := info, fail := fail } true
      | none => .later s
    else ofEnd s (xferBay s b true)
  | .xget _ _ _ _ _ _ => ofEnd s (xferBay s b false)
  | .xmc _ _ _ _ _ _ =>
    if b.inj then (if s.mcGoing unit n then .later s else .ends { st := s } true)
    else if s.xmcBehind b then .later s
    else match mcStart s q unit n with
      | (_, some r) => .ends r true
      | (s', none) => .later (s'.updEng cls unit (fun e => e.setBay n (some { b with inj := true })))
  | .xcmb _ _ _ _ _ _ => match cmbBay s b unit with
    | some (r, fill) => .ends r fill
    | none => .later (s.updEng cls unit (fun e => e.setBay n (some { b with inAt := some (b.inAt.getD s.cc) })))
  | .xamo _ _ _ _ _ _ => ofEnd s (xamoBay s b)
  | .xlnc _ _ _ _ _ _ => ofEnd s (xlncBay s b)
  | _ => .ends { st := s } true

/-- The scratchpad lines that a request's bay reads, or fills before it writes a part of them. -/
def reqLines (q : Req) : List Nat :=
  let n := match q.ins with
    | .xcmb _ _ _ _ _ _ => cmbLines q.va
    | .xamo _ _ _ _ _ _ => 1
    | .xlnc _ _ _ _ _ _ => 1
    | _ => spadLen q.va
  spadLines (spadAddr q.va) (128 * n) ++ (match q.ins with
    | .sftopk _ _ _ _ _ _ => spadLines (spadAddr q.vb) (8 * (bits (spadOpt q.vb) 0 8 + 1))
    | _ => [])

/-! ### The packets of a bay (R298, R302, R331) -/

/-- Lines that a request reads from the requester's scratchpad, and lines that it writes there, with their address. -/
def Req.spads (q : Req) : Nat × Nat × Nat :=
  let n := spadLen q.va
  match q.ins with
  | .sfsort _ _ _ _ _ _ => (n, n, spadAddr q.vb)
  | .sftopk _ _ _ _ _ _ => (n, ceilDiv (bits (spadOpt q.vb) 0 8 + 1) 16, spadAddr q.vb)
  | .lftopRed _ _ _ _ _ _ => (n, 0, 0)
  | .lftopHist _ _ _ _ _ _ => (n, 0, 0)
  | .xput _ _ _ _ _ _ => if (spadOpt q.va).testBit 4 then (0, 0, 0) else (n, 0, 0)
  | .xget _ _ _ _ _ _ => (0, n, spadAddr q.va)
  | .xmc _ _ _ _ _ _ => (n, 0, 0)
  | .xcmb _ _ _ _ _ _ => (cmbLines q.va, 0, 0)
  | .xamo _ _ _ _ _ _ => (1, 1, spadAddr q.va)
  | .xlnc _ _ _ _ _ _ => (1, 0, 0)
  | _ => (0, 0, 0)

/-- The line at `p'` goes with the `n` lines from `p` on in one packet: one home or, for another package or the host port, one 512 KiB page; `stop` gives the
Yard stop of a home. -/
def Place.follows (stop : Nat → Nat) (p p' : Place) (n : Nat) : Bool :=
  match p, p' with
  | .remote g o, .remote g' o' => g = g' && o' = o + 128 * n && o' / 2 ^ 19 = o / 2 ^ 19
  | .phys a c _, .phys a' c' _ => a' = a + 128 * n && c = c' && a' / 2 ^ 19 = a / 2 ^ 19 && stop a = stop a'
  | _, _ => false

/-- Lines in packets of up to 8, each with its first line, its lines and its first place; `acc` has those before line i, the latest first. -/
def packetsOf (stop : Nat → Nat) (i : Nat) (acc : List (Nat × Nat × Place)) (l : List Tr) : List (Nat × Nat × Place) :=
  match l with
  | [] => acc.reverse
  | .bad _ :: r => packetsOf stop (i + 1) acc r
  | .ok p :: r => match acc with
    | (f, n, g) :: t =>
      if f + n = i ∧ n < 8 ∧ g.follows stop p n then packetsOf stop (i + 1) ((f, n + 1, g) :: t) r
      else packetsOf stop (i + 1) ((i, 1, p) :: acc) r
    | [] => packetsOf stop (i + 1) [(i, 1, p)] r

/-- A packet for each 8 lines of `n`, as `f` sends those from line i on. -/
def State.perEight (s : State) (n : Nat) (f : State → Nat → Nat → State) : State :=
  (List.range (ceilDiv n 8)).foldl (fun s i => f s (8 * i) (min 8 (n - 8 * i))) s

/-- A packet of an engine's bay, of its request's class. -/
def State.bayPkt (s : State) (cls unit : Nat) (q : Req) (p : PtPkt) : State :=
  s.sendFrom { s.reqPkt q.core q.ctx q.slk q.ske { p with unit := 4 + cls, kind := 6 + cls } with src := if cls = 2 then 8 + unit else unit }

/-- The packets with which a bay moves its data inside the package. -/
def State.bayPkts (s : State) (cls unit : Nat) (q : Req) : State :=
  let (ty, _) := q.globals
  let (rd, wr, to_) := q.spads
  let spad := q.core / 4
  let s := s.perEight rd (fun s i m => s.bayPkt cls unit q { ty := 0, rlen := 128 * m, dst := spad, adr := wnat (spadAddr q.va + 128 * i) })
  let s := (packetsOf (s.homeStop q.core) 0 [] q.trs).foldl (fun s g => match g.2.2 with
    | .phys pa _ _ => s.bayPkt cls unit q
        { ty := ty, dst := s.homeStop q.core pa, adr := wnat (2 ^ 63 + pa), addr := q.lineAt g.1, len := if ty = 1 ∨ ty = 3 then 128 * g.2.1 else 0
          rlen := if ty = 0 then 128 * g.2.1 else 8 }
    | .remote _ _ => s) s
  s.perEight wr (fun s i m => s.bayPkt cls unit q { ty := 1, len := 128 * m, dst := spad, adr := wnat (to_ + 128 * i) })

/-- A request of an XCE's bay for another package leaves from the stop of its shed (R298, R379), named by the slot and the line (log 132). -/
def State.baySend (s : State) (unit : Nat) (q : Req) (p : PtPkt) (pkg off : Nat) (d : List Word) : State :=
  s.sendReq q.core q.ctx q.slk q.ske { p with kind := 6, unit := 4, seq := q.slot + (p.addr - q.vb).toNat / 8 } q.lvl pkg off d
    (fwd := s.fwdOf q.core p.addr) (stop := some unit)

/-- Line i of the requester's scratchpad range, its window line filled first; whether it can be read. -/
def State.sendLineOf (s : State) (q : Req) (i : Nat) : State × Bool :=
  let a := spadAddr q.va + 128 * i
  match s.fillLines q.core q.atU (spadLines a 128) with
  | .error _ => (s, false)
  | .ok s => (s, ! ((s.core q.core).copyLine a).2)

/-- The lines of a transfer that can leave: of an `xput` those whose source can be read. -/
def State.sendable (s : State) (q : Req) (put : Bool) (i : Nat) (l : List Tr) : State × List Tr :=
  match l with
  | [] => (s, [])
  | t :: r =>
    let (s, ok) := if put then s.sendLineOf q i else (s, true)
    let (s, r) := s.sendable q put (i + 1) r
    (s, (if ok then t else .bad Cause.ecc) :: r)

/-- A bay sends the request that begins with a line of its global range, with the data of an `xput` or an `xamo` (R298, R379, R398); the launch packet of an
`xlnc` has no range (R396). It is answered as unreachable where no route leads there (R382). -/
def State.askLine (s : State) (unit : Nat) (q : Req) (line len : Nat) : State × Option Reply :=
  let c := q.core
  let ls (i n : Nat) : List Word := (List.range n).flatMap (fun j => lineDwords ((s.core c).copyLine (spadAddr q.va + 128 * (i + j))).1)
  let sent (pkg off : Nat) (p : PtPkt) (d : List Word) : State × Option Reply :=
    if (s.reach c unit pkg off).isNone then (s, some .unreachable) else (s.baySend unit q p pkg off d, none)
  match q.ins with
  | .xlnc _ _ _ _ _ _ =>
    if (s.routePort (wbits q.vb 0 6) unit 0).isNone then (s, some .unreachable)
    else (s.baySend unit q { ty := 8, arg0 := q.vb } (wbits q.vb 0 6) 0 ((ls 0 1).take 8), none)
  | _ => match q.trs.getD line (.bad 0) with
    | .ok (.remote pkg off) => match q.globals.1 with
      | 0 => sent pkg off { ty := 0, rlen := 128 * len, addr := q.lineAt line, arg0 := wnat (128 * len) } []
      | 1 => sent pkg off { ty := 1, addr := q.lineAt line, arg0 := BitVec.allOnes 64, arg1 := BitVec.allOnes 64 } (ls line len)
      | _ =>
        let w := if (spadOpt q.va).testBit 5 then 8 else 4
        let d := ls 0 1
        sent pkg off { ty := 2, rlen := 8, addr := q.vb, arg0 := amoArg (bits (spadOpt q.va) 0 5) w (d.getD 0 0), arg1 := d.getD 1 0 }
          (if w = 8 then [d.getD 0 0] else [])
    | _ => (s, none)

/-- A bay's requests to other packages, and those that the host port has to complete. -/
def State.asksFor (s : State) (cls unit : Nat) (q : Req) : State × List BayAsk :=
  if cls ≠ 0 then (s, [])
  else match q.ins with
  | .xlnc _ _ _ _ _ _ =>
    if wbits q.vb 0 6 = s.pkg.toNat then (s, [])
    else
      let (s, _) := s.sendLineOf q 0
      let (s, r) := s.askLine unit q 0 0
      (s, [{ line := 0, len := 1, at_ := s.cc, rep := r }])
  | _ =>
    let far (t : Tr) : Tr := match t with
      | .ok (.phys pa cls _) => if hostPlace pa cls then t else .bad 0
      | _ => t
    let (s, l) := s.sendable q (q.globals.1 = 1) 0 (q.trs.map far)
    (packetsOf (fun _ => 0) 0 [] l).foldl (fun (r : State × List BayAsk) g =>
      let (s, a) := r.1.askLine unit q g.1 g.2.1
      (s, r.2 ++ [{ line := g.1, len := g.2.1, at_ := s.cc, rep := a }])) (s, [])

/-- The request for the window line of another package that a bay waits for (R234). -/
def State.bayLineAsk (s : State) (q : Req) : State :=
  match s.remoteNeed q.core q.atU (reqLines q) with
  | none => s
  | some (w, i) =>
    let va := winVa ((s.core q.core).window w) i
    match s.translate q.core va .read q.atU with
    | .ok (.remote pkg off) =>
      s.sendReq q.core q.ctx q.slk q.ske { kind := 3, unit := 4, rlen := 128, addr := va, arg0 := 128 } q.lvl pkg off [] (fwd := s.fwdOf q.core va)
    | _ => s

/-- A bay's request for a window line of another package leaves once. -/
def State.askOnce (s : State) (cls unit n : Nat) (b : Bay) : State :=
  if b.asked then s
  else (s.bayLineAsk b.req).updEng cls unit (fun e => e.setBay n (some { b with asked := true, askedAt := s.cc }))

/-- A bay goes on: its requests leave, and it ends once all of them are answered. An `xmc` takes two of these steps: its packet enters the switch, and its
branch mask is empty (R399). -/
def State.bayGo (s : State) (cls unit n : Nat) (b : Bay) : State :=
  match (if b.asks = [] then s.asksFor cls unit b.req else (s, [])) with
  | (s', a :: r) => s'.updEng cls unit (fun e => e.setBay n (some { b with asks := a :: r }))
  | (s, []) => match s.bayWork cls unit n b with
    | .later s' => s'
    | .ends r fill => (s.endBay cls unit n b r fill).bayPkts cls unit b.req

/-- The answer to the request of a bay that begins with a line (R404): a failing one of a hinted home is sent once more, and a redirected one
leaves a hint (R381). The host port's counts only where it cannot complete the request (R416). -/
def State.bayAnswer (s : State) (cls unit n : Nat) (b : Bay) (line : Nat) (rep : Reply) : State :=
  match b.asks.find? (fun a => a.line = line && a.rep.isNone) with
  | none => s
  | some a =>
    let set (s : State) (a' : BayAsk) : State :=
      s.updEng cls unit (fun e => e.setBay n (some { b with asks := b.asks.map (fun x => if x = a then a' else x) }))
    match b.req.trs.getD line (.bad 0) with
    | .ok (.phys _ _ _) => if rep = .unreachable then set s { a with rep := some rep } else s
    | .ok (.remote pkg off) => match s.secondTry b.req.core pkg off rep with
      | some s' =>
        let (s', r) := s'.askLine unit b.req a.line a.len
        set s' { a with at_ := s.cc, rep := r }
      | none =>
        let s := match rep with
          | .value _ x _ => s.noteReply b.req.core pkg off x
          | _ => s
        set s { a with rep := some rep }
    | .bad _ => set s { a with rep := some rep }

/-- `BAY_COMPLETE` (R328): after its occupancy a bay completes; `rep`, where it is not `home`, is the answer to one of its requests. What the
bay forces has its request's class (R302). -/
def execBayComplete (cls unit bay : Nat) (rep : BayReply) (s : State) : Out :=
  match (s.eng cls unit).bay bay with
  | none => .next s
  | some b =>
    if rep.rep ≠ .home then .next (s.bayAnswer cls unit bay b rep.line rep.rep)
    else if s.cc < b.since + b.occ then .next s
    else .next (s.under b.req.core b.req.ctx b.req.slk b.req.ske (fun s =>
      if (s.remoteNeed b.req.core b.req.atU (reqLines b.req)).isSome then s.askOnce cls unit bay b else s.bayGo cls unit bay b))

/-! ### Proxy queues (R395) -/

/-- The lines of `n` filled slots of a shadow ring, from its HEAD. -/
def State.shadowLines (s : State) (c : Nat) (atU : Bool) (q : Ring) (n i : Nat) : State × List (List Line) × LineFail :=
  match n with
  | 0 => (s, [], none)
  | m + 1 =>
    let (s, ls, f) := s.bayRead c atU (q.slotAddr ((q.head + i) % q.slots)).toNat q.lines (i * q.lines)
    if f.isSome then (s, [], f)
    else
      let (s, r, f) := s.shadowLines c atU q m (i + 1)
      (s, ls :: r, f)

/-- The shadow entries of a forwarded batch are free. -/
def Ring.forwarded (q : Ring) (n : Nat) : Ring := { q with head := (q.head + n) % q.slots, filled := q.filled - n }

/-- How an offer of `n` entries to a ring is answered (R395, R398, log 57): 1 admitted, 2 a ring that is not valid or has other LINES, else refused. -/
def State.offerCode (s : State) (core ring lines n : Nat) : Nat :=
  let r := (s.core core).ring ring
  if r.v = false ∨ r.lines ≠ lines then 2 else if r.takes n then 1 else 0

/-- The entries of a batch fill slots of the true ring in order. -/
def State.placeSlots (s : State) (core ring : Nat) (ls : List (List Line)) : State := ls.foldl (fun s l => s.placeSlot core ring l) s

/-- A refused batch stays, and is offered again after 256 cc until 5,120 cc after admission. -/
def Bay.refused (b : Bay) (n cc : Nat) : Bay :=
  if cc + 256 ≤ b.since + 5120 then { b with taken := some n, next := cc + 256, offer := false }
  else { b with taken := some n, offer := false, res := some (codeDone, 0, none) }

/-- An offer is answered: the shadow entries of an admitted batch are free. -/
def State.offered (s : State) (b : Bay) (n code : Nat) : State × Bay :=
  let c := b.req.core
  let sh := spadOpt b.req.va % 16
  if code = 1 then
    (s.updCore c (fun k => k.setRing sh ((k.ring sh).forwarded n)), { b with taken := some n, offer := false, res := some (codeDone, n, none) })
  else if code = 2 then (s, { b with offer := false, res := some (codeFault, 3, none) })
  else (s, b.refused n s.cc)

/-- One offer of a batch of `n` entries: to a ring of this package, or to another package, which answers later. -/
def State.offer (s : State) (shed : Nat) (b : Bay) (n : Nat) : State × Bay :=
  let q := b.req
  let shadow := (s.core q.core).ring (spadOpt q.va % 16)
  let far := wbits q.vb 16 6
  let tc := wbits q.vb 8 5
  let tr := wbits q.vb 0 4
  let (s', ls, f) := s.shadowLines q.core q.atU shadow n 0
  match f with
  | some (i, cz) => (s', { b with res := some (codeFault, i, some cz) })
  | none =>
    if far = s.pkg.toNat then
      let code := s.offerCode tc tr shadow.lines n
      (if code = 1 then s'.placeSlots tc tr ls else s').offered b n code
    else if (s.routePort far shed 0).isNone then (s, { b with res := some (codeFault, 0, some (Cause.fwdx, q.vb)) })
    else
      (s'.baySend shed q { ty := 10, arg0 := wnat (tc + 2 ^ 8 * tr), arg1 := wnat shadow.lines } far 0 (ls.flatten.flatMap lineDwords),
        { b with taken := some n, offer := true, askedAt := s.cc })

/-- `PROXY_OFFER` (R395): a proxy bay takes its batch, and offers it; `rep` brings the answer of another package. Offers follow one another after
256 cc. -/
def execProxyOffer (shed bay : Nat) (rep : Reply) (s : State) : Out :=
  match (s.eng 0 shed).bay bay with
  | none => .next s
  | some b =>
    let q := b.req
    let proxy : Bool := match q.ins with
      | .xput _ _ _ _ _ _ => (spadOpt q.va).testBit 4
      | _ => false
    let put (r : State × Bay) : Out := .next (r.1.updEng 0 shed (fun e => e.setBay bay (some r.2)))
    if proxy = false ∨ b.res.isSome then .next s
    else if b.offer then
      match rep with
      | .home => .next s
      | .value d _ _ => put (s.offered b (b.taken.getD 0) (d.headD 0).toNat)
      | r => put (s, { b with offer := false, res := some (codeFault, 0, (replyCause r).map (fun cz => (cz, q.vb))) })
    else match b.taken with
      | some n => if b.next ≤ s.cc then put (s.offer shed b n) else .next s
      | none =>
        let filled := ((s.core q.core).ring (spadOpt q.va % 16)).filled
        let n := min filled (spadLen q.va)
        if filled < spadLen q.va ∧ s.cc < b.since + 4800 then .next s
        else if n = 0 then put (s, { b with taken := some 0, res := some (codeDone, 0, none) })
        else put (s.offer shed b n)

end Sys2Proof.Machine
end

