-- ==== Sys2Proof/Machine/Branch.lean ====
section
/-!
DEFINITION. Branches and jumps (R69 to R74), hardware loops (R75 to R83) and capacity buckets (R84, R85).
-/
namespace Sys2Proof.Machine

/-- A branch that is taken when `p` holds (R69): a taken branch transfers control, and neither kind writes a register. -/
def branchIf (i : Instr) (k : Tk) (o : BitVec 8) (s : State) (p : Ctx → Bool) : Out :=
  control i k s (fun c x s =>
    let t := s.ctx c x
    if p t then .jump s (branchTarget t o) else .done s)

def execBeq (k : Tk) (a b : Reg) (o : BitVec 8) (s : State) : Out :=
  branchIf (.beq k a b o) k o s (fun t => t.rd a = t.rd b)
def execBne (k : Tk) (a b : Reg) (o : BitVec 8) (s : State) : Out :=
  branchIf (.bne k a b o) k o s (fun t => t.rd a ≠ t.rd b)
def execBlt (k : Tk) (a b : Reg) (o : BitVec 8) (s : State) : Out :=
  branchIf (.blt k a b o) k o s (fun t => ltS (t.rd a) (t.rd b))
def execBge (k : Tk) (a b : Reg) (o : BitVec 8) (s : State) : Out :=
  branchIf (.bge k a b o) k o s (fun t => ! ltS (t.rd a) (t.rd b))
def execBltu (k : Tk) (a b : Reg) (o : BitVec 8) (s : State) : Out :=
  branchIf (.bltu k a b o) k o s (fun t => ltU (t.rd a) (t.rd b))
def execBgeu (k : Tk) (a b : Reg) (o : BitVec 8) (s : State) : Out :=
  branchIf (.bgeu k a b o) k o s (fun t => ! ltU (t.rd a) (t.rd b))
def execBbusy (k : Tk) (o : BitVec 8) (s : State) : Out := branchIf (.bbusy k o) k o s (fun t => t.bz)
def execBfree (k : Tk) (o : BitVec 8) (s : State) : Out := branchIf (.bfree k o) k o s (fun t => ! t.bz)

/-- `bp` (R71): an empty slot raises FUT; the slot is not changed. -/
def branchSlot (i : Instr) (k : Tk) (p : BitVec 4) (o : BitVec 16) (s : State) (pol : Bool) : Out :=
  control i k s (fun c x s =>
    let t := s.ctx c x
    if (s.core c).slotFull p.toNat = false then .trap Cause.fut (wordVal i)
    else if ((s.core c).slotVal p.toNat ≠ 0) = (pol = true) then .jump s (branchTarget t o)
    else .done s)

def execBpt (k : Tk) (p : BitVec 4) (i : BitVec 16) (s : State) : Out := branchSlot (.bpt k p i) k p i s true
def execBpf (k : Tk) (p : BitVec 4) (i : BitVec 16) (s : State) : Out := branchSlot (.bpf k p i) k p i s false

/-- `jal` (R73). -/
def execJal (k : Tk) (d : Reg) (i : BitVec 16) (s : State) : Out :=
  control (.jal k d i) k s (fun c x s =>
    let t := s.ctx c x
    .jump (s.setCtx c x (t.wr d (t.pc + 4))) (branchTarget t i))

/-- `jalr` (R74): a target that is not word-aligned raises MISAL, with no link written (R16). -/
def execJalr (k : Tk) (d a : Reg) (i : BitVec 11) (s : State) : Out :=
  control (.jalr k d a i) k s (fun c x s =>
    let t := s.ctx c x
    let a' := t.rd a + sx i
    if aligned a' 4 then .jump (s.setCtx c x (t.wr d (t.pc + 4))) a' else .trap Cause.misal a')

/-- `ctx.tval` of NEST: the word and the reason in bits 35:32 (R83). -/
def nestVal (i : Instr) (reason : Nat) : Word := wordVal i ||| wnat (reason * 2 ^ 32)

/-- R81: every active loop of the level begins no later than the new kernel and ends after it. -/
def Ctx.nestedOk (t : Ctx) (start last : Word) : Bool :=
  (List.range 4).all (fun n =>
    let l := t.loopCtr n
    ! (l.act && l.pl = t.pl) || (l.start ≤ start && last < l.last))

/-- `lpset` (R76). The kernel is the next `len` words; a trip count already reached skips it. -/
def execLpset (k : Tk) (d a : Reg) (i : BitVec 8) (s : State) : Out :=
  control (.lpset k d a i) k s (fun c x s =>
    let t := s.ctx c x
    let n := d.toNat
    let l := t.loopCtr n
    let w : Instr := .lpset k d a i
    let len := i.setWidth 64
    if l.act then .trap Cause.nest (nestVal w 0)
    else if wbits (t.rd a) 32 32 ≠ 0 then .trap Cause.nest (nestVal w 1)
    else if t.nestedOk (t.pc + 4) (t.pc + 4 * len) = false then .trap Cause.nest (nestVal w 2)
    else
      let l' : LoopCtr := { l with
        iter := if l.bp then l.iter else 0, pre := l.bp, bp := false, clamp := false
        endAt := (t.rd a).setWidth 32, len := i, start := t.pc + 4, pl := t.pl }
      if l'.endAt ≤ l'.iter then
        .goto (s.setCtx c x (t.setLoop n { l' with act := false })) (t.pc + 4 + 4 * len)
      else .goto (s.setCtx c x (t.setLoop n { l' with act := true })) (t.pc + 4))

/-- The entry form of `lpres` (R77): hands over the first iteration to run. -/
def execLpresEntry (k : Tk) (d a : Reg) (s : State) : Out :=
  control (.lpresEntry k d a) k s (fun c x s =>
    let t := s.ctx c x
    let n := a.toNat
    let l := t.loopCtr n
    if l.act then .trap Cause.nest (nestVal (.lpresEntry k d a) 0)
    else
      let iter := if l.rsv then l.iter else 0
      let t := t.setLoop n { l with iter := iter, rsv := false, clamp := false, bp := true, head := t.pc }
      .goto (s.setCtx c x (t.wr d (iter.setWidth 64))) (t.pc + 4))

/-- The exit form of `lpres` (R77, R80): a clamped loop parks the context at this word, which does not execute; a
signal that is still held is pushed first (R106). -/
def execLpresExit (k : Tk) (a : Reg) (s : State) : Out :=
  control (.lpresExit k a) k s (fun c x s =>
    let t := s.ctx c x
    let l := t.loopCtr a.toNat
    if l.act then .trap Cause.nest (nestVal (.lpresExit k a) 4)
    else if l.clamp then
      match t.heldSig with
      | f :: _ => .hold (.signal f) t.gc
      | [] => .park
    else .goto s (t.pc + 4))

/-- The smallest valid bucket bound that is at least `n`, the lower index winning among equals (R84). -/
def Ctx.bucket (t : Ctx) (n : Nat) : Option Nat :=
  (List.range 8).foldl (fun best i =>
    let e := Map.get 0 t.bktBound i
    if e.getLsbD 63 ∧ n ≤ wbits e 0 32 then
      match best with
      | none => some i
      | some j => if wbits e 0 32 < wbits (Map.get 0 t.bktBound j) 0 32 then some i else best
    else best) none

/-- `bkt` (R84). -/
def execBkt (k : Tk) (d a : Reg) (s : State) : Out :=
  control (.bkt k d a) k s (fun c x s =>
    let t := s.ctx c x
    let n := t.rd a
    match t.bucket n.toNat with
    | some i =>
      .jump (s.setCtx c x { t.wr d (wnat (wbits (Map.get 0 t.bktBound i) 0 32)) with bz := false })
        (Map.get 0 t.bktAddr i)
    | none => .jump (s.setCtx c x { t.wr d n with bz := true }) t.bktOvf)

end Sys2Proof.Machine
end

