-- ==== Sys2Proof/Machine/Commit.lean ====
section
/-!
DEFINITION. Atomic sets as events: lot requests and grants (R277 to R280, R297), wounds and rollbacks (R284, R285, R289),
the commit (R283), and the irrevocability token (R286).
-/
namespace Sys2Proof.Machine

/-- A word that must issue again when what it waits for has come. -/
def Ctx.reissue (t : Ctx) : Ctx := { t with wait := none, stall := 0 }

/-- The class of the access that asks for a lot, and the entry read with it: that of the word that a context waits at, or of the CPE's head
(R290, R302). -/
def State.lotClass (s : State) (c who : Nat) : Nat × BitVec 28 :=
  if who < 4 then
    let t := s.ctx c who
    let k := match (s.fetchCode c who t.pc).bind (fun r => decode r.2) with
      | some (.xget _ f _ _ _ _) => classOf t f
      | _ => t.slk.toNat
    (k, t.skEntry k)
  else match (s.core c).cpeHead with
    | some ent => (ent.slk, ent.ske)
    | none => (0, 0)

/-- The packet of a lot request of context `x` (R290, R302). -/
def State.lotPkt (s : State) (c who x : Nat) (va : Word) (key : Nat) : State :=
  let (k, e) := s.lotClass c who
  s.form c x k e { ty := 6, kind := 9, unit := if who < 4 then 0 else 1, dst := 8 + s.loftOf c key, adr := wnat (2 ^ 63 + key)
                   addr := va, age := s.stampOf c }

/-- `LOT_REQUEST` (R277): the access of a context, or of the CPE head (`who` 4), asks its home loft; a full directory leaves
the request to be made again (R278). Where the first address of the lot does not translate, the access of a context raises that cause, or PROT where it
lies in another package, and a copy or an `xget` goes on without that lot (DESIGN CHOICE: the spec does not say; log 59). -/
def execLotRequest (core who : Nat) (s : State) : Out :=
  match (s.core core).task with
  | none => .next s
  | some t =>
    if who < 4 then
      match (s.ctx core who).wait with
      | some (.lot va i false) =>
        let (lv, lg) := t.lotOf i va
        match s.translate core (wnat lv) .read false with
        | .ok (.phys key _ _) => match s.askLot core who who lv key lg with
          | .held s' => .next ((s'.lotPkt core who who va key).updCtx core who Ctx.reissue)
          | .waits s' => .next ((s'.lotPkt core who who va key).updCtx core who (fun t => { t with wait := some (.lot va i true) }))
          | .full => .next s
        | .ok (.remote _ _) => .next (takeTrap s core who Cause.prot va (s.ctx core who).pc)
        | .bad cz => .next (takeTrap s core who cz va (s.ctx core who).pc)
      | _ => .next s
    else
      match (s.core core).cpeHead with
      | none => .next s
      | some ent => match s.cpeNeed core ent with
        | some (.lot lv lg _) => match s.lotKey core lv with
          | none => .next s
          | some key =>
            if s.lotReqs.any (fun r => r.core = core && r.who = 4 && r.key = key) then .next s
            else match s.askLot core 4 ent.ctx lv key lg with
              | .held s' => .next (s'.lotPkt core 4 ent.ctx (wnat lv) key)
              | .waits s' => .next (s'.lotPkt core 4 ent.ctx (wnat lv) key)
              | .full => .next s
        | _ => .next s

/-- `LOT_GRANT` (R279, R297): a free lot passes to the oldest request that waits for it. -/
def execLotGrant (key : Nat) (s : State) : Out :=
  match s.oldestReq key with
  | none => .next s
  | some r =>
    let s := { s with lotReqs := s.lotReqs.filter (· ≠ r) }
    let x := if r.who < 4 then r.who else match (s.core r.core).cpeHead with
      | some ent => ent.ctx
      | none => 0
    let s := s.giveLot r.core x r.va r.key r.log
    let s := if r.who = 4 then s.updCore r.core (fun k => k.updQ 0 (fun q => { q with stall := 0 })) else s
    let lotWait : Bool := match (s.ctx r.core r.who).wait with
      | some (.lot _ _ _) => r.who < 4
      | _ => false
    .next (if lotWait then s.updCtx r.core r.who Ctx.reissue else s)

/-! ### Rolling back (R284, R285, R289) -/

/-- Bays that work for a core's task, and its requests on their way. -/
def State.baysOf (s : State) (c : Nat) : Bool :=
  s.reqs.any (fun r => r.core = c) ||
    s.engs.any (fun e => e.2.bays.any (fun b => match b.2 with
      | some b => b.req.core = c
      | none => false))

/-- The wound takes effect: every queue stops at a cut (R284). -/
def Core.startRollback (k : Core) : Core :=
  { k.stopQueues with rolling := true, frozen := none }

/-- A core without a task: its contexts are stopped (R352). -/
def Core.dropTask (k : Core) : Core :=
  { k with
    task := none, pen := [], hold := [], wounded := false, rolling := false, committing := false, frozen := none
    headTrap := [], holdFor := none, request := none, point := false
    ctx := (List.range 4).foldl (fun m x =>
      Map.set Ctx.reset m x { (k.getCtx x).unwait with run := .stopped, stopReq := false, stores := [] }) k.ctx }

/-- The task of a core starts again with its stamp, or returns to its launch's unstarted tasks where the dispatcher asked
for the core. -/
def State.restart (s : State) (c : Nat) : State :=
  match (s.core c).task with
  | none => s
  | some t =>
    let back : Bool := match (s.core c).request with
      | some r => r.wound
      | none => false
    let s := ((s.releaseSets c).lapseTickets c).clearRequest c
    if back then
      (s.updCore c Core.dropTask).updLaunch t.launch (fun l =>
        { l with started := l.started.filter (· ≠ t.idx), again := l.again ++ [(t.idx, t.restarts + 1)] })
    else
      match s.launch t.launch with
      | some l => s.beginTask c { t with restarts := t.restarts + 1, startClk := s.cc } l.pkt.d
      | none => s.updCore c Core.dropTask

/-- `ROLLBACK` (R284): first the queues of a wounded core stop; when its started commands and bays are complete, the task
is released and restarted. A signal or a note that could only retire later ends with the task. -/
def execRollback (core : Nat) (s : State) : Out :=
  let k := s.core core
  if k.rolling = false then
    (if k.woundReady ∧ k.task.isSome ∧ k.committing = false then
      .next { s.updCore core Core.startRollback with lotReqs := s.lotReqs.filter (fun r => r.core ≠ core) }
    else .next s)
  else if k.cutDone ∧ s.baysOf core = false then .next ((s.flushPosts core).restart core)
  else .next s

/-! ### Completing (R112), committing (R283) and irrevocability (R286) -/

/-- `TASK_COMPLETE` (R112): the combiner completes the task; a task that can never note a queue discards at once what has not
started, and ends with FAULT when what has started is complete. A task that declares atomic sets and is not irrevocable
completes after its commit. -/
def execTaskComplete (core : Nat) (s : State) : Out :=
  let k := s.core core
  if k.task.isSome ∧ k.allLeft then
    if k.allNoted ∧ (k.penned = false ∨ k.committing) then .next (s.finishTask core codeDone 0)
    else if k.lacksNote then
      if k.unstartedQ then .next (s.updCore core Core.discardQueues)
      else if k.cutDone then .next ((s.flushPosts core).finishTask core codeFault (0x40000000 + core))
      else .next s
    else .next s
  else .next s

/-- The commit point of a core's task. -/
def Core.commitPoint (k : Core) : Bool :=
  k.task.isSome && ! k.wounded && ! k.rolling && ! k.committing && k.pastCommit

/-- `COMMIT` (R283): the pen is written at one timestamp and the held copies write; the task completes, and frees its lots,
when the CPE has retired them and its `enote`. -/
def execCommit (core : Nat) (s : State) : Out :=
  if (s.core core).commitPoint then
    .next (((s.updCore core (fun k => { k with committing := true })).drainPen core).performHold core)
  else .next s

/-- A core's task waits for the token: a context at its word, or the CPE head for its hold buffer (R286). -/
def State.wantsToken (s : State) (c : Nat) : Bool :=
  let k := s.core c
  k.task.isSome && ! k.wounded && ! k.rolling &&
    ((List.range 4).any (fun x => (k.getCtx x).wait = some .token286) ||
      (match k.cpeHead with
        | some ent => match s.cpeNeed c ent with
          | some .token => true
          | _ => false
        | none => false))

/-- The oldest task of a paddock that waits for its token. -/
def State.tokenNext (s : State) (b : Nat) : Option Nat :=
  if (s.pdk b).token.isSome then none
  else (List.range Config.numCores).foldl (fun best c =>
    if s.coreBlk c = b ∧ s.wantsToken c then
      match best with
      | none => some c
      | some d => if olderStamp (s.stampOf c) (s.stampOf d) then some c else some d
    else best) none

/-- A task that has become older than every stamp wounds the holders of the lots that its requests wait for (R279, R286:
DEDUCED, log entry 30). -/
def State.woundHolders (s : State) (c : Nat) : State :=
  s.lotReqs.foldl (fun s r =>
    if r.core ≠ c then s
    else match s.lotHolder r.key r.log with
      | some l => if s.olderTask c l.core then s.sendWound r.key l.core else s
      | none => s) s

/-- The token goes to a core: the pen drains, the held copies write, and what waited goes on, at once where no held line is on its way to
another package (R286). -/
def State.grantToken (s : State) (b c : Nat) : State :=
  let s := (s.drainPen c).performHold c
  let s := s.updPdk b (fun p => { p with token := some c })
  let s := { s with lots := s.lots.map (fun (l : Lot) => if l.core = c then { l with irr := true } else l) }
  let s := s.updCore c (fun k => { k with task := k.task.map (fun (t : Task) => { t with irrev := true }) })
  (s.woundHolders c).updCore c (fun k =>
    if k.heldAway then k
    else (List.range 4).foldl (fun (k : Core) x =>
      if (k.getCtx x).wait = some Wait.token286 then k.updCtx x Ctx.reissue else k) k)

/-- `IRREVOCABILITY_GRANT` (R286): the token of a paddock goes to the oldest task that waits for it. -/
def execIrrevocabilityGrant (blk : Nat) (s : State) : Out :=
  match s.tokenNext blk with
  | some c => .next (s.grantToken blk c)
  | none => .next s

end Sys2Proof.Machine
end

