-- ==== Sys2Proof/Machine/Waits.lean ====
section
/-!
DEFINITION. Waiting: what ends a wait (R104, R106, R116), what its bound raises (R116, R118, R432), the events that a context
takes at a word boundary (R341), and the arrival of tokens (R105, R107).
-/
namespace Sys2Proof.Machine

/-- Something of the word has left the context, and its answer ends the wait; any other waiting word has not issued. -/
def Wait.begun (w : Wait) : Bool :=
  match w with
  | .answer => true
  | .load _ _ _ _ _ => true
  | .remoteStore _ _ _ _ => true
  | .remoteAmo _ _ _ _ _ _ _ => true
  | .block _ _ => true
  | .blockStore _ _ _ => true
  | .farInvi _ => true
  | _ => false

/-- The context is not held by a freeze, another context's engine trap, or a wound (R109, R285, R345). -/
def Core.free (k : Core) (x : Nat) : Bool :=
  k.frozen.isNone && (k.holdFor = none || k.holdFor = some x) && ! (k.wounded && (k.getCtx x).pl = 0)

/-- The context can take a pending event: its next word has not issued (R341). -/
def State.takesPending (s : State) (c x : Nat) : Bool :=
  let k := s.core c
  let t := k.getCtx x
  t.run = .running && k.free x && (match t.wait with
    | some w => ! w.begun
    | none => true)

/-- The trap of a queue that a context takes next. -/
def Core.nextHeadTrap (k : Core) (x : Nat) : Option HeadTrap := k.bestTrap.filter (fun h => h.ctx = x)

/-- Every word before a context's pc has completed: nothing of it is on its way, and its stores are performed (R343). -/
def Ctx.settled (t : Ctx) : Bool :=
  t.stores = [] && (match t.wait with
    | some w => ! w.begun
    | none => true)

/-- A queue's trap can be taken: the clock in which it was raised has passed, so that the other queues have stopped, and the cut is
consistent (R109, R341, R343). -/
def Core.cutReady (k : Core) (h : HeadTrap) : Bool :=
  h.at_ < k.clk && k.cutDone && (List.range 4).all (fun y => (k.getCtx y).settled)

/-- A queue's trap is taken: the cut is recorded (R343), and a wait that has raised WAIT begins again with a cleared counter (R116). A trap of
another queue whose command was not performed is not taken; that command is attempted again (R341). -/
def Core.takeHead (k : Core) (h : HeadTrap) : Core :=
  { (if h.cause = Cause.wait then k.updQ h.q (fun q => { q with stall := 0 }) else k).recordCut with
    headTrap := (k.headTrap.erase h).filter (fun g => ! g.again) }

/-- The words that a core has retired (R340, WAIT kind 13). -/
def Core.retiredWords (k : Core) : Nat := ((List.range 4).map (fun x => (k.getCtx x).retired.toNat)).sum % 2 ^ 32

/-- `PENDING_EVENT_TAKE` (R341): one event, in the order of that rule. A wound is the rollback's (item 1). -/
def execPendingEventTake (core ctx : Nat) (s : State) : Out :=
  let k := s.core core
  let t := k.getCtx ctx
  if s.takesPending core ctx = false then .next s
  else
    match t.bayPend with
    | p :: r => .next (takeTrap (s.setCtx core ctx { t with bayPend := r }) core ctx p.cause p.tval t.pc)
    | [] =>
      match k.nextHeadTrap ctx with
      | some h =>
        if k.cutReady h then .next (takeTrap (s.updCore core (fun k => k.takeHead h)) core ctx h.cause h.tval t.pc) else .next s
      | none =>
        if t.haltPend then
          .next (takeTrap (s.setCtx core ctx { t with haltPend := false }) core ctx Cause.wait
            (wnat (13 * 2 ^ 56 + ctx * 2 ^ 40 + k.retiredWords)) t.pc)
        else match t.slipPend with
          | some v => .next (takeTrap (s.setCtx core ctx { t with slipPend := none }) core ctx Cause.slip v t.pc)
          | none => match t.slackPend with
            | some v =>
              if t.pl = 0 then
                .next (takeTrap (s.setCtx core ctx { t with slackPend := none }) core ctx Cause.slack v t.pc)
              else .next s
            | none => .next s

/-! ### What WAIT reports (R118, R432) -/

/-- Progress of an engine queue. -/
def EngQ.progress (q : EngQ) : Nat := match q.last with
  | some n => n.toNat
  | none => 0xffffffff

/-- Progress of the member that pushes into a FIFO. -/
def Core.pusher (k : Core) (f : Nat) : Nat :=
  if f < 8 then (k.getCtx ((f / 2 + (if f % 2 = 0 then 3 else 1)) % 4)).retired.toNat
  else if f < 12 then 0
  else (k.q (((f - 12) / 2 + (if f % 2 = 0 then 2 else 1)) % 3)).progress

/-- Progress of the queue that holds the youngest pending command naming a slot; a held copy is pending (R282, R432). -/
def Core.slotProgress (k : Core) (n : Nat) : Nat :=
  let ents (e : Nat) : List (Nat × Nat) :=
    (((k.q e).fl.map (·.ent)) ++ (k.q e).q).filterMap (fun ent =>
      if entrySlot ent.ins = some n then some (ent.no, e) else none)
  let held := k.hold.filterMap (fun h => if entrySlot h.ent.ins = some n then some (h.ent.no, 0) else none)
  match (held ++ ents 0 ++ ents 1 ++ ents 2).foldl (fun best p =>
      match best with
      | none => some p
      | some b => if b.1 < p.1 then some p else some b) (none : Option (Nat × Nat)) with
  | some (_, e) => (k.q e).progress
  | none => 0

/-- KIND, NAME and SEQ of a context's wait; nothing for a wait without a bound. -/
def State.waitReport (s : State) (c x : Nat) (w : Wait) : Option (Nat × Nat × Nat) :=
  let k := s.core c
  let fifoName (f : Nat) : Nat := if f < 8 then f else 8
  match w with
  | .token f => some (0, fifoName f, k.pusher f)
  | .tkrcv f => some (0, fifoName f, k.pusher f)
  | .signal f => some (0, fifoName f, k.pusher f)
  | .rendezvous => some (1, 0, 0)
  | .pslot n => some (2, n, k.slotProgress n)
  | .barrier n _ => some (3, n, 0)
  | .ringClaim _ n => some (4, n, 0)
  | .ringWait _ n => some (4, n, 0)
  | .time _ => some (5, 0, 0)
  | .frame _ => some (6, 0, 0)
  | .queueFull q => some (7, q, (k.q q).progress)
  | .ctxStop n => some (9, n, (k.getCtx n).retired.toNat)
  | .lot _ n _ => some (10, n, 0)
  | .token286 => some (11, 0, 0)
  | .tendBays => some (14, (s.outstanding c x).getD 0, 0)
  | _ => none

/-- `ctx.tval` of WAIT. -/
def waitVal (kind name place seq : Nat) : Word := wnat (kind * 2 ^ 56 + name * 2 ^ 48 + place * 2 ^ 40 + seq)

/-- SEQ of an engine's wait. -/
def Core.headSeq (k : Core) (kind name : Nat) : Nat :=
  if kind = 0 then k.pusher (12 + name) else if kind = 8 then k.slotProgress name else if kind = 12 then (k.q 0).progress else 0

/-- The entry that a queue waits at: the one that retires, or the head. -/
def Core.waitingEntry (k : Core) (e : Nat) : Option Entry :=
  match k.retirable e with
  | some f => some f.ent
  | none => (k.q e).q.head?

/-- `WAIT_BOUND_EXPIRY` (R116): precise at a context's word (who 0 to 3), at the head for the CPE, MXE and VXE (4 to 6). -/
def execWaitBoundExpiry (core who : Nat) (s : State) : Out :=
  let k := s.core core
  if who < 4 then
    let t := k.getCtx who
    match t.wait with
    | none => .next s
    | some w =>
      match s.waitReport core who w with
      | some (kind, name, seq) =>
        if t.run = .running ∧ t.bound < t.stall ∧ k.free who then
          let s := takeTrap s core who Cause.wait (waitVal kind name who seq) t.pc
          .next (s.updCtx core who (fun u => { u with waived := u.waived || u.heldSig ≠ [] }))
        else .next s
      | none => .next s
  else
    let e := (who - 4) % 3
    match s.headWait core e, k.waitingEntry e with
    | some (kind, name), some ent =>
      if (k.getCtx ent.ctx).ge < (k.q e).stall ∧ (k.q e).stopped k.clk = false then
        let s := if e = 0 then s.withdrawHead core else s
        .next (s.raiseHead core e ent.ctx Cause.wait (waitVal kind name (4 + e) (k.headSeq kind name)))
      else .next s
    | _, _ => .next s

/-! ### The ends of waits -/

/-- `WAIT_SATISFIED` (R116): the word that waited completes, or, where it waited to issue, issues next. -/
def execWaitSatisfied (core who : Nat) (s : State) : Out :=
  let k := s.core core
  let t := k.getCtx who
  let again : Out := .next (s.updCtx core who Ctx.reissue)
  if 4 ≤ who ∨ t.run ≠ .running ∨ k.free who = false then .next s
  else match t.wait with
    | none => .next s
    | some w => match w with
      | .token f => if 0 < k.avail f then again else .next s
      | .pslot n => if k.slotFull n then .next (s.complete core who id) else .next s
      | .barrier n g =>
        if ((s.pdk (s.coreBlk core)).cell n).gen ≠ g then .next ((s.acquire core 2).complete core who id) else .next s
      | .ringClaim d n =>
        if k.canClaim n ∧ k.ringFirst (2 * n) = some who then
          let (k', v) := k.claim who n
          .next ((s.setCore core k').complete core who (fun t => t.wr (BitVec.ofNat 5 d) v))
        else .next s
      | .ringWait d n =>
        if 0 < (k.ring n).filled ∧ k.ringFirst (2 * n + 1) = some who then
          let (k', v) := k.take n
          .next ((s.setCore core k').complete core who (fun t => t.wr (BitVec.ofNat 5 d) v))
        else .next s
      | .tkrcv f =>
        if 0 < k.avail f then .next (((s.updCore core (fun k => k.pop f)).count core who 13 1).complete core who id)
        else .next s
      | .time v => if v ≤ s.timeNs then .next (s.complete core who id) else .next s
      | .frame v => if v ≤ s.frameOf core then .next (s.complete core who id) else .next s
      | .queueFull q => if (k.q q).count < Config.queueLen then again else .next s
      | .ctxStop n => if (k.getCtx n).inSet then .next s else .next (s.complete core who id)
      | .signal f => if t.heldSig = [] ∧ k.fifoRoom f then again else .next s
      | .tendBays => if (s.outstanding core who).isNone then again else .next s
      | .lot va i _ =>
        if s.taskHolds core va i then .next ((s.withdraw core who).updCtx core who Ctx.reissue) else .next s
      | .token286 =>
        if (k.task.map (·.irrev)).getD false ∧ k.heldAway = false then again else .next s
      | .farLines => match k.away.find? (fun f => f.fail.isSome) with
        | some f => .next (takeTrap (s.updCore core (fun k => { k with away := k.away.erase f })) core who (f.fail.getD 0) f.va t.pc)
        | none => if k.away = [] then again else .next s
      | _ => .next s

/-- Something waits for the context at its word boundary (R341). -/
def State.pendingAt (s : State) (c x : Nat) : Bool :=
  let k := s.core c
  let t := k.getCtx x
  t.bayPend ≠ [] || k.headTrap.any (fun h => h.ctx = x) || t.haltPend || t.slipPend.isSome ||
    (t.slackPend.isSome && t.pl = 0)

/-- The contexts of the running set of a core, ascending. -/
def Core.running (k : Core) : List Nat := (List.range 4).filter (fun x => (k.getCtx x).inSet)

/-- Every running context has reached its Y word (R104), nothing else is pending at it, and the slots of the clock are free (R102). -/
def State.yReady (s : State) (c : Nat) : Bool :=
  let k := s.core c
  k.running ≠ [] && k.frozen.isNone && k.holdFor.isNone && (k.issued.1 ≠ s.cc || k.issued.2.2 = 0) && k.filledAt ≠ some s.cc && k.running.all (fun x =>
    k.free x && (k.getCtx x).wait = some Wait.rendezvous && ! s.pendingAt c x && ! (k.getCtx x).stopReq)

/-- `Y_RENDEZVOUS` (R104): the Y words of all running contexts issue together, in the present clock: their turns come next, in
ascending order (log 1). -/
def execYRendezvous (core : Nat) (s : State) : Out :=
  if s.yReady core then
    let xs := (s.core core).running
    let s := s.updCore core (fun k => xs.foldl (fun (k : Core) x => k.updCtx x (fun t => { t.reissue with rendez := true })) k)
    .next { s with agenda := xs.map (fun x => Action.turn core x) ++ s.agenda }
  else .next s

/-- `HELD_SIGNAL_PUSH` (R106): the oldest held signal of a context is pushed when a place is free; a context that has executed `tend` or
`halt` reaches its state with the last. -/
def execHeldSignalPush (core who : Nat) (s : State) : Out :=
  let t := s.ctx core who
  match t.heldSig with
  | [] => .next s
  | f :: r =>
    if 4 ≤ who ∨ (s.core core).fifoRoom f = false then .next s
    else
      let waits : Bool := match t.wait with
        | some (.signal _) => true
        | _ => false
      let t := { t with heldSig := r, waived := t.waived && r ≠ [] }
      let t := if waits then (match r with
        | g :: _ => { t with wait := some (.signal g), stall := 0 }
        | [] => t.reissue.reachEnd) else t
      .next ((s.setCtx core who t).updCore core (fun k => k.push f))

/-- `TOKEN_DELIVERY` (R105, R107): the n-th token on its way arrives, or is discarded where a later task runs, or none. -/
def execTokenDelivery (n : Nat) (s : State) : Out :=
  match s.toks[n]? with
  | none => .next s
  | some t =>
    if s.cc ≤ t.since then .next s
    else
      let s := { s with toks := s.toks.eraseIdx n }
      .next (s.updCore t.core (fun k =>
        let k := { k with promised := Map.upd 0 k.promised t.fifo (· - 1) }
        if k.task.isSome ∧ k.starts = t.start then k.push t.fifo else k))

end Sys2Proof.Machine
end

