-- ==== Sys2Proof/Machine/Firmware.lean ====
section
/-!
DEFINITION. The tack firmware: images and slots (R424), boot (R426), the live swap (R425), restarts (R352), and the
package reset.
-/
namespace Sys2Proof.Machine

/-- Cycles of the package clock in a microsecond (R9). -/
def ccPerUs : Nat := 2400

/-! ### Images (R424) -/

/-- A little-endian number of an image. -/
def imageNum (im : Map Byte) (o n : Nat) : Nat :=
  match n with
  | 0 => 0
  | m + 1 => (Map.get 0 im o).toNat + 256 * imageNum im (o + 1) m

def imageVersion (im : Map Byte) : Nat := imageNum im 4 4
def imageArc (im : Map Byte) : BitVec 32 := BitVec.ofNat 32 (imageNum im 8 4)

def imageEntry (im : Map Byte) : Word := wnat (imageNum im 16 8)

/-- Bytes of an image from an offset. -/
def imagePart (im : Map Byte) (o n : Nat) : List Byte := (List.range n).map (fun i => Map.get 0 im (o + i))

/-- Bytes of an image: its header with the signatures, and its payload. -/
def imageBytes (im : Map Byte) : List Byte := imagePart im 0 (17112 + imageNum im 12 4)

/-- The payload's hash as the header has it, its first byte the most significant. -/
def imageHash (im : Map Byte) : BitVec 384 := BitVec.ofNat 384 ((imagePart im 24 48).foldl (fun a b => 256 * a + b.toNat) 0)

/-- The keys are those of the fuses, both signatures of bytes 0 to 503 verify, and the payload has its hash (R424). -/
def imageAuthentic (im : Map Byte) : Bool :=
  let rsa := imagePart im 72 384
  let slh := imagePart im 456 48
  let text := imagePart im 0 504
  Config.sha384 rsa = Config.rsaKeyHash && Config.sha384 slh = Config.slhKeyHash &&
    Config.rsaVerifies rsa text (imagePart im 504 384) && Config.slhVerifies slh text (imagePart im 888 16224) &&
    Config.sha384 (imagePart im 17112 (imageNum im 12 4)) = imageHash im

/-- A valid image: its magic, its keys, signatures and payload hash (log 15), and an ARC that is not below the counter. -/
def imageValid (im : Map Byte) (arc : BitVec 32) : Bool :=
  imageNum im 0 4 = 0x57445845 && imageAuthentic im && arc ≤ imageArc im

def Tack.slot (t : Tack) (b : Bool) : Map Byte := if b then t.slotB else t.slotA
def Tack.setSlot (t : Tack) (b : Bool) (im : Map Byte) : Tack := if b then { t with slotB := im } else { t with slotA := im }

/-- The active image starts at its ENTRY (R424), its measurement in the six registers, most significant dword first (R420). -/
def Tack.measure (t : Tack) : Tack :=
  let im := t.slot t.act
  let h := Config.sha384 (imageBytes im)
  { t with entry := imageEntry im
           meas := (List.range 6).foldl (fun m i => Map.set 0 m i (BitVec.ofNat 64 (h.toNat / 2 ^ (320 - 64 * i)))) [] }

/-- `tack.fwstat` (R420). -/
def Tack.fwstat (t : Tack) : Word :=
  wnat (t.act.toNat * 2 ^ 63 + t.trial.toNat * 2 ^ 62 + t.valid.toNat * 2 ^ 61 + t.arc.toNat)

/-! ### Boot and restarts (R426, R352, R425) -/

/-- The boot ROM verifies slot A and then slot B, and starts the first valid image. -/
def Tack.boot (t : Tack) (cc : Nat) : Tack :=
  let t := { t with trial := false, valid := false, oldSlot := none, swapReq := false, hbeatAt := cc }
  if imageValid t.slotA t.arc then { t with act := false, noImage := false }.measure
  else if imageValid t.slotB t.arc then { t with act := true, noImage := false }.measure
  else { t with noImage := true }

/-- The tack processors restart from the active slot, or from the previous one while the active image is on trial. A merge
or a swap that the firmware was serving is lost; its request still waits in the mailbox. -/
def Tack.restart (t : Tack) (cc : Nat) : Tack :=
  let t := { t with swapReq := false, swapWait := none, merging := none, hbeatAt := cc }
  match t.trial, t.oldSlot with
  | true, some b => { t with act := b, trial := false, oldSlot := none }.measure
  | _, _ => t

/-- `FIRMWARE_HANDOVER` (R425 step 4): at a quiesce point the other image starts, on trial. -/
def Tack.handover (t : Tack) (cc : Nat) : Tack :=
  ({ t with act := ! t.act, trial := true, oldSlot := some t.act, trialAt := cc, swapReq := false, hbeatAt := cc, stage := none }).measure

/-- Every unit of the package is reset (R352). Memory and the firmware slots with their counter are not units that a reset
clears (log 19); what lies outside the package stays. -/
def State.packageReset (s : State) : State :=
  let t : Tack := { slotA := s.tack.slotA, slotB := s.tack.slotB, arc := s.tack.arc, act := s.tack.act }
  { State.reset with
    agenda := s.agenda, free := s.free, pkg := s.pkg, mem := s.mem, poison := s.poison, fuses := s.fuses
    outbox := s.outbox, ethOut := s.ethOut, tack := t.boot 0 }

/-- `PACKAGE_RESET` (R352, R426). -/
def execPackageReset (s : State) : Out := .next s.packageReset

/-! ### The registers of the swap (R420, R425) -/

/-- `FWCTL_SWAP`: a write of SWAP asks for the swap while the other slot holds a verified image. -/
def State.fwSwap (s : State) : State := { s with tack := { s.tack with swapReq := s.tack.swapReq || s.tack.valid } }
def execFwctlSwap (s : State) : Out := .next s.fwSwap

/-- `FWCTL_COMMIT` (R425 step 5): within 1 s the trial image stays, and the anti-rollback counter takes its value. -/
def State.fwCommit (s : State) : State :=
  let t := s.tack
  if t.trial ∧ s.cc < t.trialAt + 1000000 * ccPerUs then { s with tack := { t with trial := false, oldSlot := none, arc := imageArc (t.slot t.act) } } else s
def execFwctlCommit (s : State) : Out := .next s.fwCommit

/-- `TRIAL_TIMEOUT` (R425 step 6): a trial of 1 s without COMMIT ends in the previous slot. -/
def execTrialTimeout (s : State) : Out :=
  if s.tack.trial ∧ s.tack.trialAt + 1000000 * ccPerUs ≤ s.cc then .next { s with tack := s.tack.restart s.cc } else .next s

/-- `TACK_HBEAT_WRITE` (R420): any write restarts the heartbeat watch, and ends a watch that has fired. -/
def State.heartbeat (s : State) : State :=
  { s with tack := { s.tack with hbeatAt := s.cc }, watches := s.watches.filter (fun w => w.kind ≠ 6) }
def execTackHbeatWrite (s : State) : Out := .next s.heartbeat

/-- `UNIT_READY` (R422, R426): a unit sets its bit (0 to 63 of RDY0, 64 to 95 of RDY1), HOST before any other; for the resident service the boot
ROM starts the first valid image. A fused-off core is never ready (R4). -/
def execUnitReady (bit : Nat) (s : State) : Out :=
  if bit ≠ 16 ∧ s.rdy0.getLsbD 16 = false then .next s
  else if bit = 36 then
    let t := if s.rdy0.getLsbD 36 then s.tack else s.tack.boot s.cc
    .next { s with tack := t, rdy0 := if t.noImage then s.rdy0 else s.rdy0 ||| wnat (2 ^ 36) }
  else if bit < 64 then
    .next { s with rdy0 := s.rdy0 ||| (wnat (2 ^ bit) &&& ~~~ wnat (0x7ff * 2 ^ 37)) }
  else
    .next { s with rdy1 := s.rdy1 ||| (BitVec.ofNat 32 (2 ^ (bit - 64)) &&& s.fuses) }

end Sys2Proof.Machine
end

