-- ==== Sys2Proof/Machine/Halter.lean ====
section
/-!
DEFINITION. The halter (R350 to R353): its watches, its ladder, its records, and the resets of a core and a shed.
-/
namespace Sys2Proof.Machine

/-! ### Records (R353) -/

/-- A halter record at a level. The second trap's value and pc stand in the record of a double trap only. -/
def State.record (s : State) (lvl watch core ctx : Nat) (cause : BitVec 5) (tval pc : Word) : State :=
  let shed := if watch = 5 then core else core / 4
  let c := if watch = 5 ∨ watch = 6 then 0 else core
  let pdk := if watch = 6 then 0 else (s.pdk (s.blkOf (if watch = 5 then 4 * core else core))).number
  let x := if watch = 5 then 0 else ctx
  { s with records := s.records ++ [[s.timeNs,
      wnat (lvl * 2 ^ 61 + watch % 32 * 2 ^ 56 + shed % 8 * 2 ^ 53 + c % 32 * 2 ^ 48 + x % 4 * 2 ^ 46 + pdk * 2 ^ 40 +
        cause.toNat * 2 ^ 35),
      if watch = 3 then tval else 0, if watch = 3 then pc else 0]] }

/-! ### Resets (R352) -/

/-- A dirty window line that can be read is written back, where its page may be written (R235, R250). -/
def State.saveWinLine (s : State) (c w i : Nat) : State :=
  match Map.get none ((s.core c).window w).lines i with
  | some l => if l.bad then s else s.writeBackWin c w i
  | none => s

/-- Every dirty line of a core, of its L1 and its windows, is written back. -/
def State.writeBackAll (s : State) (c : Nat) : State :=
  let s := ((s.core c).l1.map (·.1)).foldl (fun s ln => s.writeBackLine c ln) s
  (List.range 16).foldl (fun s w => ((s.core c).window w).dirtyLines.foldl (fun s i => s.saveWinLine c w i) s) s

/-- The queues of a core are emptied, and what has started is cut short. -/
def Core.clearQueues (k : Core) : Core :=
  let clr (q : EngQ) : EngQ := { q with q := [], fl := [], stop := none, stall := 0, stallOf := none }
  { k with
    vxe := { k.vxe with q := clr k.vxe.q }, mxe := { k.mxe with q := clr k.mxe.q, nest := none }
    cpe := { k.cpe with q := clr k.cpe.q, work := [] }, fences := [], blkOps := [] }

/-- The end of a core's task by force: its dirty lines are written back, its pen is discarded, its contexts stop; bays go
on. `finish` says what its launch learns. -/
def State.stopCore (s : State) (c : Nat) (finish : State → State) : State :=
  let s := s.writeBackAll c
  let s := finish { s with reqs := s.reqs.filter (fun r => r.core ≠ c) }
  s.updCore c (fun k => k.clearQueues.dropTask)

/-- The contexts of a core at reset (R12), and its token FIFOs empty (R105). The count of words retired at U, by which a watch knows
its end (R350), goes on. -/
def Core.resetCtxs (k : Core) : Core :=
  { k with
    fifo := [], fresh := []
    ctx := (List.range 4).foldl (fun m x => Map.set Ctx.reset m x { Ctx.reset with retiredU := (k.getCtx x).retiredU }) [] }

/-- A core is reset (R12, R105, R352). `finish` says what its launch learns. -/
def State.resetCore (s : State) (c : Nat) (finish : State → State) : State := (s.stopCore c finish).updCore c Core.resetCtxs

/-- A core reset by a level of the ladder (R352). -/
def State.coreReset (s : State) (c lvl : Nat) : State :=
  s.resetCore c (fun s => s.finishTask c codeFault (0x80000000 + lvl * 256 + c))

/-- The XCE or SFE of a shed is reset: its admitted bays complete with ABANDONED. -/
def State.resetEngine (s : State) (cls unit : Nat) : State :=
  let s := (List.range (bayCount cls)).foldl (fun s n => match (s.eng cls unit).bay n with
    | some b => s.endBay cls unit n b { st := s, code := codeAbandoned } true
    | none => s) s
  s.setEng cls unit { Eng.reset with cnt := (s.eng cls unit).cnt }

/-- A shed reset: its engines first, so that requesters elsewhere learn of it, and its four cores. -/
def State.shedReset (s : State) (j lvl : Nat) : State :=
  let s := (s.resetEngine 0 j).resetEngine 1 j
  [0, 1, 2, 3].foldl (fun s i => s.coreReset (4 * j + i) lvl) s

/-! ### Watches (R350) -/

/-- What a core has retired: words and queue entries. -/
def Core.progress (k : Core) : Nat :=
  k.retiredWords + ([0, 1, 2].map (fun e => ((k.q e).next.toNat - (k.q e).count))).sum

/-- No progress for 1 ms, while some context is neither parked nor ended. -/
def State.noProgress (s : State) (c : Nat) : Bool :=
  let k := s.core c
  k.task.isSome && k.progress = k.progN && k.progAt + 1000 * ccPerUs ≤ s.cc &&
    (List.range 4).any (fun x => (k.getCtx x).run ≠ .parked && (k.getCtx x).run ≠ .ended)

/-- The pre-emption point is later than `epi.max` after the request (R355). -/
def State.overrun (s : State) (c : Nat) : Bool :=
  let k := s.core c
  match k.request, k.task with
  | some r, some t => ! k.point && r.at_ + t.epi < s.cc
  | _, _ => false

/-- A bay that exceeds twice its service bound. -/
def State.bayLate (s : State) (shed n : Nat) : Bool :=
  match (s.eng (n / 8 % 2) shed).bay (n % 8) with
  | some b => b.since + 2 * s.service b.req < s.cc
  | none => false

/-- The heartbeat register has not been written for 10 ms. -/
def State.noHeartbeat (s : State) : Bool := s.tack.hbeatAt + 10000 * ccPerUs ≤ s.cc

/-- The condition of a watch that has fired has ended. -/
def State.watchOver (s : State) (w : Watch) : Bool :=
  match w.kind with
  | 0 => ! s.noProgress w.core
  | 1 => (s.ctx w.core w.ctx).retiredU ≠ w.mark
  | 2 => (s.ctx w.core w.ctx).retiredU ≠ w.mark
  | 3 => false
  | 4 => ! s.overrun w.core
  | 5 => ! s.bayLate w.core w.ctx
  | _ => ! s.noHeartbeat

/-- The level at which a watch enters the ladder, and the one that follows a level. -/
def entryLevel (kind : Nat) : Nat := if kind = 1 ∨ kind = 2 then 1 else if kind = 6 then 4 else 0
def nextLevel (kind lvl : Nat) : Option Nat :=
  if kind = 4 ∨ 5 ≤ lvl then none
  else if kind = 3 ∧ lvl = 0 then some 2
  else if kind = 5 ∧ lvl = 0 then some 3
  else some (lvl + 1)

/-- A level is taken: its record, the interrupt of the function whose task the core runs (R372), and its action. -/
def State.takeLevel (s : State) (w : Watch) (lvl : Nat) : State :=
  let s := s.record lvl w.kind w.core w.ctx w.cause w.tval w.pc
  let s := if w.kind < 5 ∧ (s.core w.core).task.isSome then s.interrupt (s.coreVf w.core) 3 (lvl * 256 + w.kind) else s
  let s := { s with watches := s.watches.map (fun (v : Watch) =>
    if v = w then { v with level := lvl, since := s.cc } else v) }
  match lvl with
  | 0 => s
  | 1 => s.updCtx w.core 3 (fun t => { t with haltPend := true })
  | 2 => s.coreReset w.core 2
  | 3 => s.shedReset (if w.kind = 5 then w.core else w.core / 4) 3
  | 4 => { s with tack := s.tack.restart s.cc }
  | _ => s.packageReset

/-- A watch fires and enters the ladder. -/
def State.fire (s : State) (w : Watch) : State :=
  ({ s with watches := s.watches ++ [w] } : State).takeLevel w (entryLevel w.kind)

/-- `HALTER_WATCH_FIRE` (R350): a condition that the machine has noted (1 to 3), or one that is observed now. -/
def execHalterWatchFire (kind core ctx : Nat) (s : State) : Out :=
  let known := s.watches.filter (fun w => w.kind = kind && w.core = core && w.ctx = ctx)
  match known.find? (fun w => w.level = 15), known with
  | some w, _ => .next (s.takeLevel w (entryLevel kind))
  | none, _ :: _ => .next s
  | none, [] =>
    let due : Bool := match kind with
      | 0 => core < Config.numCores && ctx = 0 && s.noProgress core
      | 4 => core < Config.numCores && ctx = 0 && s.overrun core
      | 5 => core < 8 && ctx < 16 && s.bayLate core ctx
      | 6 => core = 0 && ctx = 0 && s.noHeartbeat
      | _ => false
    if due then .next (s.fire ⟨kind, core, ctx, 15, s.cc, 0, 0, 0, 0⟩) else .next s

/-- `HEARTBEAT_TIMEOUT` (R350): the heartbeat watch fires at level 4; a trial ends in the previous slot (R425). -/
def execHeartbeatTimeout (s : State) : Out :=
  if s.noHeartbeat ∧ s.watches.all (fun w => w.kind ≠ 6) then .next (s.fire ⟨6, 0, 0, 15, s.cc, 0, 0, 0, 0⟩) else .next s

/-- The timeout after a level in µs (R351, R421). -/
def toReset (n : Nat) : Word := if n = 0 then 100 else if n = 3 then 10000 else if n = 4 then 100000 else 1000
def State.timeout (s : State) (n : Nat) : Nat := wbits (Map.get (toReset n) s.tack.tos n) 0 32

/-- `HALTER_LEVEL_TIMEOUT` (R351): the n-th watch is over, or still fires after its level's timeout and takes the next. -/
def execHalterLevelTimeout (n : Nat) (s : State) : Out :=
  match s.watches[n]? with
  | none => .next s
  | some w =>
    if s.watchOver w then .next { s with watches := s.watches.eraseIdx n }
    else if w.level = 15 then .next s
    else match nextLevel w.kind w.level with
      | none => .next s
      | some l => if w.since + s.timeout w.level * ccPerUs ≤ s.cc then .next (s.takeLevel w l) else .next s

end Sys2Proof.Machine
end

