-- ==== Sys2Proof/Machine/MemEvents.lean ====
section
/-!
DEFINITION. Events of memory: stores that are performed and answers that arrive (R345, R379), block operations (R241), HC
accesses from outside and lease ends (R247, R234), fills of windows and operand queues (R234, R316), the ends of freezes (R345,
R347), the farrier (R348, R349), shootdowns (R253, R409) and page walks (R252).
-/
namespace Sys2Proof.Machine

/-! ### Scalar accesses -/

/-- `STORE_PERFORM` (R345): the oldest pending store of a context is visible, and its signals act; what it forces has its class (R302). -/
def execStorePerform (core ctx : Nat) (s : State) : Out :=
  match (s.ctx core ctx).stores with
  | p :: _ => .next (s.under core ctx p.slk p.ske (fun s => s.performStore core ctx))
  | [] => .next s

/-- The cause that a failing answer raises at a scalar access (R379, R382). -/
def scalarCause (r : Reply) : Option (BitVec 5) :=
  match r with
  | .xlat => some Cause.xlat
  | .prot => some Cause.prot
  | .unreachable => some Cause.fwdx
  | .ecc => some Cause.ecc
  | _ => none

/-- A remote answer to an access of a core: the state after its hint, and the data with the timestamp (0 but for an HC page,
R258, R298) or the cause. The sending package
itself answers as unreachable where no route leads to the target (R382). `again` is the second attempt of a hinted access (R381). -/
inductive Answered where
  | data (s : State) (d : List Word) (ts : Word)
  | cause (c : BitVec 5)
  | waits (s : State)
  | again (s : State)

def State.answered (s : State) (c pkg off : Nat) (rep : Reply) : Answered :=
  match s.secondTry c pkg off rep with
  | some s' => .again s'
  | none =>
    match rep with
    | .value d a ts => .data (s.noteReply c pkg off a) d ts
    | .home => if (s.reach c (c / 4) pkg off).isNone then .cause Cause.fwdx else .waits s
    | r => match scalarCause r with
      | some cz => .cause cz
      | none => .waits s

/-- The answer to the word that a context waits at. -/
def State.replyTo (s : State) (c x : Nat) (rep : Reply) : State :=
  let t := s.ctx c x
  let trap (cz : BitVec 5) (va : Word) : State := takeTrap s c x cz va t.pc
  let far (p : Place) (va : Word) (f : State → List Word → State) (near : Nat → BitVec 2 → Bool → State) : State := match p with
    | .remote pkg off => match s.answered c pkg off rep with
      | .data s' d ts => f (s'.updCtx c x (fun t => { t with pts := maxW t.pts ts })) d
      | .cause cz => trap cz va
      | .waits s' => s'
      | .again s' => match t.wait with
        | some w => s'.sendWait c x w
        | none => s'
    | .phys pa cls ms =>
      if rep = .unreachable ∧ hostPlace pa cls then trap Cause.fwdx va else if rep = .home then near pa cls ms else s
  let got (s : State) (va : Word) (v : Option Word) : State :=
    s.updCtx c x (fun t => { t.reissue with gotten := Map.set none t.gotten va.toNat v })
  match t.wait with
  | some (.load d va w signed p) => far p va
      (fun s' r => s'.complete c x (fun t => t.wr (BitVec.ofNat 5 d) (extend ((r.headD 0).toNat % 2 ^ (8 * w)) w signed)))
      (fun pa cls ms => match loadDone s c x (BitVec.ofNat 5 d) va w signed pa cls ms with
        | .done s' => s'.complete c x id
        | _ => trap Cause.ecc va)
  | some (.remoteStore va w v p) => far p va (fun s' _ => s'.complete c x id)
      (fun pa cls ms => ((s.drainStores c x).placeStore c x (.phys pa cls ms) w v.toNat).complete c x id)
  | some (.remoteAmo d op va w v cmp p) => far p va
      (fun s' r => s'.complete c x (fun t => t.wr (BitVec.ofNat 5 d) (amoOld w ((r.headD 0).toNat % 2 ^ (8 * w)))))
      (fun pa cls ms =>
        let (s', old, poi) := amoAt (s.drainStores c x) c x op pa w v.toNat cmp.toNat cls ms
        if poi then trap Cause.ecc va else s'.complete c x (fun t => t.wr (BitVec.ofNat 5 d) (amoOld w old)))
  | some (.block va p) => far p va (fun s' r => got s' va (some (r.headD 0)))
      (fun pa cls ms =>
        let (s', v, poi) := s.loadNow c x pa 8 cls ms
        if poi then trap Cause.ecc va else got s' va (some (wnat v)))
  | some (.blockStore va v p) => far p va (fun s' _ => got s' va (some 0))
      (fun pa cls ms => got (s.placeStore c x (.phys pa cls ms) 8 v.toNat) va (some 0))
  | some (.farInvi (_ :: r)) => match rep with
    | .home => s
    | _ => if r = [] then s.complete c x id else s.updCtx c x (fun t => { t with wait := some (.farInvi r) })
  | _ => s

/-- The answer to a line of a core that is on its way to another package, or behind the host port (R236, R269): a failure is kept for the word that
waits, with the line dirty again where its window still maps it (log 102); in a save it is dropped (log 105). -/
def State.answerAway (s : State) (c : Nat) (f : FarLine) (rep : Reply) : State :=
    let failed (cz : BitVec 5) : State := s.updCore c (fun k =>
        let w := k.window f.win
        let back : Bool := w.v && f.keep = 0 && f.host.isNone && winVa w f.idx = f.va
        let k := if back then k.putWinLine f.win f.idx { dirty := true, cls := 1 } f.data else k
        { k with away := if k.point then k.away.erase f else k.away.map (fun g => if g = f then { f with fail := some cz } else g) })
    match f.host with
    | some ln => match rep with
      | .home => (s.writeBackLine c ln).updCore c (fun k => { k with away := k.away.erase f })
      | .unreachable => failed Cause.fwdx
      | _ => s
    | none => match s.answered c f.pkg f.off rep with
    | .waits s' => s'
    | .again s' => s'.lineReq c f.va f.pkg f.off f.data f.keep
    | .data s' _ _ => s'.updCore c (fun k => { k with away := k.away.erase f })
    | .cause cz => failed cz

/-- The answer to the oldest line of a core that is on its way. -/
def State.replyAway (s : State) (c : Nat) (rep : Reply) : State :=
  match (s.core c).away.find? (fun f => f.fail.isNone) with
  | none => s
  | some f => s.answerAway c f rep

/-! ### Lines of stash windows (R234) -/

/-- A window line that another package's answer brings. No copy of it is kept (R245). -/
def State.putRemoteLine (s : State) (c w i : Nat) (d : Line) : State :=
  s.updCore c (fun k => k.putWinLine w i { ms := true } d)

/-- The scratchpad lines that an operand of a step reads, and those of the accesses that a started command has still to make (R188, R206). -/
def OpdSrc.lines (o : OpdSrc) (n : Nat) : List Nat :=
  match o with
  | .spad a => spadLines a n
  | .popped _ _ => []
def StepIn.lines (p : StepIn) : List Nat :=
  p.a.lines ((geom p.e).2.1 + sclA p.e) ++ p.b.lines ((geom p.e).2.2 + sclB p.e)
def Flight.lines (f : Flight) : List Nat := f.look.flatMap (fun p => spadLines p.1 p.2) ++ (match f.step with
  | some p => p.lines
  | none => [])

/-- A window line that the access of a started command finds invalid, with its engine: of the VXE, of a command or a move of the MXE, or of
the nest. A command that has met a failure goes on without it. -/
def Core.accessNeed (k : Core) : Option (Nat × Entry × Nat × Nat) :=
  let flight (e : Nat) (f : Flight) : Option (Nat × Entry × Nat × Nat) :=
    if f.cause.isSome then none
    else (k.firstNeed (f.lines ++ if e = 1 then f.post.map (·.ln) else [])).map (fun p => (e, f.ent, p.1, p.2))
  match k.vxe.q.fl.findSome? (flight 2), k.mxe.q.fl.findSome? (flight 1) with
  | some r, _ => some r
  | none, some r => some r
  | none, none => match k.mxe.nest with
    | some n => if n.held then none else match n.pend with
      | some p => (k.firstNeed p.lines).map (fun q => (1, n.ent, q.1, q.2))
      | none => none
    | none => none

/-- The scratchpad accesses of the commands and the step that started in the clock that ends (R172, R188, R206): they are made in the
next one, before anything else of it. A memory-side window line then leaves its window (R245). -/
def State.engineAccess (s : State) (c : Nat) : State :=
  let k := s.core c
  let now (q : EngQ) : Bool := q.fl.any (fun f => f.at_ = k.clk)
  let pend : Bool := match k.mxe.nest with
    | some n => n.pend.isSome && ! n.held
    | none => false
  if now k.vxe.q = false ∧ now k.mxe.q = false ∧ pend = false then s
  else
    let s := s.updCore c (fun k =>
      let k := k.lookAll 2 k.vecLine
      (k.lookAll 1 (k.matLine 0)).stepMade.nestMade)
    (s.movesLand c).updCore c Core.dropUsed

/-- An access that finds its window line invalid freezes the core until the line arrives (R234, R345). A core that a wound has reached does
not wait (R285). -/
def State.accessWait (s : State) (c : Nat) : Option State :=
  let k := s.core c
  if k.wounded then none else k.accessNeed.map (fun r => s.freezeOwn c r.1 r.2.1 r.2.2.1 r.2.2.2)

/-- A started command, or the running nest, ends with a cause and its queue stops after it; an access that waits is made with zeros in the
place of its late line. -/
def State.lateOwn (s : State) (c e seq : Nat) (cause : BitVec 5 × Word) : State :=
  let s := s.updCore c (fun k => k.updQ e (fun q => ({ q with fl := q.fl.map (fun f =>
    if f.ent.seq.toNat = seq ∧ f.cause = none then { f with cause := some cause } else f) } : EngQ).stopFrom k.clk))
  s.engineAccess c

/-- The trap of a fill that fails: at the head of the accessing queue; a nest waits for the return (R109, R234). A command that has started
ends with the cause instead (log 128). -/
def State.fillFails (s : State) (c : Nat) (f : Freeze) (cz : BitVec 5) (va : Word) : State :=
  let nest : Bool := f.eng = 1 && (s.core c).mxe.nest.isSome
  let s := s.updCore c (fun k => { k with
    frozen := none, mxe := if f.eng = 1 then { k.mxe with nest := k.mxe.nest.map (fun (n : Nest) => { n with held := true }) } else k.mxe })
  match f.own with
  | some seq => if nest then s.raiseHead c 1 f.ctx cz va else s.lateOwn c f.eng seq (cz, va)
  | none => s.raiseHead c f.eng f.ctx cz va

/-- What another package, or the host port, answers to the fill of a frozen engine with a failure: an uncorrectable line is filled as one
(R189, R208), an unreachable target fails the CPE's command (R318) and brings no line to the MXE and the VXE, whose freeze goes on to its limit (R196,
log 128), and a failed translation is the head's trap. -/
def State.fillAnswer (s : State) (c : Nat) (f : Freeze) (cz : BitVec 5) : State :=
  if cz = Cause.ecc then
    s.updCore c (fun k => { k.putWinLine f.win f.idx { ms := true, bad := true } 0 with frozen := none })
  else if cz = Cause.fwdx ∧ f.eng ≠ 0 then s
  else s.fillFails c f cz (winVa ((s.core c).window f.win) f.idx)

/-- A window line of this package, or behind the host port, is filled from its home (R234); one that a delivery has written in the freeze is not (R405). -/
def State.fillHere (s : State) (c : Nat) (f : Freeze) : State :=
  if (s.core c).winHas f.win f.idx then s.updCore c (fun k => { k with frozen := none })
  else match s.fillWin c f.win f.idx f.atU with
  | .ok s' => s'.updCore c (fun k => { k with frozen := none })
  | .error (cz, va) => s.fillFails c f cz va

/-- The answer to the fill of a window line for a frozen engine. -/
def State.replyFrozen (s : State) (c e : Nat) (rep : Reply) : State :=
  match (s.core c).frozen with
  | none => s
  | some f =>
    let va := winVa ((s.core c).window f.win) f.idx
    if f.line = false ∨ f.eng ≠ e then s
    else if rep ≠ .home ∧ (s.core c).winHas f.win f.idx then s.updCore c (fun k => { k with frozen := none })
    else match s.translate c va .read f.atU with
      | .ok (.remote pkg off) => match s.answered c pkg off rep with
        | .data s' d ts => ((s'.raisePts c ts).putRemoteLine c f.win f.idx (lineOfWords d)).updCore c (fun k => { k with frozen := none })
        | .cause cz => s.fillAnswer c f cz
        | .waits s' => s'
        | .again s' =>
          let (_, k, z) := s'.forcer c
          s'.sendBy c f.ctx k z f.lvl { kind := 3, unit := f.eng + 1, rlen := 128, addr := va, arg0 := 128 } (.remote pkg off) []
      | .ok (.phys pa cls _) =>
        if hostPlace pa cls = false then s
        else match rep with
          | .home => s.fillHere c f
          | .unreachable => s.fillAnswer c f Cause.fwdx
          | _ => s
      | .bad _ => s

/-- The answer to a window line that a bay of the core waits for: the line comes, and the bay may ask anew, or its work fails. -/
def State.replyLine (s : State) (c : Nat) (atU : Bool) (lns : List Nat) (rep : Reply)
    (fails : State → BitVec 5 → Word → State) (fresh : State → State) : State :=
  match s.remoteNeed c atU lns with
  | none => s
  | some (w, i) =>
    let va := winVa ((s.core c).window w) i
    match s.translate c va .read atU with
    | .ok (.remote pkg off) => match s.answered c pkg off rep with
      | .data s' d ts => fresh ((s'.raisePts c ts).putRemoteLine c w i (lineOfWords d))
      | .cause cz => fails s cz va
      | .waits s' => s'
      | .again s' => fresh s'
    | _ => s

/-- The answer to the window line that a bay waits for: the bay goes on, or ends with what failed. -/
def State.bayLineReply (s : State) (cls u n : Nat) (b : Bay) (rep : Reply) : State :=
  s.replyLine b.req.core b.req.atU (reqLines b.req) rep (fun s cz va => s.endBay cls u n b (endWith s 0 (some (0, cz, va)) 0) true)
    (fun s => s.updEng cls u (fun e => e.setBay n (some { b with asked := false })))

/-- The bay of a core that waits for a window line: class, unit and number. -/
def State.bayNeeds (s : State) (c : Nat) : Option (Nat × Nat × Nat × Bay) :=
  s.engs.findSome? (fun e => e.2.bays.findSome? (fun b => match b.2 with
    | some y =>
      if y.req.core = c ∧ (s.remoteNeed c y.req.atU (reqLines y.req)).isSome then some (e.1 / 8, e.1 % 8, b.1, y) else none
    | none => none))

/-- `LOAD_REPLY` (R345), which a freeze or a stopped queue does not hold back: the answer to the word of context `ctx` (0 to 3), or the data of a window line that the CPE's head
(4), the MXE (5), the VXE (6) or a bay (7) waits for, or the acknowledgement of a line that was written back (8). -/
def execLoadReply (core ctx : Nat) (rep : Reply) (s : State) : Out :=
  if ctx < 4 then
    let t := s.ctx core ctx
    .next (if t.run = .running then s.under core ctx t.slk.toNat (t.skEntry t.slk.toNat) (fun s => s.replyTo core ctx rep) else s)
  else if ctx < 7 then .next (s.replyFrozen core (ctx - 4) rep)
  else if ctx = 8 then .next (s.replyAway core rep)
  else match s.bayNeeds core with
    | some (cls, u, n, b) => .next (s.bayLineReply cls u n b rep)
    | none => .next s

/-- `STASH_FILL` (R234): the line that a frozen engine waits for is filled from its home in this package; one of another package or behind the
host port comes with its answer. -/
def execStashFill (core : Nat) (s : State) : Out :=
  match (s.core core).frozen with
  | none => .next s
  | some f =>
    if f.line = false then .next s
    else match s.translate core (winVa ((s.core core).window f.win) f.idx) .read f.atU with
      | .ok (.remote _ _) => .next s
      | .ok (.phys pa cls _) => .next (if hostPlace pa cls then s else s.fillHere core f)
      | .bad _ => .next (s.fillHere core f)

/-! ### Block operations (R241) -/

/-- The n-th block operation of a kind ends: its slot fills. -/
def State.endBlk (s : State) (c n : Nat) (wb : Bool) : State :=
  match ((s.core c).blkOps.filter (fun b => b.wb = wb))[n]? with
  | none => s
  | some b => (s.updCore c (fun k => { k with blkOps := k.blkOps.erase b })).engineFill c b.slot (completion b.code b.info)

/-- `BLOCK_FILL_COMPLETE`, of an `lblk`; `BLOCK_WRITEBACK_COMPLETE`, of a `wblk` or `eblk`. -/
def execBlockFillComplete (core n : Nat) (s : State) : Out := .next (s.endBlk core n false)
def execBlockWritebackComplete (core n : Nat) (s : State) : Out := .next (s.endBlk core n true)

/-! ### HC lines (R247) -/

/-- `HC_HOME_ACCESS` (R247): an access that reaches a home from outside the cores: a load when `wr` lists no byte. -/
def execHcHomeAccess (line : Nat) (wr : List (Nat × Byte)) (pts : Word) (s : State) : Out :=
  if wr = [] then .next (s.hcFetch line pts).1
  else
    let s := wr.foldl (fun (s : State) e => s.setByte (128 * line + e.1 % 128) e.2) s
    .next (s.hcStore line pts).1

/-- `LEASE_EXPIRY` (R234, R246): a core's copies of a line whose lease has ended for all its contexts are invalid. -/
def execLeaseExpiry (core line : Nat) (s : State) : Out :=
  .next (s.updCore core (fun k =>
    let p := k.maxPts
    let low := (List.range 4).all (fun x => match k.line line with
      | some l => l.cls = 0 && l.rts < (k.getCtx x).pts
      | none => false)
    let k := if low then k.dropLine line else k
    { k with wins := k.wins.map (fun w => (w.1, w.2.dropLines (fun _ l =>
        l.inv || ! (l.cls = 0 && ! l.ms && l.pa / 128 = line && l.rts < p)))) }))

/-! ### Operand queues and freezes (R316, R345, R347) -/

/-- Positions, among the lines on their way, of those that fill the first unfilled entry of an operand queue. -/
def State.oqLines (s : State) (c q : Nat) : List Nat :=
  let out := (s.core c).cpe.work.flatMap (fun w => w.out.map (fun m => (w.ent, m)))
  match (((s.core c).queueOf q).find? (fun e => e.left ≠ [])) with
  | none => []
  | some e => (List.range out.length).filter (fun n => match out[n]? with
    | some (ent, m) => match (copySides ent m).2 with
      | .oq r k _ => ent.seq = e.seq && r = q && k = e.k
      | _ => false
    | none => false)

/-- `OQ_ENTRY_FILL` (R316): the lines of an entry that are on their way from homes of this package arrive, the last first so
that the positions of the others stay. -/
def execOqEntryFill (core q : Nat) (s : State) : Out :=
  .next ((s.oqLines core q).reverse.foldl (fun s n => match execCopyLineComplete core n .home s with
    | .next s' => s'
    | _ => s) s)

/-- What a frozen core waits for has come. -/
def State.freezeOver (s : State) (c : Nat) (f : Freeze) : Bool :=
  let k := s.core c
  match f.ends with
  | some n => n ≤ s.cc
  | none =>
    if f.line then k.winHas f.win f.idx
    else match (k.queueOf f.win)[f.idx]? with
      | some e => e.left = []
      | none => false

/-- `FREEZE_END` (R345). -/
def execFreezeEnd (core : Nat) (s : State) : Out :=
  match (s.core core).frozen with
  | some f => .next (if s.freezeOver core f then s.updCore core (fun k => { k with frozen := none }) else s)
  | none => .next s

/-- A command whose result stands in the engine from its start: in the stream, the shadow table, the format table or its slot's value. -/
def instant (i : Instr) : Bool :=
  match i with
  | .vpushc _ _ _ => true
  | .mxcfg _ _ => true
  | .mxfmt _ _ _ => true
  | .mxstat _ _ _ => true
  | _ => false

/-- A command whose result is refused by its residue check, by its number. -/
def EngQ.checking (q : EngQ) (seq : Nat) : Option Flight :=
  q.fl.find? (fun f => f.ent.seq.toNat = seq && (! f.done || f.post ≠ [] || instant f.ent.ins))

/-- What such a command has written is 0 (R348). -/
def Core.voidInstant (k : Core) (f : Flight) : Core :=
  match f.ent.ins with
  | .vpushc _ _ _ =>
    let l := k.vxe.stream
    { k with vxe := { k.vxe with stream := l.take (l.length - f.pushed) ++ List.replicate (min f.pushed l.length) 0 } }
  | .mxcfg _ _ => { k with mxe := { k.mxe with shadow := [] } }
  | .mxfmt _ d _ => { k with mxe := { k.mxe with fmt := Map.set 0 k.mxe.fmt d.toNat 0 } }
  | _ => k

/-- Its destination bytes are written as zero. -/
def RegWrite.zeroed (w : RegWrite) : RegWrite :=
  match w with
  | .vreg n _ keep => .vreg n 0 keep
  | .mask n _ => .mask n 0
  | .scale n _ => .scale n 0
  | .tile key _ => .tile key 0
  | .slot n _ => .slot n 0
def Flight.zeroed (f : Flight) (cause : BitVec 5 × Word) : Flight :=
  { f with
    look := [], step := none, cause := some cause
    fill := if instant f.ent.ins then f.fill.map (fun p => (p.1, completion codeDone 0)) else f.fill
    writes := f.writes.map RegWrite.zeroed, post := f.post.map (fun (w : SpadWrite) => { w with data := 0 }) }

/-- The destination bytes of a nest, by its number, are 0: its tile, the stores that it holds, and what its later steps make (R348). -/
def Core.voidNest (k : Core) (seq : Nat) (cause : BitVec 5 × Word) : Core :=
  match k.mxe.nest with
  | some n =>
    if n.ent.seq.toNat ≠ seq then k
    else
      let t := (List.range 128).foldl (fun t i => Map.set 0 t (128 * n.tile + i) 0) k.mxe.t
      let n' := { n with void := true, stores := n.stores.map (fun st => { st with data := 0 }) }
      { k with mxe := { k.mxe with t := t, nest := some n' } }.nestCause n (some cause)
  | none => k

/-- The clocks of a re-execution (R348): the command's latency, for a nest without its pauses (R212). -/
def Core.latency (k : Core) (f : Flight) : Nat :=
  match f.ent.ins, k.mxe.nest with
  | .mxgo _ _ _, some n =>
    let e := k.mxe.entry ((n.fb + ((n.levels.getD 5 {}).count - 1)) % 16)
    n.total + 11 + (if n.levels.any (·.st) then 2 * elemSize (fmtOut e) else 0)
  | _, _ => f.wclk - f.at_


/-- A started command that a freeze of KIND 2 or 3 holds takes its late data as zero and ends with FRZ (R347): the gather, or the one that is
executed again, of number `f.idx`; its queue stops after it. -/
def Core.cutShort (k : Core) (f : Freeze) : Core :=
  let k := if f.eng = 1 then k.voidNest f.idx (Cause.frz, frzVal f) else k
  k.updQ f.eng (fun q => ({ q with fl := q.fl.map (fun g =>
    if g.ent.seq.toNat = f.idx then g.zeroed (Cause.frz, frzVal f) else g) } : EngQ).stopFrom k.clk)

/-- The waiting command goes on with its late data as zero (R347): the store of a nest, a step of it, or a queue's head. -/
def State.goLate (s : State) (c : Nat) (f : Freeze) : State :=
  let k := s.core c
  if f.ends.isSome then s.updCore c (fun k => k.cutShort f)
  else if f.own.isSome then s.lateOwn c f.eng (f.own.getD 0) (Cause.frz, frzVal f)
  else if f.eng = 1 then
    match k.mxe.nest with
    | some n =>
      let draining : Bool := match n.stores with
        | t :: _ => t.ends ≤ k.clk && (k.firstNeed (spadLines t.addr t.bytes)).isSome
        | [] => false
      if draining then s.drainNest c (some f) else s.nestStep c (some f)
    | none => match k.mxe.q.q with
      | ent :: _ => s.startMxe c ent (some f)
      | [] => s
  else match (k.q f.eng).q with
    | ent :: _ => if f.eng = 0 then s.startCpe c ent (some f) else s.startVxe c ent (some f)
    | [] => s

/-- `FREEZE_LIMIT` (R347): a freeze of LIMIT cc ends with FRZ. A wound has ended it otherwise (R285). -/
def execFreezeLimit (core : Nat) (s : State) : Out :=
  let k := s.core core
  match k.frozen with
  | some f =>
    if k.frzMax.toNat ≤ s.cc - f.since ∧ s.freezeOver core f = false then
      .next ((s.updCore core (fun k => { k with frozen := none })).goLate core f)
    else .next s
  | none => .next s

/-! ### The farrier (R348, R349, R225, R242, R244) -/

/-- The Yard stop of a failure: the home stack of an HBM address, a link's port (`core` is its number), else the core's shed. -/
def State.farStop (s : State) (unit core addr : Nat) : Nat :=
  if unit = 1 then 8 + (match homeStack (s.pdk (s.coreBlk core)) addr with
    | some (k, _) => k
    | none => addr / 128 % 8)
  else if unit = 3 then 18 + core % 18 else core / 4

/-- One entry of the farrier's log, with the time of the first failure (log 96). -/
def State.farLog (s : State) (unit core addr : Nat) (lasting : Bool) (synd time : Word) : State :=
  let n := Map.get 0 s.farCnt unit + 1
  let stop := s.farStop unit core addr
  let core := if unit = 1 ∨ unit = 3 then 0 else core
  { s with
    farCnt := Map.set 0 s.farCnt unit n
    farrier := s.farrier ++ [[time,
      wnat (unit * 2 ^ 60 + lasting.toNat * 2 ^ 59 + stop % 64 * 2 ^ 53 + core % 32 * 2 ^ 48 + addr % 2 ^ 48), synd, n]] }

/-- The effect of a failure that a retry has not mended, or of the retry itself (R348): units 0 scratchpad, 1 HBM, 2 L1, 4
MXE, 5 VXE. An address of the MXE from 2^32 on names an element of a tile and no command (R208, log 115). A clean L1 line is fetched again
as a load would fetch it (R242, R247). A command is executed once more whether that mends it or not, and the core freezes meanwhile
(log 114). -/
def State.farEffect (s : State) (unit core addr : Nat) (lasting : Bool) : State :=
  let k := s.core core
  match unit with
  | 0 => if lasting then s.updCore core (fun k => { k with badSec := (addr / 32) :: k.badSec.filter (· ≠ addr / 32) }) else s
  | 1 => if lasting then s.setPoison (addr / 128) 0xffffffff true else s
  | 2 => match k.line (addr / 128) with
    | some l =>
      if l.dirty ≠ 0 then s.updCore core (fun k => k.setLine (addr / 128) (some { l with poison := l.poison ||| l.dirty }))
      else if lasting then s.updCore core (fun k => k.setLine (addr / 128) (some { l with poison := l.poison ||| l.valid }))
      else
        let ln := addr / 128
        let (s, h) := if l.cls = 0 then s.hcFetch ln k.maxPts else (s, ⟨l.wts, l.rts⟩)
        s.updCore core (fun k => k.setLine ln (some { l with
          data := mergeWords l.data (s.homeLine ln) l.valid, poison := s.linePoison ln &&& l.valid, wts := h.wts, rts := h.rts }))
    | none => s
  | 3 => s
  | _ =>
    if unit = 4 ∧ 2 ^ 32 ≤ addr then
      (if lasting then s.updCore core (fun k => { k with mxe := { k.mxe with
        badT := addr % 2 ^ 16 :: k.mxe.badT.filter (· ≠ addr % 2 ^ 16) } }) else s)
    else
    let e := if unit = 4 then 1 else 2
    match (k.q e).checking addr with
    | none => s
    | some f =>
      let s :=
        if lasting then
          let cause := (Cause.ecc, wnat (0x2000000000000000 + e * 2 ^ 32 + addr))
          s.updCore core (fun k => ((if e = 1 then k.voidNest addr cause else k).voidInstant f).updQ e (fun q =>
            ({ q with fl := q.fl.map (fun g => if g.ent.seq = f.ent.seq then g.zeroed cause else g) } : EngQ).stopFrom k.clk))
        else s
      if k.frozen.isSome then s
      else s.freeze core { kind := 3, loc := 0, since := s.cc, ctx := f.ent.ctx, eng := e, idx := addr, ends := some (s.cc + k.latency f) }

/-- `FARRIER_RETRY` (R348, R349): a failed operation is retried once and logged; a lasting failure is also an event of the
halter (level 0), whose watch code the spec does not give (log 17). Unit 6, of the model only, is a single-bit error of a scratchpad read,
which is corrected and counted (R225, log 115). A link's lasting failure retrains the link (`LINK_RETRAIN`). -/
def execFarrierRetry (unit core addr : Nat) (lasting : Bool) (synd : Word) (s : State) : Out :=
  if unit = 6 then .next { s with corrected := s.corrected + 1 }
  else if 6 < unit then .next s
  else
    let s := (s.farLog unit core addr lasting synd s.timeNs).farEffect unit core addr lasting
    if lasting then
      .next { s.record 0 ((Config.freeWord s.free).toNat % 32) core 0 Cause.ecc 0 0 with free := s.free + 1 }
    else .next s

/-! ### Shootdowns (R253) -/

/-- The address range of a paddock's shootdown. -/
def Paddock.sdRange (p : Paddock) : Nat × Nat :=
  let a := wbits p.sdctl 19 29 * 2 ^ 19
  (a, a + wbits p.sdlen 0 29 * 2 ^ 19)

/-- TLB entries outside a function's range. -/
def tlbDrop (l : List TlbEntry) (vf lo hi : Nat) : List TlbEntry :=
  l.filter (fun e => ! (e.vf = vf && e.page * 2 ^ pageLog e.size < hi && lo < (e.page + 1) * 2 ^ pageLog e.size))

/-- Window lines of a range: window and index. -/
def Core.winRange (k : Core) (lo hi : Nat) : List (Nat × Nat) :=
  (List.range 16).flatMap (fun w =>
    (k.window w).lines.filterMap (fun e =>
      let a := (winVa (k.window w) e.1).toNat
      if lo ≤ a ∧ a < hi then some (w, e.1) else none))

/-- The largest lease end among HC lines of a core's L1, and among lines of its windows. -/
def Core.l1Lease (k : Core) : Word :=
  k.l1.foldl (fun (m : Word) e => match e.2 with
    | some l => if l.cls = 0 then maxW m l.rts else m
    | none => m) 0
def Core.winLease (k : Core) (ws : List (Nat × Nat)) : Word :=
  ws.foldl (fun (m : Word) e => match Map.get none (k.window e.1).lines e.2 with
    | some l => if l.cls = 0 then maxW m l.rts else m
    | none => m) 0

/-- The copies of a core leave it, dirty words written back: every line of the L1, and the window lines that are named. Lines
of the L1 are not kept by virtual address, so a shootdown takes all of them (log 25). -/
def State.dropCopies (s : State) (c : Nat) (ws : List (Nat × Nat)) : State :=
  let s := ((s.core c).l1.map (·.1)).foldl (fun (s : State) ln => s.evictLine c ln) s
  let s := ws.foldl (fun (s : State) e => s.saveWinLine c e.1 e.2) s
  s.updCore c (fun k => { k with
    blkUse := []
    wins := k.wins.map (fun w => (w.1, w.2.dropLines (fun i _ => ! ws.contains (w.1, i)))) })

/-- Translations of a range leave a core's TLB and its shed's. -/
def State.dropTlb (s : State) (c vf lo hi : Nat) : State :=
  let s := s.updCore c (fun k => { k with tlb := tlbDrop k.tlb vf lo hi })
  { s with sheds := Map.upd {} s.sheds (c / 4) (fun d => { d with tlb := tlbDrop d.tlb vf lo hi }) }

/-- The pen of a core holds a line of a range. -/
def Core.penIn (k : Core) (lo hi : Nat) : Bool :=
  k.pen.any (fun e => match e.2 with
    | some p => lo ≤ p.va.toNat && p.va.toNat < hi
    | none => false)

/-- A core acknowledges a shootdown of its paddock: its accesses are performed, its TLB entries and its shed's go, its copies
are written back and invalid, and every context's pts passes their leases. -/
def State.shoot (s : State) (c vf lo hi : Nat) : State :=
  let s := (List.range 4).foldl (fun (s : State) x => s.drainStores c x) s
  let s := s.dropTlb c vf lo hi
  let mine : Bool := s.coreVf c = vf
  let ws := if mine then (s.core c).winRange lo hi else []
  let lease := maxW (s.core c).l1Lease ((s.core c).winLease ws)
  let s := s.dropCopies c ws
  let s := if lease = 0 then s else s.raisePts c (lease + 1)
  if mine && (s.core c).penIn lo hi then s.woundCore c else s

/-- The paddock block whose shootdown waits for a core. -/
def State.sdBlock (s : State) (c : Nat) : Option Nat :=
  (List.range 8).find? (fun b =>
    let p := s.pdk b
    p.valid && p.sheds.testBit (c / 4) && p.sdctl.getLsbD 63 && ! p.sdack.getLsbD c)

/-- A command that has started has still to access a window line of a range, of a window that is valid (R188, R206, R212). -/
def Core.winUses (k : Core) (lo hi : Nat) : Bool :=
  let in_ (ln : Nat) : Bool := match k.windowOf ln with
    | some (w, i) => lo ≤ (winVa (k.window w) i).toNat && (winVa (k.window w) i).toNat < hi
    | none => false
  let fl (q : EngQ) : Bool := q.fl.any (fun f => f.cause.isNone && (f.lines.any in_ || f.post.any (fun w => in_ w.ln)))
  fl k.vxe.q || fl k.mxe.q || (match k.mxe.nest with
    | some n => n.stores.any (fun t => (spadLines t.addr t.bytes).any in_) || (match n.pend with
      | some p => p.lines.any in_
      | none => false)
    | none => false)

/-- An access of a core that used a translation of a range is not performed: a word's, wherever a forwarding leaf has sent it, the fill that a frozen
engine waits for, a line on its way to another package, a started command's, a copy's line, or a bay's range (R253 item 2). -/
def State.usesRange (s : State) (c lo hi : Nat) : Bool :=
  let meets (va n : Nat) : Bool := va < hi && lo < va + n
  (List.range 4).any (fun x => match (s.ctx c x).wait.bind Wait.access with
    | some (p, _, _) => meets p.addr.toNat 8
    | _ => false) ||
  (match (s.core c).frozen with
    | some f => f.line && meets (winVa ((s.core c).window f.win) f.idx).toNat 128
    | none => false) ||
  (s.core c).away.any (fun f => f.fail.isNone && meets f.va.toNat 128) || (s.core c).winUses lo hi ||
  (s.core c).cpe.work.any (fun w => w.out.any (fun m => match lineVa w.ent m with
    | some (va, _) => meets va.toNat 128
    | none => false)) ||
  s.engs.any (fun e => e.2.bays.any (fun b => match b.2 with
    | some b => b.req.core = c && meets b.req.vb.toNat (128 * b.req.globals.2)
    | none => false)) ||
  s.reqs.any (fun q => q.core = c && q.trs ≠ [] && q.answer ≠ some .refused && q.answer ≠ some .forced && meets q.vb.toNat (128 * q.globals.2))

/-- `SHOOTDOWN` (R253): a core acknowledges; with the last enabled core of the paddock, DONE is set and GO is clear. -/
def execShootdown (core : Nat) (s : State) : Out :=
  if 32 ≤ core ∨ s.fuses.getLsbD core = false then .next s
  else match s.sdBlock core with
    | none => .next s
    | some b =>
      let p := s.pdk b
      let (lo, hi) := p.sdRange
      if s.coreVf core = wbits p.sdctl 48 6 ∧ s.usesRange core lo hi then .next s
      else
      let s := s.shoot core (wbits p.sdctl 48 6) lo hi
      .next (s.updPdk b (fun p =>
        let ack := p.sdack ||| wnat (2 ^ core)
        let all := (s.pdkCores b).all (fun c => ack.getLsbD c)
        { p with sdack := ack, sdctl := if all then putBits p.sdctl 62 2 1 else p.sdctl }))

/-- `SDCTL_GO` (R409): a write of SDCTL with GO starts a shootdown. -/
def State.writeSdctl (s : State) (blk : Nat) (v : Word) : State :=
  s.updPdk blk (fun p =>
    let r := v &&& (0x803f000000000000 ||| 0xfffffff80000)
    if v.getLsbD 63 then { p with sdctl := r, sdack := 0 } else { p with sdctl := r ||| (p.sdctl &&& wnat (2 ^ 62)) })
def execSdctlGo (blk : Nat) (v : Word) (s : State) : Out := .next (s.writeSdctl (blk % 8) v)

/-! ### The walker (R252) -/

/-- An entry in front of a TLB of `n` places, as the youngest. -/
def tlbPut (l : List TlbEntry) (e : TlbEntry) (n : Nat) : List TlbEntry :=
  let r := l.filter (fun f => ! (f.vf = e.vf && f.page = e.page && f.size = e.size)) ++ [e]
  r.drop (r.length - n)

/-- The reads of a walk from the table at `tbl` (R252, R302). The fuel is the level. -/
def State.walkPkts (s : State) (c x lvl tbl va : Nat) : State :=
  let at_ := tbl + 8 * bits va (idxLo lvl) (idxLen lvl)
  let pte := s.homeRead at_ 8
  let s := s.homePkt c x at_ { rlen := 8, addr := wnat va }
  if pte.testBit 0 = false ∨ pte.testBit 1 then s
  else match lvl with
    | 0 => s
    | m + 1 => s.walkPkts c x m (bits pte 9 39 * 512) va

/-- `PAGE_WALK` (R252): a walk for a core's function whose answer both TLBs keep. An entry that is found invalid is never
cached. `ctx` names the context that missed. -/
def execPageWalk (core ctx : Nat) (va : Word) (s : State) : Out :=
  let vf := s.coreVf core
  let a := va.toNat
  if 32 ≤ core ∨ 2 ^ 47 ≤ a then .next s
  else match s.leafOf core vf a with
    | none => .next s
    | some (pte, lvl) =>
      let e : TlbEntry := ⟨vf, a / 2 ^ pageLog lvl, lvl, wnat pte⟩
      let s := if (tlbFind (Map.get {} s.sheds (core / 4)).tlb vf a).isSome then s else s.walkPkts core (ctx % 4) 3 (s.rootOf vf) a
      let s := s.updCore core (fun k => { k with tlb := tlbPut k.tlb e Config.coreTlbLen })
      .next { s with sheds := Map.upd {} s.sheds (core / 4) (fun d => { d with tlb := tlbPut d.tlb e Config.shedTlbLen }) }

end Sys2Proof.Machine
end

