-- ==== Sys2Proof/Machine/Clock.lean ====
section
/-!
DEFINITION. Time: the clock and what it counts (R116, R368, R406), frame counters with misses and slips (R128 to R130, R408),
the sources of the time counter (R407), and the power cap (R427).
-/
namespace Sys2Proof.Machine

/-! ### Frames (R408) -/

/-- FPER and FEPOCH as they govern clock `cc`: a write governs from the clock after it (R408). -/
def Paddock.frameRule (p : Paddock) (cc : Nat) : Word × Word :=
  match p.was with
  | some (t, r) => if t = cc then r else (p.fper, p.fepoch)
  | none => (p.fper, p.fepoch)

/-- The value that the formula of R408 gives now. -/
def State.frameNow (s : State) (p : Paddock) : Nat :=
  let t := s.timeNs.toNat
  let r := p.frameRule s.cc
  let base := r.2.toNat + p.heldNs
  if t < base then 0 else (t - base) / r.1.toNat

/-- A paddock's counter is due to tick. -/
def State.tickDue (s : State) (b : Nat) : Bool :=
  let p := s.pdk b
  p.valid && p.slip.isNone && p.frame.toNat < s.frameNow p

/-- The function of a launch of a timetable entry whose packet came by clock `by_` and that has not completed: its packet waits in
a queue, or it is released. -/
def State.entryVf (s : State) (b e by_ : Nat) : Option Nat :=
  match s.launches.findSome? (fun l => match l.2 with
      | some l => if l.blk = b ∧ l.entry = some e ∧ l.pkt.at_ ≤ by_ then some l.pkt.vf else none
      | none => none) with
  | some v => some v
  | none => (s.pdk b).queues.findSome? (fun q => (q.2.find? (fun k => pktTt k.d = e && k.at_ ≤ by_)).map (·.vf))

/-- SLIP is pending in context 3, the master context (R102), of every core that runs a task of the entry's launch (R130). -/
def State.raiseSlip (s : State) (b e : Nat) (dl : Word) : State :=
  (List.range Config.numCores).foldl (fun s c => match (s.core c).task with
    | some t => match s.launch t.launch with
      | some l =>
        if l.blk = b ∧ l.entry = some e ∧ (s.ctx c 3).sle then
          s.updCtx c 3 (fun u => { u with slipPend := some (wnat (e % 4096) ||| dl <<< 32) })
        else s
      | none => s
    | none => s) s

/-- A deadline is reached by an entry: a miss, or a slip, or the end of its arming (R129, R130). -/
def State.deadline (s : State) (b e : Nat) : State :=
  let p := s.pdk b
  let t := p.entry e
  if t.armed = false then
    s.setPdk b { p.setEntry e { t with missed := true } with missLog := p.missLog ++ [e] }
  else match s.entryVf b e s.cc with
    | some v =>
      let sl : Slip := match p.slip with
        | some sl => { sl with entries := sl.entries ++ [(e, v)] }
        | none => { entries := [(e, v)], dl := p.frame.toNat, since := s.timeNs.toNat, cc := s.cc }
      (s.setPdk b { p with slip := some sl }).raiseSlip b e (t.deadline.setWidth 64)
    | none => s.setPdk b (p.setEntry e { t with armed := false })

/-- `FRAME_TICK` (R408): one tick, and the deadlines that it reaches. -/
def execFrameTick (blk : Nat) (s : State) : Out :=
  if s.tickDue blk then
    let s := s.updPdk blk (fun p => { p with frame := p.frame + 1 })
    let p := s.pdk blk
    let due := p.tt.filterMap (fun e => if e.2.valid ∧ e.2.dl ∧ e.2.deadline = p.frame.setWidth 32 then some e.1 else none)
    .next (due.foldl (fun s e => s.deadline blk e) s)
  else .next s

/-- `SLIP_END` (R130): every launch that was not complete at the deadline has completed: the log, HELD, and the function's
interrupt. An entry stays armed by a packet that came in the hold (R129). -/
def execSlipEnd (blk : Nat) (s : State) : Out :=
  let p := s.pdk blk
  match p.slip with
  | none => .next s
  | some sl =>
    if sl.entries.any (fun e => (s.entryVf blk e.1 sl.cc).isSome) then .next s
    else
      let len := s.timeNs.toNat - sl.since
      let p := sl.entries.foldl (fun (p : Paddock) e => p.setEntry e.1 { p.entry e.1 with armed := (s.entryVf blk e.1 s.cc).isSome }) p
      let s := s.setPdk blk { p with
        slip := none, heldNs := p.heldNs + len, slipLog := p.slipLog ++ sl.entries.map (fun e => (e.1, len)) }
      .next (sl.entries.foldl (fun s e => s.interrupt e.2 2 e.1) s)

/-! ### One cc (R406, R116, R368) -/

/-- The time counter after one cc: a step that was written, a hold, and INC. -/
def State.advanceTime (s : State) : State :=
  let up := s.timeStep.toNat * 2 ^ 32
  let hold := s.timeHold + (- s.timeStep).toNat * 2 ^ 32
  let inc := s.tack.tminc.toNat
  { s with time := (s.time + up + (inc - hold)) % 2 ^ 96, timeHold := hold - inc, timeStep := 0 }

/-- A queue's stall counter after a clock in which its head waited for `w`: it clears when a wait ends and counts the next one from
its start (R116). -/
def EngQ.stalled (q : EngQ) (w : Option (Nat × Nat)) : EngQ :=
  { q with stallOf := w, stall := if w = none then 0 else if w = q.stallOf then q.stall + 1 else 1 }

/-- The counter of a queue after a clock; while the queue is stopped it stands still (R109). -/
def State.stalls (s : State) (c e : Nat) (q : EngQ) : EngQ :=
  if q.stopped (s.core c).clk then q else q.stalled (s.headWait c e)

/-- A wait for a lot or for the token. -/
def Wait.forLot (w : Wait) : Bool :=
  match w with
  | .lot _ _ _ => true
  | .token286 => true
  | _ => false

/-- The clocks in which contexts of a core wait for lots or the token are counted, frozen clocks too (R368). -/
def State.countLots (s : State) (c : Nat) : State :=
  (List.range 4).foldl (fun s x => if ((s.ctx c x).wait.map Wait.forLot).getD false then s.count c x 12 1 else s) s

/-- The stall counters of a core's contexts and queues (R116). -/
def State.tickStalls (s : State) (c : Nat) : State :=
  let k := s.core c
  let s := (List.range 4).foldl (fun s x =>
    let t := k.getCtx x
    match t.wait with
    | none => s
    | some w =>
      if t.run = .running ∧ k.free x ∧ (s.waitReport c x w).isSome then s.updCtx c x (fun t => { t with stall := t.stall + 1 })
      else s) s
  let ws := [0, 1, 2].map (fun e => (e, s.stalls c e (k.q e)))
  if ws.all (fun p => p.2 = k.q p.1) then s
  else s.updCore c (fun k => ws.foldl (fun k p => k.setQ p.1 p.2) k)

/-! ### Sources (R407) -/

/-- A correction of the time counter, as a step. -/
def State.stepTime (s : State) (ns : Int) : State := { s with timeStep := s.timeStep + ns }

/-- `TMADJ_WRITE` (R406): a signed step in ns, applied in the next clock. -/
def execTmadjWrite (v : Word) (s : State) : Out := .next (s.stepTime v.toInt)

/-- `TIME_SYNC_EXCHANGE` (R407, SRC 2): a follower's exchange, over a ready link of the route to the master, with its measured offset, which corrects
the counter by a step, and its rate by a correction that the spec does not size (a free value: log 72); LOCK after 16 successive ones within 2 ns. -/
def execTimeSyncExchange (offset : Int) (s : State) : Out :=
  if s.tack.src ≠ 2 ∨ s.tack.mpkg = s.pkg ∨ (s.routePort s.tack.mpkg.toNat 0 0).isNone then .next s
  else
    let n := if offset.natAbs ≤ 2 then min 16 (s.tack.syncOk + 1) else 0
    .next { s.stepTime offset with
      free := s.free + 1
      tack := { s.tack with syncOk := n, lock := s.tack.lock || n = 16, tminc := s.tack.tminc + (Config.freeWord s.free).setWidth 48 } }

/-- `PTP_EVENT_MESSAGE` (R407, SRC 1): an event message of a port that takes part; `offset` is the servo's correction. -/
def execPtpEventMessage (port : Nat) (offset : Int) (s : State) : Out :=
  if s.tack.src = 1 ∧ port < 4 ∧ (Map.get 0 s.tack.ptp 0).getLsbD port then .next (s.stepTime offset) else .next s

/-! ### The power cap (R427) -/

/-- The cap holds while EN is set and the power in PMEAS exceeds it (R427). -/
def Tack.recap (t : Tack) : Tack := { t with capped := t.pcap.getLsbD 63 && wbits t.pcap 0 16 < wbits t.pmeas 0 16 }

/-- `POWER_CAP_CHECK`: PMEAS takes the power of the last millisecond, and the cap holds or not. -/
def execPowerCapCheck (watts : Nat) (s : State) : Out :=
  .next { s with tack := { s.tack with pmeas := wnat (watts % 2 ^ 16) }.recap }

/-- PMEAS as read (R421): capped clocks in units of 1,024 cc, and the power. -/
def Tack.pmeasRead (t : Tack) : Word := wnat (t.cappedCc / 1024 % 2 ^ 32 * 2 ^ 16 + wbits t.pmeas 0 16)

end Sys2Proof.Machine
end

