-- ==== Sys2Proof/Machine/Ingress.lean ====
section
/-!
DEFINITION. Packets that have come over a Ganor port: the port's ingress (R300), what goes on to another package (R382), to the switch (R388,
R390), to a paddock (R396) or to a requester (R307), and the replies to requests of other packages (R306, R380).
-/
namespace Sys2Proof.Machine

/-- The fields of a header (R298, R383). -/
def pktOfHeader (h0 h1 adr ts age a0 a1 lk : Word) : PtPkt :=
  { ty := wbits h0 0 4, vc := wbits h0 4 2, e := h0.getLsbD 6, slack := wbits h0 8 12, floor := wbits h0 20 12, cls := wbits h0 32 4
    len := wbits h0 36 11, tag := wbits h0 48 16, spkg := wbits h1 0 6, src := wbits h1 6 6, core := wbits h1 12 5, ctx := wbits h1 17 2
    unit := wbits h1 19 4, dpkg := wbits h1 23 6, dst := wbits h1 29 6, pdk := wbits h1 35 6, vf := wbits h1 41 6
    adr := adr, ts := ts, age := age, arg0 := a0, arg1 := a1, link := lk, cells := cellsOfFlits (flitsOf (wbits h0 36 11)) }

/-- A packet by its words. -/
def pktOfWords (ws : List Word) : PtPkt :=
  let w (i : Nat) : Word := ws.getD i 0
  { pktOfHeader (w 0) (w 1) (w 2) (w 3) (w 4) (w 5) (w 6) (w 7) with data := ws.drop 8 }

/-- The block of the paddock with a number. -/
def State.blockOf (s : State) (pdk : Nat) : Nat :=
  ((List.range 8).find? (fun b => (s.pdk b).valid && (s.pdk b).number = pdk)).getD 0

/-! ### Replies to other packages (R306, R380) -/

/-- How a reply to a request of another package ended; the codes of its ARG0 (log 26). -/
def replyCode (r : Reply) : Nat :=
  match r with
  | .xlat => 1
  | .prot => 2
  | .unreachable => 3
  | .ecc => 4
  | _ => 0

/-- The reply to a request `q` of another package, formed at a stop: TAG, CLASS and the requester's fields are the request's, its slack is that of R306, and
it leaves on the port of the route (R298, R306, R382). Nothing leaves where no route leads there. -/
def State.answerPkg (s : State) (q : PtPkt) (stop code : Nat) (arg1 ts : Word) (data : List Word) : State :=
  let (sl, e) := replySlack q 0
  match s.routePort q.spkg stop 0 with
  | none => s
  | some port => s.sendOut
      { ty := replyTy q.ty, vc := vcOf (replyTy q.ty), e := e, slack := sl, cls := q.cls, tag := q.tag, len := 8 * data.length, spkg := s.pkg.toNat, src := stop
        core := q.core, ctx := q.ctx, unit := q.unit, dpkg := q.spkg, dst := 18 + port, dstop := some q.src, pdk := q.pdk, vf := q.vf, blk := s.blockOf q.pdk
        ts := ts, arg0 := wnat code, arg1 := arg1, link := wnat (2 ^ 32), data := data, cells := cellsOfFlits (flitsOf (8 * data.length)) }

/-- A packet of another package goes on from a stop by the route to its package, one hop further and `fwd` redirects further; nothing where HOPS would pass 7
or no route leads there (R380, R382). -/
def State.sendOn (s : State) (p : PtPkt) (stop fwd : Nat) : Option State :=
  let hops := wbits p.link 32 3
  match (if 7 ≤ hops then none else s.routePort p.dpkg p.src p.adr.toNat) with
  | some port => some (s.sendOut { p with
      sstop := some p.src, dstop := some p.dst, src := stop, dst := 18 + port, blk := s.blockOf p.pdk
      link := putBits (putBits p.link 32 3 (hops + 1)) 35 2 (wbits p.link 35 2 + fwd) })
  | none => none

/-- A packet for another package goes on from the port on which it came, or the sender of a request learns that it cannot (R382). -/
def State.passOn (s : State) (port : Nat) (p : PtPkt) : State :=
  match s.sendOn p (18 + port) 0 with
  | some s' => s'
  | none => if p.vc = 0 then s.answerPkg p (18 + port) (replyCode .unreachable) 0 0 [] else s

/-! ### Arrivals (R307, R388, R390, R396) -/

/-- Payload lines and elements of a packet. -/
def payloadLines (ws : List Word) : List Line := (List.range ((ws.length + 15) / 16)).map (fun i => lineOfWords ((ws.drop (16 * i)).take 16))
def payloadElems (ws : List Word) : List Code :=
  ws.flatMap (fun w => [BitVec.ofNat 32 (wbits w 0 32), BitVec.ofNat 32 (wbits w 32 32)])

/-- The contribution that a combine packet carries (R383, R400). -/
def PtPkt.contrib (p : PtPkt) : Contrib :=
  let op := wbits p.link 44 2
  let es := (payloadElems p.data).take (p.len / 4)
  { op := op, elems := if op = 3 then BitVec.ofNat 32 (wbits p.arg0 0 32) :: BitVec.ofNat 32 (wbits p.arg0 32 32) :: es else es
    nanm := p.link.getLsbD 40, mis := p.link.getLsbD 41, slack := p.slack, e := p.e }

/-- A launch packet of a peer (R396): enqueued or rejected, and its sender learns the INFO. -/
def State.arriveLaunch (s : State) (port : Nat) (p : PtPkt) : State :=
  match s.peerLaunch p.spkg p.pdk (wbits p.arg0 8 6) (wbits p.arg0 16 4) (p.data.take 8) with
  | .ok s' => s'.answerPkg p (18 + port) 0 0 0 [0]
  | .error i => s.answerPkg p (18 + port) 0 0 0 [wnat i]

/-- The request of this package that a reply answers: the same core, context and tag (R298). -/
def PtPkt.answers (p q : PtPkt) : Bool := q.core = p.core && q.ctx = p.ctx && q.tag = p.tag

/-- A reply that reaches its requester over a port: with E it is counted, and leaves its event to be written (R307, R368). Whether the floor was applied at
the target is not in the reply (log 116). -/
def State.replyIn (s : State) (p : PtPkt) : State :=
  match s.farReqs.find? p.answers with
  | none => s
  | some q =>
    let s := { s with farReqs := s.farReqs.erase q }
    if p.e = false ∨ 4 ≤ q.unit then s
    else
      let s := s.count q.core q.ctx 11 1
      if q.noted then s
      else ({ s with free := s.free + 1 } : State).pushPkt (256 + q.core) { q with e := true, req := (Config.freeWord s.free).getLsbD 0, input := q.ctx }

/-- The packet that the ingress of a port gives up: to the switch, to another package, to a paddock, or to its requester. Nothing while it must wait: behind a
multicast of its channel with branches to send (R388), or for a place (R390). Other requests for this package reach their units as events of their own. -/
def State.ingress (s : State) (port : Nat) (p : PtPkt) : Option State :=
  let n := flitsOf p.len
  let head := (p.header p.spkg).getD 1 0
  let free (s : State) : State := s.freePlaces port p.vc n
  if s.mcs.any (fun q => q.inp = 18 + port && q.vc = p.vc && q.mask ≠ 0 && ! q.formed) then none
  else if p.ty = 12 then
    s.contribute (18 + port) (wbits p.link 0 16) (wbits p.link 16 16) p.vf p.contrib (p.link.getLsbD 38) (p.link.getLsbD 39) head (wbits p.link 32 3) n
  else if p.link.getLsbD 37 then
    some (s.arriveMc (18 + port)
      { inp := 18 + port, group := wbits p.link 0 16, num := 0, ring := wbits p.arg0 0 4, vf := p.vf, lines := payloadLines p.data, slack := p.slack
        mask := 0, since := s.cc, e := p.e, top := (p.header p.spkg).getD 0 0, head := head, hops := wbits p.link 32 3, places := n })
  else if p.dpkg ≠ s.pkg.toNat then some (free (s.passOn port p))
  else if p.ty = 8 then some (free (s.arriveLaunch port p))
  else if p.vc = 1 then some (free (s.replyIn p))
  else some (free s)

/-- Flits of a packet by its header (R298). -/
def headerFlits (h : Word) : Nat := 1 + (wbits h 36 11 + 63) / 64

/-- The packet at the head of a channel's buffer, when it is whole, stands at the port's ingress (R300). -/
def State.consume (s : State) (port vc : Nat) : State :=
  let l := s.link port
  let ws := Map.get [] l.inbuf vc
  match ws with
  | [] => s
  | h :: _ =>
    let n := headerFlits h
    if ws.length < 8 * n then s
    else (s.setLink port { l with inbuf := Map.set [] l.inbuf vc (ws.drop (8 * n)) }).pushPkt (408 + port) { pktOfWords (ws.take (8 * n)) with vc := vc }

end Sys2Proof.Machine
end

