-- ==== Sys2Proof/Machine/Packets.lean ====
section
/-!
DEFINITION. Packet events (R303 to R308), and the Yard: cells and slots (R375 to R378).
-/
namespace Sys2Proof.Machine

/-- `PACKET_WAIT_UNIT` (R303): the n-th packet of a point has waited a further 16 cc. -/
def execPacketWaitUnit (point n : Nat) (s : State) : Out :=
  match (s.point point).pkts[n]? with
  | none => .next s
  | some p =>
    if s.cc < p.since + 16 * (p.waited + 1) then .next s
    else
      let (q, e) := p.waitUnit
      .next (s.updPoint point (fun t => { t with
        pkts := t.pkts.set n q, exh := if e then Map.upd 0 t.exh p.vc (· + 1) else t.exh }))

/-- A packet may be granted at a point in a channel, once it has come there: at a core's port any, at a stop's queue one whose target has not accepted it. -/
def PtPkt.grantable (p : PtPkt) (point vc cc : Nat) : Bool :=
  p.vc = vc && p.acc.isNone && p.since ≤ cc && (point < 128 || queueStop point = some p.dst)

/-- A port's queue lets a packet go only with credit on its link (R385), and when no packet of the switch goes before it there (R304). -/
def State.portLets (s : State) (point : Nat) (p : PtPkt) : Bool :=
  ! (210 ≤ point && point < 228) ||
    (s.portCredit (point - 210) p.vc (flitsOf p.len) && s.firstAsker (point - 202) p.vc p.key)

/-- A packet that is granted at a stop's queue (R299): a request is accepted by its target, or leaves the package on a port's link; a reply
reaches its requester, where one of a core with E is counted (R368) and leaves its event to be written (R307); a returned credit is free (R376); any other is
taken up by the unit. -/
def State.arriveAt (s : State) (point i : Nat) (p : PtPkt) : State :=
  let s := s.leaveExit p
  let p := { p with ring := false }
  if 210 ≤ point ∧ point < 228 then
    let port := point - 210
    (s.takePkt point i).setLink port ((s.link port).sendWords s.cc p.vc p.words)
  else if p.vc = 0 then s.acceptPkt point i p
  else
    let s := s.takePkt point i
    if p.vc = 3 then
      (if p.kind = 15 then { s with exitUse := Map.upd 0 s.exitUse p.arg1.toNat (· - p.arg0.toNat) } else s)
    else if p.vc = 1 ∧ p.e ∧ p.unit < 4 then
      let s := s.count p.core p.ctx 11 1
      if p.noted then s else s.pushPkt (256 + p.core) { p with input := p.ctx }
    else s

/-- `ARBITER_GRANT` (R304): at a core's port a request goes to its stop's injection arbiter, or straight to a unit of its own
stop; at a stop's queue a packet reaches its target; at a port's ingress the head goes on, unless it must wait. -/
def execArbiterGrant (point vc : Nat) (s : State) : Out :=
  let t := s.point point
  let far : Bool := 408 ≤ point && point < 426
  match t.grant (fun p => if far then p.vc = vc && p.since ≤ s.cc else p.grantable point vc s.cc && s.portLets point p) with
  | none => .next s
  | some i =>
    match t.pkts[i]? with
    | none => .next s
    | some p =>
      if 64 ≤ point ∧ point < 96 then
        let s' := s.takePkt point i
        .next (if p.dst = p.src then s'.pushPkt p.queue { p with input := 2 }
          else s'.pushPkt (128 + p.src) { p with input := p.core % 4 })
      else if far then .next (((s.takePkt point i).ingress (point - 408) p).getD s)
      else if (queueStop point).isSome then .next (s.arriveAt point i p)
      else .next (s.takePkt point i)

/-- The n-th request that the target of a point has accepted and not answered, and its position. -/
def Point.accepted (t : Point) (n : Nat) : Option (Nat × PtPkt) :=
  ((List.range t.pkts.length).filterMap (fun i => match t.pkts[i]? with
    | some p => if p.acc.isSome then some (i, p) else none
    | none => none))[n]?

/-- The reply to a request, formed `t` cc after it was accepted (R298, R306). -/
def PtPkt.reply (p : PtPkt) (t : Nat) : PtPkt :=
  let (sl, e) := replySlack p t
  { p with
    ty := replyTy p.ty, vc := vcOf (replyTy p.ty), src := p.dst, dst := p.src, slack := sl, e := e && p.kind ≠ 13, req := p.e, floor := 0
    len := p.rlen, cells := cellsOfFlits (flitsOf p.rlen), adr := 0, age := 0, arg0 := 0, arg1 := 0, data := [] }

/-- `REPLY_FORM` (R306): the target at a stop forms the reply of the n-th request that it has accepted. -/
def execReplyForm (point n : Nat) (s : State) : Out :=
  match (s.point point).accepted n with
  | none => .next s
  | some (i, p) => .next ((s.takePkt point i).sendFrom (p.reply (s.cc - p.acc.getD s.cc)))

/-- An entry of the event log (R307). -/
def PtPkt.logEntry (p : PtPkt) : Word :=
  wnat (2 ^ 63 + p.kind % 16 * 2 ^ 58 + p.cls % 16 * 2 ^ 54 + p.req.toNat * 2 ^ 53 + p.addr.toNat % 2 ^ 48)

/-- An event enters a context's log, or is lost; while SE = 1 its SLACK trap is pending (R307, R308). -/
def Ctx.logEvent (t : Ctx) (e : Word) : Ctx :=
  if Config.evlogLen ≤ t.evlog.length then { t with evLost := true }
  else
    { t with evlog := t.evlog ++ [e], slackPend := if t.se && t.slackPend.isNone && t.run ≠ .ended then some e else t.slackPend }

/-- Packets of one access of a context are those of one word, what the access has caused among them, but for the fetch of the word (R307). -/
def PtPkt.sameAccess (p q : PtPkt) : Bool :=
  p.core = q.core && p.ctx = q.ctx && p.unit = q.unit && p.seq = q.seq && (if p.unit = 0 then (p.kind = 4) = (q.kind = 4) else p.kind = q.kind)

/-- An access or a command has written its event: its other packets, and those that it has still to form, write none (R307). -/
def State.noteEvents (s : State) (q : PtPkt) : State :=
  let note (p : PtPkt) : PtPkt := if p.sameAccess q then { p with noted := true } else p
  let s := { s with
    points := s.points.map (fun t => (t.1, { t.2 with pkts := t.2.pkts.map note }))
    farReqs := s.farReqs.map note }
  if q.kind ≠ 5 then s
  else s.updCore q.core (fun k => { k with cpe := { k.cpe with work := k.cpe.work.map (fun w =>
      if w.ent.seq.toNat = q.seq then { w with noted := true } else w) } })

/-- `EVENT_LOG_WRITE` (R307, R308): a reply with E that has reached a core writes its event; `entry` describes one whose packet
the model does not follow. -/
def execEventLogWrite (core ctx : Nat) (entry : Word) (s : State) : Out :=
  let t := s.point (256 + core)
  match (List.range t.pkts.length).find? (fun i => match t.pkts[i]? with
      | some p => p.ctx = ctx
      | none => false) with
  | some i => match t.pkts[i]? with
    | some p =>
      let s := s.takePkt (256 + core) i
      .next (if p.noted then s
        else (s.noteEvents p).updCtx core ctx (fun c => c.logEvent p.logEntry))
    | none => .next s
  | none =>
    let e := wnat (2 ^ 63 + wbits entry 53 9 * 2 ^ 53 + wbits entry 0 48)
    .next ((s.count core ctx 11 1).updCtx core ctx (fun c => c.logEvent e))

/-! ### The Yard (R375 to R378) -/

/-- The direction and the hops from stop a to stop b (R375). -/
def yardPath (a b : Nat) : Nat × Nat :=
  let up := (b + 36 - a) % 36
  let down := (a + 36 - b) % 36
  if up ≤ down then (0, up) else (1, down)

/-- The clock in which the cell position that passes a stop now passed stop 0, congruent modulo 256 and modulo 72 (R377). -/
def State.passClock (s : State) (stop dir : Nat) : Nat :=
  let h := if dir = 0 then stop % 36 else (36 - stop % 36) % 36
  s.cc + 256 * 72 - 2 * h

/-- A slot may be used by a paddock: it is shared, or the paddock owns it (R377). -/
def State.slotAllows (s : State) (slot dir blk : Nat) : Bool :=
  let b := Map.get 0 s.slotAct (2 * slot + dir)
  ! b.getLsbD 7 || (b.toNat % 64 = (s.pdk blk).number)

/-- The channels of a stop's injection arbiter in the order in which they are served now: control first, the others in rotation, one
cell each (R299, R305). The rotation goes on every second clock: DESIGN CHOICE, the spec gives a rate for each channel and no order (log 140). -/
def State.channelOrder (s : State) : List Nat := 3 :: (List.range 3).map (fun k => (s.cc / 2 + k) % 3)

/-- A packet of a channel moves on a lane of a direction. -/
def PtPkt.onLane (p : PtPkt) (vc dir lane : Nat) : Bool := p.vc = vc && (yardPath p.src p.dst).1 = dir && (p.src + p.dst + p.vc) % 8 = lane

/-- The packet that a stop injects into a cell position of a slot on a lane now, of all paddocks that may use the slot (R304, R377): one whose cells are
under way goes before any other of its channel, and another starts only with credit at its destination (R376). -/
def State.nextCell (s : State) (t : Point) (slot dir lane : Nat) : Option Nat :=
  s.channelOrder.findSome? (fun vc =>
    let busy := t.pkts.any (fun p => p.onLane vc dir lane && p.begun)
    t.grant (fun p => p.onLane vc dir lane && p.since ≤ s.cc && s.slotAllows slot dir p.blk && (if busy then p.begun else s.exitCredit p)))

/-- `CELL_INJECT` (R375 to R377): a stop injects one cell of a paddock's packet into the cell that passes on a lane, when that
cell is empty and its slot allows it. With its first cell a packet takes its exit-buffer space, and with its last it is on its way to its destination's
queue, 2 cc for each stop. -/
def execCellInject (stop dir lane blk : Nat) (s : State) : Out :=
  let t := s.point (128 + stop)
  let pass := s.passClock stop dir
  match s.nextCell t (pass % 256) dir lane with
  | none => .next s
  | some i =>
    match t.pkts[i]? with
    | none => .next s
    | some p =>
      let cell := (8 * dir + lane) * 72 + pass % 72
      let free : Bool := match Map.get none s.cells cell with
        | some n => n ≤ s.cc
        | none => true
      if free = false ∨ p.blk ≠ blk ∨ 36 ≤ stop then .next s
      else
        let at_ := s.cc + 2 * (yardPath p.src p.dst).2
        let s := { s with
          cells := Map.set none s.cells cell (some at_)
          exitUse := if p.begun then s.exitUse else Map.upd 0 s.exitUse p.exitKey (· + flitsOf p.len) }
        if 1 < p.cells then
          .next (s.updPoint (128 + stop) (fun t => { t with pkts := t.pkts.set i { p with cells := p.cells - 1, begun := true } }))
        else .next ((s.takePkt (128 + stop) i).pushAt p.queue { p with input := dir, ring := true } at_)

/-- `STGCTL_COMMIT` (R420): the staged table awaits slot 0. -/
def execStgctlCommit (s : State) : Out := .next { s with tack := { s.tack with stgPend := true } }

/-- `SLOT_TABLE_COMMIT` (R378): in a clock in which slot 0 passes stop 0, a committed table takes effect as a whole. -/
def execSlotTableCommit (s : State) : Out :=
  if s.tack.stgPend ∧ s.cc % 256 = 0 then
    .next { s with slotAct := s.slotStg, tack := { s.tack with stgPend := false } }
  else .next s

end Sys2Proof.Machine
end

