-- ==== Sys2Proof/Machine/Preempt.lean ====
section
/-!
DEFINITION. Program pre-emption (R354 to R366, R374): slices, the pre-emption point, the save sequence with its image and record,
and the restore.
-/
namespace Sys2Proof.Machine

/-! ### Requests by slice (R366) -/

/-- The slice that is applied: 6,240 cc at least. -/
def Paddock.sliceOf (p : Paddock) : Nat := max 6240 (wbits p.slice 0 32)

/-- A launch for which a core's task may be sliced: of another function, of a priority at least the task's, a candidate for that
core, while no core of the paddock is idle, and without a request of its own (R366, R374). -/
def State.sliceFor (s : State) (c : Nat) (t : Task) : Option Nat :=
  s.launches.findSome? (fun e => match e.2 with
    | some l =>
      let can (d : Nat) : Bool := (s.offerOf l d).isSome
      if l.blk = t.blk ∧ l.pkt.vf ≠ t.vf ∧ t.prio ≤ l.prio ∧ can c ∧
          ! (List.range Config.numCores).any (fun d => s.idle d && s.blkOf d = l.blk) ∧
          ! (List.range Config.numCores).any (fun d => match (s.core d).request with
            | some r => r.why = some e.1
            | none => false) then some e.1 else none
    | none => none)

/-- `SLICE_EXPIRY` (R366): a core whose pre-emptible task has run for its slice receives a request. -/
def execSliceExpiry (core : Nat) (s : State) : Out :=
  let k := s.core core
  match k.task with
  | none => .next s
  | some t =>
    let p := s.pdk t.blk
    if wbits p.slice 0 32 = 0 ∨ t.pe = false ∨ t.irrev ∨ k.request.isSome ∨ s.cc < t.startClk + p.sliceOf then .next s
    else match s.sliceFor core t with
      | none => .next s
      | some n =>
        let s' := s.request core t.blk (some n)
        if (s'.core core).request.isSome ∧ wbits p.slice 0 32 < 6240 then
          .next (s'.updCore core (fun k => { k with sliceClamp := k.sliceClamp + 1 }))
        else .next s'

/-! ### The pre-emption point (R355, R356) -/

/-- A context has reached one of the states of R354: parked, ended or stopped, and in no trap handler and with FIP = 0. -/
def Ctx.atState (t : Ctx) : Bool :=
  (t.run = .parked || t.run = .ended || t.run = .stopped) && ! t.stip && ! t.htip && ! t.fip

/-- Every context is parked, ended or stopped, one is parked, and the MXE and VXE queues are empty. -/
def Core.atPoint (k : Core) : Bool :=
  (List.range 4).all (fun x => (k.getCtx x).atState) &&
    (List.range 4).any (fun x => (k.getCtx x).run = .parked) &&
    k.mxe.q.q = [] && k.mxe.q.fl = [] && k.mxe.nest = none && k.vxe.q.q = [] && k.vxe.q.fl = []

/-- Entries of the CPE that have not started leave without effect, their slots full with ABANDONED. -/
def Core.squash (k : Core) : Core :=
  let es := k.cpe.q.q
  let k := es.foldl (fun k e => match copySlot e.ins with
    | some n => k.fillSlot n (completion codeAbandoned 0)
    | none => k) k
  k.updQ 0 (fun q => { q with
    q := [], stall := 0
    last := match es.getLast? with
      | some e => if q.fl = [] then some e.seq else q.last
      | none => q.last })

/-- `PREEMPTION_POINT` (R355, R356): the task is pre-empted, and its tickets lapse (R325); with the task's `enote` in the CPE queue every entry is drained, otherwise what has not
started is squashed. -/
def execPreemptionPoint (core : Nat) (s : State) : Out :=
  let k := s.core core
  match k.request with
  | none => .next s
  | some r =>
    if r.wound ∨ k.point ∨ k.atPoint = false ∨ k.task.isNone then .next s
    else .next ((s.updCore core (fun k =>
      let k := if k.cpe.q.enoted then k else k.squash
      { k with point := true })).lapseTickets core)

/-! ### The image (R360, R361) -/

/-- The doublewords of a loop counter (R75), and back. -/
def LoopCtr.words (l : LoopCtr) : List Word :=
  [wnat (l.iter.toNat * 2 ^ 32 + l.endAt.toNat),
   wnat (l.act.toNat * 2 ^ 63 + l.pre.toNat * 2 ^ 62 + l.bp.toNat * 2 ^ 61 + l.clamp.toNat * 2 ^ 60 + l.rsv.toNat * 2 ^ 59 +
     l.pl.toNat * 2 ^ 56 + l.len.toNat * 2 ^ 48 + wbits l.start 2 46 * 4),
   wnat (wbits l.head 2 46 * 4)]
def loopOfWords (a b c : Word) : LoopCtr :=
  { iter := BitVec.ofNat 32 (wbits a 32 32), endAt := BitVec.ofNat 32 (wbits a 0 32)
    act := b.getLsbD 63, pre := b.getLsbD 62, bp := b.getLsbD 61, clamp := b.getLsbD 60, rsv := b.getLsbD 59
    pl := BitVec.ofNat 2 (wbits b 56 2), len := BitVec.ofNat 8 (wbits b 48 8)
    start := wnat (wbits b 2 46 * 4), head := wnat (wbits c 2 46 * 4) }

/-- STATE of a context (R354). -/
def runCode (r : RunState) : Nat :=
  match r with
  | .parked => 0
  | .ended => 1
  | _ => 2

/-- The context word (R361). -/
def Ctx.contextWord (t : Ctx) : Word :=
  wnat (runCode t.run * 2 ^ 62 + t.gwait.toNat * 2 ^ 38 + t.bz.toNat * 2 ^ 36 + t.slk.toNat * 2 ^ 32 +
    (t.status &&& 0xb00).toNat)

/-- Two slack entries in a doubleword. -/
def Ctx.skWord (t : Ctx) (i : Nat) : Word := wnat ((t.skEntry (2 * i)).toNat + (t.skEntry (2 * i + 1)).toNat * 2 ^ 32)

/-- The 54 doublewords of a context. -/
def Ctx.image (t : Ctx) : List Word :=
  t.pc :: (List.range 31).map (fun i => t.rd (BitVec.ofNat 5 (i + 1))) ++
    (List.range 4).flatMap (fun n => (t.loopCtr n).words) ++ (List.range 8).map (fun i => t.skWord i) ++ [t.contextWord, t.fvec]

/-- A counter's binding (R360). -/
def bindWord (b : Option PerfBind) : Nat :=
  match b with
  | some b => 2 ^ 15 + b.ctx * 2 ^ 12 + b.num * 2 ^ 8 + b.event
  | none => 0
def bindOf (v : Nat) : Option PerfBind :=
  if v.testBit 15 then some ⟨bits v 12 2, bits v 8 4, bits v 0 8⟩ else none

/-- The 256 doublewords of a task. -/
def Core.image (k : Core) (t : Task) : List Word :=
  let noted (q : EngQ) (i : Nat) : Nat := if q.noted then 2 ^ i else 0
  (List.range 4).flatMap (fun x => (k.getCtx x).image) ++ (List.range 16).map (fun n => k.slotVal n) ++
    [wnat (k.pfull.toNat + noted k.cpe.q 16 + noted k.mxe.q 17 + noted k.vxe.q 18 + k.vxe.q.next.toNat * 2 ^ 32),
     wnat (k.cpe.q.next.toNat + k.mxe.q.next.toNat * 2 ^ 32), t.stamp, t.wid] ++
    (List.range 16).map (fun n => Map.get 0 k.perf n) ++
    (List.range 4).map (fun i => wnat ((List.range 4).map (fun j =>
      bindWord (Map.get none k.perfBind (4 * i + j)) * 2 ^ (16 * j))).sum)

/-- Doublewords in memory at an address. -/
def State.putWords (s : State) (a : Nat) (ws : List Word) : State :=
  match ws with
  | [] => s
  | w :: r => (s.homeWrite a 8 w.toNat).putWords (a + 8) r

/-! ### The save sequence (R357 to R359) -/

/-- What the sequence waits for has ended: the copy engine, block operations, bays and collective instances (R329, R356). -/
def State.drained (s : State) (c : Nat) : Bool :=
  let k := s.core c
  k.cpe.q.q = [] && k.cpe.q.fl = [] && k.cpe.work = [] && k.hold = [] && k.blkOps = [] && s.baysOf c = false &&
    s.cmbs.all (fun p => p.core ≠ c)

/-- `rel dom` for every context, and the unmapping of every window (R357 step 1). A line whose translation fails is lost (log 105). -/
def State.releaseAll (s : State) (c : Nat) : State :=
  let s := (List.range 4).foldl (fun (s : State) x => s.drainStores c x) s
  let s := (List.range 16).foldl (fun (s : State) w =>
    ((s.core c).window w).dirtyLines.foldl (fun (s : State) i => s.writeBackWin c w i) s) s
  let s := (s.core c).dfifo.foldl (fun (s : State) e => s.drainEntry c e) s
  s.updCore c (fun k => (List.range 16).foldl (fun k w => k.dropWindow w) k)

/-- The core gives its task up. -/
def State.leaveTask (s : State) (c : Nat) (t : Task) (slot : Nat) : State :=
  let s := ((s.releaseSets c).lapseTickets c).clearRequest c
  let s := s.updLaunch t.launch (fun l => { l with saved := l.saved ++ [(t.idx, slot)] })
  s.updCore c (fun k => k.clearQueues.dropTask)

/-- The packets with which the save sequence writes `n` bytes at a home of this package, 1 KiB each, with SLACK 0 (R358). -/
def State.savePkts (s : State) (c a n : Nat) : State :=
  (List.range ((n + 1023) / 1024)).foldl (fun (s : State) i =>
    s.forcedPkt c (a + 1024 * i) { ty := 1, len := min 1024 (n - 1024 * i) }) s

/-- `SAVE_SEQUENCE` (R357, R265): the drain, and when every line that left for another package is acknowledged there, the floor
timestamp, the image, and last the record with its latency; its packets have SLACK 0 (R358). -/
def execSaveSequence (core : Nat) (s : State) : Out :=
  let k := s.core core
  match k.request, k.task with
  | some r, some t =>
    if k.point ∧ s.drained core then .next (s.under core 0 16 0 (fun s =>
      let s := s.releaseAll core
      if (s.core core).away ≠ [] then s
      else
        let s := s.updPdk t.blk (fun p => { p with floor := maxW p.floor (s.core core).maxPts })
        let s := s.updCore core Core.recordCut
        let p := s.pdk t.blk
        let s := (s.putWords (p.imageAt r.slot) ((s.core core).image t)).savePkts core (p.imageAt r.slot) 2048
        let s := (s.homeWrite (p.recordAt r.slot) 8 (2 ^ 63 + core % 32 * 2 ^ 48 + (s.cc - r.at_) % 2 ^ 32)).savePkts core (p.recordAt r.slot) 8
        s.leaveTask core t r.slot))
    else .next s
  | _, _ => .next s

/-! ### The restore (R364, R365) -/

/-- The counter at which a context parked: that of the exit-form `lpres` at its pc, which the machine reads there, else the
lowest that a clamp ended (R80). -/
def State.parkedAt (s : State) (c x : Nat) (t : Ctx) : Option Nat :=
  let low := (List.range 4).find? (fun n => (t.loopCtr n).clamp)
  match s.translate c t.pc .exec (t.pl = 0) with
  | .ok (.phys pa _ _) => match decode (BitVec.ofNat 32 (s.readView c x pa 4 true).1) with
    | some (.lpresExit _ n) => some n.toNat
    | _ => low
  | _ => low

/-- A context from its image, over its task-start value. -/
def Ctx.ofImage (t : Ctx) (w : Nat → Word) : Ctx :=
  let cw := w 52
  { t with
    pc := w 0 &&& ~~~ 3
    x := (List.range 31).foldl (fun m i => Map.set 0 m (i + 1) (w (i + 1))) []
    lc := (List.range 4).foldl (fun m n => Map.set {} m n (loopOfWords (w (32 + 3 * n)) (w (33 + 3 * n)) (w (34 + 3 * n)))) []
    sk := (List.range 16).foldl (fun m j =>
      Map.set 0x0400400 m j (BitVec.ofNat 28 (wbits (w (44 + j / 2)) (32 * (j % 2)) 28) &&& 0xfff0fff)) []
    gwait := BitVec.ofNat 24 (wbits cw 38 24), bz := cw.getLsbD 36, slk := BitVec.ofNat 4 (wbits cw 32 4)
    status := t.status ||| BitVec.ofNat 12 (wbits cw 0 12 % 2 ^ 12 &&& 0xb00)
    fvec := w 53 &&& 0xfffffffffffc
    run := if wbits cw 62 2 = 0 then .running else if wbits cw 62 2 = 1 then .ended else .stopped
    tendPc := (w 0 &&& ~~~ 3) - 4 }

/-- A parked context goes on at its HEAD (R80). -/
def Ctx.resume (t : Ctx) (n : Nat) : Ctx :=
  let l := t.loopCtr n
  { t.setLoop n { l with act := false, clamp := false, rsv := true } with pc := l.head }

/-- A queue that goes on at its saved number. -/
def EngQ.resumeAt (next : Nat) (noted : Bool) : EngQ :=
  { next := BitVec.ofNat 32 next, last := if next = 0 then none else some (BitVec.ofNat 32 (next - 1))
    enoted := noted, noted := noted }

/-- The core's part of the image. -/
def Core.ofImage (k : Core) (w : Nat → Word) : Core :=
  let f := w 232
  let sq := w 233
  { k with
    pval := (List.range 16).foldl (fun m n => Map.set 0 m n (w (216 + n))) []
    pfull := BitVec.ofNat 16 (wbits f 0 16)
    vxe := { k.vxe with q := EngQ.resumeAt (wbits f 32 32) (f.getLsbD 18) }
    cpe := { k.cpe with q := EngQ.resumeAt (wbits sq 0 32) (f.getLsbD 16) }
    mxe := { k.mxe with q := EngQ.resumeAt (wbits sq 32 32) (f.getLsbD 17) }
    perf := (List.range 16).foldl (fun m n => Map.set 0 m n (w (236 + n))) []
    perfBind := (List.range 16).foldl (fun m n => Map.set none m n (bindOf (wbits (w (252 + n / 4)) (16 * (n % 4)) 16))) [] }

/-- Bound counters keep their events in the contexts' control registers. -/
def Core.ctlOfBinds (k : Core) : Core :=
  (List.range 16).foldl (fun (k : Core) n => match Map.get none k.perfBind n with
    | some b => k.updCtx b.ctx (fun t => { t with perfCtl := Map.set 0 t.perfCtl b.num (BitVec.ofNat 16 b.event) })
    | none => k) k

/-- A saved task back on a core. -/
def State.loadTask (s : State) (c : Nat) (t : Task) (d : List Word) (a : Nat) : State :=
  let w (i : Nat) : Word := wnat (s.homeRead (a + 8 * i) 8)
  let s := s.beginTask c t d
  let s := s.updCore c (fun k => (k.ofImage w).ctlOfBinds)
  (List.range 4).foldl (fun (s : State) x =>
    let u := (s.ctx c x).ofImage (fun i => w (54 * x + i))
    let u := if u.run = .running then match s.parkedAt c x u with
      | some n => u.resume n
      | none => u else u
    s.setCtx c x u) s

/-- `RESTORE` (R364, R365): an idle core's choice is a saved task; its record is cleared. -/
def execRestore (core : Nat) (s : State) : Out :=
  if s.chooses core then
    match s.choose core with
    | (s', some (ln, l, t, some slot)) =>
      let p := s'.pdk l.blk
      let s1 := s'.loadTask core (s'.taskOf ln l t) l.pkt.d (p.imageAt slot)
      let s1 := s1.homeWrite (p.recordAt slot) 8 (s1.homeRead (p.recordAt slot) 8 % 2 ^ 63)
      let s1 := s1.updCore core (fun k => { k with resuming := true })
      .next (s1.setLaunch ln (some { l.runsOn t core with saved := l.saved.filter (fun e => e.1 ≠ t) }))
    | _ => .next s
  else .next s

end Sys2Proof.Machine
end

