-- ==== Sys2Proof/Machine/TackMap.lean ====
section
/-!
DEFINITION. The tack address map (R421) with its registers (R409, R410, R129, R336, R377, R382, R387), and the custom CSRs of
the tack harts (R420).
-/
namespace Sys2Proof.Machine

/-- A write through a mask: the RW fields take the value, and every other bit keeps what it has. -/
def masked (old v m : Word) : Word := (old &&& ~~~ m) ||| (v &&& m)

/-! ### Interleave ranges (R410) -/

/-- A range, from its three dwords. -/
structure Ilv where
  v    : Bool
  base : Nat
  stk  : Nat
  gran : Nat
  size : Nat
  soff : Nat
deriving DecidableEq, Repr

def ilvOf (d0 d1 d2 : Word) : Ilv :=
  ⟨d0.getLsbD 63, wbits d0 19 29 * 2 ^ 19, wbits d1 56 8, wbits d1 52 4, wbits d1 19 29 * 2 ^ 19, wbits d2 7 33 * 128⟩
def Paddock.ilvAt (p : Paddock) (i : Nat) : Ilv :=
  ilvOf (Map.get 0 p.ilv (3 * i)) (Map.get 0 p.ilv (3 * i + 1)) (Map.get 0 p.ilv (3 * i + 2))

/-- Bytes of a range in each of its stacks. -/
def ilvPart (r : Ilv) : Nat := r.size / max 1 (stackList r.stk).length

/-- The fields of a range are as R410 asks: stacks of the paddock, a granularity, and a size that it divides. -/
def ilvFits (r : Ilv) (own : Nat) : Bool :=
  r.base < 2 ^ 47 && r.stk ≠ 0 && (stackList r.stk).all (fun j => own.testBit j) && r.gran ≤ 12 && r.size ≠ 0 &&
    r.size % (2 ^ (7 + r.gran) * (stackList r.stk).length) = 0

/-- Two ranges overlap, in physical addresses or in some stack's storage. -/
def ilvClash (r t : Ilv) : Bool :=
  (r.base < t.base + t.size && t.base < r.base + r.size) ||
    ((stackList r.stk).any (fun j => t.stk.testBit j) && r.soff < t.soff + ilvPart t && t.soff < r.soff + ilvPart r)

/-- Valid ranges of every paddock, less one. -/
def State.otherIlvs (s : State) (b i : Nat) : List Ilv :=
  (List.range 8).flatMap (fun d => (List.range 8).filterMap (fun j =>
    let r := (s.pdk d).ilvAt j
    if (s.pdk d).valid ∧ r.v ∧ ¬ (d = b ∧ j = i) then some r else none))

/-- The valid ranges of the package. -/
def State.ranges (s : State) : List Ilv := s.otherIlvs 8 0

/-- Where the storage of a physical address is, as a key of its stack and the address inside it; an address of no range stands for itself. -/
def storeKey (rs : List Ilv) (pa : Nat) : Nat :=
  match rs.find? (fun r => r.base ≤ pa && pa < r.base + r.size && r.stk ≠ 0) with
  | some r =>
    let l := stackList r.stk
    let n := (pa - r.base) / 2 ^ (7 + r.gran)
    2 ^ 50 + l.getD (n % l.length) 0 * 2 ^ 40 + r.soff + n / l.length * 2 ^ (7 + r.gran) + (pa - r.base) % 2 ^ (7 + r.gran)
  | none => pa

/-- The physical address of storage; storage that no range reaches keeps its key, which is no physical address. -/
def keyPlace (rs : List Ilv) (k : Nat) : Nat :=
  if k < 2 ^ 50 then k
  else
    let stk := (k - 2 ^ 50) / 2 ^ 40
    let at_ := k % 2 ^ 40
    match rs.find? (fun r => r.stk.testBit stk && r.soff ≤ at_ && at_ < r.soff + ilvPart r) with
    | some r =>
      let l := stackList r.stk
      let n := (at_ - r.soff) / 2 ^ (7 + r.gran) * l.length + l.findIdx (fun j => j = stk)
      r.base + n * 2 ^ (7 + r.gran) + (at_ - r.soff) % 2 ^ (7 + r.gran)
    | none => k

/-- Data indexed by units of u bytes of physical memory follows its storage from one set of ranges to another; storage takes precedence over addresses
that had none. -/
def rekey {α : Type} [DecidableEq α] (d : α) (u : Nat) (old new : List Ilv) (m : Map α) : Map α :=
  let to_ (k : Nat) : Nat := keyPlace new (storeKey old (u * k)) / u
  let moved := m.partition (fun e => storeKey old (u * e.1) < 2 ^ 50)
  (moved.1 ++ moved.2).foldl (fun a e => Map.set d a (to_ e.1) e.2) []

/-- The ranges have changed from those of `s`: what a stack stores is found at the addresses that the ranges give it now (R410). -/
def State.remapped (s t : State) : State :=
  if s.ranges = t.ranges then t
  else { t with mem := rekey 0 1 s.ranges t.ranges t.mem, poison := rekey false 4 s.ranges t.ranges t.poison
                hc := rekey {} 128 s.ranges t.ranges t.hc }

/-- A write of a dword of a range; refused when a valid range would break R410. -/
def State.writeIlv (s : State) (b i j : Nat) (v : Word) : Option State :=
  let p := s.pdk b
  let old := Map.get 0 p.ilv (3 * i + j)
  let v := if j = 0 then masked old v 0x8000fffffff80000
    else if j = 1 then masked old v (if 12 < wbits v 52 4 then 0xff00fffffff80000 else 0xfff0fffffff80000)
    else masked old v 0xffffffff80
  let q := { p with ilv := Map.set 0 p.ilv (3 * i + j) v }
  let r := q.ilvAt i
  if r.v ∧ (ilvFits r p.stacks = false ∨ (s.otherIlvs b i).any (ilvClash r)) then none else some (s.remapped (s.setPdk b q))

/-! ### Paddock blocks and timetables (R409, R129) -/

/-- A dword of a paddock block; an offset without a register reads 0, and ignores what is written (log 131). -/
def Paddock.read (p : Paddock) (o : Nat) : Word :=
  if o < 0x068 then
    [p.pctl, p.job, p.fper, p.fepoch, p.saveb, p.slice, p.bnd, p.bndvf, p.droot, p.sdctl, p.sdlen, p.sdack, p.htvec].getD (o / 8) 0
  else if 0x100 ≤ o ∧ o < 0x1c0 then Map.get 0 p.ilv ((o - 0x100) / 8)
  else if 0x200 ≤ o ∧ o < 0x400 then Map.get 0 p.djob ((o - 0x200) / 8)
  else if 0x400 ≤ o ∧ o < 0x480 then p.routeEntry ((o - 0x400) / 32) ((o - 0x400) / 8 % 4)
  else if 0x800 ≤ o ∧ o < 0xc00 then Map.get 0 p.lacl ((o - 0x800) / 8)
  else 0

/-- A write of a register of a paddock block, but for the interleave ranges and SDCTL. V from 0 to 1 creates the paddock, with its
barrier cells, deficits and pointer 0 (R119, R433). -/
def Paddock.write (p : Paddock) (o : Nat) (v : Word) : Paddock :=
  if o = 0x000 then
    let p' := { p with pctl := masked p.pctl v 0xb0003f00000000ff }
    if p'.valid ∧ p.valid = false then { p' with bar := [], drr := [], drrPtr := 0 } else p'
  else if o = 0x008 then { p with job := masked p.job v 0x3f3f }
  else if o = 0x010 then
    if 256 ≤ wbits v 0 20 ∧ wbits v 0 20 ≤ 1000000 then { p with fper := masked p.fper v 0xfffff } else p
  else if o = 0x018 then { p with fepoch := v }
  else if o = 0x020 then { p with saveb := masked p.saveb v 0xfffffff80000 }
  else if o = 0x028 then { p with slice := masked p.slice v 0xffffffff }
  else if o = 0x030 then { p with bnd := masked p.bnd v 0xffffcffff }
  else if o = 0x038 then { p with bndvf := v }
  else if o = 0x040 then { p with droot := masked p.droot v 0xfffffffffc00 }
  else if o = 0x050 then { p with sdlen := masked p.sdlen v 0x1fffffff }
  else if o = 0x060 then { p with htvec := masked p.htvec v 0xffffffffff01 }
  else if 0x200 ≤ o ∧ o < 0x400 then
    let n := (o - 0x200) / 8
    { p with djob := Map.set 0 p.djob n (masked (Map.get 0 p.djob n) v 0x800000000000003f) }
  else if 0x400 ≤ o ∧ o < 0x480 then p.setRoute ((o - 0x400) / 32) ((o - 0x400) / 8 % 4) v
  else if 0x800 ≤ o ∧ o < 0xc00 then
    let n := (o - 0x800) / 8
    { p with lacl := Map.set 0 p.lacl n (masked (Map.get 0 p.lacl n) v 0x80007fff0001ffff) }
  else p

/-- A write of a timetable entry's dword. A miss is of the entry as it was, and the entry stays armed while a launch of it has
not completed. -/
def State.writeEntry (s : State) (b e j : Nat) (v : Word) : State :=
  let p := s.pdk b
  let t := p.entry e
  let armed := t.armed && (s.entryVf b e s.cc).isSome
  let t := if j = 0 then { t with d0 := v } else { t with d1 := masked t.d1 v 0x1ff }
  s.setPdk b (p.setEntry e { t with armed := armed, missed := false })

/-! ### The group table (R387) -/

def popBits (v n : Nat) : Nat := ((List.range n).filter (fun i => v.testBit i)).length

/-- A write of a group entry's dword, refused with REF. -/
def State.writeGroup (s : State) (n : Nat) (v : Word) : State :=
  let old := Map.get 0 s.groups n
  let v := masked old v (if n % 2 = 0 then 0xffffc00003ffffff else 0xffffffff03ffffff)
  let s' := { s with groups := Map.set 0 s.groups n v }
  let combines (d : Word) : Bool := n % 2 = 0 && d.getLsbD 63 && d.getLsbD 62
  let many := combines v && ! combines old && 64 < s'.cmbEntries
  if many ∨ (n % 2 = 1 ∧ 8 < popBits (wbits v 0 26) 26) then { s with tack := { s.tack with gtstat := true } } else s'

/-! ### The map (R421) -/

/-- A byte of the staged slot table as written (R377). -/
def slotByte (v : Nat) : Byte := BitVec.ofNat 8 (if v.testBit 7 then 128 + v % 64 else 0)

/-- Eight bytes of a slot table. -/
def slotWord (m : Map Byte) (o : Nat) : Word :=
  wnat ((List.range 8).foldl (fun a i => a + (Map.get 0 m (o + i)).toNat * 2 ^ (8 * i)) 0)
def State.writeSlots (s : State) (o : Nat) (v : Word) : State :=
  { s with slotStg := (List.range 8).foldl (fun m i => Map.set 0 m (o + i) (slotByte (wbits v (8 * i) 8))) s.slotStg }

/-- The address is one of the map. -/
def tackAddr (a : Nat) : Bool :=
  a % 8 = 0 && (
    (0x100000 ≤ a && a < 0x100028) || (0x110000 ≤ a && a < 0x110018) || (0x120000 ≤ a && a < 0x120200) ||
    (0x130000 ≤ a && a < 0x130200) || (0x140000 ≤ a && a < 0x150000) ||
    (0x150000 ≤ a && a < 0x150300 && a % 0x100 < 64) || a = 0x151000 ||
    (0x400000 ≤ a && a < 0x480000) || (0x800000 ≤ a && a < 0x880000))

/-- A load of the tack map. -/
def State.tackRead (s : State) (a : Nat) : Word :=
  let n := a % 0x10000 / 8
  if a < 0x110000 then Map.get (toReset n) s.tack.tos n
  else if a < 0x120000 then [s.tack.pcap, s.tack.pstep, s.tack.pmeasRead].getD n 0
  else if a < 0x130000 then slotWord s.slotStg (8 * n)
  else if a < 0x140000 then Map.get 0 s.routes n
  else if a < 0x150000 then Map.get 0 s.groups n
  else if a < 0x151000 then (s.eng (n / 32) (n % 32)).control (n / 32)
  else if a < 0x152000 then wnat s.tack.gtstat.toNat
  else if a < 0x800000 then (s.pdk (a / 0x10000 % 8)).read (a % 0x10000)
  else
    let t := (s.pdk (a / 0x10000 % 8)).entry (n / 2)
    if n % 2 = 0 then t.d0 else t.d1

/-- The shared engines of a paddock's sheds and stacks have no previous holder: its key is 127 (R325). -/
def State.newHolders (s : State) (p : Paddock) : State :=
  { s with engs := s.engs.map (fun e =>
      if (if e.1 / 8 < 2 then p.sheds else p.stacks).testBit (e.1 % 8) then (e.1, { e.2 with prev := 127 }) else e) }

/-- A store of a paddock block, with which storage may come to lie at other addresses (R410); one of FPER or FEPOCH governs from the next clock on (R408), and one that creates the paddock renews its engines'
rotation (R325). -/
def State.writePdk (s : State) (b o : Nat) (v : Word) : State :=
  let p := (s.pdk b).write o v
  let p := if o = 0x010 ∨ o = 0x018 then { p with was := some (s.cc, (s.pdk b).frameRule s.cc) } else p
  s.remapped (if p.valid ∧ (s.pdk b).valid = false then (s.setPdk b p).newHolders p else s.setPdk b p)

/-- A store of the tack map; nothing when the resident service refuses a range. -/
def State.tackWrite (s : State) (a : Nat) (v : Word) : Option State :=
  let n := a % 0x10000 / 8
  let b := a / 0x10000 % 8
  let o := a % 0x10000
  if a < 0x110000 then some { s with tack := { s.tack with tos := Map.set (toReset n) s.tack.tos n (v &&& 0xffffffff) } }
  else if a < 0x120000 then
    if n = 0 then some { s with tack := { s.tack with pcap := v &&& 0x800000000000ffff }.recap }
    else if n = 1 ∧ wbits v 0 8 ≠ 0 then some { s with tack := { s.tack with pstep := v &&& 0xff } }
    else some s
  else if a < 0x130000 then some (s.writeSlots (8 * n) v)
  else if a < 0x140000 then some { s with routes := Map.set 0 s.routes n (v &&& 0x800300001f1f1f1f) }
  else if a < 0x150000 then some (s.writeGroup n v)
  else if a < 0x151000 then some (s.updEng (n / 32) (n % 32) (fun e => e.setControl (n / 32) s.cc v))
  else if a < 0x152000 then some { s with tack := { s.tack with gtstat := s.tack.gtstat && ! v.getLsbD 0 } }
  else if a < 0x800000 then
    if o = 0x048 then some (s.writeSdctl b v)
    else if 0x100 ≤ o ∧ o < 0x1c0 then s.writeIlv b ((o - 0x100) / 24) ((o - 0x100) / 8 % 3) v
    else some (s.writePdk b o v)
  else some (s.writeEntry b (n / 2) (n % 2) v)

/-! ### The custom CSRs (R420) -/

/-- What a tack hart reads of a custom CSR (R420), but for `tack.dwdata`, whose read is a step. -/
def State.tackCsrRead (s : State) (n : Nat) : Word :=
  let t := s.tack
  if n = 0x7c0 then wnat (t.dwUnit.toNat * 2 ^ 56 + t.dwIndex.toNat)
  else if n = 0x7c2 then t.hbeat
  else if n = 0x7c3 then t.fwstat
  else if n = 0x7c5 then wnat t.tminc.toNat
  else if n = 0x7c7 then wnat (t.lock.toNat * 2 ^ 63 + t.src.toNat * 2 ^ 8 + t.mpkg.toNat)
  else if n = 0x7c8 then wnat (t.stgPend.toNat * 2)
  else if 0x7c9 ≤ n ∧ n < 0x7cf then Map.get 0 t.meas (n - 0x7c9)
  else 0

/-- A write of a custom CSR of the tack harts but `tack.dwsel`; `tack.dwdata`, `tack.fwstat` and the measurement are RO. -/
def State.tackCsrSet (s : State) (n : Nat) (v : Word) : State :=
  let t := s.tack
  if n = 0x7c2 then { s with tack := { t with hbeat := v } }.heartbeat
  else if n = 0x7c4 then
    let s := if v.getLsbD 1 then s.fwCommit else s
    if v.getLsbD 0 then s.fwSwap else s
  else if n = 0x7c5 then { s with tack := { t with tminc := v.setWidth 48 } }
  else if n = 0x7c6 then s.stepTime v.toInt
  else if n = 0x7c7 then { s with tack := { t with src := BitVec.ofNat 2 (wbits v 8 2), mpkg := BitVec.ofNat 6 (wbits v 0 6) } }
  else if n = 0x7c8 then (if v.getLsbD 0 then { s with tack := { t with stgPend := true } } else s)
  else s

end Sys2Proof.Machine
end

