-- ==== Sys2Proof/Machine/Diag.lean ====
section
/-!
DEFINITION. The diagnostic windows (R423) and the CSR that reads them (R420). An entry has the layout of the rule that R423 names
for it, and entries follow one another in the order of their numbers (log 28); where no rule gives a layout, the dword is a free
value.
-/
namespace Sys2Proof.Machine

/-- The readiness registers (R422). -/
def State.rdy1Word (s : State) : Word := wnat (s.fuses.toNat * 2 ^ 32 + s.rdy1.toNat)

/-- An entry of a stack's lot directory (R278). -/
def lotWords (key log core blk : Nat) (irr : Bool) (age : Word) (pdk : Nat) : List Word :=
  let _ := blk
  [wnat (key / 128 % 2 ^ 41 * 128 + log % 32 * 4 + irr.toNat * 2 + 1), age, wnat (core % 32 * 256 + pdk % 64)]

/-- The lot directory of a stack (R278): held lots, then waiting requests, each with the stamp and the core of the task that asks and IRR 0
(log 118). -/
def State.lotDir (s : State) (k : Nat) : List Word :=
  let held := s.lots.filter (fun (l : Lot) => s.loftOf l.core l.key = k)
  let wait := s.lotReqs.filter (fun (r : LotReq) => s.loftOf r.core r.key = k)
  held.flatMap (fun (l : Lot) => lotWords l.key l.log l.core l.blk l.irr l.stamp (s.pdk l.blk).number) ++
    wait.flatMap (fun (r : LotReq) =>
      lotWords r.key r.log r.core (s.coreBlk r.core) false r.stamp (s.pdk (s.coreBlk r.core)).number)

/-- A forwarding hint (R381). -/
def hintWords (h : Hint) : List Word :=
  [wnat (2 ^ 63 + h.tgt.toNat * 2 ^ 62 + h.opkg % 64 * 2 ^ 56 + h.opage % 2 ^ 22 * 2 ^ 34),
   wnat (h.npkg % 64 * 2 ^ 58 + h.npage % 2 ^ 29 * 2 ^ 19)]

/-- A core's cut (R343): the three sequence numbers, the four PCs and the contexts that ran. -/
def cutWords (c : Cut) : List Word :=
  [wnat c.cpe.toNat, wnat c.mxe.toNat, wnat c.vxe.toNat] ++ Map.slice 0 c.pcs 0 4 ++ [wnat c.runs.toNat]

/-- A place of a combining group (R390): the instance, the received mask, and 1 KiB of elements for each of the 26 inputs in EGRESS order. -/
def CombPlace.dword (p : CombPlace) (j : Nat) : Word :=
  let got (b : Nat) : List Code := match Map.get none p.recv (codeStop b) with
    | some v => v.1.elems
    | none => []
  if j = 0 then wnat p.num
  else if j = 1 then wnat (((List.range 26).filter (fun b => (Map.get none p.recv (codeStop b)).isSome)).foldl (fun a b => a + 2 ^ b) 0)
  else
    let l := got ((j - 2) / 128)
    let i := 2 * ((j - 2) % 128)
    wnat ((l.getD i 0).toNat + (l.getD (i + 1) 0).toNat * 2 ^ 32)
def placeDwords : Nat := 2 + 26 * 128

/-- A dword of a window, where a rule gives its layout. Unit 3 has the control registers (R336), the route entries (R322) and, for each engine and
context, the ticket word of R338; unit 7 the cuts and then the images of R360; unit 11 the group table and then the places. -/
def State.window (s : State) (unit i : Nat) : Option Word :=
  match unit with
  | 0 => [s.rdy0, s.rdy1Word, wnat s.fuses.toNat, s.timeNs, wnat (s.time / 2 ^ 16 % 2 ^ 16)][i]?
  | 1 => some ((s.pdk (i / 8192 % 8)).read (8 * (i % 8192)))
  | 2 => some (if i % 128 < 64 then slotWord s.slotAct (8 * (i % 64)) else slotWord s.slotStg (8 * (i % 64)))
  | 3 =>
    if i < 24 then some (if i / 8 < 3 then (s.eng (i / 8) (i % 8)).control (i / 8) else 0)
    else if 128 ≤ i ∧ i < 256 then some ((s.pdk ((i - 128) / 16)).routeEntry (i / 4 % 4) (i % 4))
    else if 256 ≤ i ∧ i < 3328 then
      let n := i - 256
      some (s.ticketWord (n / 4 % 32) (n % 4) (n / 1024) (n / 128 % 8))
    else none
  | 4 => some ((s.lotDir (i / 196608)).getD (i % 196608) 0)
  | 5 => some (if i % 2 = 0 then (s.hcLine (i / 2)).wts else (s.hcLine (i / 2)).rts)
  | 6 =>
    let k := s.core (i / 32)
    some (if i % 32 < 16 then (k.ring (i % 16)).status else (k.window (i % 16)).status)
  | 7 =>
    if i < 512 then (if i % 16 < 8 then some ((cutWords (s.core (i / 16)).cut).getD (i % 8) 0) else none)
    else if i < 8704 then
      let k := s.core ((i - 512) / 256)
      let l := match k.task with
        | some t => k.image t
        | none => []
      some (l.getD (i % 256) 0)
    else none
  | 8 => some ((s.farrier.flatten).getD i 0)
  | 9 => some ((s.records.flatten).getD i 0)
  | 10 => some (Map.get 0 (s.point (i / 4)).exh (i % 4))
  | 11 =>
    if i < 8192 then some (Map.get 0 s.groups i)
    else some (match Map.get none s.places ((i - 8192) / placeDwords) with
      | some p => p.dword ((i - 8192) % placeDwords)
      | none => 0)
  | 12 => some (((s.shed (i / 512)).hints.flatMap hintWords).getD (i % 512) 0)
  | 13 => if i < 512 then some (Map.get 0 (s.core (i / 16)).hypPerf (i % 16)) else if i = 512 then some s.corrected else none
  | _ => none

/-- A read of a window. -/
def State.diag (s : State) (unit i : Nat) : State × Word :=
  match s.window unit i with
  | some v => (s, v)
  | none => ({ s with free := s.free + 1 }, Config.freeWord s.free)

/-- `n` dwords of a window. -/
def State.diags (s : State) (unit i n : Nat) : State × List Word :=
  match n with
  | 0 => (s, [])
  | m + 1 =>
    let (s, v) := s.diag unit i
    let (s, r) := s.diags unit (i + 1) m
    (s, v :: r)

/-- Dwords of an entry in a window with frozen read (R423), none in another. -/
def frozenEntry (unit : Nat) : Option Nat := if unit = 3 then some 1 else if unit = 4 then some 3 else none

/-- INDEX comes to lie in an entry: a window with frozen read holds its updates of that entry from now on (R423). -/
def State.keepEntry (s : State) : State :=
  let i := s.tack.dwIndex.toNat
  match frozenEntry s.tack.dwUnit.toNat, s.tack.dwKeep with
  | none, _ => { s with tack := { s.tack with dwKeep := none } }
  | some n, some k => if k.1 = i / n * n then s else
    let (s, l) := s.diags s.tack.dwUnit.toNat (i / n * n) n
    { s with tack := { s.tack with dwKeep := some (i / n * n, l) } }
  | some n, none =>
    let (s, l) := s.diags s.tack.dwUnit.toNat (i / n * n) n
    { s with tack := { s.tack with dwKeep := some (i / n * n, l) } }

/-- A write of a custom CSR of the tack harts; `tack.dwsel` chooses a window and an entry. -/
def State.tackCsrWrite (s : State) (n : Nat) (v : Word) : State :=
  if n = 0x7c0 then
    ({ s with tack := { s.tack with dwUnit := BitVec.ofNat 8 (wbits v 56 8), dwIndex := BitVec.ofNat 48 (wbits v 0 48), dwKeep := none } } :
      State).keepEntry
  else s.tackCsrSet n v

/-- The dword at INDEX: as the entry is held, in a window with frozen read. -/
def State.dwWord (s : State) : State × Word :=
  match s.tack.dwKeep with
  | some (b, l) => (s, l.getD (s.tack.dwIndex.toNat - b) 0)
  | none => s.diag s.tack.dwUnit.toNat s.tack.dwIndex.toNat

/-- `DWDATA_READ` (R420): the dword at INDEX, and INDEX goes on by 1. -/
def execDwdataRead (s : State) : Out :=
  let (s, v) := s.dwWord
  .next { s with tack := { s.tack with dwOut := v, dwIndex := s.tack.dwIndex + 1 } }.keepEntry

end Sys2Proof.Machine
end

