-- ==== Sys2Proof/Machine/Fabric.lean ====
section
/-!
DEFINITION. Between packages: domain requests (R379, R380), routes and timeouts (R382), and the Ganor links (R384 to R386).
-/
namespace Sys2Proof.Machine

/-! ### Requests of other packages (R379, R380) -/

/-- ARG1 of a reply to a redirected request (R380): the new home, by its redirect address (R251). -/
def State.homeArg (s : State) (cxl : Bool) (addr : Nat) : Word :=
  let a := if cxl then addr else 2 ^ 47 + s.pkg.toNat * 2 ^ 41 + addr % 2 ^ 41
  wnat (2 ^ 63 + cxl.toNat * 2 ^ 62 + (if cxl then 0 else s.pkg.toNat * 2 ^ 56) + bits a 19 29 * 2 ^ 19)

/-- The cause with which a domain request ends. -/
def causeCode (cz : BitVec 5) : Nat :=
  replyCode (if cz = Cause.xlat then .xlat else if cz = Cause.prot then .prot else if cz = Cause.ecc then .ecc else .unreachable)

/-- The need of a domain access. -/
def opNeed (op : DomOp) : Need :=
  match op with
  | .load _ => .read
  | .readLines _ => .read
  | _ => .write

/-- Bytes of lines as doublewords. -/
def State.lineWords (s : State) (pa n : Nat) : List Word := (List.range (16 * n)).map (fun i => wnat (s.homeRead (pa + 8 * i) 8))

/-- A word of the range is poisoned. -/
def State.anyPoison (s : State) (pa n : Nat) : Bool := (List.range ((n + 3) / 4)).any (fun i => s.wordPoison (pa + 4 * i))

/-- A line of an HC page is written by an access that carries no program timestamp (R247). -/
def State.stampLine (s : State) (cls : BitVec 2) (pa : Nat) (ts : Word) : State × Word :=
  if cls = 0 then (let (s, w) := s.hcAnon (pa / 128); (s, maxW ts w)) else (s, ts)

/-- The lines from `pa` on, stamped one after the other; answers the largest timestamp. -/
def State.stampLines (s : State) (cls : BitVec 2) (pa n : Nat) (ts : Word) : State × Word :=
  match n with
  | 0 => (s, ts)
  | m + 1 => let (s, ts) := s.stampLine cls pa ts; s.stampLines cls (pa + 128) m ts

/-- The bytes of a line that a byte mask does not name (R298). -/
def keepBytes (m : Nat) : Line :=
  BitVec.ofNat 1024 ((List.range 128).foldl (fun n j => if m.testBit j then n else n + 255 * 2 ^ (8 * j)) 0)

/-- Lines written from `b` on; the mask is that of a single line. -/
def State.putLines (s : State) (b m : Nat) (d : List Word) : State :=
  if d.length ≤ 16 then s.homeBytes (b / 128) (lineOfWords d) (keepBytes m) else s.putWords b d

/-- Lines combined into memory from `b` on, each 4-byte element by R165. -/
def State.reduceAt (s : State) (op b : Nat) (d : List Word) : State :=
  (List.range (2 * d.length)).foldl (fun s i =>
    s.homeWrite (b + 4 * i) 4 (combOp op (s.homeRead (b + 4 * i) 4) (bits (d.getD (i / 2) 0).toNat (32 * (i % 2)) 32))) s

/-- A load of a request with program timestamp `ts` (R247, R258): the home's wts on an HC page, else 0. -/
def State.domainLoad (s : State) (cls : BitVec 2) (pa : Nat) (ts : Word) : State × Word :=
  if cls = 0 then (let (s, h) := s.hcFetch (pa / 128) ts; (s, h.wts)) else (s, 0)

/-- A store of a request with program timestamp `ts` (R247, R258): the line's new wts on an HC page, else 0. -/
def State.domainStore (s : State) (cls : BitVec 2) (pa w v : Nat) (ts : Word) : State × Word :=
  let s := s.homeWrite pa w v
  if cls = 0 then s.hcStore (pa / 128) ts else (s, 0)

/-- A domain access performed at its home, with the request's program timestamp: the data and TS of the reply, or nothing
where the home is uncorrectable, which every access reports (R244). An AMO is a load and a store at one timestamp; lines of a transfer carry none (R247). -/
def State.domainOp (s : State) (op : DomOp) (pa : Nat) (cls : BitVec 2) (ts : Word) : State × Option (List Word × Word) :=
  match op with
  | .load w =>
    if s.anyPoison (pa / 4 * 4) w then (s, none)
    else
      let (s', t) := s.domainLoad cls pa ts
      (s', some ([wnat (s.homeRead pa w)], t))
  | .store w v =>
    if s.anyPoison (pa / 4 * 4) w then (s, none)
    else
      let (s, t) := s.domainStore cls pa w v.toNat ts
      (s, some ([], t))
  | .amo op w v cmp =>
    let old := s.homeRead pa w
    if s.anyPoison (pa / 4 * 4) w then (s, none)
    else
      let c := cmp.toNat % 2 ^ (8 * w)
      let at_ := if cls = 0 then maxW ts (s.hcLine (pa / 128)).wts else ts
      let (s, t) := if amoWrites op old c then s.domainStore cls pa w (amoNew op w old (v.toNat % 2 ^ (8 * w)) c) at_
        else s.domainLoad cls pa at_
      (s, some ([wnat old], t))
  | .readLines n =>
    let n := min n 8
    if s.anyPoison (pa / 128 * 128) (128 * n) then (s, none) else (s, some (s.lineWords (pa / 128 * 128) n, 0))
  | .writeLines m0 m1 d =>
    let b := pa / 128 * 128
    let d := d.take 128
    if s.anyPoison b (8 * d.length) then (s, none)
    else
      let (s, t) := (s.putLines b (m0.toNat + 2 ^ 64 * m1.toNat) d).stampLines cls b ((d.length + 15) / 16) 0
      (s, some ([], t))
  | .reduceLines op d =>
    let b := pa / 128 * 128
    let d := d.take 128
    if s.anyPoison b (8 * d.length) then (s, none)
    else
      let (s, t) := (s.reduceAt op b d).stampLines cls b ((d.length + 15) / 16) 0
      (s, some ([], t))
  | .invi => (s, some ([], 0))
  | .proxy _ _ _ _ => (s, some ([], 0))

/-- Another package's `invi dom` at this package's cores (R272). -/
def State.inviAll (s : State) : State :=
  (List.range 32).foldl (fun (s : State) c => s.updCore c (fun k => { k with icache := [] }.dropClean (fun _ => false) false)) s

/-- The batch of another package's proxy queue is offered to a ring of this one (R395): admitted and filled, or refused. -/
def State.proxyArrive (s : State) (core ring lines : Nat) (data : List Word) : State × Nat :=
  let ls := (List.range ((data.length + 15) / 16)).map (fun i => lineOfWords (data.drop (16 * i)))
  let n := ls.length / max 1 lines
  let code := s.offerCode core ring lines n
  (if code = 1 then s.placeSlots core ring ((List.range n).map (fun i => (ls.drop (lines * i)).take lines)) else s, code)

/-- The block whose job table admits a source, the lowest first. -/
def State.takerOf (s : State) (spkg spdk : Nat) : Option Nat :=
  (List.range 8).find? (fun b =>
    let d := Map.get 0 (s.pdk b).djob spkg
    (s.pdk b).valid && d.getLsbD 63 && wbits d 0 6 = spdk)

/-- Forwarding leaves of this package that a domain offset passes on its way to a page of this package (R379, R380): how many,
and the offset at which it ends. -/
def State.domainEnd (s : State) (fuel blk off : Nat) : Nat × Nat :=
  match fuel with
  | 0 => (0, off)
  | f + 1 =>
    match s.walk 3 (wbits (s.pdk blk).droot 10 38 * 1024) off with
    | none => (0, off)
    | some (pte, lvl) =>
      if bits pte 2 2 = 3 ∧ ¬ pte.testBit 57 ∧ bits pte 58 6 = s.pkg.toNat then
        let (n, o) := s.domainEnd f (s.ownTaker blk) (leafPa pte lvl off % 2 ^ 41)
        (n + 1, o)
      else (0, off)

/-- TYPE, ARG0, ARG1 and payload of a domain request (R298, log 26). -/
def DomOp.fields (op : DomOp) : Nat × Word × Word × List Word :=
  match op with
  | .load w => (0, wnat w, 0, [])
  | .store w v => (1, wnat (2 ^ w - 1), 0, [v])
  | .amo op w v cmp => (2, amoArg op w v, cmp, if w = 8 then [v] else [])
  | .readLines n => (0, wnat (128 * n), 0, [])
  | .writeLines m0 m1 d => (1, m0, m1, d)
  | .reduceLines op d => (3, wnat op, 0, d)
  | .invi => (14, 0, 0, [])
  | .proxy core ring lines d => (10, wnat (core + 2 ^ 8 * ring), wnat lines, d)

/-- A domain request as a packet, with the header words that it came with. -/
def domPkt (h0 h1 adr ts lk : Word) (op : DomOp) : PtPkt :=
  let (ty, a0, a1, d) := DomOp.fields op
  { pktOfHeader h0 h1 adr ts 0 a0 a1 lk with ty := ty, vc := vcOf ty, len := 8 * d.length, data := d, cells := cellsOfFlits (flitsOf (8 * d.length)) }

/-- A request that a forwarding leaf sends on to another package, from a stop of this one (R251, R380): by the route of its own SSTOP, without HINT. -/
def State.redirect (s : State) (q : PtPkt) (stop pkg off n : Nat) : State :=
  let q' := { q with dpkg := pkg % 64, adr := wnat (2 ^ 47 + pkg % 64 * 2 ^ 41 + off), link := putBits q.link 46 1 0 }
  match s.sendOn q' stop n with
  | some s' => s'
  | none => s.answerPkg q stop (replyCode .unreachable) 0 0 []

/-- The stop at which the home of a place answers, for a paddock's block: beside its stack, or of the host block (R298). -/
def State.placeStop (s : State) (blk pa : Nat) (cls : BitVec 2) : Nat :=
  if hostPlace pa cls then 16 else 8 + (match homeStack (s.pdk blk) pa with
    | some (k, _) => k
    | none => 0)

/-- A copy's line that was lost at its source comes as poison (R318, log 26). -/
def State.poisonBy (s : State) (q : PtPkt) (pa : Nat) (op : DomOp) : State :=
  match op with
  | .writeLines _ _ _ => if q.link.getLsbD 44 then s.setPoison (pa / 128) 0xffffffff true else s
  | _ => s

/-- A domain request at its home (R379, R416): performed and answered, with the new home where it was redirected `n` times; `hostOk` says that the host port
can complete it. -/
def State.serveAt (s : State) (q : PtPkt) (blk pa : Nat) (cls : BitVec 2) (n o : Nat) (hostOk : Bool) (op : DomOp) : State :=
  let stop := s.placeStop blk pa cls
  if hostPlace pa cls ∧ hostOk = false then s.answerPkg q stop (replyCode .unreachable) 0 0 []
  else
    let arg := if cls = 3 then s.homeArg true pa else if 0 < n then s.homeArg false o else 0
    match s.domainOp op pa cls q.ts with
    | (s', some (d, t)) => (s'.poisonBy q pa op).answerPkg q stop 0 arg t d
    | (s', none) => s'.answerPkg q stop (replyCode .ecc) arg 0 []

/-- `DOMAIN_REQUEST` (R379, R380): a request of another package with words 0 and 1, ADDR, TS and LINK of its header: of paddock PDK of package SPKG, issued at
level LVL with program timestamp TS, with FWD redirects behind it. It is taken, translated, and performed, sent on, or answered with what failed. One whose
ADDR is physical came by a hint to the host port's memory (R381).
The control message of another package's `invi` goes to every core (R272), and the offer of a proxy queue to its ring (R395). -/
def execDomainRequest (h0 h1 adr ts lk : Word) (hostOk : Bool) (op : DomOp) (s : State) : Out :=
  let q := domPkt h0 h1 adr ts lk op
  let off := wbits adr 0 41
  let fwd := min (wbits lk 35 2) 2
  match op, s.takerOf q.spkg q.pdk with
  | .invi, _ => .next (s.inviAll.answerPkg q 0 0 0 0 [])
  | .proxy core ring lines d, _ =>
    let (s, code) := s.proxyArrive (core % 32) (ring % 16) lines d
    .next (s.answerPkg q (core % 32 / 4) 0 0 0 [wnat code])
  | _, none => .next (s.answerPkg q 0 (replyCode .prot) 0 0 [])
  | _, some b =>
    if adr.getLsbD 63 then .next (s.serveAt q b (wbits adr 0 48) 3 fwd 0 hostOk op)
    else match s.domainPlace (3 - fwd) b off (opNeed op) (wbits lk 42 2 = 0) with
    | .bad cz => .next (s.answerPkg q 0 (causeCode cz) 0 0 [])
    | .ok (.remote pkg o) => .next (s.redirect q 0 pkg o (1 + (s.domainEnd 2 b off).1))
    | .ok (.phys pa cls _) =>
      let (n, o) := s.domainEnd 2 b off
      .next (s.serveAt q b pa cls (fwd + n) o hostOk op)

/-- A bay whose oldest request has waited `lim` cc for another package's answer: its window line, its offer, or lines of its range (R382). -/
def State.lateBay (s : State) (cls unit n lim : Nat) : Out :=
  match (s.eng cls unit).bay n with
  | none => .next s
  | some b =>
    if b.asked ∧ b.askedAt + lim ≤ s.cc ∧ (s.remoteNeed b.req.core b.req.atU (reqLines b.req)).isSome then .next (s.bayLineReply cls unit n b .unreachable)
    else if b.offer ∧ b.askedAt + lim ≤ s.cc then execProxyOffer unit n .unreachable s
    else match b.asks.find? (fun a => a.rep.isNone && b.far a.line && a.at_ + lim ≤ s.cc) with
      | some a => .next (s.bayAnswer cls unit n b a.line .unreachable)
      | none => .next s

/-- `REQUEST_TIMEOUT` (R382): a request without a reply for 1,048,576 cc completes as unreachable; one that went by a hint is
sent once more (R381). `ctx` 8 is the core's oldest line on its way, 9 a line of its copies, 4 to 6 a frozen engine, and 16 + 8 · class + bay a bay of the shared
engine `core`. -/
def execRequestTimeout (core ctx : Nat) (s : State) : Out :=
  let lim := 1048576
  if ctx < 4 then
    let t := s.ctx core ctx
    let far : Bool := match t.wait with
      | some (.load _ _ _ _ (.remote _ _)) => true
      | some (.remoteStore _ _ _ (.remote _ _)) => true
      | some (.remoteAmo _ _ _ _ _ _ (.remote _ _)) => true
      | some (.block _ (.remote _ _)) => true
      | some (.blockStore _ _ (.remote _ _)) => true
      | some (.farInvi _) => true
      | _ => false
    if far ∧ t.run = .running ∧ t.waitAt + lim ≤ s.cc then
      let s' := s.replyTo core ctx .unreachable
      .next (if (s'.ctx core ctx).wait = t.wait then s'.updCtx core ctx (fun u => { u with waitAt := s.cc }) else s')
    else .next s
  else if ctx = 8 then
    match (s.core core).away.find? (fun f => f.fail.isNone) with
    | some f => .next (if f.host.isNone ∧ f.since + lim ≤ s.cc then s.replyAway core .unreachable else s)
    | none => .next s
  else if ctx = 9 then
    match s.lateLine core lim with
    | some (w, m) => .next (s.copyLine core w m .unreachable)
    | none => .next s
  else if 16 ≤ ctx then s.lateBay ((ctx - 16) / 8) core (ctx % 8) lim
  else match (s.core core).frozen with
    | some f => .next (if f.since + lim ≤ s.cc then s.replyFrozen core f.eng .unreachable else s)
    | none => .next s

/-! ### Ganor links (R384 to R386) -/

/-- A record of level 0 for a link; the spec gives no watch code for one (log 17). -/
def State.linkRecord (s : State) : State :=
  { s.record 0 ((Config.freeWord s.free).toNat % 32) 0 0 0 0 0 with free := s.free + 1 }

/-- The port lies on the route to the time master (R407). -/
def State.masterPort (s : State) (port : Nat) : Bool :=
  let e := Map.get 0 s.routes s.tack.mpkg.toNat
  s.tack.src = 2 && e.getLsbD 63 && (routePorts e).contains port

/-- A link is retrained: its ready bit clears, its counts and its replay buffer stay; LOCK clears where it leads to the time
master. -/
def State.retrain (s : State) (port : Nat) : State :=
  { s with
    rdy0 := s.rdy0 &&& ~~~ (wnat (2 ^ (18 + port)))
    tack := if s.masterPort port then { s.tack with lock := false, syncOk := 0 } else s.tack }

/-- `LINK_RETRAIN` (R386). -/
def execLinkRetrain (port : Nat) (s : State) : Out := .next (if port < 18 then s.retrain port else s)

/-- A line of a copy is on its way in a packet: of its command, within the packet's range. -/
def lineIn (q : PtPkt) (w : Copy) (m : Nat) : Bool :=
  w.ent.seq.toNat = q.seq && (match lineVa w.ent m with
    | some (va, _) => q.addr.toNat ≤ va.toNat && va.toNat < q.addr.toNat + max q.rlen q.len
    | none => false)

/-- The lines of copies that a packet carries are answered as unreachable. -/
def State.failLines (s : State) (q : PtPkt) (n : Nat) : State :=
  match n with
  | 0 => s
  | m + 1 =>
    match (s.core q.core).cpe.work.findSome? (fun w => (w.out.find? (lineIn q w)).map (fun i => (w, i))) with
    | some (w, i) => (s.copyLine q.core w i .unreachable).failLines q m
    | none => s

/-- A bay's request in a packet is answered as unreachable: a window line, an offer, a launch packet or lines of its range. -/
def State.failBay (s : State) (q : PtPkt) : State :=
  match (s.eng 0 q.src).bays.findSome? (fun b => match b.2 with
      | some y => if y.req.core = q.core ∧ y.req.ctx = q.ctx ∧ (if q.ty = 10 then y.offer else y.asks.any (fun a =>
          a.rep.isNone && (q.ty = 8 || y.req.lineAt a.line = q.addr))) then some (b.1, y) else none
      | none => none) with
  | some (n, y) =>
    if q.ty = 10 then (match execProxyOffer q.src n .unreachable s with
      | .next t => t
      | _ => s)
    else match y.asks.find? (fun a => a.rep.isNone && (q.ty = 8 || y.req.lineAt a.line = q.addr)) with
      | some a => s.bayAnswer 0 q.src n y a.line .unreachable
      | none => s
  | none => s

/-- The sender of a request that cannot leave learns that its target is unreachable (R382, R386): another package, a context's word, a line on its way, a
frozen engine, copies or a bay of this one. -/
def State.failReq (s : State) (port : Nat) (q : PtPkt) : State :=
  let s := { s with farReqs := s.farReqs.filter (fun p => ! (p.core = q.core && p.ctx = q.ctx && p.tag = q.tag && p.addr = q.addr)) }
  if q.spkg ≠ s.pkg.toNat then s.answerPkg q (18 + port) (replyCode .unreachable) 0 0 []
  else if q.kind = 3 ∨ q.kind = 13 then
    (if q.ty = 1 then (match (s.core q.core).away.find? (fun f => f.fail.isNone && f.va = q.addr) with
        | some f => s.answerAway q.core f .unreachable
        | none => s)
      else if q.unit = 4 then (match s.bayNeeds q.core with
        | some (cls, u, n, b) => s.bayLineReply cls u n b .unreachable
        | none => s)
      else s.replyFrozen q.core (q.unit - 1) .unreachable)
  else if q.unit = 1 then s.failLines q 8
  else if q.unit = 4 then s.failBay q
  else
    let t := s.ctx q.core q.ctx
    let mine : Bool := match t.wait.bind Wait.access with
      | some (p, _, _) => p.addr = q.addr
      | none => false
    if t.run = .running ∧ mine then s.replyTo q.core q.ctx .unreachable else s

/-- A multicast or combine copy that the switch holds for a port is discarded (log 144). -/
def State.dropBranch (s : State) (port : Nat) : State :=
  ((List.range s.mcs.length).foldl (fun (s : State) n => match s.mcs[n]? with
    | some p => if p.mask.getLsbD (8 + port) then s.mcSent n (8 + port) p else s
    | none => s) s).sweepMcs

/-- Packets that a port holds for a link that stays not ready leave it (R386): a request is answered as unreachable, and a reply or a control packet is
discarded. -/
def State.dropHeld (s : State) (port : Nat) : State :=
  let qs := (s.point (210 + port)).pkts
  let s := qs.foldl (fun (s : State) p => s.leaveExit p) (s.updPoint (210 + port) (fun t => { t with pkts := [] }))
  (qs.foldl (fun (s : State) p => if p.vc = 0 then s.failReq port p else s) s).dropBranch port

/-- `LINK_TRAINING_END` (R386, R426): once the host block is ready, the link is ready and sends again from its oldest unacknowledged flit, or it stays not
ready, lets go of what it holds, and the halter records an event. -/
def execLinkTrainingEnd (port : Nat) (ok : Bool) (s : State) : Out :=
  if 18 ≤ port ∨ (ok ∧ s.rdy0.getLsbD 16 = false) then .next s
  else if ok then
    let l := s.link port
    .next { s.setLink port { l.sendAgain s.cc l.replay with asked := false } with
      rdy0 := s.rdy0 ||| wnat (2 ^ (18 + port)) }
  else .next (({ s.setLink port { s.link port with resend := [] } with
      rdy0 := s.rdy0 &&& ~~~ (wnat (2 ^ (18 + port))) } : State).dropHeld port).linkRecord

/-- `REPLAY_REQUEST` (R386): the far end asks for everything from a sequence number, which a ready link sends again. -/
def execReplayRequest (port seq : Nat) (s : State) : Out :=
  let l := s.link port
  let r := l.replay.dropWhile (fun f => f.seq.toNat ≠ seq)
  .next (if 18 ≤ port ∨ r = [] then s
    else s.setLink port (if s.linkReady port then l.sendAgain s.cc r else { l with resend := r }))

/-- The farrier's entry of a link, by the sequence number expected, with the time of the first failure; its syndrome is left open (log 16). -/
def State.linkLog (s : State) (port : Nat) (lasting : Bool) : State :=
  { s.farLog 3 port (s.link port).expect.toNat lasting (Config.freeSyndrome s.free) (s.link port).askedAt with free := s.free + 1 }

/-- The replay request of a port: a control packet that names the sequence number which it expects (R386, log 26). -/
def State.replayAsk (s : State) (port : Nat) : PtPkt :=
  { ty := 14, vc := 3, kind := 14, src := 18 + port, dst := 18 + port, spkg := s.pkg.toNat, link := (s.link port).expect.setWidth 64, input := 3 }

/-- A unit that fails: the receiver asks for the flit that it expects, once; when the replayed flit fails again the farrier
counts a lasting failure and the link is retrained. The failure's one entry is written when its replay has succeeded or failed (R348, R349). -/
def State.linkFails (s : State) (port : Nat) (crc : Bool) : State :=
  let l := s.link port
  if l.asked = false then
    let p := s.replayAsk port
    ((s.setLink port { l with asked := true, askedAt := s.timeNs }).pushPkt (210 + port) p).sendPort port p.words
  else if crc then
    ((s.linkLog port true).setLink port { l with asked := false }).linkRecord.retrain port
  else s

/-- The acknowledgement and the slot return of a unit. -/
def Link.returns (l : Link) (side : Word) : Link :=
  let ack := BitVec.ofNat 12 (wbits side 40 12)
  let l := if l.replay.any (fun f => f.seq = ack) then
    let r := (l.replay.dropWhile (fun f => f.seq ≠ ack)).drop 1
    { l with replay := r, resend := l.resend.filter (fun f => r.contains f) } else l
  if side.getLsbD 35 then { l with lastRet := Map.set 0 l.lastRet (wbits side 33 2) (BitVec.ofNat 16 (wbits side 17 16)) } else l

/-- `LINK_UNIT_RECEIVE` (R384 to R386): a unit with its flit; one whose CRC fails is discarded whole. -/
def execLinkUnitReceive (port : Nat) (side : Word) (flit : List Word) (crcOk : Bool) (s : State) : Out :=
  if 18 ≤ port then .next s
  else if crcOk = false then .next (s.linkFails port true)
  else
    let s := s.setLink port ((s.link port).returns side)
    let l := s.link port
    let s := if side.getLsbD 36 then s
      else if BitVec.ofNat 12 (wbits side 52 12) ≠ l.expect then s.linkFails port false
      else
        let vc := wbits side 38 2
        let f := (flit ++ List.replicate 8 (0 : Word)).take 8
        let s := if l.asked then s.linkLog port false else s
        s.setLink port { l with
          expect := l.expect + 1, asked := false, inbuf := Map.set [] l.inbuf vc (Map.get [] l.inbuf vc ++ f) }
    .next ((List.range 4).foldl (fun (s : State) vc => s.consume port vc) s)

end Sys2Proof.Machine
end

