-- ==== Sys2Proof/Machine/HostPort.lean ====
section
/-!
DEFINITION. The host port's registers (R415): doorbells (R418), interrupt logs (R371, R373), function registers and resets (R413,
R414), the mailbox as the host writes it (R417); and Ethernet frames (R419).
-/
namespace Sys2Proof.Machine

/-- A function that the host may use: the physical function, or an enabled one (R413). -/
def State.enabled (s : State) (fn : Nat) : Bool := fn = 0 || (fn < 64 && (s.func fn).vfctl.getLsbD 63)

/-- The block of a function's paddock. -/
def State.fnBlock (s : State) (fn : Nat) : Option Nat :=
  (List.range 8).find? (fun b => (s.pdk b).valid && (s.pdk b).number = wbits (s.func fn).vfctl 0 6)

/-! ### Doorbells (R418) -/

/-- A function's window takes a packet: enqueued, or refused with a notice (R120, R411). Windows of another function's paddock,
and of a block without a paddock, discard what is written. -/
def State.ring (s : State) (fn blk q : Nat) (d : List Word) : State :=
  let mine : Bool := fn = 0 || s.fnBlock fn = some blk
  if s.enabled fn = false ∨ mine = false ∨ (s.pdk blk).valid = false ∨ 16 ≤ q then s
  else match s.arrive blk q fn d none with
    | .ok s' => s'
    | .error info => s.notice fn blk q info d

/-- A dword written into a doorbell window. -/
def State.writeDoor (s : State) (fn blk q j : Nat) (v : Word) : State :=
  let n := 8 * (16 * blk + q)
  let s := s.updFunc fn (fun f => { f with door := Map.set 0 f.door (n + j) v })
  if j = 7 then s.ring fn blk q (Map.slice 0 (s.func fn).door n 8) else s

/-- `DOORBELL_WRITE` (R418): a packet is written, its dword at offset 56 last. -/
def execDoorbellWrite (fn blk q : Nat) (packet : List Word) (s : State) : Out :=
  if 64 ≤ fn ∨ 8 ≤ blk ∨ 16 ≤ q then .next s
  else .next ((List.range 8).foldl (fun s j => s.writeDoor fn blk q j (pktWord packet j)) s)

/-! ### Interrupt logs (R371, R373) -/

/-- SRC 15 entries for the vectors that are held, in ascending order, while the log has room. Their TIME is that of the write of ILHEAD that
makes room: DESIGN CHOICE, the spec does not say which time a coalesced entry has (log 130). -/
def State.flushPend (s : State) (fn : Nat) : State :=
  (List.range 64).foldl (fun s v =>
    let f := s.func fn
    if f.ilpend.getLsbD v ∧ f.logFull = false then
      (s.logEntry fn 15 v (min (Map.get 0 f.ilheld v) (2 ^ 48 - 1))).updFunc fn (fun f =>
        { f with ilpend := f.ilpend &&& ~~~ wnat (2 ^ v), ilheld := Map.set 0 f.ilheld v 0 })
    else s) s

/-- A write of ILHEAD. -/
def State.writeIlhead (s : State) (fn : Nat) (v : Word) : State :=
  (s.updFunc fn (fun f => { f with ilhead := v &&& 0xffff })).flushPend fn

/-- `ILHEAD_WRITE` (R373). -/
def execIlheadWrite (fn : Nat) (v : Word) (s : State) : Out :=
  if fn = 0 ∨ 64 ≤ fn then .next s else .next (s.writeIlhead fn v)

/-- A write of an interrupt-log register at an offset; TAIL and PEND are RO. -/
def State.writeIl (s : State) (fn o : Nat) (v : Word) : State :=
  if o = 0x00 then s.updFunc fn (fun f => { f with ilbase := v &&& 0xffffffffffc0 })
  else if o = 0x08 then (if 4 ≤ wbits v 0 4 then s.updFunc fn (fun f => { f with ilsize := v &&& 0xf }) else s)
  else if o = 0x10 then s.writeIlhead fn v
  else if o = 0x20 then s.updFunc fn (fun f => { f with ilres := v &&& 1 })
  else s

/-! ### Function resets (R414) -/

/-- The saved tasks of a function's launches leave their save slots. -/
def State.dropSaved (s : State) (fn : Nat) : State :=
  let slots := s.launches.flatMap (fun e => match e.2 with
    | some l => if l.pkt.vf = fn then l.saved.map (fun u => (l.blk, u.2)) else []
    | none => [])
  slots.foldl (fun (s : State) (u : Nat × Nat) =>
    let a := (s.pdk u.1).recordAt u.2
    s.homeWrite a 8 (s.homeRead a 8 % 2 ^ 63)) s

/-- A function's packets and launches go. -/
def State.dropLaunches (s : State) (fn : Nat) : State :=
  let s := (List.range 8).foldl (fun (s : State) b =>
    if (s.pdk b).queues = [] then s
    else s.updPdk b (fun p => { p with queues := (List.range 16).foldl (fun m q =>
      Map.set [] m q ((p.queue q).filter (fun k => k.vf ≠ fn))) p.queues })) s
  { s with launches := s.launches.filter (fun e => match e.2 with
      | some l => l.pkt.vf ≠ fn
      | none => true) }

/-- The code of a mailbox entry. -/
def mbCode (v : Word) : Nat := wbits v 0 16

/-- The answer of an entry: its payload and LEN, then dword 0, and the function's interrupt (R417 steps 3 and 4). -/
def State.answerMb (s : State) (fn e status : Nat) (payload : List Word) (len : Nat) : State :=
  let s := s.updFunc fn (fun f =>
    let d := f.mb e 0
    let f := { f with mbox := Map.setList 0 f.mbox (32 * e + 2) payload }
    (f.setMb e 1 (wnat len)).setMb e 0 (wnat (2 ^ 62 + wbits d 32 16 * 2 ^ 32 + status * 2 ^ 24 + mbCode d)))
  let s := { s with tack := { s.tack with mboxOrder := s.tack.mboxOrder.filter (fun r => ¬ (r.1 = fn ∧ r.2 = e)) } }
  s.interrupt fn 4 e

/-- An answer without payload. -/
def State.status (s : State) (fn e st : Nat) : State := s.answerMb fn e st [] 0

/-- The reset of a function has begun and not ended. -/
def State.inReset (s : State) (fn : Nat) : Bool := (s.func fn).vfctl.getLsbD 62

/-- A function's reset begins: RST is set, its packets and launches go, and its tasks end (R414 steps 1 and 2). -/
def State.beginReset (s : State) (fn : Nat) : State :=
  let s := (s.dropSaved fn).dropLaunches fn
  let s := (List.range Config.numCores).foldl (fun (s : State) c =>
    if (s.core c).task.isSome ∧ s.coreVf c = fn then s.resetCore c (fun s => s.finishTask c codeFault 0) else s) s
  s.updFunc fn (fun f => { f with vfctl := f.vfctl ||| wnat (2 ^ 62) })

/-- A bay still serves a request of the function (R414 step 3); the contribution of an `xcmb` that waits for a place has left its engine and does not count,
since step 4 frees the place (log 143). -/
def State.serves (s : State) (fn : Nat) : Bool :=
  s.engs.any (fun e => e.2.bays.any (fun b => match b.2 with
    | some b => b.req.vf = fn && b.inAt.isNone
    | none => false))

/-- A function's reset ends: steps 4 to 6 of R414, and the answer to the mailbox request that asked for it. -/
def State.endReset (s : State) (fn : Nat) : State :=
  let s := s.abandon fn
  let s := { s with engs := s.engs.map (fun (e : Nat × Eng) =>
    (e.1, { e.2 with cnt := e.2.cnt.filter (fun (n : Nat × Word) => n.1 / 8 ≠ fn) })) }
  let by_ := (s.func fn).rstBy
  let s := s.updFunc fn (fun f => { f with
    ilbase := 0, ilsize := 4, ilhead := 0, iltail := 0, ilres := 0, ilpend := 0, ilheld := []
    vfctl := f.vfctl &&& ~~~ wnat (2 ^ 62), rstBy := none })
  match by_ with
  | some (g, e) => s.status g e 0
  | none => s

/-- The reset of a virtual function, in the order of R414: it ends when its admitted bays have finished their service. -/
def State.resetFunction (s : State) (fn : Nat) : State :=
  let s := if s.inReset fn then s else s.beginReset fn
  if s.serves fn then s else s.endReset fn

/-- `FUNCTION_RESET` (R414): a write of RST, and what follows once the function's admitted bays have finished. -/
def execFunctionReset (fn : Nat) (s : State) : Out :=
  if fn = 0 ∨ 64 ≤ fn then .next s else .next (s.resetFunction fn)

/-! ### Function registers (R413) -/

/-- A write of VFCTL is refused as a whole: it would change PDK, LIM or STR of an enabled function. -/
def vfctlRefused (old v : Word) : Bool := old.getLsbD 63 && (old &&& 0x000300000000003f) ≠ (v &&& 0x000300000000003f)

/-- A write of VFCTL as the register keeps it; WGT takes 1 to 255. -/
def vfctlWrite (old v : Word) : Word :=
  if vfctlRefused old v then old
  else masked old v (if wbits v 8 8 = 0 then 0x800300000000003f else 0x800300000000ff3f)

/-- A write of a function register; RST resets the function, where the write is not refused. -/
def State.writeFn (s : State) (fn o : Nat) (v : Word) : State :=
  if o = 0x00 then
    let old := (s.func fn).vfctl
    let s := s.updFunc fn (fun f => { f with vfctl := vfctlWrite f.vfctl v })
    if v.getLsbD 62 ∧ fn ≠ 0 ∧ vfctlRefused old v = false then s.resetFunction fn else s
  else if o = 0x08 then
    s.updFunc fn (fun f => if f.vfctl.getLsbD 63 then f else { f with vfroot := v &&& 0xfffffffffc00 })
  else if o = 0x10 then s.updFunc fn (fun f => { f with vftvec := v &&& 0xffffffffff01 })
  else s

/-! ### The mailbox as the host writes it (R417) -/

/-- The host clears DONE of an entry: a notice that waits may be placed. -/
def State.clearDone (s : State) (fn e : Nat) : State :=
  s.updFunc fn (fun f => (f.setMb e 0 (f.mb e 0 &&& ~~~ wnat (2 ^ 62))).placeNotices fn)

/-- `MAILBOX_DONE_CLEAR` (R417). -/
def execMailboxDoneClear (fn e : Nat) (s : State) : Out :=
  if s.enabled fn ∧ e < mbEntries fn ∧ mbGo ((s.func fn).mb e 0) = false then .next (s.clearDone fn e) else .next s

/-- A write of a dword of an entry. A GO write to an entry whose GO or DONE is set is ignored, and so is every write of dword 0
while the device has the entry; GO hands a request entry to the device. -/
def State.writeMb (s : State) (fn e j : Nat) (v : Word) : State :=
  let old := (s.func fn).mb e 0
  if 2 ≤ j then s.updFunc fn (fun f => f.setMb e j v)
  else if j = 1 then s.updFunc fn (fun f => f.setMb e 1 (v &&& 0xff))
  else if mbGo old ∨ (mbGo v ∧ mbDone old) then s
  else if mbGo v then
    if e < mbRequests fn then
      let s := s.updFunc fn (fun f => f.setMb e 0 (masked old v 0x8000ffff0000ffff))
      { s with tack := { s.tack with mboxOrder := s.tack.mboxOrder ++ [(fn, e)] } }
    else s
  else
    let s := s.updFunc fn (fun f => f.setMb e 0 (masked old v 0x0000ffff0000ffff))
    if mbDone v then s else s.clearDone fn e

/-! ### BAR0 (R415, R418) -/

/-- A host write of 8 bytes through the physical function. -/
def State.writePf (s : State) (a : Nat) (v : Word) : State :=
  if a % 8 ≠ 0 then s
  else if 0x10000 ≤ a ∧ a < 0x12000 then s.writeDoor 0 ((a - 0x10000) / 0x400) (a / 0x40 % 16) (a / 8 % 8) v
  else if 0x20040 ≤ a ∧ a < 0x21000 then s.writeIl (a / 0x40 % 64) (a % 0x40) v
  else if 0x30040 ≤ a ∧ a < 0x31000 then s.writeFn (a / 0x40 % 64) (a % 0x40) v
  else if 0x40000 ≤ a ∧ a < 0x44000 then s.writeMb 0 (a / 0x100 % 64) (a / 8 % 32) v
  else s

/-- A host write of 8 bytes through a virtual function. -/
def State.writeVf (s : State) (fn a : Nat) (v : Word) : State :=
  if a % 8 ≠ 0 ∨ s.enabled fn = false then s
  else if a < 0x400 then
    match s.fnBlock fn with
    | some b => s.writeDoor fn b (a / 0x40) (a / 8 % 8) v
    | none => s
  else if 0x10000 ≤ a ∧ a < 0x10800 then s.writeMb fn (a / 0x100 % 8) (a / 8 % 32) v
  else s

/-- What the host reads of a doorbell window (R418): 0, but the queue's free places at offset 56. -/
def State.readDoor (s : State) (blk q j : Nat) : Word :=
  if j = 7 ∧ (s.pdk blk).valid then wnat (Config.launchQueueLen - ((s.pdk blk).queue q).length) else 0

/-- What the host reads through the physical function (R415, R422: RDY0 stands before RDY1, log 122). A read changes nothing, so it is no step. -/
def State.readPf (s : State) (a : Nat) : Word :=
  let f := s.func (a / 0x40 % 64)
  let o := a % 0x40 / 8
  if a % 8 ≠ 0 then 0
  else if a < 0x10 then (if a = 0 then s.rdy0 else s.rdy1Word)
  else if 0x10000 ≤ a ∧ a < 0x12000 then s.readDoor ((a - 0x10000) / 0x400) (a / 0x40 % 16) o
  else if 0x20040 ≤ a ∧ a < 0x21000 then [f.ilbase, f.ilsize, f.ilhead, f.iltail, f.ilres, f.ilpend].getD o 0
  else if 0x30000 ≤ a ∧ a < 0x31000 then [f.vfctl, f.vfroot, f.vftvec].getD o 0
  else if 0x40000 ≤ a ∧ a < 0x44000 then (s.func 0).mb (a / 0x100 % 64) (a / 8 % 32)
  else 0

/-- What the host reads through a virtual function (R415, R418). -/
def State.readVf (s : State) (fn a : Nat) : Word :=
  if a % 8 ≠ 0 ∨ s.enabled fn = false then 0
  else if a < 0x400 then
    match s.fnBlock fn with
    | some b => s.readDoor b (a / 0x40) (a / 8 % 8)
    | none => 0
  else if 0x10000 ≤ a ∧ a < 0x10800 then (s.func fn).mb (a / 0x100 % 8) (a / 8 % 32)
  else 0

/-- `REGISTER_WRITE` (R409, R413, R417, R420, R421): 8 bytes written to a register. The agent is 0 for a tack hart's store into the
tack map, 1 for its write of a custom CSR, 2 for tack firmware at the physical function's own function registers, and 64 + fn for
the host through the BAR0 of function fn. -/
def execRegisterWrite (agent addr : Nat) (v : Word) (s : State) : Out :=
  if agent = 0 then .next (if tackAddr addr then (s.tackWrite addr v).getD s else s)
  else if agent = 1 then .next (s.tackCsrWrite addr v)
  else if agent = 2 then .next (s.writeFn 0 addr v)
  else if agent = 64 then .next (s.writePf addr v)
  else if 64 < agent ∧ agent < 128 then .next (s.writeVf (agent - 64) addr v)
  else .next s

/-! ### Ethernet (R419) -/

/-- Bytes written at, and read from, physical addresses of package memory. -/
def State.putBytes (s : State) (pa : Nat) (l : List Byte) : State :=
  match l with
  | [] => s
  | b :: r => (s.homeWrite pa 1 b.toNat).putBytes (pa + 1) r
def State.getBytes (s : State) (pa n : Nat) : List Byte := (List.range n).map (fun i => BitVec.ofNat 8 (s.homeRead (pa + i) 1))

/-- The Yard stop of an address's home for the Ethernet block, which runs for no paddock: by the first paddock whose ranges hold it (log 86). -/
def State.ethStop (s : State) (pa : Nat) : Nat :=
  8 + (((List.range 8).findSome? (fun b => (homeStack (s.pdk b) pa).map (·.1))).getD 0)

/-- The packets with which a frame of `n` bytes reaches memory, or leaves it, through stop 17 (R298, R419), up to 1 KiB each. -/
def State.ethPkts (s : State) (inbound : Bool) (pa n : Nat) : State :=
  (List.range ((n + 1023) / 1024)).foldl (fun (s : State) i =>
    let m := min 1024 (n - 1024 * i)
    s.sendFrom
      { ty := if inbound then 1 else 0, unit := 8, kind := 12, noted := true, src := 17, dst := s.ethStop (pa + 1024 * i), spkg := s.pkg.toNat
        dpkg := s.pkg.toNat, len := if inbound then m else 0, rlen := if inbound then 8 else m, adr := wnat (2 ^ 63 + (pa + 1024 * i))
        cells := cellsOfFlits (flitsOf (if inbound then m else 0)) }) s

/-- `ETHERNET_FRAME` (R419): a frame that a port receives is stored, or one that memory holds leaves a port, as Yard packets of stop 17. -/
def execEthernetFrame (port : Nat) (inbound : Bool) (pa : Nat) (data : List Byte) (s : State) : Out :=
  if s.rdy0.getLsbD 17 = false ∨ 4 ≤ port ∨ 2 ^ 47 < pa + data.length then .next s
  else
    let s := s.ethPkts inbound pa data.length
    if inbound then .next (s.putBytes pa data)
    else .next { s with ethOut := s.ethOut ++ [(port, s.getBytes pa data.length)] }

end Sys2Proof.Machine
end

