-- ==== Sys2Proof/Machine/Mailbox.lean ====
section
/-!
DEFINITION. The requests of the host mailbox (R417) that the resident service answers: firmware (R424, R425), merges (R412),
resets (R414), diagnostics (R423), configuration (R421) and IEEE 1588 (R407).
-/
namespace Sys2Proof.Machine

/-! ### Requests and answers -/

/-- A byte and a dword of an entry's payload, and its LEN. -/
def Func.mbWord (f : Func) (e i : Nat) : Word := f.mb e (2 + i)
def Func.mbByte (f : Func) (e i : Nat) : Nat := wbits (f.mb e (2 + i / 8)) (8 * (i % 8)) 8
def Func.mbLen (f : Func) (e : Nat) : Nat := wbits (f.mb e 1) 0 8

/-- The service, or the boot ROM when there is no image, answers requests (R426); a swap lets them wait (R425). -/
def State.serving (s : State) : Bool := (s.rdy0.getLsbD 36 || s.tack.noImage) && s.tack.swapWait.isNone

/-- Entry e of a function is the request that is answered next. -/
def State.nextReq (s : State) (fn e : Nat) : Bool := s.serving && s.tack.merging.isNone && s.tack.mboxOrder.head? = some (fn, e)

/-- The request of an entry with a code that a function may use: answered NOIMAGE by the boot ROM, BADREQ when its LEN is not in
range, and else by `f`. -/
def State.request417 (s : State) (fn e code need : Nat) (pfOnly rom : Bool) (f : Func → State) : State :=
  let u := s.func fn
  if s.nextReq fn e = false ∨ mbCode (u.mb e 0) ≠ code ∨ (pfOnly ∧ fn ≠ 0) then s
  else if s.tack.noImage ∧ rom = false then s.status fn e 4
  else if u.mbLen e < need ∨ 240 < u.mbLen e then s.status fn e 6
  else f u

/-- The codes of R417, and whether a virtual function may use them. -/
def mbCodes : List (Nat × Bool) :=
  [(0x01, true), (0x10, false), (0x11, false), (0x12, false), (0x20, false), (0x21, true), (0x30, false), (0x40, false),
   (0x41, false), (0x50, false)]

/-- `UNKNOWN_MAILBOX_CODE` (R417): BADREQ, or DENIED for a code that is not open to the function. -/
def execUnknownMailboxCode (fn e : Nat) (s : State) : Out :=
  if s.nextReq fn e then
    let c := mbCode ((s.func fn).mb e 0)
    let st (n : Nat) : State := s.status fn e (if s.tack.noImage then 4 else n)
    match mbCodes.find? (fun r => r.1 = c) with
    | none => .next (st 6)
    | some r => .next (if fn ≠ 0 ∧ r.2 = false then st 5 else s)
  else .next s

/-! ### Firmware (R424 to R426) -/

/-- `INFO`: VERSION, `tack.fwstat` and RDY1. Without an image the version is a free value. -/
def execInfo (fn e : Nat) (s : State) : Out :=
  .next (s.request417 fn e 0x01 0 false true (fun _ =>
    let v := if s.tack.noImage then Config.freeWord s.free &&& 0xffffffff else wnat (imageVersion (s.tack.slot s.tack.act))
    { s with free := if s.tack.noImage then s.free + 1 else s.free }.answerMb fn e 0 [v, s.tack.fwstat, s.rdy1Word] 24))

/-- The image that is being loaded: the inactive slot with the chunks written since. -/
def Tack.staged (t : Tack) : Map Byte := t.stage.getD (t.slot (! t.act))

/-- `FWCHUNK`: image bytes for the inactive slot; the slot takes them when they verify (R424). -/
def execFwchunk (fn e : Nat) (s : State) : Out :=
  .next (s.request417 fn e 0x10 8 true false (fun u =>
    let o := (u.mbWord e 0).toNat
    let n := u.mbLen e - 8
    if o % 8 ≠ 0 ∨ 224 < n then s.status fn e 6
    else
      let m := (List.range n).foldl (fun m i => Map.set 0 m (o + i) (BitVec.ofNat 8 (u.mbByte e (8 + i)))) s.tack.staged
      { s with tack := { s.tack with stage := some m } }.status fn e 0))

/-- `FWVERIFY`: a valid image fills the inactive slot and sets VALID; any other is rejected, and the slot keeps its content. -/
def execFwverify (fn e : Nat) (s : State) : Out :=
  .next (s.request417 fn e 0x11 0 true false (fun _ =>
    let t := s.tack
    if imageValid t.staged t.arc then
      { s with tack := { t.setSlot (! t.act) t.staged with valid := true, stage := none } }.status fn e 0
    else { s with tack := { t with stage := none } }.status fn e 7))

/-- `FWSWAP`: the swap to the verified image, answered after step 4 of R425. -/
def execFwswap (fn e : Nat) (s : State) : Out :=
  .next (s.request417 fn e 0x12 0 true false (fun _ =>
    if s.tack.valid = false then s.status fn e 7
    else { s with tack := { s.tack with swapReq := true, swapWait := some (fn, e) } }))

/-- `FIRMWARE_HANDOVER` (R425 step 4): at a quiesce point, with no merge under way, the new image starts, and a request that waits
for the swap is answered. -/
def execFirmwareHandover (s : State) : Out :=
  if s.tack.swapReq ∧ s.tack.merging.isNone then
    let w := s.tack.swapWait
    let s := { s with tack := { s.tack.handover s.cc with swapWait := none } }
    match w with
    | some (fn, e) => .next (s.status fn e 0)
    | none => .next s
  else .next s

/-! ### Merges (R412) -/

def Paddock.setState (p : Paddock) (n : Nat) : Paddock := { p with pctl := putBits p.pctl 60 2 n }
def State.setStates (s : State) (a b n : Nat) : State := (s.updPdk a (fun p => p.setState n)).updPdk b (fun p => p.setState n)

/-- The bytes 0 to 3 of a BUSY answer. -/
def busyItem (kind blk x y : Nat) : Word := wnat (kind + blk * 256 + x * 2 ^ 16 + y * 2 ^ 24)

/-- A queue of a paddock that holds a packet; a task of it that runs or is saved, by core; a bay of its engines that serves or is
held. -/
def State.busyQueue (s : State) (b : Nat) : Option Nat := (List.range 16).find? (fun q => (s.pdk b).queue q ≠ [])
def State.busyTask (s : State) (b : Nat) : Option Nat :=
  match (List.range Config.numCores).find? (fun c => match (s.core c).task with
      | some t => t.blk = b
      | none => false) with
  | some c => some c
  | none => s.launches.findSome? (fun e => match e.2 with
    | some l => if l.blk = b then l.saved.head?.map (fun u => bits (s.homeRead ((s.pdk b).recordAt u.2) 8) 48 5) else none
    | none => none)
def State.busyBay (s : State) (b : Nat) : Option (Nat × Nat) :=
  [0, 1, 2].findSome? (fun cls =>
    ((List.range 8).find? (fun u =>
      (if cls < 2 then (s.pdk b).sheds.testBit u else (s.pdk b).stacks.testBit u) &&
        (List.range (bayCount cls)).any (fun n => ((s.eng cls u).bay n).isSome || (s.eng cls u).held = some n))).map (fun u => (cls, u)))

/-- The first item in use, in the order of R412 step 2. -/
def State.mergeBusy (s : State) (a b : Nat) : Option Word :=
  match s.busyQueue a, s.busyQueue b, s.busyTask a, s.busyTask b, s.busyBay a, s.busyBay b with
  | some q, _, _, _, _, _ => some (busyItem 0 a q 0)
  | none, some q, _, _, _, _ => some (busyItem 0 b q 0)
  | none, none, some c, _, _, _ => some (busyItem 1 a c 0)
  | none, none, none, some c, _, _ => some (busyItem 1 b c 0)
  | none, none, none, none, some u, _ => some (busyItem 2 a u.1 u.2)
  | none, none, none, none, none, some u => some (busyItem 2 b u.1 u.2)
  | none, none, none, none, none, none =>
    if (s.pdk b).tt.any (fun t => t.2.valid) then some (busyItem 3 b 0 0) else none

/-- The dwords of a range at place i of a block. -/
def Paddock.putIlv (p : Paddock) (i : Nat) (ws : List Word) : Paddock := { p with ilv := Map.setList 0 p.ilv (3 * i) ws }
def Paddock.ilvWords (p : Paddock) (i : Nat) : List Word := Map.slice 0 p.ilv (3 * i) 3
def Paddock.freeIlv (p : Paddock) : Option Nat := (List.range 8).find? (fun i => (p.ilvAt i).v = false)
def Paddock.validIlvs (p : Paddock) : List Nat := (List.range 8).filter (fun i => (p.ilvAt i).v)
def Paddock.addIlv (p : Paddock) (ws : List Word) : Paddock := match p.freeIlv with
  | some i => p.putIlv i ws
  | none => p

/-- The new range of a merge request: its BASE, SIZE, GRAN and SOFF, with the stacks of both paddocks. -/
def State.mergeRange (s : State) (u : Func) (e a b : Nat) : List Word :=
  let stk := (s.pdk a).stacks ||| (s.pdk b).stacks
  [wnat (2 ^ 63) ||| (u.mbWord e 1 &&& 0xfffffff80000),
   wnat (stk * 2 ^ 56) ||| (u.mbWord e 3 &&& 0x00f0000000000000) ||| (u.mbWord e 2 &&& 0xfffffff80000),
   u.mbWord e 4 &&& 0xffffffff80]

/-- The new range is refused: it is none of R410, overlaps a valid range, or makes more than eight. -/
def State.mergeBad (s : State) (ws : List Word) (a b : Nat) : Bool :=
  let r := ilvOf (ws.getD 0 0) (ws.getD 1 0) (ws.getD 2 0)
  ! ilvFits r ((s.pdk a).stacks ||| (s.pdk b).stacks) || (s.otherIlvs 8 0).any (ilvClash r) ||
    8 < (s.pdk a).validIlvs.length + (s.pdk b).validIlvs.length + 1

/-- Steps 3 and 4: the ranges of a, and the staged slot table in which m owns the slots of both. -/
def State.mergeTables (s0 : State) (ws : List Word) (a b m : Nat) : State :=
  let s := s0
  let ida := (s.pdk a).number
  let idb := (s.pdk b).number
  let pb := s.pdk b
  let s := s.updPdk a (fun p => (pb.validIlvs.foldl (fun (p : Paddock) i => p.addIlv (pb.ilvWords i)) p).addIlv ws)
  let own (v : Byte) : Byte :=
    if v.getLsbD 7 ∧ (v.toNat % 64 = ida ∨ v.toNat % 64 = idb) then BitVec.ofNat 8 (128 + m % 64) else v
  s0.remapped { s with slotStg := s.slotAct.foldl (fun t e => Map.set 0 t e.1 (own e.2)) []
                       tack := { s.tack with stgPend := true } }

/-- A shootdown of every translation of a function in a block (step 6). -/
def State.shootAll (s : State) (a vf : Nat) : State :=
  (s.updPdk a (fun p => { p with sdlen := 0x10000000 })).writeSdctl a (wnat (2 ^ 63 + vf * 2 ^ 48))

/-- Functions of a boundary. -/
def Paddock.functions (p : Paddock) : List Nat := (List.range 64).filter (fun f => p.bndvf.getLsbD f)

def State.setMerge (s : State) (m : Option Merge) : State := { s with tack := { s.tack with merging := m } }

/-- Step 7, and the answer. -/
def State.mergeEnd (s : State) (g : Merge) (m : Nat) : State :=
  let s := s.updPdk g.a (fun p => { p.setState 0 with pctl := putBits (p.setState 0).pctl 40 6 m })
  (s.setMerge none).status g.fn g.e 0

/-- The next function whose translations go, or the end of the merge. -/
def State.mergeShoot (s : State) (g : Merge) (m : Nat) : State :=
  match g.vfs with
  | [] => s.mergeEnd g m
  | f :: _ => (s.shootAll g.a f).setMerge (some { g with steps := 3 })

/-- A merge that has begun goes on: after 4,800 cc its checks and its tables, with the table's commit its boundary, and with each
acknowledged shootdown the next. -/
def State.mergeOn (s : State) (g : Merge) : State :=
  let u := s.func g.fn
  let m := u.mbByte g.e 2
  let a := g.a
  let b := g.b
  if g.steps = 1 then
    if s.cc < g.since + 4800 then s
    else match s.mergeBusy a b with
      | some w => ((s.setStates a b 0).setMerge none).answerMb g.fn g.e 1 [w] 4
      | none =>
        let ws := s.mergeRange u g.e a b
        if s.mergeBad ws a b then ((s.setStates a b 0).setMerge none).status g.fn g.e 3
        else ((s.setStates a b 2).mergeTables ws a b m).setMerge (some { g with steps := 2 })
  else if g.steps = 2 then
    if s.tack.stgPend then s
    else
      let pb := s.pdk b
      let s := s.updPdk a (fun p => { p with bnd := p.bnd ||| pb.bnd, bndvf := p.bndvf ||| pb.bndvf })
      let s := s.remapped (s.updPdk b (fun p => { p with pctl := putBits p.pctl 63 1 0 }))
      s.mergeShoot { g with vfs := (s.pdk a).functions } m
  else if (s.pdk a).sdctl.getLsbD 62 then s.mergeShoot { g with vfs := g.vfs.tail } m
  else s

/-- `MERGE` (R412): a request begins with step 1; while it is under way the event takes it on. -/
def execMerge (fn e : Nat) (s : State) : Out :=
  match s.tack.merging with
  | some g => if g.fn = fn ∧ g.e = e ∧ s.serving then .next (s.mergeOn g) else .next s
  | none =>
    .next (s.request417 fn e 0x20 40 true false (fun u =>
      let a := u.mbByte e 0
      let b := u.mbByte e 1
      let m := u.mbByte e 2
      let taken := (List.range 8).any (fun d => d ≠ a && d ≠ b && (s.pdk d).valid && (s.pdk d).number = m)
      if 8 ≤ a ∨ 8 ≤ b ∨ a = b ∨ 64 ≤ m ∨ (s.pdk a).valid = false ∨ (s.pdk b).valid = false ∨ taken then s.status fn e 6
      else (s.setStates a b 1).setMerge (some { fn := fn, e := e, a := a, b := b, steps := 1, since := s.cc })))

/-! ### Resets, windows and configuration -/

/-- While a merge waits in step 2, the first reset request that has arrived is served before it (R414). -/
def State.resetFirst (s : State) (fn e : Nat) : Bool :=
  match s.tack.merging with
  | some g => g.steps = 1 && s.serving &&
    s.tack.mboxOrder.find? (fun r => mbCode ((s.func r.1).mb r.2 0) = 0x21) = some (fn, e)
  | none => false

/-- `VFRESET` (R414): a reset of a function; a virtual function may reset itself only. -/
def execVfreset (fn e : Nat) (s : State) : Out :=
  let go (s : State) (u : Func) : State :=
    let f := u.mbByte e 0
    if fn ≠ 0 ∧ f ≠ fn then s.status fn e 5
    else if f = 0 ∨ 64 ≤ f then s.status fn e 6
    else ((if s.inReset f then s else s.updFunc f (fun u => { u with rstBy := some (fn, e) })).resetFunction f)
  if s.resetFirst fn e then
    let u := s.func fn
    .next (if u.mbLen e < 1 ∨ 240 < u.mbLen e then s.status fn e 6 else go s u)
  else .next (s.request417 fn e 0x21 1 false false (go s))

/-- `DIAGREAD` (R423): COUNT dwords of a window. -/
def execDiagread (fn e : Nat) (s : State) : Out :=
  .next (s.request417 fn e 0x30 24 true true (fun u =>
    let n := wbits (u.mbWord e 2) 0 5
    if n = 0 ∨ 28 < n ∨ 13 < u.mbByte e 0 then s.status fn e 6
    else
      let (s, l) := s.diags (u.mbByte e 0) (u.mbWord e 1).toNat n
      s.answerMb fn e 0 l (8 * n)))

/-- `CFGWRITE` (R417, R421, R410). -/
def execCfgwrite (fn e : Nat) (s : State) : Out :=
  .next (s.request417 fn e 0x40 16 true false (fun u =>
    let a := (u.mbWord e 0).toNat
    if tackAddr a = false then s.status fn e 6
    else match s.tackWrite a (u.mbWord e 1) with
      | some s' => s'.status fn e 0
      | none => s.status fn e 3))

/-- `CFGREAD` (R417, R421). -/
def execCfgread (fn e : Nat) (s : State) : Out :=
  .next (s.request417 fn e 0x41 8 true false (fun u =>
    let a := (u.mbWord e 0).toNat
    if tackAddr a then s.answerMb fn e 0 [s.tackRead a] 8 else s.status fn e 6))

/-- A signed byte. -/
def sbyte (v : Nat) : Int := if v < 128 then v else (v : Int) - 256

/-- The settings of IEEE 1588 are in the ranges of R407 and R417. -/
def ptpOk (b : Nat → Nat) : Bool :=
  let iv (i : Nat) : Int := sbyte (b i)
  b 0 < 16 && b 1 < 16 && b 2 < 128 && b 3 ≤ 1 && (-7 ≤ iv 4 && iv 4 ≤ 4) && (-7 ≤ iv 5 && iv 5 ≤ 4) && (0 ≤ iv 6 && iv 6 ≤ 4) &&
    b 7 ≤ 2 && b 8 ≤ 1

/-- `PTPCFG` (R407). -/
def execPtpcfg (fn e : Nat) (s : State) : Out :=
  .next (s.request417 fn e 0x50 9 true false (fun u =>
    if ptpOk (u.mbByte e) then
      { s with tack := { s.tack with ptp := (List.range 9).foldl (fun m i => Map.set 0 m i (wnat (u.mbByte e i))) [] } }.status fn e 0
    else s.status fn e 6))

end Sys2Proof.Machine
end

