-- ==== Sys2Proof/Machine/ScalarFp.lean ====
section
/-!
DEFINITION. Scalar binary64 arithmetic (R87 to R89): no flag, no trap, one rounding with RNE.
-/
namespace Sys2Proof.Machine

/-- A binary word with `x[d] := f (x[a], x[b])` on bit patterns (R88). -/
def fscWord (i : Instr) (k : Tk) (d a b : Reg) (s : State) (f : Nat → Nat → Nat) : Out :=
  regWord i k d s (fun t => wnat (f (t.rd a).toNat (t.rd b).toNat))

def execFaddD (k : Tk) (d a b : Reg) (s : State) : Out := fscWord (.faddD k d a b) k d a b s fmt64.addF
def execFsubD (k : Tk) (d a b : Reg) (s : State) : Out := fscWord (.fsubD k d a b) k d a b s fmt64.subF
def execFmulD (k : Tk) (d a b : Reg) (s : State) : Out := fscWord (.fmulD k d a b) k d a b s fmt64.mulF
def execFdivD (k : Tk) (d a b : Reg) (s : State) : Out := fscWord (.fdivD k d a b) k d a b s fmt64.divF
def execFminD (k : Tk) (d a b : Reg) (s : State) : Out := fscWord (.fminD k d a b) k d a b s fmt64.minNum
def execFmaxD (k : Tk) (d a b : Reg) (s : State) : Out := fscWord (.fmaxD k d a b) k d a b s fmt64.maxNum
def execFeqD (k : Tk) (d a b : Reg) (s : State) : Out :=
  fscWord (.feqD k d a b) k d a b s (fun a b => (fmt64.eq a b).toNat)
def execFltD (k : Tk) (d a b : Reg) (s : State) : Out :=
  fscWord (.fltD k d a b) k d a b s (fun a b => (fmt64.lt a b).toNat)
def execFleD (k : Tk) (d a b : Reg) (s : State) : Out :=
  fscWord (.fleD k d a b) k d a b s (fun a b => (fmt64.le a b).toNat)

/-- `fsqrt.d` (R88). -/
def execFsqrtD (k : Tk) (d a : Reg) (s : State) : Out :=
  regWord (.fsqrtD k d a) k d s (fun t => wnat (fmt64.rne (fmt64.dec (t.rd a).toNat).sqrt))

/-- `fcvt.d.l`: a signed integer to binary64 (R88). -/
def execFcvtDL (k : Tk) (d a : Reg) (s : State) : Out :=
  regWord (.fcvtDL k d a) k d s (fun t => wnat (fmt64.rne (FV.ofInt (t.rd a).toInt)))

/-- `fcvt.l.d`: toward zero, saturating; a NaN gives 0 (R89). -/
def execFcvtLD (k : Tk) (d a : Reg) (s : State) : Out :=
  regWord (.fcvtLD k d a) k d s (fun t => BitVec.ofInt 64 ((fmt64.dec (t.rd a).toNat).toSat 64 .rtz))

end Sys2Proof.Machine
end

