-- ==== Sys2Proof/Machine/Tick.lean ====
section
/-!
DEFINITION. One cc of the package (R406): what the spec gives a clock happens in that clock, and only then the clock goes on.
-/
namespace Sys2Proof.Machine

/-- The core has something that a clock can change. -/
def Core.awake (k : Core) : Bool := k.task.isSome || (List.range 4).any (fun x => (k.getCtx x).inSet)

/-- One cc of a core: the tokens that it pushed can be popped (R106), the counts of R368, the stall counters, its engines' accesses and clock unless it is frozen, and yields. -/
def State.tickCore (s : State) (c : Nat) : State :=
  let s := if (s.core c).fresh = [] then s else s.updCore c Core.ripen
  let k := s.core c
  if k.awake = false then s
  else
    let s := if k.offTask then s.count c 0 0 1
      else if k.perfBind = [] then s
      else (List.range 4).foldl (fun s x => s.count c x 0 1) s
    let s := s.countLots c
    let s := match k.frozen with
      | some f => s.count c f.ctx 6 1
      | none => (s.accessWait c).getD ((s.tickStalls c).engineAccess c)
    s.updCore c (fun k =>
      let k := if k.frozen = none then { k with clk := k.clk + 1 } else k
      let k := if k.progress = k.progN then k else { k with progN := k.progress, progAt := s.cc }
      (List.range 4).foldl (fun (k : Core) x =>
        if (k.getCtx x).yieldFor = 0 then k else k.updCtx x (fun t => { t with yieldFor := t.yieldFor - 1 })) k)

/-- The events of a core that belong to a clock: results and retirements (R171, R206), starts and nest steps, ends and limits of
freezes (R347, R348), the completion of a task (R112), the pre-emption point (R355), and bounds of waits (R116). -/
def punctualCore (c : Nat) : List (State → Out) :=
  [execVxeWriteback c, execMxeWriteback c, execNestStoreDrainEnd c,
   execEngineCommandRetire c 0, execEngineCommandRetire c 1, execEngineCommandRetire c 2,
   execFreezeEnd c, execFreezeLimit c, execNestStep c, execVxeCommandStart c, execMxeCommandStart c, execCpeCommandStart c,
   execTaskComplete c, execPreemptionPoint c] ++
  (List.range 7).map (execWaitBoundExpiry c)

/-- The events of a shared engine that belong to a clock (R325, R327). -/
def punctualEngine (cls unit : Nat) : List (State → Out) :=
  (List.range (bayCount cls)).map (fun n => execBayComplete cls unit n {}) ++ [execTicketIssue cls unit, execTicketLapse cls unit]

/-- The events of a paddock that belong to a clock: its tick (R408), the end of a slip (R130), and releases (R129). -/
def punctualBlock (b : Nat) : List (State → Out) := execFrameTick b :: execSlipEnd b :: (List.range 16).map (execLaunchRelease b)

/-- The events of the package that belong to a clock: those of its cores, paddocks and engines, decisions and answers of admission (R321, R339),
the units of waiting packets (R303), a committed slot table (R378), and the end of a trial (R425) too. -/
def State.punctual (s : State) : List (State → Out) :=
  s.pdks.flatMap (fun b => punctualBlock b.1) ++ [execSlotTableCommit, execTrialTimeout] ++
    s.reqs.flatMap (fun r => [execAdmissionDecision r.core r.ctx, execAdmissionAnswer r.core r.ctx]) ++
    s.engs.flatMap (fun e => punctualEngine (e.1 / 8) (e.1 % 8)) ++
    s.cores.flatMap (fun k => punctualCore k.1) ++
    s.points.flatMap (fun t => (List.range t.2.pkts.length).map (execPacketWaitUnit t.1))

/-- Something belongs to the present clock, so that it cannot end yet. -/
def State.clockBusy (s : State) : Bool := s.punctual.any (fun f => moved s (f s))

/-- `TIME_COUNTER_STEP` (R406): the clock goes on by one cc, when nothing of the present one is left. -/
def execTimeCounterStep (s : State) : Out :=
  if s.clockBusy then .next s
  else
    let s := (List.range Config.numCores).foldl (fun s c => s.tickCore c) s
    let t := if s.tack.capped then { s.tack with cappedCc := s.tack.cappedCc + 1 } else s.tack
    .next { s.idleLinks.advanceTime with cc := s.cc + 1, tack := t }

end Sys2Proof.Machine
end

