-- ==== Sys2Proof/Machine/Dispatch.lean ====
section
/-!
DEFINITION. The dispatch of every constructor to its meaning.
-/
namespace Sys2Proof.Machine

/-- The meaning of one step's instruction (the whole table). -/
def exec (i : Instr) (s : State) : Host.Outcome State Fault Refusal :=
  match i with
  | .add k d a b => Sys2Proof.Machine.execAdd k d a b s
  | .sub k d a b => Sys2Proof.Machine.execSub k d a b s
  | .and k d a b => Sys2Proof.Machine.execAnd k d a b s
  | .or k d a b => Sys2Proof.Machine.execOr k d a b s
  | .xor k d a b => Sys2Proof.Machine.execXor k d a b s
  | .andn k d a b => Sys2Proof.Machine.execAndn k d a b s
  | .sll k d a b => Sys2Proof.Machine.execSll k d a b s
  | .srl k d a b => Sys2Proof.Machine.execSrl k d a b s
  | .sra k d a b => Sys2Proof.Machine.execSra k d a b s
  | .slt k d a b => Sys2Proof.Machine.execSlt k d a b s
  | .sltu k d a b => Sys2Proof.Machine.execSltu k d a b s
  | .min k d a b => Sys2Proof.Machine.execMin k d a b s
  | .max k d a b => Sys2Proof.Machine.execMax k d a b s
  | .minu k d a b => Sys2Proof.Machine.execMinu k d a b s
  | .maxu k d a b => Sys2Proof.Machine.execMaxu k d a b s
  | .mul k d a b => Sys2Proof.Machine.execMul k d a b s
  | .mulh k d a b => Sys2Proof.Machine.execMulh k d a b s
  | .mulhu k d a b => Sys2Proof.Machine.execMulhu k d a b s
  | .div k d a b => Sys2Proof.Machine.execDiv k d a b s
  | .divu k d a b => Sys2Proof.Machine.execDivu k d a b s
  | .rem k d a b => Sys2Proof.Machine.execRem k d a b s
  | .remu k d a b => Sys2Proof.Machine.execRemu k d a b s
  | .clz k d a => Sys2Proof.Machine.execClz k d a s
  | .ctz k d a => Sys2Proof.Machine.execCtz k d a s
  | .popc k d a => Sys2Proof.Machine.execPopc k d a s
  | .sextb k d a => Sys2Proof.Machine.execSextb k d a s
  | .sexth k d a => Sys2Proof.Machine.execSexth k d a s
  | .sextw k d a => Sys2Proof.Machine.execSextw k d a s
  | .addi k d a imm => Sys2Proof.Machine.execAddi k d a imm s
  | .andi k d a imm => Sys2Proof.Machine.execAndi k d a imm s
  | .ori k d a imm => Sys2Proof.Machine.execOri k d a imm s
  | .xori k d a imm => Sys2Proof.Machine.execXori k d a imm s
  | .slli k d a imm => Sys2Proof.Machine.execSlli k d a imm s
  | .srli k d a imm => Sys2Proof.Machine.execSrli k d a imm s
  | .srai k d a imm => Sys2Proof.Machine.execSrai k d a imm s
  | .slti k d a imm => Sys2Proof.Machine.execSlti k d a imm s
  | .sltiu k d a imm => Sys2Proof.Machine.execSltiu k d a imm s
  | .lim k d imm => Sys2Proof.Machine.execLim k d imm s
  | .lis k d imm => Sys2Proof.Machine.execLis k d imm s
  | .beq k a b o => Sys2Proof.Machine.execBeq k a b o s
  | .bne k a b o => Sys2Proof.Machine.execBne k a b o s
  | .blt k a b o => Sys2Proof.Machine.execBlt k a b o s
  | .bge k a b o => Sys2Proof.Machine.execBge k a b o s
  | .bltu k a b o => Sys2Proof.Machine.execBltu k a b o s
  | .bgeu k a b o => Sys2Proof.Machine.execBgeu k a b o s
  | .bbusy k o => Sys2Proof.Machine.execBbusy k o s
  | .bfree k o => Sys2Proof.Machine.execBfree k o s
  | .bpt k p imm => Sys2Proof.Machine.execBpt k p imm s
  | .bpf k p imm => Sys2Proof.Machine.execBpf k p imm s
  | .jal k d imm => Sys2Proof.Machine.execJal k d imm s
  | .jalr k d a imm => Sys2Proof.Machine.execJalr k d a imm s
  | .lpset k d a imm => Sys2Proof.Machine.execLpset k d a imm s
  | .lpresEntry k d a => Sys2Proof.Machine.execLpresEntry k d a s
  | .lpresExit k a => Sys2Proof.Machine.execLpresExit k a s
  | .bkt k d a => Sys2Proof.Machine.execBkt k d a s
  | .cstart k d a => Sys2Proof.Machine.execCstart k d a s
  | .cstop k d => Sys2Proof.Machine.execCstop k d s
  | .cyield k imm => Sys2Proof.Machine.execCyield k imm s
  | .cid k d => Sys2Proof.Machine.execCid k d s
  | .cwait k d w => Sys2Proof.Machine.execCwait k d w s
  | .faddD k d a b => Sys2Proof.Machine.execFaddD k d a b s
  | .fsubD k d a b => Sys2Proof.Machine.execFsubD k d a b s
  | .fmulD k d a b => Sys2Proof.Machine.execFmulD k d a b s
  | .fdivD k d a b => Sys2Proof.Machine.execFdivD k d a b s
  | .fminD k d a b => Sys2Proof.Machine.execFminD k d a b s
  | .fmaxD k d a b => Sys2Proof.Machine.execFmaxD k d a b s
  | .fsqrtD k d a => Sys2Proof.Machine.execFsqrtD k d a s
  | .fcvtDL k d a => Sys2Proof.Machine.execFcvtDL k d a s
  | .fcvtLD k d a => Sys2Proof.Machine.execFcvtLD k d a s
  | .feqD k d a b => Sys2Proof.Machine.execFeqD k d a b s
  | .fltD k d a b => Sys2Proof.Machine.execFltD k d a b s
  | .fleD k d a b => Sys2Proof.Machine.execFleD k d a b s
  | .lb k d a imm => Sys2Proof.Machine.execLb k d a imm s
  | .lh k d a imm => Sys2Proof.Machine.execLh k d a imm s
  | .lw k d a imm => Sys2Proof.Machine.execLw k d a imm s
  | .ld k d a imm => Sys2Proof.Machine.execLd k d a imm s
  | .lbu k d a imm => Sys2Proof.Machine.execLbu k d a imm s
  | .lhu k d a imm => Sys2Proof.Machine.execLhu k d a imm s
  | .lwu k d a imm => Sys2Proof.Machine.execLwu k d a imm s
  | .sb k d a imm => Sys2Proof.Machine.execSb k d a imm s
  | .sh k d a imm => Sys2Proof.Machine.execSh k d a imm s
  | .sw k d a imm => Sys2Proof.Machine.execSw k d a imm s
  | .sd k d a imm => Sys2Proof.Machine.execSd k d a imm s
  | .ldx k d a b => Sys2Proof.Machine.execLdx k d a b s
  | .stx k d a b => Sys2Proof.Machine.execStx k d a b s
  | .amoadd k d a b z => Sys2Proof.Machine.execAmoadd k d a b z s
  | .amoand k d a b z => Sys2Proof.Machine.execAmoand k d a b z s
  | .amoor k d a b z => Sys2Proof.Machine.execAmoor k d a b z s
  | .amoxor k d a b z => Sys2Proof.Machine.execAmoxor k d a b z s
  | .amomin k d a b z => Sys2Proof.Machine.execAmomin k d a b z s
  | .amomax k d a b z => Sys2Proof.Machine.execAmomax k d a b z s
  | .amominu k d a b z => Sys2Proof.Machine.execAmominu k d a b z s
  | .amomaxu k d a b z => Sys2Proof.Machine.execAmomaxu k d a b z s
  | .amoswap k d a b z => Sys2Proof.Machine.execAmoswap k d a b z s
  | .amocas k d a b z => Sys2Proof.Machine.execAmocas k d a b z s
  | .amofadd k d a b z => Sys2Proof.Machine.execAmofadd k d a b z s
  | .lblk k d a imm => Sys2Proof.Machine.execLblk k d a imm s
  | .wblk k d a => Sys2Proof.Machine.execWblk k d a s
  | .eblk k d a => Sys2Proof.Machine.execEblk k d a s
  | .dblk k a => Sys2Proof.Machine.execDblk k a s
  | .fence k s1 => Sys2Proof.Machine.execFence k s1 s
  | .acq k s1 => Sys2Proof.Machine.execAcq k s1 s
  | .rel k s1 => Sys2Proof.Machine.execRel k s1 s
  | .invi k s1 => Sys2Proof.Machine.execInvi k s1 s
  | .smap k d a b => Sys2Proof.Machine.execSmap k d a b s
  | .sunmap k d => Sys2Proof.Machine.execSunmap k d s
  | .sflush k d => Sys2Proof.Machine.execSflush k d s
  | .sstat k d a => Sys2Proof.Machine.execSstat k d a s
  | .aage k d => Sys2Proof.Machine.execAage k d s
  | .aheld k d a => Sys2Proof.Machine.execAheld k d a s
  | .airrev k => Sys2Proof.Machine.execAirrev k s
  | .csrr k d c => Sys2Proof.Machine.execCsrr k d c s
  | .csrw k d a c => Sys2Proof.Machine.execCsrw k d a c s
  | .csrs k d a c => Sys2Proof.Machine.execCsrs k d a c s
  | .csrc k d a c => Sys2Proof.Machine.execCsrc k d a c s
  | .sys k imm => Sys2Proof.Machine.execSys k imm s
  | .trap k a imm => Sys2Proof.Machine.execTrap k a imm s
  | .eret k => Sys2Proof.Machine.execEret k s
  | .brk k imm => Sys2Proof.Machine.execBrk k imm s
  | .halt k => Sys2Proof.Machine.execHalt k s
  | .fret k => Sys2Proof.Machine.execFret k s
  | .tend k => Sys2Proof.Machine.execTend k s
  | .tlnc k d a imm => Sys2Proof.Machine.execTlnc k d a imm s
  | .twid k d imm => Sys2Proof.Machine.execTwid k d imm s
  | .wtime k a w => Sys2Proof.Machine.execWtime k a w s
  | .rtime k d => Sys2Proof.Machine.execRtime k d s
  | .rframe k d => Sys2Proof.Machine.execRframe k d s
  | .wframe k a w => Sys2Proof.Machine.execWframe k a w s
  | .slk k imm => Sys2Proof.Machine.execSlk k imm s
  | .vadd k d a b e => Sys2Proof.Machine.execVadd k d a b e s
  | .vsub k d a b e => Sys2Proof.Machine.execVsub k d a b e s
  | .vmul k d a b e => Sys2Proof.Machine.execVmul k d a b e s
  | .vfma k d a b e => Sys2Proof.Machine.execVfma k d a b e s
  | .vmax k d a b e => Sys2Proof.Machine.execVmax k d a b e s
  | .vmin k d a b e => Sys2Proof.Machine.execVmin k d a b e s
  | .vabs k d a e => Sys2Proof.Machine.execVabs k d a e s
  | .vneg k d a e => Sys2Proof.Machine.execVneg k d a e s
  | .vand k d a b => Sys2Proof.Machine.execVand k d a b s
  | .vor k d a b => Sys2Proof.Machine.execVor k d a b s
  | .vxor k d a b => Sys2Proof.Machine.execVxor k d a b s
  | .vsll k d a b => Sys2Proof.Machine.execVsll k d a b s
  | .vsra k d a b => Sys2Proof.Machine.execVsra k d a b s
  | .vsrl k d a b => Sys2Proof.Machine.execVsrl k d a b s
  | .vcmplt k d a b e => Sys2Proof.Machine.execVcmplt k d a b e s
  | .vcmpeq k d a b e => Sys2Proof.Machine.execVcmpeq k d a b e s
  | .vexp2 k d a => Sys2Proof.Machine.execVexp2 k d a s
  | .vlog2 k d a => Sys2Proof.Machine.execVlog2 k d a s
  | .vrcp k d a => Sys2Proof.Machine.execVrcp k d a s
  | .vrsqrt k d a => Sys2Proof.Machine.execVrsqrt k d a s
  | .vcvt k d a b m => Sys2Proof.Machine.execVcvt k d a b m s
  | .vbmax k d a b => Sys2Proof.Machine.execVbmax k d a b s
  | .vq k d a b m => Sys2Proof.Machine.execVq k d a b m s
  | .vdq k d a b m => Sys2Proof.Machine.execVdq k d a b m s
  | .vredmax k d a e g => Sys2Proof.Machine.execVredmax k d a e g s
  | .vredsum k d a e g => Sys2Proof.Machine.execVredsum k d a e g s
  | .vredmin k d a e g => Sys2Proof.Machine.execVredmin k d a e g s
  | .vbcast k d a b => Sys2Proof.Machine.execVbcast k d a b s
  | .vperm k d a b => Sys2Proof.Machine.execVperm k d a b s
  | .vld k d a => Sys2Proof.Machine.execVld k d a s
  | .vst k d a => Sys2Proof.Machine.execVst k d a s
  | .vlds k d a b => Sys2Proof.Machine.execVlds k d a b s
  | .vsts k d a b => Sys2Proof.Machine.execVsts k d a b s
  | .vldx k d a b => Sys2Proof.Machine.execVldx k d a b s
  | .vstx k d a b => Sys2Proof.Machine.execVstx k d a b s
  | .vldb k a => Sys2Proof.Machine.execVldb k a s
  | .vpushc k a b => Sys2Proof.Machine.execVpushc k a b s
  | .vpopc k d b => Sys2Proof.Machine.execVpopc k d b s
  | .vbal k d a => Sys2Proof.Machine.execVbal k d a s
  | .vsoftk k d a b => Sys2Proof.Machine.execVsoftk k d a b s
  | .vhist k d a b => Sys2Proof.Machine.execVhist k d a b s
  | .vmov k d a => Sys2Proof.Machine.execVmov k d a s
  | .vsplat k d a => Sys2Proof.Machine.execVsplat k d a s
  | .vlane k d a b => Sys2Proof.Machine.execVlane k d a b s
  | .vsel k d a b => Sys2Proof.Machine.execVsel k d a b s
  | .vmset k d a b => Sys2Proof.Machine.execVmset k d a b s
  | .vidx k d => Sys2Proof.Machine.execVidx k d s
  | .mxcfg k a => Sys2Proof.Machine.execMxcfg k a s
  | .mxfmt k d a => Sys2Proof.Machine.execMxfmt k d a s
  | .mxgo k d a => Sys2Proof.Machine.execMxgo k d a s
  | .mxzero k d => Sys2Proof.Machine.execMxzero k d s
  | .mxstat k d c => Sys2Proof.Machine.execMxstat k d c s
  | .mxmm k d a b => Sys2Proof.Machine.execMxmm k d a b s
  | .mxbin k d a b => Sys2Proof.Machine.execMxbin k d a b s
  | .mxrank k d a b => Sys2Proof.Machine.execMxrank k d a b s
  | .mxsp k d a b => Sys2Proof.Machine.execMxsp k d a b s
  | .mxst k d a b => Sys2Proof.Machine.execMxst k d a b s
  | .mxld k d a b => Sys2Proof.Machine.execMxld k d a b s
  | .mxtov k d a b => Sys2Proof.Machine.execMxtov k d a b s
  | .mxfromv k d a b => Sys2Proof.Machine.execMxfromv k d a b s
  | .enote k d => Sys2Proof.Machine.execEnote k d s
  | .eqf y m => Sys2Proof.Machine.execEqf y m s
  | .egrd d g => Sys2Proof.Machine.execEgrd d g s
  | .cpin k s1 p a b => Sys2Proof.Machine.execCpin k s1 p a b s
  | .cpout k s1 p a b => Sys2Proof.Machine.execCpout k s1 p a b s
  | .cpss k s1 p a b => Sys2Proof.Machine.execCpss k s1 p a b s
  | .cpred k s1 p a b => Sys2Proof.Machine.execCpred k s1 p a b s
  | .cpoq k s1 p a b => Sys2Proof.Machine.execCpoq k s1 p a b s
  | .xput k s1 r p a b => Sys2Proof.Machine.execXput k s1 r p a b s
  | .xget k s1 r p a b => Sys2Proof.Machine.execXget k s1 r p a b s
  | .xmc k s1 r p a b => Sys2Proof.Machine.execXmc k s1 r p a b s
  | .xcmb k s1 r p a b => Sys2Proof.Machine.execXcmb k s1 r p a b s
  | .xamo k s1 r p a b => Sys2Proof.Machine.execXamo k s1 r p a b s
  | .xlnc k s1 r p a b => Sys2Proof.Machine.execXlnc k s1 r p a b s
  | .sfsort k s1 r p a b => Sys2Proof.Machine.execSfsort k s1 r p a b s
  | .sftopk k s1 r p a b => Sys2Proof.Machine.execSftopk k s1 r p a b s
  | .lftopRed k s1 r p a b => Sys2Proof.Machine.execLftopRed k s1 r p a b s
  | .lftopHist k s1 r p a b => Sys2Proof.Machine.execLftopHist k s1 r p a b s
  | .tksnd k a => Sys2Proof.Machine.execTksnd k a s
  | .tkrcv k a w => Sys2Proof.Machine.execTkrcv k a w s
  | .tktry k d a => Sys2Proof.Machine.execTktry k d a s
  | .rgclaim k d a w => Sys2Proof.Machine.execRgclaim k d a w s
  | .rgfill k a => Sys2Proof.Machine.execRgfill k a s
  | .rgwait k d a w => Sys2Proof.Machine.execRgwait k d a w s
  | .rgfree k a => Sys2Proof.Machine.execRgfree k a s
  | .rgstat k d a => Sys2Proof.Machine.execRgstat k d a s
  | .rgstatSet k d a => Sys2Proof.Machine.execRgstatSet k d a s
  | .rgstatSave k d a => Sys2Proof.Machine.execRgstatSave k d a s
  | .pwr k d a => Sys2Proof.Machine.execPwr k d a s
  | .prd k d a => Sys2Proof.Machine.execPrd k d a s
  | .pclr k d => Sys2Proof.Machine.execPclr k d s
  | .pwait k d w => Sys2Proof.Machine.execPwait k d w s
  | .barinit k a imm => Sys2Proof.Machine.execBarinit k a imm s
  | .bararr k d imm => Sys2Proof.Machine.execBararr k d imm s
  | .barwait k a w => Sys2Proof.Machine.execBarwait k a w s
  | .admrt k d a b => Sys2Proof.Machine.execAdmrt k d a b s
  | .admctr k d a => Sys2Proof.Machine.execAdmctr k d a s
  | .admtk k d a b => Sys2Proof.Machine.execAdmtk k d a b s
  | .pendingEventTake core ctx => Sys2Proof.Machine.execPendingEventTake core ctx s
  | .waitBoundExpiry core who => Sys2Proof.Machine.execWaitBoundExpiry core who s
  | .waitSatisfied core who => Sys2Proof.Machine.execWaitSatisfied core who s
  | .yRendezvous core => Sys2Proof.Machine.execYRendezvous core s
  | .heldSignalPush core who => Sys2Proof.Machine.execHeldSignalPush core who s
  | .tokenDelivery n => Sys2Proof.Machine.execTokenDelivery n s
  | .vxeCommandStart core => Sys2Proof.Machine.execVxeCommandStart core s
  | .vxeWriteback core => Sys2Proof.Machine.execVxeWriteback core s
  | .mxeCommandStart core => Sys2Proof.Machine.execMxeCommandStart core s
  | .mxeWriteback core => Sys2Proof.Machine.execMxeWriteback core s
  | .nestStep core => Sys2Proof.Machine.execNestStep core s
  | .nestStoreDrainEnd core => Sys2Proof.Machine.execNestStoreDrainEnd core s
  | .cpeCommandStart core => Sys2Proof.Machine.execCpeCommandStart core s
  | .copyPacketForm core => Sys2Proof.Machine.execCopyPacketForm core s
  | .copyLineComplete core n rep => Sys2Proof.Machine.execCopyLineComplete core n rep s
  | .engineCommandRetire core q => Sys2Proof.Machine.execEngineCommandRetire core q s
  | .taskComplete core => Sys2Proof.Machine.execTaskComplete core s
  | .taskStart core => Sys2Proof.Machine.execTaskStart core s
  | .launchRelease blk q => Sys2Proof.Machine.execLaunchRelease blk q s
  | .frameTick blk => Sys2Proof.Machine.execFrameTick blk s
  | .slipEnd blk => Sys2Proof.Machine.execSlipEnd blk s
  | .timeCounterStep => Sys2Proof.Machine.execTimeCounterStep s
  | .timeSyncExchange offset => Sys2Proof.Machine.execTimeSyncExchange offset s
  | .ptpEventMessage port offset => Sys2Proof.Machine.execPtpEventMessage port offset s
  | .storePerform core ctx => Sys2Proof.Machine.execStorePerform core ctx s
  | .loadReply core ctx rep => Sys2Proof.Machine.execLoadReply core ctx rep s
  | .blockFillComplete core n => Sys2Proof.Machine.execBlockFillComplete core n s
  | .hcHomeAccess line wr pts => Sys2Proof.Machine.execHcHomeAccess line wr pts s
  | .leaseExpiry core line => Sys2Proof.Machine.execLeaseExpiry core line s
  | .stashFill core => Sys2Proof.Machine.execStashFill core s
  | .oqEntryFill core q => Sys2Proof.Machine.execOqEntryFill core q s
  | .freezeEnd core => Sys2Proof.Machine.execFreezeEnd core s
  | .freezeLimit core => Sys2Proof.Machine.execFreezeLimit core s
  | .farrierRetry unit core addr lasting synd => Sys2Proof.Machine.execFarrierRetry unit core addr lasting synd s
  | .shootdown core => Sys2Proof.Machine.execShootdown core s
  | .pageWalk core ctx va => Sys2Proof.Machine.execPageWalk core ctx va s
  | .lotRequest core who => Sys2Proof.Machine.execLotRequest core who s
  | .lotGrant key => Sys2Proof.Machine.execLotGrant key s
  | .rollback core => Sys2Proof.Machine.execRollback core s
  | .commit core => Sys2Proof.Machine.execCommit core s
  | .irrevocabilityGrant blk => Sys2Proof.Machine.execIrrevocabilityGrant blk s
  | .packetWaitUnit point n => Sys2Proof.Machine.execPacketWaitUnit point n s
  | .arbiterGrant point vc => Sys2Proof.Machine.execArbiterGrant point vc s
  | .replyForm point t => Sys2Proof.Machine.execReplyForm point t s
  | .eventLogWrite core ctx entry => Sys2Proof.Machine.execEventLogWrite core ctx entry s
  | .admissionDecision core ctx => Sys2Proof.Machine.execAdmissionDecision core ctx s
  | .admissionAnswer core ctx => Sys2Proof.Machine.execAdmissionAnswer core ctx s
  | .ticketIssue cls unit => Sys2Proof.Machine.execTicketIssue cls unit s
  | .ticketLapse cls unit => Sys2Proof.Machine.execTicketLapse cls unit s
  | .bayComplete cls unit bay rep => Sys2Proof.Machine.execBayComplete cls unit bay rep s
  | .loftLineOperation line op data => Sys2Proof.Machine.execLoftLineOperation line op data s
  | .sliceExpiry core => Sys2Proof.Machine.execSliceExpiry core s
  | .preemptionPoint core => Sys2Proof.Machine.execPreemptionPoint core s
  | .saveSequence core => Sys2Proof.Machine.execSaveSequence core s
  | .restore core => Sys2Proof.Machine.execRestore core s
  | .halterWatchFire kind core ctx => Sys2Proof.Machine.execHalterWatchFire kind core ctx s
  | .halterLevelTimeout n => Sys2Proof.Machine.execHalterLevelTimeout n s
  | .packageReset => Sys2Proof.Machine.execPackageReset s
  | .ilheadWrite fn v => Sys2Proof.Machine.execIlheadWrite fn v s
  | .cellInject stop dir lane blk => Sys2Proof.Machine.execCellInject stop dir lane blk s
  | .slotTableCommit => Sys2Proof.Machine.execSlotTableCommit s
  | .domainRequest h0 h1 adr ts lk hostOk op => Sys2Proof.Machine.execDomainRequest h0 h1 adr ts lk hostOk op s
  | .requestTimeout core ctx => Sys2Proof.Machine.execRequestTimeout core ctx s
  | .linkUnitReceive port side flit crcOk => Sys2Proof.Machine.execLinkUnitReceive port side flit crcOk s
  | .replayRequest port seq => Sys2Proof.Machine.execReplayRequest port seq s
  | .linkRetrain port => Sys2Proof.Machine.execLinkRetrain port s
  | .multicastForward n branch => Sys2Proof.Machine.execMulticastForward n branch s
  | .multicastDelivery core n => Sys2Proof.Machine.execMulticastDelivery core n s
  | .multicastDropTimeout core n => Sys2Proof.Machine.execMulticastDropTimeout core n s
  | .combineContribution stop group num v => Sys2Proof.Machine.execCombineContribution stop group num v s
  | .combineResultLand core n => Sys2Proof.Machine.execCombineResultLand core n s
  | .proxyOffer shed bay rep => Sys2Proof.Machine.execProxyOffer shed bay rep s
  | .doorbellWrite fn blk q packet => Sys2Proof.Machine.execDoorbellWrite fn blk q packet s
  | .info fn e => Sys2Proof.Machine.execInfo fn e s
  | .fwchunk fn e => Sys2Proof.Machine.execFwchunk fn e s
  | .fwverify fn e => Sys2Proof.Machine.execFwverify fn e s
  | .fwswap fn e => Sys2Proof.Machine.execFwswap fn e s
  | .merge fn e => Sys2Proof.Machine.execMerge fn e s
  | .vfreset fn e => Sys2Proof.Machine.execVfreset fn e s
  | .diagread fn e => Sys2Proof.Machine.execDiagread fn e s
  | .cfgwrite fn e => Sys2Proof.Machine.execCfgwrite fn e s
  | .cfgread fn e => Sys2Proof.Machine.execCfgread fn e s
  | .ptpcfg fn e => Sys2Proof.Machine.execPtpcfg fn e s
  | .functionReset fn => Sys2Proof.Machine.execFunctionReset fn s
  | .sdctlGo blk v => Sys2Proof.Machine.execSdctlGo blk v s
  | .tackHbeatWrite => Sys2Proof.Machine.execTackHbeatWrite s
  | .heartbeatTimeout => Sys2Proof.Machine.execHeartbeatTimeout s
  | .fwctlSwap => Sys2Proof.Machine.execFwctlSwap s
  | .firmwareHandover => Sys2Proof.Machine.execFirmwareHandover s
  | .fwctlCommit => Sys2Proof.Machine.execFwctlCommit s
  | .trialTimeout => Sys2Proof.Machine.execTrialTimeout s
  | .tmadjWrite v => Sys2Proof.Machine.execTmadjWrite v s
  | .stgctlCommit => Sys2Proof.Machine.execStgctlCommit s
  | .dwdataRead => Sys2Proof.Machine.execDwdataRead s
  | .powerCapCheck watts => Sys2Proof.Machine.execPowerCapCheck watts s
  | .ethernetFrame port inbound pa data => Sys2Proof.Machine.execEthernetFrame port inbound pa data s
  | .registerWrite agent addr v => Sys2Proof.Machine.execRegisterWrite agent addr v s
  | .illegalWord w => Sys2Proof.Machine.execIllegalWord w s
  | .fetchFault => Sys2Proof.Machine.execFetchFault s
  | .blockWritebackComplete core n => Sys2Proof.Machine.execBlockWritebackComplete core n s
  | .linkTrainingEnd port ok => Sys2Proof.Machine.execLinkTrainingEnd port ok s
  | .unitReady bit => Sys2Proof.Machine.execUnitReady bit s
  | .mailboxDoneClear fn e => Sys2Proof.Machine.execMailboxDoneClear fn e s
  | .unknownMailboxCode fn e => Sys2Proof.Machine.execUnknownMailboxCode fn e s

end Sys2Proof.Machine
end

