-- ==== Sys2Proof/Machine/Place.lean ====
section
/-!
DEFINITION. Placing one instruction where the next step fetches it (log 4): the paddock, the page table and the running
context that a boot and a launch would leave.
-/
namespace Sys2Proof.Machine

/-- The registers of the paddock that holds the placed word: block 0, every shed and stack, one interleave range. -/
def placePaddock : Paddock :=
  { pctl := 0x80000000000000ff, bnd := 0xffff, bndvf := 1
    ilv := [(0, 0x8000000000000000), (1, 0xff00010000000000)] }

/-- A root at 0x400 whose level-3 table points at 0x1000, whose first leaf is a 2 GiB page of class SW at physical
address 0, readable, writable and executable at U. -/
def placeTables (s : State) : State :=
  (s.homeWrite 0x400 8 0x1001).homeWrite 0x1000 8 0x1e7

/-- The instruction's bytes at address 0, and core 0's context 0 about to fetch them at level H. -/
def State.placeWord (s : State) (nbits w : Nat) : State :=
  let s := (placeTables s).homeWrite 0 8 (w % 2 ^ nbits)
  let s := (s.setPdk 0 placePaddock).updFunc 0 (fun f => { f with vfroot := 0x400 })
  let s := s.updCtx 0 0 (fun t => { t with
    run := .running, pc := 0, wait := none, stopReq := false, yieldFor := 0, stores := [], bayPend := [], haltPend := false
    slipPend := none, slackPend := none })
  let s := s.updCore 0 (fun k => { k with
    icache := [], frozen := none, holdFor := none, wounded := false, issued := (s.cc, 0, 0), headTrap := k.headTrap.filter (·.ctx ≠ 0)
    l1 := k.l1.filter (·.1 ≠ 0), pen := k.pen.filter (·.1 ≠ 0) })
  { s with agenda := [], cur := (0, 0), ran := false }

end Sys2Proof.Machine
end

