-- ==== Sys2Proof/Machine/Schedule.lean ====
section
/-!
DEFINITION. What moves next (the model's own scheduler, log 1): the agenda first, then the word of the current context, then
the package's own events in a fixed order, and last the clock.
-/
namespace Sys2Proof.Machine

/-- A context's turn: a stop that was asked for, a pending event (R341), or its next word; a Y word whose rendezvous is decided issues
before both (R104). -/
def State.turn (s : State) : Move :=
  let c := s.cur.1
  let x := s.cur.2
  if s.atBoundary c x = false then .out (.next s)
  else if (s.ctx c x).rendez ∧ s.canIssue c x then s.issue c x
  else if (s.ctx c x).stopReq then .out (.next (s.stopAtBoundary c x))
  else if s.takesPending c x ∧ s.pendingAt c x then .out (execPendingEventTake c x s)
  else if s.canIssue c x then s.issue c x
  else .out (.next s)

/-! ### The package's own events -/

/-- The first of some events that happens; nothing where none does. -/
def firstMove (s : State) (l : List (State → Out)) : Option Out :=
  match l with
  | [] => none
  | f :: r => if moved s (f s) then some (f s) else firstMove s r

/-- A stop that another context asked for. -/
def stopEvent (c x : Nat) (s : State) : Out :=
  .next (if s.atBoundary c x ∧ (s.ctx c x).stopReq then s.stopAtBoundary c x else s)

/-- Events of a context. -/
def ctxEvents (c x : Nat) : List (State → Out) :=
  [execPendingEventTake c x, stopEvent c x, execStorePerform c x, execHeldSignalPush c x, execWaitSatisfied c x,
   execAdmissionDecision c x, execAdmissionAnswer c x, execLotRequest c x, execLoadReply c x .home]

/-- Events of a core: its results and retirements before its starts (R171, R206), then its memory, then its task. -/
def coreEvents (c : Nat) : List (State → Out) :=
  [execVxeWriteback c, execMxeWriteback c, execNestStoreDrainEnd c,
   execEngineCommandRetire c 0, execEngineCommandRetire c 1, execEngineCommandRetire c 2] ++
  [0, 1, 2, 3].flatMap (ctxEvents c) ++
  [execYRendezvous c, execRollback c, execLotRequest c 4, execLoadReply c 8 .home, execStashFill c, execLoadReply c 4 .home, execLoadReply c 5 .home, execLoadReply c 6 .home, execOqEntryFill c 0, execOqEntryFill c 1,
   execOqEntryFill c 2, execOqEntryFill c 3, execFreezeEnd c, execFreezeLimit c, execBlockFillComplete c 0,
   execBlockWritebackComplete c 0, execCopyPacketForm c] ++ (List.range 8).map (fun n => execCopyLineComplete c n .home) ++
  [execNestStep c, execVxeCommandStart c, execMxeCommandStart c, execCpeCommandStart c, execCommit c, execTaskComplete c, execPreemptionPoint c, execSaveSequence c,
   execSliceExpiry c, execShootdown c] ++
  (List.range 7).map (execWaitBoundExpiry c)

/-- Events of a paddock block. -/
def blockEvents (b : Nat) : List (State → Out) :=
  execFrameTick b :: execSlipEnd b :: execIrrevocabilityGrant b :: (List.range 16).map (execLaunchRelease b)

/-- Events of a shared engine. -/
def engineEvents (cls unit : Nat) : List (State → Out) :=
  (List.range (bayCount cls)).map (fun n => execBayComplete cls unit n {}) ++
    (if cls = 0 then (List.range 6).map (fun n => execProxyOffer unit n .home) else []) ++
    [execTicketIssue cls unit, execTicketLapse cls unit]

/-- The request of the mailbox that is answered next. -/
def mailEvents (s : State) : List (State → Out) :=
  match s.tack.mboxOrder with
  | (fn, e) :: _ =>
    [execInfo fn e, execFwchunk fn e, execFwverify fn e, execFwswap fn e, execMerge fn e, execVfreset fn e, execDiagread fn e,
     execCfgwrite fn e, execCfgread fn e, execPtpcfg fn e, execUnknownMailboxCode fn e]
  | [] => []

/-- Events of the n-th packet of the switch: its branches, and its deliveries and results at the cores. -/
def mcEvents (s : State) (n : Nat) : List (State → Out) :=
  match s.mcs[n]? with
  | none => []
  | some p => (List.range 26).map (execMulticastForward n) ++ p.deliver.flatMap (fun d =>
      [execMulticastDelivery d.1 n, execMulticastDropTimeout d.1 n, execCombineResultLand d.1 n])

/-- Events of the packets at a point: their units of waiting, its grants, the cells that a stop injects, the replies of its target, and
the events that a core's context logs (R300 to R307). -/
def pointEvents (n : Nat) (t : Point) : List (State → Out) :=
  (List.range t.pkts.length).map (execPacketWaitUnit n) ++
    (if 128 ≤ n ∧ n < 164 then t.pkts.map (fun p =>
        execCellInject (n - 128) (yardPath p.src p.dst).1 ((p.src + p.dst + p.vc) % 8) p.blk)
      else if 256 ≤ n ∧ n < 288 then t.pkts.map (fun p => execEventLogWrite p.core p.ctx 0)
      else [execArbiterGrant n 3, execArbiterGrant n 2, execArbiterGrant n 1, execArbiterGrant n 0, execReplyForm n 0])

/-- Events of the package: tokens, lots, the switch, the halter's noted conditions, and the tack firmware. -/
def packageEvents (s : State) : List (State → Out) :=
  [execTokenDelivery 0] ++ s.lotReqs.map (fun r => execLotGrant r.key) ++
    (List.range s.mcs.length).flatMap (mcEvents s) ++
    s.watches.map (fun w => execHalterWatchFire w.kind w.core w.ctx) ++
    (s.funcs.filter (fun f => f.2.vfctl.getLsbD 62)).map (fun f => execFunctionReset f.1) ++
    [execSlotTableCommit, execFirmwareHandover] ++ mailEvents s

/-- The context after the current one, in rotation, that can issue. -/
def State.nextCur (s : State) : Nat × Nat :=
  let n := Config.numCores * 4
  let k := 4 * s.cur.1 + s.cur.2
  match (List.range n).find? (fun i => s.canIssue ((k + 1 + i) % n / 4) ((k + 1 + i) % 4)) with
  | some i => ((k + 1 + i) % n / 4, (k + 1 + i) % 4)
  | none => s.cur

/-- The clock goes on, and the turn passes to the next context. -/
def clockEvent (s : State) : Out :=
  match execTimeCounterStep s with
  | .next t => .next { t with cur := t.nextCur, ran := false }
  | o => o

/-- The events of the package in their order. A core, block or engine at reset has none of its own, but an idle core may take
a task. -/
def State.events (s : State) : List (State → Out) :=
  s.cores.flatMap (fun k => coreEvents k.1) ++ s.engs.flatMap (fun e => engineEvents (e.1 / 8) (e.1 % 8)) ++
    packageEvents s ++ s.points.flatMap (fun t => pointEvents t.1 t.2) ++ s.pdks.flatMap (fun b => blockEvents b.1) ++
    (if s.launches = [] then [] else (List.range Config.numCores).flatMap (fun c => [execTaskStart c, execRestore c]))

/-- The event that happens when no context moves. -/
def State.nextInternal (s : State) : Out := (firstMove s s.events).getD (clockEvent s)

/-- The next move. -/
def State.plan (s : State) : Move :=
  match s.agenda with
  | .turn c x :: r => ({ s with agenda := r, cur := (c % Config.numCores, x % Config.numCtx) } : State).turn
  | .event i :: r => .run i { s with agenda := r }
  | [] => if s.ran = false ∧ s.canIssue s.cur.1 s.cur.2 then ({ s with ran := true } : State).turn else .out s.nextInternal

end Sys2Proof.Machine
end

