-- ==== Sys2Proof/Machine/Step.lean ====
section
/-!
DEFINITION. One step of the package, and the state in which a given instruction is the next to run.
-/
namespace Sys2Proof.Machine

/-- One step: the next move of the agenda, of the current context, or of the package itself. -/
def step (s : State) : Host.Outcome State Fault Refusal :=
  match s.plan with
  | .run i s' => exec i s'
  | .out o => o

/-- The state with an instruction at the place that the next step fetches: a translation, a paddock and a running
context stand for the boot and the launch that place a program (log 4). -/
def State.withFetchWord (s : State) (nbits w : Nat) : State := s.placeWord nbits w

end Sys2Proof.Machine
end

