-- ==== Sys2Proof/Laws/Fields.lean ====
section
/-!
SUPPORT. Every field of an encoded word is the field that went in, for each format of R37: the lemmas that the round
trip of decoder and encoder rests on.
-/
namespace Sys2Proof

theorem ext_left {n m : Nat} (x : BitVec n) (y : BitVec m) (lo k : Nat) (h : m ≤ lo) :
    (x ++ y).extractLsb' lo k = x.extractLsb' (lo - m) k := by
  ext i hi
  simp only [BitVec.getElem_extractLsb', BitVec.getLsbD_append]
  have : ¬ (lo + i < m) := by omega
  simp only [this, if_false]
  congr 1; omega

theorem ext_right {n m : Nat} (x : BitVec n) (y : BitVec m) (lo k : Nat) (h : lo + k ≤ m) :
    (x ++ y).extractLsb' lo k = y.extractLsb' lo k := by
  ext i hi
  simp only [BitVec.getElem_extractLsb', BitVec.getLsbD_append]
  have : (lo + i < m) := by omega
  simp [this]

@[simp] theorem ext_self {n : Nat} (x : BitVec n) : x.extractLsb' 0 n = x := by
  ext i hi; simp

@[simp] theorem tk_of_bits (k : Tk) : Tk.ofBits k.bits = k := by
  obtain ⟨a, b, c, d, e⟩ := k
  cases a <;> cases b <;> cases c <;> cases d <;> cases e <;> rfl

@[simp] theorem encQ_k (k : Tk) (m : BitVec 6) (d : BitVec 5) (a : BitVec 5) (b : BitVec 5) (f : BitVec 6) :
    fld (encQ k m d a b f) 27 5 = k.bits :=
  (ext_left (n := 26) (m := 6) _ _ 27 _ (by omega)).trans ((ext_left (n := 21) (m := 5) _ _ 21 _ (by omega)).trans ((ext_left (n := 16) (m := 5) _ _ 16 _ (by omega)).trans ((ext_left (n := 11) (m := 5) _ _ 11 _ (by omega)).trans ((ext_left (n := 5) (m := 6) _ _ 6 _ (by omega)).trans (ext_self _)))))

@[simp] theorem encQ_m (k : Tk) (m : BitVec 6) (d : BitVec 5) (a : BitVec 5) (b : BitVec 5) (f : BitVec 6) :
    fld (encQ k m d a b f) 21 6 = m :=
  (ext_left (n := 26) (m := 6) _ _ 21 _ (by omega)).trans ((ext_left (n := 21) (m := 5) _ _ 15 _ (by omega)).trans ((ext_left (n := 16) (m := 5) _ _ 10 _ (by omega)).trans ((ext_left (n := 11) (m := 5) _ _ 5 _ (by omega)).trans ((ext_right (n := 5) (m := 6) _ _ 0 6 (by omega)).trans (ext_self _)))))

@[simp] theorem encQ_d (k : Tk) (m : BitVec 6) (d : BitVec 5) (a : BitVec 5) (b : BitVec 5) (f : BitVec 6) :
    fld (encQ k m d a b f) 16 5 = d :=
  (ext_left (n := 26) (m := 6) _ _ 16 _ (by omega)).trans ((ext_left (n := 21) (m := 5) _ _ 10 _ (by omega)).trans ((ext_left (n := 16) (m := 5) _ _ 5 _ (by omega)).trans ((ext_right (n := 11) (m := 5) _ _ 0 5 (by omega)).trans (ext_self _))))

@[simp] theorem encQ_a (k : Tk) (m : BitVec 6) (d : BitVec 5) (a : BitVec 5) (b : BitVec 5) (f : BitVec 6) :
    fld (encQ k m d a b f) 11 5 = a :=
  (ext_left (n := 26) (m := 6) _ _ 11 _ (by omega)).trans ((ext_left (n := 21) (m := 5) _ _ 5 _ (by omega)).trans ((ext_right (n := 16) (m := 5) _ _ 0 5 (by omega)).trans (ext_self _)))

@[simp] theorem encQ_b (k : Tk) (m : BitVec 6) (d : BitVec 5) (a : BitVec 5) (b : BitVec 5) (f : BitVec 6) :
    fld (encQ k m d a b f) 6 5 = b :=
  (ext_left (n := 26) (m := 6) _ _ 6 _ (by omega)).trans ((ext_right (n := 21) (m := 5) _ _ 0 5 (by omega)).trans (ext_self _))

@[simp] theorem encQ_f_part (k : Tk) (m : BitVec 6) (d : BitVec 5) (a : BitVec 5) (b : BitVec 5) (f : BitVec 6) (lo n : Nat) (h : lo + n ≤ 6) :
    fld (encQ k m d a b f) lo n = f.extractLsb' lo n :=
  ext_right (n := 26) (m := 6) _ _ lo n h

@[simp] theorem encI_k (k : Tk) (m : BitVec 6) (d : BitVec 5) (a : BitVec 5) (i : BitVec 11) :
    fld (encI k m d a i) 27 5 = k.bits :=
  (ext_left (n := 21) (m := 11) _ _ 27 _ (by omega)).trans ((ext_left (n := 16) (m := 5) _ _ 16 _ (by omega)).trans ((ext_left (n := 11) (m := 5) _ _ 11 _ (by omega)).trans ((ext_left (n := 5) (m := 6) _ _ 6 _ (by omega)).trans (ext_self _))))

@[simp] theorem encI_m (k : Tk) (m : BitVec 6) (d : BitVec 5) (a : BitVec 5) (i : BitVec 11) :
    fld (encI k m d a i) 21 6 = m :=
  (ext_left (n := 21) (m := 11) _ _ 21 _ (by omega)).trans ((ext_left (n := 16) (m := 5) _ _ 10 _ (by omega)).trans ((ext_left (n := 11) (m := 5) _ _ 5 _ (by omega)).trans ((ext_right (n := 5) (m := 6) _ _ 0 6 (by omega)).trans (ext_self _))))

@[simp] theorem encI_d (k : Tk) (m : BitVec 6) (d : BitVec 5) (a : BitVec 5) (i : BitVec 11) :
    fld (encI k m d a i) 16 5 = d :=
  (ext_left (n := 21) (m := 11) _ _ 16 _ (by omega)).trans ((ext_left (n := 16) (m := 5) _ _ 5 _ (by omega)).trans ((ext_right (n := 11) (m := 5) _ _ 0 5 (by omega)).trans (ext_self _)))

@[simp] theorem encI_a (k : Tk) (m : BitVec 6) (d : BitVec 5) (a : BitVec 5) (i : BitVec 11) :
    fld (encI k m d a i) 11 5 = a :=
  (ext_left (n := 21) (m := 11) _ _ 11 _ (by omega)).trans ((ext_right (n := 16) (m := 5) _ _ 0 5 (by omega)).trans (ext_self _))

@[simp] theorem encI_i (k : Tk) (m : BitVec 6) (d : BitVec 5) (a : BitVec 5) (i : BitVec 11) :
    fld (encI k m d a i) 0 11 = i :=
  (ext_right (n := 21) (m := 11) _ _ 0 11 (by omega)).trans (ext_self _)

@[simp] theorem encK_k (k : Tk) (m : BitVec 6) (d : BitVec 5) (a : BitVec 5) (f : BitVec 3) (i : BitVec 8) :
    fld (encK k m d a f i) 27 5 = k.bits :=
  (ext_left (n := 24) (m := 8) _ _ 27 _ (by omega)).trans ((ext_left (n := 21) (m := 3) _ _ 19 _ (by omega)).trans ((ext_left (n := 16) (m := 5) _ _ 16 _ (by omega)).trans ((ext_left (n := 11) (m := 5) _ _ 11 _ (by omega)).trans ((ext_left (n := 5) (m := 6) _ _ 6 _ (by omega)).trans (ext_self _)))))

@[simp] theorem encK_m (k : Tk) (m : BitVec 6) (d : BitVec 5) (a : BitVec 5) (f : BitVec 3) (i : BitVec 8) :
    fld (encK k m d a f i) 21 6 = m :=
  (ext_left (n := 24) (m := 8) _ _ 21 _ (by omega)).trans ((ext_left (n := 21) (m := 3) _ _ 13 _ (by omega)).trans ((ext_left (n := 16) (m := 5) _ _ 10 _ (by omega)).trans ((ext_left (n := 11) (m := 5) _ _ 5 _ (by omega)).trans ((ext_right (n := 5) (m := 6) _ _ 0 6 (by omega)).trans (ext_self _)))))

@[simp] theorem encK_d (k : Tk) (m : BitVec 6) (d : BitVec 5) (a : BitVec 5) (f : BitVec 3) (i : BitVec 8) :
    fld (encK k m d a f i) 16 5 = d :=
  (ext_left (n := 24) (m := 8) _ _ 16 _ (by omega)).trans ((ext_left (n := 21) (m := 3) _ _ 8 _ (by omega)).trans ((ext_left (n := 16) (m := 5) _ _ 5 _ (by omega)).trans ((ext_right (n := 11) (m := 5) _ _ 0 5 (by omega)).trans (ext_self _))))

@[simp] theorem encK_a (k : Tk) (m : BitVec 6) (d : BitVec 5) (a : BitVec 5) (f : BitVec 3) (i : BitVec 8) :
    fld (encK k m d a f i) 11 5 = a :=
  (ext_left (n := 24) (m := 8) _ _ 11 _ (by omega)).trans ((ext_left (n := 21) (m := 3) _ _ 3 _ (by omega)).trans ((ext_right (n := 16) (m := 5) _ _ 0 5 (by omega)).trans (ext_self _)))

@[simp] theorem encK_f (k : Tk) (m : BitVec 6) (d : BitVec 5) (a : BitVec 5) (f : BitVec 3) (i : BitVec 8) :
    fld (encK k m d a f i) 8 3 = f :=
  (ext_left (n := 24) (m := 8) _ _ 8 _ (by omega)).trans ((ext_right (n := 21) (m := 3) _ _ 0 3 (by omega)).trans (ext_self _))

@[simp] theorem encK_i_part (k : Tk) (m : BitVec 6) (d : BitVec 5) (a : BitVec 5) (f : BitVec 3) (i : BitVec 8) (lo n : Nat) (h : lo + n ≤ 8) :
    fld (encK k m d a f i) lo n = i.extractLsb' lo n :=
  ext_right (n := 24) (m := 8) _ _ lo n h

@[simp] theorem encW_k (k : Tk) (m : BitVec 6) (d : BitVec 5) (i : BitVec 16) :
    fld (encW k m d i) 27 5 = k.bits :=
  (ext_left (n := 16) (m := 16) _ _ 27 _ (by omega)).trans ((ext_left (n := 11) (m := 5) _ _ 11 _ (by omega)).trans ((ext_left (n := 5) (m := 6) _ _ 6 _ (by omega)).trans (ext_self _)))

@[simp] theorem encW_m (k : Tk) (m : BitVec 6) (d : BitVec 5) (i : BitVec 16) :
    fld (encW k m d i) 21 6 = m :=
  (ext_left (n := 16) (m := 16) _ _ 21 _ (by omega)).trans ((ext_left (n := 11) (m := 5) _ _ 5 _ (by omega)).trans ((ext_right (n := 5) (m := 6) _ _ 0 6 (by omega)).trans (ext_self _)))

@[simp] theorem encW_d (k : Tk) (m : BitVec 6) (d : BitVec 5) (i : BitVec 16) :
    fld (encW k m d i) 16 5 = d :=
  (ext_left (n := 16) (m := 16) _ _ 16 _ (by omega)).trans ((ext_right (n := 11) (m := 5) _ _ 0 5 (by omega)).trans (ext_self _))

@[simp] theorem encW_i (k : Tk) (m : BitVec 6) (d : BitVec 5) (i : BitVec 16) :
    fld (encW k m d i) 0 16 = i :=
  (ext_right (n := 16) (m := 16) _ _ 0 16 (by omega)).trans (ext_self _)

@[simp] theorem encC_k (k : Tk) (m : BitVec 6) (d : BitVec 5) (a : BitVec 5) (f : BitVec 2) (c : BitVec 9) :
    fld (encC k m d a f c) 27 5 = k.bits :=
  (ext_left (n := 23) (m := 9) _ _ 27 _ (by omega)).trans ((ext_left (n := 21) (m := 2) _ _ 18 _ (by omega)).trans ((ext_left (n := 16) (m := 5) _ _ 16 _ (by omega)).trans ((ext_left (n := 11) (m := 5) _ _ 11 _ (by omega)).trans ((ext_left (n := 5) (m := 6) _ _ 6 _ (by omega)).trans (ext_self _)))))

@[simp] theorem encC_m (k : Tk) (m : BitVec 6) (d : BitVec 5) (a : BitVec 5) (f : BitVec 2) (c : BitVec 9) :
    fld (encC k m d a f c) 21 6 = m :=
  (ext_left (n := 23) (m := 9) _ _ 21 _ (by omega)).trans ((ext_left (n := 21) (m := 2) _ _ 12 _ (by omega)).trans ((ext_left (n := 16) (m := 5) _ _ 10 _ (by omega)).trans ((ext_left (n := 11) (m := 5) _ _ 5 _ (by omega)).trans ((ext_right (n := 5) (m := 6) _ _ 0 6 (by omega)).trans (ext_self _)))))

@[simp] theorem encC_d (k : Tk) (m : BitVec 6) (d : BitVec 5) (a : BitVec 5) (f : BitVec 2) (c : BitVec 9) :
    fld (encC k m d a f c) 16 5 = d :=
  (ext_left (n := 23) (m := 9) _ _ 16 _ (by omega)).trans ((ext_left (n := 21) (m := 2) _ _ 7 _ (by omega)).trans ((ext_left (n := 16) (m := 5) _ _ 5 _ (by omega)).trans ((ext_right (n := 11) (m := 5) _ _ 0 5 (by omega)).trans (ext_self _))))

@[simp] theorem encC_a (k : Tk) (m : BitVec 6) (d : BitVec 5) (a : BitVec 5) (f : BitVec 2) (c : BitVec 9) :
    fld (encC k m d a f c) 11 5 = a :=
  (ext_left (n := 23) (m := 9) _ _ 11 _ (by omega)).trans ((ext_left (n := 21) (m := 2) _ _ 2 _ (by omega)).trans ((ext_right (n := 16) (m := 5) _ _ 0 5 (by omega)).trans (ext_self _)))

@[simp] theorem encC_f (k : Tk) (m : BitVec 6) (d : BitVec 5) (a : BitVec 5) (f : BitVec 2) (c : BitVec 9) :
    fld (encC k m d a f c) 9 2 = f :=
  (ext_left (n := 23) (m := 9) _ _ 9 _ (by omega)).trans ((ext_right (n := 21) (m := 2) _ _ 0 2 (by omega)).trans (ext_self _))

@[simp] theorem encC_c (k : Tk) (m : BitVec 6) (d : BitVec 5) (a : BitVec 5) (f : BitVec 2) (c : BitVec 9) :
    fld (encC k m d a f c) 0 9 = c :=
  (ext_right (n := 23) (m := 9) _ _ 0 9 (by omega)).trans (ext_self _)

@[simp] theorem encB_k (k : Tk) (m : BitVec 6) (f : BitVec 3) (a : BitVec 5) (b : BitVec 5) (o : BitVec 8) :
    fld (encB k m f a b o) 27 5 = k.bits :=
  (ext_left (n := 24) (m := 8) _ _ 27 _ (by omega)).trans ((ext_left (n := 19) (m := 5) _ _ 19 _ (by omega)).trans ((ext_left (n := 14) (m := 5) _ _ 14 _ (by omega)).trans ((ext_left (n := 11) (m := 3) _ _ 9 _ (by omega)).trans ((ext_left (n := 5) (m := 6) _ _ 6 _ (by omega)).trans (ext_self _)))))

@[simp] theorem encB_m (k : Tk) (m : BitVec 6) (f : BitVec 3) (a : BitVec 5) (b : BitVec 5) (o : BitVec 8) :
    fld (encB k m f a b o) 21 6 = m :=
  (ext_left (n := 24) (m := 8) _ _ 21 _ (by omega)).trans ((ext_left (n := 19) (m := 5) _ _ 13 _ (by omega)).trans ((ext_left (n := 14) (m := 5) _ _ 8 _ (by omega)).trans ((ext_left (n := 11) (m := 3) _ _ 3 _ (by omega)).trans ((ext_right (n := 5) (m := 6) _ _ 0 6 (by omega)).trans (ext_self _)))))

@[simp] theorem encB_f (k : Tk) (m : BitVec 6) (f : BitVec 3) (a : BitVec 5) (b : BitVec 5) (o : BitVec 8) :
    fld (encB k m f a b o) 18 3 = f :=
  (ext_left (n := 24) (m := 8) _ _ 18 _ (by omega)).trans ((ext_left (n := 19) (m := 5) _ _ 10 _ (by omega)).trans ((ext_left (n := 14) (m := 5) _ _ 5 _ (by omega)).trans ((ext_right (n := 11) (m := 3) _ _ 0 3 (by omega)).trans (ext_self _))))

@[simp] theorem encB_a (k : Tk) (m : BitVec 6) (f : BitVec 3) (a : BitVec 5) (b : BitVec 5) (o : BitVec 8) :
    fld (encB k m f a b o) 13 5 = a :=
  (ext_left (n := 24) (m := 8) _ _ 13 _ (by omega)).trans ((ext_left (n := 19) (m := 5) _ _ 5 _ (by omega)).trans ((ext_right (n := 14) (m := 5) _ _ 0 5 (by omega)).trans (ext_self _)))

@[simp] theorem encB_b (k : Tk) (m : BitVec 6) (f : BitVec 3) (a : BitVec 5) (b : BitVec 5) (o : BitVec 8) :
    fld (encB k m f a b o) 8 5 = b :=
  (ext_left (n := 24) (m := 8) _ _ 8 _ (by omega)).trans ((ext_right (n := 19) (m := 5) _ _ 0 5 (by omega)).trans (ext_self _))

@[simp] theorem encB_o (k : Tk) (m : BitVec 6) (f : BitVec 3) (a : BitVec 5) (b : BitVec 5) (o : BitVec 8) :
    fld (encB k m f a b o) 0 8 = o :=
  (ext_right (n := 24) (m := 8) _ _ 0 8 (by omega)).trans (ext_self _)

@[simp] theorem encP_k (k : Tk) (m : BitVec 6) (f : BitVec 1) (p : BitVec 4) (i : BitVec 16) :
    fld (encP k m f p i) 27 5 = k.bits :=
  (ext_left (n := 16) (m := 16) _ _ 27 _ (by omega)).trans ((ext_left (n := 12) (m := 4) _ _ 11 _ (by omega)).trans ((ext_left (n := 11) (m := 1) _ _ 7 _ (by omega)).trans ((ext_left (n := 5) (m := 6) _ _ 6 _ (by omega)).trans (ext_self _))))

@[simp] theorem encP_m (k : Tk) (m : BitVec 6) (f : BitVec 1) (p : BitVec 4) (i : BitVec 16) :
    fld (encP k m f p i) 21 6 = m :=
  (ext_left (n := 16) (m := 16) _ _ 21 _ (by omega)).trans ((ext_left (n := 12) (m := 4) _ _ 5 _ (by omega)).trans ((ext_left (n := 11) (m := 1) _ _ 1 _ (by omega)).trans ((ext_right (n := 5) (m := 6) _ _ 0 6 (by omega)).trans (ext_self _))))

@[simp] theorem encP_f (k : Tk) (m : BitVec 6) (f : BitVec 1) (p : BitVec 4) (i : BitVec 16) :
    fld (encP k m f p i) 20 1 = f :=
  (ext_left (n := 16) (m := 16) _ _ 20 _ (by omega)).trans ((ext_left (n := 12) (m := 4) _ _ 4 _ (by omega)).trans ((ext_right (n := 11) (m := 1) _ _ 0 1 (by omega)).trans (ext_self _)))

@[simp] theorem encP_p (k : Tk) (m : BitVec 6) (f : BitVec 1) (p : BitVec 4) (i : BitVec 16) :
    fld (encP k m f p i) 16 4 = p :=
  (ext_left (n := 16) (m := 16) _ _ 16 _ (by omega)).trans ((ext_right (n := 12) (m := 4) _ _ 0 4 (by omega)).trans (ext_self _))

@[simp] theorem encP_i (k : Tk) (m : BitVec 6) (f : BitVec 1) (p : BitVec 4) (i : BitVec 16) :
    fld (encP k m f p i) 0 16 = i :=
  (ext_right (n := 16) (m := 16) _ _ 0 16 (by omega)).trans (ext_self _)

@[simp] theorem encX_k (k : Tk) (m : BitVec 6) (s : BitVec 4) (r : BitVec 2) (p : BitVec 4) (a : BitVec 5) (b : BitVec 5) (f : BitVec 1) :
    fld (encX k m s r p a b f) 27 5 = k.bits :=
  (ext_left (n := 31) (m := 1) _ _ 27 _ (by omega)).trans ((ext_left (n := 26) (m := 5) _ _ 26 _ (by omega)).trans ((ext_left (n := 21) (m := 5) _ _ 21 _ (by omega)).trans ((ext_left (n := 17) (m := 4) _ _ 16 _ (by omega)).trans ((ext_left (n := 15) (m := 2) _ _ 12 _ (by omega)).trans ((ext_left (n := 11) (m := 4) _ _ 10 _ (by omega)).trans ((ext_left (n := 5) (m := 6) _ _ 6 _ (by omega)).trans (ext_self _)))))))

@[simp] theorem encX_m (k : Tk) (m : BitVec 6) (s : BitVec 4) (r : BitVec 2) (p : BitVec 4) (a : BitVec 5) (b : BitVec 5) (f : BitVec 1) :
    fld (encX k m s r p a b f) 21 6 = m :=
  (ext_left (n := 31) (m := 1) _ _ 21 _ (by omega)).trans ((ext_left (n := 26) (m := 5) _ _ 20 _ (by omega)).trans ((ext_left (n := 21) (m := 5) _ _ 15 _ (by omega)).trans ((ext_left (n := 17) (m := 4) _ _ 10 _ (by omega)).trans ((ext_left (n := 15) (m := 2) _ _ 6 _ (by omega)).trans ((ext_left (n := 11) (m := 4) _ _ 4 _ (by omega)).trans ((ext_right (n := 5) (m := 6) _ _ 0 6 (by omega)).trans (ext_self _)))))))

@[simp] theorem encX_s (k : Tk) (m : BitVec 6) (s : BitVec 4) (r : BitVec 2) (p : BitVec 4) (a : BitVec 5) (b : BitVec 5) (f : BitVec 1) :
    fld (encX k m s r p a b f) 17 4 = s :=
  (ext_left (n := 31) (m := 1) _ _ 17 _ (by omega)).trans ((ext_left (n := 26) (m := 5) _ _ 16 _ (by omega)).trans ((ext_left (n := 21) (m := 5) _ _ 11 _ (by omega)).trans ((ext_left (n := 17) (m := 4) _ _ 6 _ (by omega)).trans ((ext_left (n := 15) (m := 2) _ _ 2 _ (by omega)).trans ((ext_right (n := 11) (m := 4) _ _ 0 4 (by omega)).trans (ext_self _))))))

@[simp] theorem encX_r (k : Tk) (m : BitVec 6) (s : BitVec 4) (r : BitVec 2) (p : BitVec 4) (a : BitVec 5) (b : BitVec 5) (f : BitVec 1) :
    fld (encX k m s r p a b f) 15 2 = r :=
  (ext_left (n := 31) (m := 1) _ _ 15 _ (by omega)).trans ((ext_left (n := 26) (m := 5) _ _ 14 _ (by omega)).trans ((ext_left (n := 21) (m := 5) _ _ 9 _ (by omega)).trans ((ext_left (n := 17) (m := 4) _ _ 4 _ (by omega)).trans ((ext_right (n := 15) (m := 2) _ _ 0 2 (by omega)).trans (ext_self _)))))

@[simp] theorem encX_p (k : Tk) (m : BitVec 6) (s : BitVec 4) (r : BitVec 2) (p : BitVec 4) (a : BitVec 5) (b : BitVec 5) (f : BitVec 1) :
    fld (encX k m s r p a b f) 11 4 = p :=
  (ext_left (n := 31) (m := 1) _ _ 11 _ (by omega)).trans ((ext_left (n := 26) (m := 5) _ _ 10 _ (by omega)).trans ((ext_left (n := 21) (m := 5) _ _ 5 _ (by omega)).trans ((ext_right (n := 17) (m := 4) _ _ 0 4 (by omega)).trans (ext_self _))))

@[simp] theorem encX_a (k : Tk) (m : BitVec 6) (s : BitVec 4) (r : BitVec 2) (p : BitVec 4) (a : BitVec 5) (b : BitVec 5) (f : BitVec 1) :
    fld (encX k m s r p a b f) 6 5 = a :=
  (ext_left (n := 31) (m := 1) _ _ 6 _ (by omega)).trans ((ext_left (n := 26) (m := 5) _ _ 5 _ (by omega)).trans ((ext_right (n := 21) (m := 5) _ _ 0 5 (by omega)).trans (ext_self _)))

@[simp] theorem encX_b (k : Tk) (m : BitVec 6) (s : BitVec 4) (r : BitVec 2) (p : BitVec 4) (a : BitVec 5) (b : BitVec 5) (f : BitVec 1) :
    fld (encX k m s r p a b f) 1 5 = b :=
  (ext_left (n := 31) (m := 1) _ _ 1 _ (by omega)).trans ((ext_right (n := 26) (m := 5) _ _ 0 5 (by omega)).trans (ext_self _))

@[simp] theorem encX_f (k : Tk) (m : BitVec 6) (s : BitVec 4) (r : BitVec 2) (p : BitVec 4) (a : BitVec 5) (b : BitVec 5) (f : BitVec 1) :
    fld (encX k m s r p a b f) 0 1 = f :=
  (ext_right (n := 31) (m := 1) _ _ 0 1 (by omega)).trans (ext_self _)

end Sys2Proof
end

