-- ==== Sys2Proof/Laws/PerInstr.lean ====
section
/-!
SUPPORT. One lemma per constructor of Instr: decoding an encoded well-formed instruction gives it back. An event has no
word.
-/
set_option linter.unusedSimpArgs false
set_option linter.unusedVariables false

namespace Sys2Proof

theorem dec_major_01 (w : Code) (h : fld w 21 6 = 0x01#6) : decodeFields w = dec01 (Tk.of w) w := by
  unfold decodeFields; rw [h]; rfl

theorem dec_major_02 (w : Code) (h : fld w 21 6 = 0x02#6) : decodeFields w = dec02 (Tk.of w) w := by
  unfold decodeFields; rw [h]; rfl

theorem dec_major_03 (w : Code) (h : fld w 21 6 = 0x03#6) : decodeFields w = dec03 (Tk.of w) w := by
  unfold decodeFields; rw [h]; rfl

theorem dec_major_04 (w : Code) (h : fld w 21 6 = 0x04#6) : decodeFields w = dec04 (Tk.of w) w := by
  unfold decodeFields; rw [h]; rfl

theorem dec_major_05 (w : Code) (h : fld w 21 6 = 0x05#6) : decodeFields w = dec05 (Tk.of w) w := by
  unfold decodeFields; rw [h]; rfl

theorem dec_major_06 (w : Code) (h : fld w 21 6 = 0x06#6) : decodeFields w = dec06 (Tk.of w) w := by
  unfold decodeFields; rw [h]; rfl

theorem dec_major_07 (w : Code) (h : fld w 21 6 = 0x07#6) : decodeFields w = dec07 (Tk.of w) w := by
  unfold decodeFields; rw [h]; rfl

theorem dec_major_08 (w : Code) (h : fld w 21 6 = 0x08#6) : decodeFields w = dec08 (Tk.of w) w := by
  unfold decodeFields; rw [h]; rfl

theorem dec_major_09 (w : Code) (h : fld w 21 6 = 0x09#6) : decodeFields w = dec09 (Tk.of w) w := by
  unfold decodeFields; rw [h]; rfl

theorem dec_major_0a (w : Code) (h : fld w 21 6 = 0x0a#6) : decodeFields w = dec0a (Tk.of w) w := by
  unfold decodeFields; rw [h]; rfl

theorem dec_major_0b (w : Code) (h : fld w 21 6 = 0x0b#6) : decodeFields w = dec0b (Tk.of w) w := by
  unfold decodeFields; rw [h]; rfl

theorem dec_major_0c (w : Code) (h : fld w 21 6 = 0x0c#6) : decodeFields w = dec0c (Tk.of w) w := by
  unfold decodeFields; rw [h]; rfl

theorem dec_major_10 (w : Code) (h : fld w 21 6 = 0x10#6) : decodeFields w = dec10 (Tk.of w) w := by
  unfold decodeFields; rw [h]; rfl

theorem dec_major_11 (w : Code) (h : fld w 21 6 = 0x11#6) : decodeFields w = dec11 (Tk.of w) w := by
  unfold decodeFields; rw [h]; rfl

theorem dec_major_12 (w : Code) (h : fld w 21 6 = 0x12#6) : decodeFields w = dec12 (Tk.of w) w := by
  unfold decodeFields; rw [h]; rfl

theorem dec_major_13 (w : Code) (h : fld w 21 6 = 0x13#6) : decodeFields w = dec13 (Tk.of w) w := by
  unfold decodeFields; rw [h]; rfl

theorem dec_major_14 (w : Code) (h : fld w 21 6 = 0x14#6) : decodeFields w = dec14 (Tk.of w) w := by
  unfold decodeFields; rw [h]; rfl

theorem dec_major_15 (w : Code) (h : fld w 21 6 = 0x15#6) : decodeFields w = dec15 (Tk.of w) w := by
  unfold decodeFields; rw [h]; rfl

theorem dec_major_16 (w : Code) (h : fld w 21 6 = 0x16#6) : decodeFields w = dec16 (Tk.of w) w := by
  unfold decodeFields; rw [h]; rfl

theorem dec_major_17 (w : Code) (h : fld w 21 6 = 0x17#6) : decodeFields w = dec17 (Tk.of w) w := by
  unfold decodeFields; rw [h]; rfl

theorem dec_major_18 (w : Code) (h : fld w 21 6 = 0x18#6) : decodeFields w = dec18 (Tk.of w) w := by
  unfold decodeFields; rw [h]; rfl

theorem dec_major_19 (w : Code) (h : fld w 21 6 = 0x19#6) : decodeFields w = dec19 (Tk.of w) w := by
  unfold decodeFields; rw [h]; rfl

theorem dec_major_1a (w : Code) (h : fld w 21 6 = 0x1a#6) : decodeFields w = dec1a (Tk.of w) w := by
  unfold decodeFields; rw [h]; rfl

theorem dec_major_1b (w : Code) (h : fld w 21 6 = 0x1b#6) : decodeFields w = dec1b (Tk.of w) w := by
  unfold decodeFields; rw [h]; rfl

theorem dec_major_20 (w : Code) (h : fld w 21 6 = 0x20#6) : decodeFields w = dec20 (Tk.of w) w := by
  unfold decodeFields; rw [h]; rfl

theorem dec_major_21 (w : Code) (h : fld w 21 6 = 0x21#6) : decodeFields w = dec21 (Tk.of w) w := by
  unfold decodeFields; rw [h]; rfl

theorem dec_major_22 (w : Code) (h : fld w 21 6 = 0x22#6) : decodeFields w = dec22 (Tk.of w) w := by
  unfold decodeFields; rw [h]; rfl

theorem dec_major_23 (w : Code) (h : fld w 21 6 = 0x23#6) : decodeFields w = dec23 (Tk.of w) w := by
  unfold decodeFields; rw [h]; rfl

theorem dec_major_24 (w : Code) (h : fld w 21 6 = 0x24#6) : decodeFields w = dec24 (Tk.of w) w := by
  unfold decodeFields; rw [h]; rfl

theorem dec_major_25 (w : Code) (h : fld w 21 6 = 0x25#6) : decodeFields w = dec25 (Tk.of w) w := by
  unfold decodeFields; rw [h]; rfl

theorem dec_major_26 (w : Code) (h : fld w 21 6 = 0x26#6) : decodeFields w = dec26 (Tk.of w) w := by
  unfold decodeFields; rw [h]; rfl

theorem dec_major_27 (w : Code) (h : fld w 21 6 = 0x27#6) : decodeFields w = dec27 (Tk.of w) w := by
  unfold decodeFields; rw [h]; rfl

theorem dec_major_28 (w : Code) (h : fld w 21 6 = 0x28#6) : decodeFields w = dec28 (Tk.of w) w := by
  unfold decodeFields; rw [h]; rfl

theorem dec_major_29 (w : Code) (h : fld w 21 6 = 0x29#6) : decodeFields w = dec29 (Tk.of w) w := by
  unfold decodeFields; rw [h]; rfl

theorem dec_major_2a (w : Code) (h : fld w 21 6 = 0x2a#6) : decodeFields w = dec2a (Tk.of w) w := by
  unfold decodeFields; rw [h]; rfl

theorem dec_major_2b (w : Code) (h : fld w 21 6 = 0x2b#6) : decodeFields w = dec2b (Tk.of w) w := by
  unfold decodeFields; rw [h]; rfl

theorem dec_major_2c (w : Code) (h : fld w 21 6 = 0x2c#6) : decodeFields w = dec2c (Tk.of w) w := by
  unfold decodeFields; rw [h]; rfl

theorem dec_major_2d (w : Code) (h : fld w 21 6 = 0x2d#6) : decodeFields w = dec2d (Tk.of w) w := by
  unfold decodeFields; rw [h]; rfl

theorem dec_major_2e (w : Code) (h : fld w 21 6 = 0x2e#6) : decodeFields w = dec2e (Tk.of w) w := by
  unfold decodeFields; rw [h]; rfl

theorem dec_major_2f (w : Code) (h : fld w 21 6 = 0x2f#6) : decodeFields w = dec2f (Tk.of w) w := by
  unfold decodeFields; rw [h]; rfl

theorem dec_major_30 (w : Code) (h : fld w 21 6 = 0x30#6) : decodeFields w = dec30 (Tk.of w) w := by
  unfold decodeFields; rw [h]; rfl

theorem dec_major_31 (w : Code) (h : fld w 21 6 = 0x31#6) : decodeFields w = dec31 (Tk.of w) w := by
  unfold decodeFields; rw [h]; rfl

theorem dec_major_32 (w : Code) (h : fld w 21 6 = 0x32#6) : decodeFields w = dec32 (Tk.of w) w := by
  unfold decodeFields; rw [h]; rfl

theorem dec_major_33 (w : Code) (h : fld w 21 6 = 0x33#6) : decodeFields w = dec33 (Tk.of w) w := by
  unfold decodeFields; rw [h]; rfl

theorem dec_major_34 (w : Code) (h : fld w 21 6 = 0x34#6) : decodeFields w = dec34 (Tk.of w) w := by
  unfold decodeFields; rw [h]; rfl

theorem dec_major_35 (w : Code) (h : fld w 21 6 = 0x35#6) : decodeFields w = dec35 (Tk.of w) w := by
  unfold decodeFields; rw [h]; rfl

theorem dec_major_36 (w : Code) (h : fld w 21 6 = 0x36#6) : decodeFields w = dec36 (Tk.of w) w := by
  unfold decodeFields; rw [h]; rfl

theorem dec_major_37 (w : Code) (h : fld w 21 6 = 0x37#6) : decodeFields w = dec37 (Tk.of w) w := by
  unfold decodeFields; rw [h]; rfl

theorem dec_major_38 (w : Code) (h : fld w 21 6 = 0x38#6) : decodeFields w = dec38 (Tk.of w) w := by
  unfold decodeFields; rw [h]; rfl

theorem dec_major_39 (w : Code) (h : fld w 21 6 = 0x39#6) : decodeFields w = dec39 (Tk.of w) w := by
  unfold decodeFields; rw [h]; rfl

theorem dec_major_3a (w : Code) (h : fld w 21 6 = 0x3a#6) : decodeFields w = dec3a (Tk.of w) w := by
  unfold decodeFields; rw [h]; rfl

theorem dec_major_3b (w : Code) (h : fld w 21 6 = 0x3b#6) : decodeFields w = dec3b (Tk.of w) w := by
  unfold decodeFields; rw [h]; rfl

theorem dec_major_3c (w : Code) (h : fld w 21 6 = 0x3c#6) : decodeFields w = dec3c (Tk.of w) w := by
  unfold decodeFields; rw [h]; rfl

theorem dec_major_3d (w : Code) (h : fld w 21 6 = 0x3d#6) : decodeFields w = dec3d (Tk.of w) w := by
  unfold decodeFields; rw [h]; rfl

theorem dec_major_3e (w : Code) (h : fld w 21 6 = 0x3e#6) : decodeFields w = dec3e (Tk.of w) w := by
  unfold decodeFields; rw [h]; rfl

end Sys2Proof

namespace Sys2Proof.Laws.RoundTrip

/-- Decoding the encoding of a well-formed instruction word gives it back. -/
def Statement (i : Instr) : Prop := i.isWord = true → i.wf = true → decode (encode i) = some i

theorem add (k : Tk) (d : Reg) (a : Reg) (b : Reg) : Statement (.add k d a b) := by
  intro _ hw
  have henc : encode (.add k d a b) = encQ k 0x01#6 d a b 0#6 := rfl
  have h0_6 : fld (encQ k 0x01#6 d a b 0#6) 0 6 = 0#6 := (encQ_f_part _ _ _ _ _ _ 0 6 (by omega)).trans (ext_self _)
  have hdec : decodeFields (encQ k 0x01#6 d a b 0#6) = some (.add k d a b) := by
    rw [dec_major_01 _ (encQ_m ..)]
    simp only [dec01, encQ_d, encQ_a, encQ_b, Tk.of, encQ_k, tk_of_bits]
    rw [h0_6]
    rfl
  rw [henc]; unfold decode; rw [hdec]; simp only [hw, if_true]

theorem sub (k : Tk) (d : Reg) (a : Reg) (b : Reg) : Statement (.sub k d a b) := by
  intro _ hw
  have henc : encode (.sub k d a b) = encQ k 0x01#6 d a b 1#6 := rfl
  have h0_6 : fld (encQ k 0x01#6 d a b 1#6) 0 6 = 1#6 := (encQ_f_part _ _ _ _ _ _ 0 6 (by omega)).trans (ext_self _)
  have hdec : decodeFields (encQ k 0x01#6 d a b 1#6) = some (.sub k d a b) := by
    rw [dec_major_01 _ (encQ_m ..)]
    simp only [dec01, encQ_d, encQ_a, encQ_b, Tk.of, encQ_k, tk_of_bits]
    rw [h0_6]
    rfl
  rw [henc]; unfold decode; rw [hdec]; simp only [hw, if_true]

theorem and (k : Tk) (d : Reg) (a : Reg) (b : Reg) : Statement (.and k d a b) := by
  intro _ hw
  have henc : encode (.and k d a b) = encQ k 0x01#6 d a b 2#6 := rfl
  have h0_6 : fld (encQ k 0x01#6 d a b 2#6) 0 6 = 2#6 := (encQ_f_part _ _ _ _ _ _ 0 6 (by omega)).trans (ext_self _)
  have hdec : decodeFields (encQ k 0x01#6 d a b 2#6) = some (.and k d a b) := by
    rw [dec_major_01 _ (encQ_m ..)]
    simp only [dec01, encQ_d, encQ_a, encQ_b, Tk.of, encQ_k, tk_of_bits]
    rw [h0_6]
    rfl
  rw [henc]; unfold decode; rw [hdec]; simp only [hw, if_true]

theorem or (k : Tk) (d : Reg) (a : Reg) (b : Reg) : Statement (.or k d a b) := by
  intro _ hw
  have henc : encode (.or k d a b) = encQ k 0x01#6 d a b 3#6 := rfl
  have h0_6 : fld (encQ k 0x01#6 d a b 3#6) 0 6 = 3#6 := (encQ_f_part _ _ _ _ _ _ 0 6 (by omega)).trans (ext_self _)
  have hdec : decodeFields (encQ k 0x01#6 d a b 3#6) = some (.or k d a b) := by
    rw [dec_major_01 _ (encQ_m ..)]
    simp only [dec01, encQ_d, encQ_a, encQ_b, Tk.of, encQ_k, tk_of_bits]
    rw [h0_6]
    rfl
  rw [henc]; unfold decode; rw [hdec]; simp only [hw, if_true]

theorem xor (k : Tk) (d : Reg) (a : Reg) (b : Reg) : Statement (.xor k d a b) := by
  intro _ hw
  have henc : encode (.xor k d a b) = encQ k 0x01#6 d a b 4#6 := rfl
  have h0_6 : fld (encQ k 0x01#6 d a b 4#6) 0 6 = 4#6 := (encQ_f_part _ _ _ _ _ _ 0 6 (by omega)).trans (ext_self _)
  have hdec : decodeFields (encQ k 0x01#6 d a b 4#6) = some (.xor k d a b) := by
    rw [dec_major_01 _ (encQ_m ..)]
    simp only [dec01, encQ_d, encQ_a, encQ_b, Tk.of, encQ_k, tk_of_bits]
    rw [h0_6]
    rfl
  rw [henc]; unfold decode; rw [hdec]; simp only [hw, if_true]

theorem andn (k : Tk) (d : Reg) (a : Reg) (b : Reg) : Statement (.andn k d a b) := by
  intro _ hw
  have henc : encode (.andn k d a b) = encQ k 0x01#6 d a b 5#6 := rfl
  have h0_6 : fld (encQ k 0x01#6 d a b 5#6) 0 6 = 5#6 := (encQ_f_part _ _ _ _ _ _ 0 6 (by omega)).trans (ext_self _)
  have hdec : decodeFields (encQ k 0x01#6 d a b 5#6) = some (.andn k d a b) := by
    rw [dec_major_01 _ (encQ_m ..)]
    simp only [dec01, encQ_d, encQ_a, encQ_b, Tk.of, encQ_k, tk_of_bits]
    rw [h0_6]
    rfl
  rw [henc]; unfold decode; rw [hdec]; simp only [hw, if_true]

theorem sll (k : Tk) (d : Reg) (a : Reg) (b : Reg) : Statement (.sll k d a b) := by
  intro _ hw
  have henc : encode (.sll k d a b) = encQ k 0x01#6 d a b 6#6 := rfl
  have h0_6 : fld (encQ k 0x01#6 d a b 6#6) 0 6 = 6#6 := (encQ_f_part _ _ _ _ _ _ 0 6 (by omega)).trans (ext_self _)
  have hdec : decodeFields (encQ k 0x01#6 d a b 6#6) = some (.sll k d a b) := by
    rw [dec_major_01 _ (encQ_m ..)]
    simp only [dec01, encQ_d, encQ_a, encQ_b, Tk.of, encQ_k, tk_of_bits]
    rw [h0_6]
    rfl
  rw [henc]; unfold decode; rw [hdec]; simp only [hw, if_true]

theorem srl (k : Tk) (d : Reg) (a : Reg) (b : Reg) : Statement (.srl k d a b) := by
  intro _ hw
  have henc : encode (.srl k d a b) = encQ k 0x01#6 d a b 7#6 := rfl
  have h0_6 : fld (encQ k 0x01#6 d a b 7#6) 0 6 = 7#6 := (encQ_f_part _ _ _ _ _ _ 0 6 (by omega)).trans (ext_self _)
  have hdec : decodeFields (encQ k 0x01#6 d a b 7#6) = some (.srl k d a b) := by
    rw [dec_major_01 _ (encQ_m ..)]
    simp only [dec01, encQ_d, encQ_a, encQ_b, Tk.of, encQ_k, tk_of_bits]
    rw [h0_6]
    rfl
  rw [henc]; unfold decode; rw [hdec]; simp only [hw, if_true]

theorem sra (k : Tk) (d : Reg) (a : Reg) (b : Reg) : Statement (.sra k d a b) := by
  intro _ hw
  have henc : encode (.sra k d a b) = encQ k 0x01#6 d a b 8#6 := rfl
  have h0_6 : fld (encQ k 0x01#6 d a b 8#6) 0 6 = 8#6 := (encQ_f_part _ _ _ _ _ _ 0 6 (by omega)).trans (ext_self _)
  have hdec : decodeFields (encQ k 0x01#6 d a b 8#6) = some (.sra k d a b) := by
    rw [dec_major_01 _ (encQ_m ..)]
    simp only [dec01, encQ_d, encQ_a, encQ_b, Tk.of, encQ_k, tk_of_bits]
    rw [h0_6]
    rfl
  rw [henc]; unfold decode; rw [hdec]; simp only [hw, if_true]

theorem slt (k : Tk) (d : Reg) (a : Reg) (b : Reg) : Statement (.slt k d a b) := by
  intro _ hw
  have henc : encode (.slt k d a b) = encQ k 0x01#6 d a b 9#6 := rfl
  have h0_6 : fld (encQ k 0x01#6 d a b 9#6) 0 6 = 9#6 := (encQ_f_part _ _ _ _ _ _ 0 6 (by omega)).trans (ext_self _)
  have hdec : decodeFields (encQ k 0x01#6 d a b 9#6) = some (.slt k d a b) := by
    rw [dec_major_01 _ (encQ_m ..)]
    simp only [dec01, encQ_d, encQ_a, encQ_b, Tk.of, encQ_k, tk_of_bits]
    rw [h0_6]
    rfl
  rw [henc]; unfold decode; rw [hdec]; simp only [hw, if_true]

theorem sltu (k : Tk) (d : Reg) (a : Reg) (b : Reg) : Statement (.sltu k d a b) := by
  intro _ hw
  have henc : encode (.sltu k d a b) = encQ k 0x01#6 d a b 10#6 := rfl
  have h0_6 : fld (encQ k 0x01#6 d a b 10#6) 0 6 = 10#6 := (encQ_f_part _ _ _ _ _ _ 0 6 (by omega)).trans (ext_self _)
  have hdec : decodeFields (encQ k 0x01#6 d a b 10#6) = some (.sltu k d a b) := by
    rw [dec_major_01 _ (encQ_m ..)]
    simp only [dec01, encQ_d, encQ_a, encQ_b, Tk.of, encQ_k, tk_of_bits]
    rw [h0_6]
    rfl
  rw [henc]; unfold decode; rw [hdec]; simp only [hw, if_true]

theorem min (k : Tk) (d : Reg) (a : Reg) (b : Reg) : Statement (.min k d a b) := by
  intro _ hw
  have henc : encode (.min k d a b) = encQ k 0x01#6 d a b 11#6 := rfl
  have h0_6 : fld (encQ k 0x01#6 d a b 11#6) 0 6 = 11#6 := (encQ_f_part _ _ _ _ _ _ 0 6 (by omega)).trans (ext_self _)
  have hdec : decodeFields (encQ k 0x01#6 d a b 11#6) = some (.min k d a b) := by
    rw [dec_major_01 _ (encQ_m ..)]
    simp only [dec01, encQ_d, encQ_a, encQ_b, Tk.of, encQ_k, tk_of_bits]
    rw [h0_6]
    rfl
  rw [henc]; unfold decode; rw [hdec]; simp only [hw, if_true]

theorem max (k : Tk) (d : Reg) (a : Reg) (b : Reg) : Statement (.max k d a b) := by
  intro _ hw
  have henc : encode (.max k d a b) = encQ k 0x01#6 d a b 12#6 := rfl
  have h0_6 : fld (encQ k 0x01#6 d a b 12#6) 0 6 = 12#6 := (encQ_f_part _ _ _ _ _ _ 0 6 (by omega)).trans (ext_self _)
  have hdec : decodeFields (encQ k 0x01#6 d a b 12#6) = some (.max k d a b) := by
    rw [dec_major_01 _ (encQ_m ..)]
    simp only [dec01, encQ_d, encQ_a, encQ_b, Tk.of, encQ_k, tk_of_bits]
    rw [h0_6]
    rfl
  rw [henc]; unfold decode; rw [hdec]; simp only [hw, if_true]

theorem minu (k : Tk) (d : Reg) (a : Reg) (b : Reg) : Statement (.minu k d a b) := by
  intro _ hw
  have henc : encode (.minu k d a b) = encQ k 0x01#6 d a b 13#6 := rfl
  have h0_6 : fld (encQ k 0x01#6 d a b 13#6) 0 6 = 13#6 := (encQ_f_part _ _ _ _ _ _ 0 6 (by omega)).trans (ext_self _)
  have hdec : decodeFields (encQ k 0x01#6 d a b 13#6) = some (.minu k d a b) := by
    rw [dec_major_01 _ (encQ_m ..)]
    simp only [dec01, encQ_d, encQ_a, encQ_b, Tk.of, encQ_k, tk_of_bits]
    rw [h0_6]
    rfl
  rw [henc]; unfold decode; rw [hdec]; simp only [hw, if_true]

theorem maxu (k : Tk) (d : Reg) (a : Reg) (b : Reg) : Statement (.maxu k d a b) := by
  intro _ hw
  have henc : encode (.maxu k d a b) = encQ k 0x01#6 d a b 14#6 := rfl
  have h0_6 : fld (encQ k 0x01#6 d a b 14#6) 0 6 = 14#6 := (encQ_f_part _ _ _ _ _ _ 0 6 (by omega)).trans (ext_self _)
  have hdec : decodeFields (encQ k 0x01#6 d a b 14#6) = some (.maxu k d a b) := by
    rw [dec_major_01 _ (encQ_m ..)]
    simp only [dec01, encQ_d, encQ_a, encQ_b, Tk.of, encQ_k, tk_of_bits]
    rw [h0_6]
    rfl
  rw [henc]; unfold decode; rw [hdec]; simp only [hw, if_true]

theorem mul (k : Tk) (d : Reg) (a : Reg) (b : Reg) : Statement (.mul k d a b) := by
  intro _ hw
  have henc : encode (.mul k d a b) = encQ k 0x01#6 d a b 15#6 := rfl
  have h0_6 : fld (encQ k 0x01#6 d a b 15#6) 0 6 = 15#6 := (encQ_f_part _ _ _ _ _ _ 0 6 (by omega)).trans (ext_self _)
  have hdec : decodeFields (encQ k 0x01#6 d a b 15#6) = some (.mul k d a b) := by
    rw [dec_major_01 _ (encQ_m ..)]
    simp only [dec01, encQ_d, encQ_a, encQ_b, Tk.of, encQ_k, tk_of_bits]
    rw [h0_6]
    rfl
  rw [henc]; unfold decode; rw [hdec]; simp only [hw, if_true]

theorem mulh (k : Tk) (d : Reg) (a : Reg) (b : Reg) : Statement (.mulh k d a b) := by
  intro _ hw
  have henc : encode (.mulh k d a b) = encQ k 0x01#6 d a b 16#6 := rfl
  have h0_6 : fld (encQ k 0x01#6 d a b 16#6) 0 6 = 16#6 := (encQ_f_part _ _ _ _ _ _ 0 6 (by omega)).trans (ext_self _)
  have hdec : decodeFields (encQ k 0x01#6 d a b 16#6) = some (.mulh k d a b) := by
    rw [dec_major_01 _ (encQ_m ..)]
    simp only [dec01, encQ_d, encQ_a, encQ_b, Tk.of, encQ_k, tk_of_bits]
    rw [h0_6]
    rfl
  rw [henc]; unfold decode; rw [hdec]; simp only [hw, if_true]

theorem mulhu (k : Tk) (d : Reg) (a : Reg) (b : Reg) : Statement (.mulhu k d a b) := by
  intro _ hw
  have henc : encode (.mulhu k d a b) = encQ k 0x01#6 d a b 17#6 := rfl
  have h0_6 : fld (encQ k 0x01#6 d a b 17#6) 0 6 = 17#6 := (encQ_f_part _ _ _ _ _ _ 0 6 (by omega)).trans (ext_self _)
  have hdec : decodeFields (encQ k 0x01#6 d a b 17#6) = some (.mulhu k d a b) := by
    rw [dec_major_01 _ (encQ_m ..)]
    simp only [dec01, encQ_d, encQ_a, encQ_b, Tk.of, encQ_k, tk_of_bits]
    rw [h0_6]
    rfl
  rw [henc]; unfold decode; rw [hdec]; simp only [hw, if_true]

theorem div (k : Tk) (d : Reg) (a : Reg) (b : Reg) : Statement (.div k d a b) := by
  intro _ hw
  have henc : encode (.div k d a b) = encQ k 0x01#6 d a b 18#6 := rfl
  have h0_6 : fld (encQ k 0x01#6 d a b 18#6) 0 6 = 18#6 := (encQ_f_part _ _ _ _ _ _ 0 6 (by omega)).trans (ext_self _)
  have hdec : decodeFields (encQ k 0x01#6 d a b 18#6) = some (.div k d a b) := by
    rw [dec_major_01 _ (encQ_m ..)]
    simp only [dec01, encQ_d, encQ_a, encQ_b, Tk.of, encQ_k, tk_of_bits]
    rw [h0_6]
    rfl
  rw [henc]; unfold decode; rw [hdec]; simp only [hw, if_true]

theorem divu (k : Tk) (d : Reg) (a : Reg) (b : Reg) : Statement (.divu k d a b) := by
  intro _ hw
  have henc : encode (.divu k d a b) = encQ k 0x01#6 d a b 19#6 := rfl
  have h0_6 : fld (encQ k 0x01#6 d a b 19#6) 0 6 = 19#6 := (encQ_f_part _ _ _ _ _ _ 0 6 (by omega)).trans (ext_self _)
  have hdec : decodeFields (encQ k 0x01#6 d a b 19#6) = some (.divu k d a b) := by
    rw [dec_major_01 _ (encQ_m ..)]
    simp only [dec01, encQ_d, encQ_a, encQ_b, Tk.of, encQ_k, tk_of_bits]
    rw [h0_6]
    rfl
  rw [henc]; unfold decode; rw [hdec]; simp only [hw, if_true]

theorem rem (k : Tk) (d : Reg) (a : Reg) (b : Reg) : Statement (.rem k d a b) := by
  intro _ hw
  have henc : encode (.rem k d a b) = encQ k 0x01#6 d a b 20#6 := rfl
  have h0_6 : fld (encQ k 0x01#6 d a b 20#6) 0 6 = 20#6 := (encQ_f_part _ _ _ _ _ _ 0 6 (by omega)).trans (ext_self _)
  have hdec : decodeFields (encQ k 0x01#6 d a b 20#6) = some (.rem k d a b) := by
    rw [dec_major_01 _ (encQ_m ..)]
    simp only [dec01, encQ_d, encQ_a, encQ_b, Tk.of, encQ_k, tk_of_bits]
    rw [h0_6]
    rfl
  rw [henc]; unfold decode; rw [hdec]; simp only [hw, if_true]

theorem remu (k : Tk) (d : Reg) (a : Reg) (b : Reg) : Statement (.remu k d a b) := by
  intro _ hw
  have henc : encode (.remu k d a b) = encQ k 0x01#6 d a b 21#6 := rfl
  have h0_6 : fld (encQ k 0x01#6 d a b 21#6) 0 6 = 21#6 := (encQ_f_part _ _ _ _ _ _ 0 6 (by omega)).trans (ext_self _)
  have hdec : decodeFields (encQ k 0x01#6 d a b 21#6) = some (.remu k d a b) := by
    rw [dec_major_01 _ (encQ_m ..)]
    simp only [dec01, encQ_d, encQ_a, encQ_b, Tk.of, encQ_k, tk_of_bits]
    rw [h0_6]
    rfl
  rw [henc]; unfold decode; rw [hdec]; simp only [hw, if_true]

theorem clz (k : Tk) (d : Reg) (a : Reg) : Statement (.clz k d a) := by
  intro _ hw
  have henc : encode (.clz k d a) = encQ k 0x01#6 d a 0#5 22#6 := rfl
  have h0_6 : fld (encQ k 0x01#6 d a 0#5 22#6) 0 6 = 22#6 := (encQ_f_part _ _ _ _ _ _ 0 6 (by omega)).trans (ext_self _)
  have hdec : decodeFields (encQ k 0x01#6 d a 0#5 22#6) = some (.clz k d a) := by
    rw [dec_major_01 _ (encQ_m ..)]
    simp only [dec01, encQ_d, encQ_a, encQ_b, Tk.of, encQ_k, tk_of_bits]
    rw [h0_6]
    rfl
  rw [henc]; unfold decode; rw [hdec]; simp only [hw, if_true]

theorem ctz (k : Tk) (d : Reg) (a : Reg) : Statement (.ctz k d a) := by
  intro _ hw
  have henc : encode (.ctz k d a) = encQ k 0x01#6 d a 0#5 23#6 := rfl
  have h0_6 : fld (encQ k 0x01#6 d a 0#5 23#6) 0 6 = 23#6 := (encQ_f_part _ _ _ _ _ _ 0 6 (by omega)).trans (ext_self _)
  have hdec : decodeFields (encQ k 0x01#6 d a 0#5 23#6) = some (.ctz k d a) := by
    rw [dec_major_01 _ (encQ_m ..)]
    simp only [dec01, encQ_d, encQ_a, encQ_b, Tk.of, encQ_k, tk_of_bits]
    rw [h0_6]
    rfl
  rw [henc]; unfold decode; rw [hdec]; simp only [hw, if_true]

theorem popc (k : Tk) (d : Reg) (a : Reg) : Statement (.popc k d a) := by
  intro _ hw
  have henc : encode (.popc k d a) = encQ k 0x01#6 d a 0#5 24#6 := rfl
  have h0_6 : fld (encQ k 0x01#6 d a 0#5 24#6) 0 6 = 24#6 := (encQ_f_part _ _ _ _ _ _ 0 6 (by omega)).trans (ext_self _)
  have hdec : decodeFields (encQ k 0x01#6 d a 0#5 24#6) = some (.popc k d a) := by
    rw [dec_major_01 _ (encQ_m ..)]
    simp only [dec01, encQ_d, encQ_a, encQ_b, Tk.of, encQ_k, tk_of_bits]
    rw [h0_6]
    rfl
  rw [henc]; unfold decode; rw [hdec]; simp only [hw, if_true]

theorem sextb (k : Tk) (d : Reg) (a : Reg) : Statement (.sextb k d a) := by
  intro _ hw
  have henc : encode (.sextb k d a) = encQ k 0x01#6 d a 0#5 25#6 := rfl
  have h0_6 : fld (encQ k 0x01#6 d a 0#5 25#6) 0 6 = 25#6 := (encQ_f_part _ _ _ _ _ _ 0 6 (by omega)).trans (ext_self _)
  have hdec : decodeFields (encQ k 0x01#6 d a 0#5 25#6) = some (.sextb k d a) := by
    rw [dec_major_01 _ (encQ_m ..)]
    simp only [dec01, encQ_d, encQ_a, encQ_b, Tk.of, encQ_k, tk_of_bits]
    rw [h0_6]
    rfl
  rw [henc]; unfold decode; rw [hdec]; simp only [hw, if_true]

theorem sexth (k : Tk) (d : Reg) (a : Reg) : Statement (.sexth k d a) := by
  intro _ hw
  have henc : encode (.sexth k d a) = encQ k 0x01#6 d a 0#5 26#6 := rfl
  have h0_6 : fld (encQ k 0x01#6 d a 0#5 26#6) 0 6 = 26#6 := (encQ_f_part _ _ _ _ _ _ 0 6 (by omega)).trans (ext_self _)
  have hdec : decodeFields (encQ k 0x01#6 d a 0#5 26#6) = some (.sexth k d a) := by
    rw [dec_major_01 _ (encQ_m ..)]
    simp only [dec01, encQ_d, encQ_a, encQ_b, Tk.of, encQ_k, tk_of_bits]
    rw [h0_6]
    rfl
  rw [henc]; unfold decode; rw [hdec]; simp only [hw, if_true]

theorem sextw (k : Tk) (d : Reg) (a : Reg) : Statement (.sextw k d a) := by
  intro _ hw
  have henc : encode (.sextw k d a) = encQ k 0x01#6 d a 0#5 27#6 := rfl
  have h0_6 : fld (encQ k 0x01#6 d a 0#5 27#6) 0 6 = 27#6 := (encQ_f_part _ _ _ _ _ _ 0 6 (by omega)).trans (ext_self _)
  have hdec : decodeFields (encQ k 0x01#6 d a 0#5 27#6) = some (.sextw k d a) := by
    rw [dec_major_01 _ (encQ_m ..)]
    simp only [dec01, encQ_d, encQ_a, encQ_b, Tk.of, encQ_k, tk_of_bits]
    rw [h0_6]
    rfl
  rw [henc]; unfold decode; rw [hdec]; simp only [hw, if_true]

theorem addi (k : Tk) (d : Reg) (a : Reg) (i : BitVec 11) : Statement (.addi k d a i) := by
  intro _ hw
  have henc : encode (.addi k d a i) = encI k 0x02#6 d a i := rfl
  have hdec : decodeFields (encI k 0x02#6 d a i) = some (.addi k d a i) := by
    rw [dec_major_02 _ (encI_m ..)]
    simp only [dec02, encI_d, encI_a, encI_i, Tk.of, encI_k, tk_of_bits]
  rw [henc]; unfold decode; rw [hdec]; simp only [hw, if_true]

theorem andi (k : Tk) (d : Reg) (a : Reg) (i : BitVec 8) : Statement (.andi k d a i) := by
  intro _ hw
  have henc : encode (.andi k d a i) = encK k 0x03#6 d a 0#3 i := rfl
  have h0_8 : fld (encK k 0x03#6 d a 0#3 i) 0 8 = i := (encK_i_part _ _ _ _ _ _ 0 8 (by omega)).trans (ext_self _)
  have hdec : decodeFields (encK k 0x03#6 d a 0#3 i) = some (.andi k d a i) := by
    rw [dec_major_03 _ (encK_m ..)]
    simp only [dec03, h0_8, encK_d, encK_a, Tk.of, encK_k, tk_of_bits]
    rw [encK_f]
    rfl
  rw [henc]; unfold decode; rw [hdec]; simp only [hw, if_true]

theorem ori (k : Tk) (d : Reg) (a : Reg) (i : BitVec 8) : Statement (.ori k d a i) := by
  intro _ hw
  have henc : encode (.ori k d a i) = encK k 0x03#6 d a 1#3 i := rfl
  have h0_8 : fld (encK k 0x03#6 d a 1#3 i) 0 8 = i := (encK_i_part _ _ _ _ _ _ 0 8 (by omega)).trans (ext_self _)
  have hdec : decodeFields (encK k 0x03#6 d a 1#3 i) = some (.ori k d a i) := by
    rw [dec_major_03 _ (encK_m ..)]
    simp only [dec03, h0_8, encK_d, encK_a, Tk.of, encK_k, tk_of_bits]
    rw [encK_f]
    rfl
  rw [henc]; unfold decode; rw [hdec]; simp only [hw, if_true]

theorem xori (k : Tk) (d : Reg) (a : Reg) (i : BitVec 8) : Statement (.xori k d a i) := by
  intro _ hw
  have henc : encode (.xori k d a i) = encK k 0x03#6 d a 2#3 i := rfl
  have h0_8 : fld (encK k 0x03#6 d a 2#3 i) 0 8 = i := (encK_i_part _ _ _ _ _ _ 0 8 (by omega)).trans (ext_self _)
  have hdec : decodeFields (encK k 0x03#6 d a 2#3 i) = some (.xori k d a i) := by
    rw [dec_major_03 _ (encK_m ..)]
    simp only [dec03, h0_8, encK_d, encK_a, Tk.of, encK_k, tk_of_bits]
    rw [encK_f]
    rfl
  rw [henc]; unfold decode; rw [hdec]; simp only [hw, if_true]

theorem slli (k : Tk) (d : Reg) (a : Reg) (i : BitVec 6) : Statement (.slli k d a i) := by
  intro _ hw
  have henc : encode (.slli k d a i) = encK k 0x03#6 d a 3#3 (0#2 ++ i) := rfl
  have h0_6 : fld (encK k 0x03#6 d a 3#3 (0#2 ++ i)) 0 6 = i := (encK_i_part _ _ _ _ _ _ 0 6 (by omega)).trans ((ext_right (n := 2) (m := 6) _ _ 0 6 (by omega)).trans (ext_self _))
  have h6_2 : fld (encK k 0x03#6 d a 3#3 (0#2 ++ i)) 6 2 = 0#2 := (encK_i_part _ _ _ _ _ _ 6 2 (by omega)).trans ((ext_left (n := 2) (m := 6) _ _ 6 _ (by omega)).trans (ext_self _))
  have hdec : decodeFields (encK k 0x03#6 d a 3#3 (0#2 ++ i)) = some (.slli k d a i) := by
    rw [dec_major_03 _ (encK_m ..)]
    simp only [dec03, h0_6, h6_2, encK_d, encK_a, Tk.of, encK_k, tk_of_bits]
    rw [encK_f]
    rfl
  rw [henc]; unfold decode; rw [hdec]; simp only [hw, if_true]

theorem srli (k : Tk) (d : Reg) (a : Reg) (i : BitVec 6) : Statement (.srli k d a i) := by
  intro _ hw
  have henc : encode (.srli k d a i) = encK k 0x03#6 d a 4#3 (0#2 ++ i) := rfl
  have h0_6 : fld (encK k 0x03#6 d a 4#3 (0#2 ++ i)) 0 6 = i := (encK_i_part _ _ _ _ _ _ 0 6 (by omega)).trans ((ext_right (n := 2) (m := 6) _ _ 0 6 (by omega)).trans (ext_self _))
  have h6_2 : fld (encK k 0x03#6 d a 4#3 (0#2 ++ i)) 6 2 = 0#2 := (encK_i_part _ _ _ _ _ _ 6 2 (by omega)).trans ((ext_left (n := 2) (m := 6) _ _ 6 _ (by omega)).trans (ext_self _))
  have hdec : decodeFields (encK k 0x03#6 d a 4#3 (0#2 ++ i)) = some (.srli k d a i) := by
    rw [dec_major_03 _ (encK_m ..)]
    simp only [dec03, h0_6, h6_2, encK_d, encK_a, Tk.of, encK_k, tk_of_bits]
    rw [encK_f]
    rfl
  rw [henc]; unfold decode; rw [hdec]; simp only [hw, if_true]

theorem srai (k : Tk) (d : Reg) (a : Reg) (i : BitVec 6) : Statement (.srai k d a i) := by
  intro _ hw
  have henc : encode (.srai k d a i) = encK k 0x03#6 d a 5#3 (0#2 ++ i) := rfl
  have h0_6 : fld (encK k 0x03#6 d a 5#3 (0#2 ++ i)) 0 6 = i := (encK_i_part _ _ _ _ _ _ 0 6 (by omega)).trans ((ext_right (n := 2) (m := 6) _ _ 0 6 (by omega)).trans (ext_self _))
  have h6_2 : fld (encK k 0x03#6 d a 5#3 (0#2 ++ i)) 6 2 = 0#2 := (encK_i_part _ _ _ _ _ _ 6 2 (by omega)).trans ((ext_left (n := 2) (m := 6) _ _ 6 _ (by omega)).trans (ext_self _))
  have hdec : decodeFields (encK k 0x03#6 d a 5#3 (0#2 ++ i)) = some (.srai k d a i) := by
    rw [dec_major_03 _ (encK_m ..)]
    simp only [dec03, h0_6, h6_2, encK_d, encK_a, Tk.of, encK_k, tk_of_bits]
    rw [encK_f]
    rfl
  rw [henc]; unfold decode; rw [hdec]; simp only [hw, if_true]

theorem slti (k : Tk) (d : Reg) (a : Reg) (i : BitVec 8) : Statement (.slti k d a i) := by
  intro _ hw
  have henc : encode (.slti k d a i) = encK k 0x03#6 d a 6#3 i := rfl
  have h0_8 : fld (encK k 0x03#6 d a 6#3 i) 0 8 = i := (encK_i_part _ _ _ _ _ _ 0 8 (by omega)).trans (ext_self _)
  have hdec : decodeFields (encK k 0x03#6 d a 6#3 i) = some (.slti k d a i) := by
    rw [dec_major_03 _ (encK_m ..)]
    simp only [dec03, h0_8, encK_d, encK_a, Tk.of, encK_k, tk_of_bits]
    rw [encK_f]
    rfl
  rw [henc]; unfold decode; rw [hdec]; simp only [hw, if_true]

theorem sltiu (k : Tk) (d : Reg) (a : Reg) (i : BitVec 8) : Statement (.sltiu k d a i) := by
  intro _ hw
  have henc : encode (.sltiu k d a i) = encK k 0x03#6 d a 7#3 i := rfl
  have h0_8 : fld (encK k 0x03#6 d a 7#3 i) 0 8 = i := (encK_i_part _ _ _ _ _ _ 0 8 (by omega)).trans (ext_self _)
  have hdec : decodeFields (encK k 0x03#6 d a 7#3 i) = some (.sltiu k d a i) := by
    rw [dec_major_03 _ (encK_m ..)]
    simp only [dec03, h0_8, encK_d, encK_a, Tk.of, encK_k, tk_of_bits]
    rw [encK_f]
    rfl
  rw [henc]; unfold decode; rw [hdec]; simp only [hw, if_true]

theorem lim (k : Tk) (d : Reg) (i : BitVec 16) : Statement (.lim k d i) := by
  intro _ hw
  have henc : encode (.lim k d i) = encW k 0x04#6 d i := rfl
  have hdec : decodeFields (encW k 0x04#6 d i) = some (.lim k d i) := by
    rw [dec_major_04 _ (encW_m ..)]
    simp only [dec04, encW_d, encW_i, Tk.of, encW_k, tk_of_bits]
  rw [henc]; unfold decode; rw [hdec]; simp only [hw, if_true]

theorem lis (k : Tk) (d : Reg) (i : BitVec 16) : Statement (.lis k d i) := by
  intro _ hw
  have henc : encode (.lis k d i) = encW k 0x05#6 d i := rfl
  have hdec : decodeFields (encW k 0x05#6 d i) = some (.lis k d i) := by
    rw [dec_major_05 _ (encW_m ..)]
    simp only [dec05, encW_d, encW_i, Tk.of, encW_k, tk_of_bits]
  rw [henc]; unfold decode; rw [hdec]; simp only [hw, if_true]

theorem beq (k : Tk) (a : Reg) (b : Reg) (o : BitVec 8) : Statement (.beq k a b o) := by
  intro _ hw
  have henc : encode (.beq k a b o) = encB k 0x06#6 0#3 a b o := rfl
  have hdec : decodeFields (encB k 0x06#6 0#3 a b o) = some (.beq k a b o) := by
    rw [dec_major_06 _ (encB_m ..)]
    simp only [dec06, encB_a, encB_b, encB_o, Tk.of, encB_k, tk_of_bits]
    rw [encB_f]
    rfl
  rw [henc]; unfold decode; rw [hdec]; simp only [hw, if_true]

theorem bne (k : Tk) (a : Reg) (b : Reg) (o : BitVec 8) : Statement (.bne k a b o) := by
  intro _ hw
  have henc : encode (.bne k a b o) = encB k 0x06#6 1#3 a b o := rfl
  have hdec : decodeFields (encB k 0x06#6 1#3 a b o) = some (.bne k a b o) := by
    rw [dec_major_06 _ (encB_m ..)]
    simp only [dec06, encB_a, encB_b, encB_o, Tk.of, encB_k, tk_of_bits]
    rw [encB_f]
    rfl
  rw [henc]; unfold decode; rw [hdec]; simp only [hw, if_true]

theorem blt (k : Tk) (a : Reg) (b : Reg) (o : BitVec 8) : Statement (.blt k a b o) := by
  intro _ hw
  have henc : encode (.blt k a b o) = encB k 0x06#6 2#3 a b o := rfl
  have hdec : decodeFields (encB k 0x06#6 2#3 a b o) = some (.blt k a b o) := by
    rw [dec_major_06 _ (encB_m ..)]
    simp only [dec06, encB_a, encB_b, encB_o, Tk.of, encB_k, tk_of_bits]
    rw [encB_f]
    rfl
  rw [henc]; unfold decode; rw [hdec]; simp only [hw, if_true]

theorem bge (k : Tk) (a : Reg) (b : Reg) (o : BitVec 8) : Statement (.bge k a b o) := by
  intro _ hw
  have henc : encode (.bge k a b o) = encB k 0x06#6 3#3 a b o := rfl
  have hdec : decodeFields (encB k 0x06#6 3#3 a b o) = some (.bge k a b o) := by
    rw [dec_major_06 _ (encB_m ..)]
    simp only [dec06, encB_a, encB_b, encB_o, Tk.of, encB_k, tk_of_bits]
    rw [encB_f]
    rfl
  rw [henc]; unfold decode; rw [hdec]; simp only [hw, if_true]

theorem bltu (k : Tk) (a : Reg) (b : Reg) (o : BitVec 8) : Statement (.bltu k a b o) := by
  intro _ hw
  have henc : encode (.bltu k a b o) = encB k 0x06#6 4#3 a b o := rfl
  have hdec : decodeFields (encB k 0x06#6 4#3 a b o) = some (.bltu k a b o) := by
    rw [dec_major_06 _ (encB_m ..)]
    simp only [dec06, encB_a, encB_b, encB_o, Tk.of, encB_k, tk_of_bits]
    rw [encB_f]
    rfl
  rw [henc]; unfold decode; rw [hdec]; simp only [hw, if_true]

theorem bgeu (k : Tk) (a : Reg) (b : Reg) (o : BitVec 8) : Statement (.bgeu k a b o) := by
  intro _ hw
  have henc : encode (.bgeu k a b o) = encB k 0x06#6 5#3 a b o := rfl
  have hdec : decodeFields (encB k 0x06#6 5#3 a b o) = some (.bgeu k a b o) := by
    rw [dec_major_06 _ (encB_m ..)]
    simp only [dec06, encB_a, encB_b, encB_o, Tk.of, encB_k, tk_of_bits]
    rw [encB_f]
    rfl
  rw [henc]; unfold decode; rw [hdec]; simp only [hw, if_true]

theorem bbusy (k : Tk) (o : BitVec 8) : Statement (.bbusy k o) := by
  intro _ hw
  have henc : encode (.bbusy k o) = encB k 0x06#6 6#3 0#5 0#5 o := rfl
  have hdec : decodeFields (encB k 0x06#6 6#3 0#5 0#5 o) = some (.bbusy k o) := by
    rw [dec_major_06 _ (encB_m ..)]
    simp only [dec06, encB_a, encB_b, encB_o, Tk.of, encB_k, tk_of_bits]
    rw [encB_f]
    rfl
  rw [henc]; unfold decode; rw [hdec]; simp only [hw, if_true]

theorem bfree (k : Tk) (o : BitVec 8) : Statement (.bfree k o) := by
  intro _ hw
  have henc : encode (.bfree k o) = encB k 0x06#6 7#3 0#5 0#5 o := rfl
  have hdec : decodeFields (encB k 0x06#6 7#3 0#5 0#5 o) = some (.bfree k o) := by
    rw [dec_major_06 _ (encB_m ..)]
    simp only [dec06, encB_a, encB_b, encB_o, Tk.of, encB_k, tk_of_bits]
    rw [encB_f]
    rfl
  rw [henc]; unfold decode; rw [hdec]; simp only [hw, if_true]

theorem bpt (k : Tk) (p : BitVec 4) (i : BitVec 16) : Statement (.bpt k p i) := by
  intro _ hw
  have henc : encode (.bpt k p i) = encP k 0x07#6 0#1 p i := rfl
  have hdec : decodeFields (encP k 0x07#6 0#1 p i) = some (.bpt k p i) := by
    rw [dec_major_07 _ (encP_m ..)]
    simp only [dec07, encP_p, encP_i, Tk.of, encP_k, tk_of_bits]
    rw [encP_f]
    rfl
  rw [henc]; unfold decode; rw [hdec]; simp only [hw, if_true]

theorem bpf (k : Tk) (p : BitVec 4) (i : BitVec 16) : Statement (.bpf k p i) := by
  intro _ hw
  have henc : encode (.bpf k p i) = encP k 0x07#6 1#1 p i := rfl
  have hdec : decodeFields (encP k 0x07#6 1#1 p i) = some (.bpf k p i) := by
    rw [dec_major_07 _ (encP_m ..)]
    simp only [dec07, encP_p, encP_i, Tk.of, encP_k, tk_of_bits]
    rw [encP_f]
    rfl
  rw [henc]; unfold decode; rw [hdec]; simp only [hw, if_true]

theorem jal (k : Tk) (d : Reg) (i : BitVec 16) : Statement (.jal k d i) := by
  intro _ hw
  have henc : encode (.jal k d i) = encW k 0x08#6 d i := rfl
  have hdec : decodeFields (encW k 0x08#6 d i) = some (.jal k d i) := by
    rw [dec_major_08 _ (encW_m ..)]
    simp only [dec08, encW_d, encW_i, Tk.of, encW_k, tk_of_bits]
  rw [henc]; unfold decode; rw [hdec]; simp only [hw, if_true]

theorem jalr (k : Tk) (d : Reg) (a : Reg) (i : BitVec 11) : Statement (.jalr k d a i) := by
  intro _ hw
  have henc : encode (.jalr k d a i) = encI k 0x09#6 d a i := rfl
  have hdec : decodeFields (encI k 0x09#6 d a i) = some (.jalr k d a i) := by
    rw [dec_major_09 _ (encI_m ..)]
    simp only [dec09, encI_d, encI_a, encI_i, Tk.of, encI_k, tk_of_bits]
  rw [henc]; unfold decode; rw [hdec]; simp only [hw, if_true]

theorem lpset (k : Tk) (d : Reg) (a : Reg) (i : BitVec 8) : Statement (.lpset k d a i) := by
  intro _ hw
  have henc : encode (.lpset k d a i) = encK k 0x0a#6 d a 0#3 i := rfl
  have h0_8 : fld (encK k 0x0a#6 d a 0#3 i) 0 8 = i := (encK_i_part _ _ _ _ _ _ 0 8 (by omega)).trans (ext_self _)
  have hdec : decodeFields (encK k 0x0a#6 d a 0#3 i) = some (.lpset k d a i) := by
    rw [dec_major_0a _ (encK_m ..)]
    simp only [dec0a, h0_8, encK_d, encK_a, Tk.of, encK_k, tk_of_bits]
    rw [encK_f]
    rfl
  rw [henc]; unfold decode; rw [hdec]; simp only [hw, if_true]

theorem lpresEntry (k : Tk) (d : Reg) (a : Reg) : Statement (.lpresEntry k d a) := by
  intro _ hw
  have henc : encode (.lpresEntry k d a) = encK k 0x0a#6 d a 1#3 0#8 := rfl
  have h0_8 : fld (encK k 0x0a#6 d a 1#3 0#8) 0 8 = 0#8 := (encK_i_part _ _ _ _ _ _ 0 8 (by omega)).trans (ext_self _)
  have hdec : decodeFields (encK k 0x0a#6 d a 1#3 0#8) = some (.lpresEntry k d a) := by
    rw [dec_major_0a _ (encK_m ..)]
    simp only [dec0a, h0_8, encK_d, encK_a, Tk.of, encK_k, tk_of_bits]
    rw [encK_f]
    rfl
  rw [henc]; unfold decode; rw [hdec]; simp only [hw, if_true]

theorem lpresExit (k : Tk) (a : Reg) : Statement (.lpresExit k a) := by
  intro _ hw
  have henc : encode (.lpresExit k a) = encK k 0x0a#6 0#5 a 1#3 1#8 := rfl
  have h0_8 : fld (encK k 0x0a#6 0#5 a 1#3 1#8) 0 8 = 1#8 := (encK_i_part _ _ _ _ _ _ 0 8 (by omega)).trans (ext_self _)
  have hdec : decodeFields (encK k 0x0a#6 0#5 a 1#3 1#8) = some (.lpresExit k a) := by
    rw [dec_major_0a _ (encK_m ..)]
    simp only [dec0a, h0_8, encK_d, encK_a, Tk.of, encK_k, tk_of_bits]
    rw [encK_f]
    rfl
  rw [henc]; unfold decode; rw [hdec]; simp only [hw, if_true]

theorem bkt (k : Tk) (d : Reg) (a : Reg) : Statement (.bkt k d a) := by
  intro _ hw
  have henc : encode (.bkt k d a) = encK k 0x0a#6 d a 2#3 0#8 := rfl
  have h0_8 : fld (encK k 0x0a#6 d a 2#3 0#8) 0 8 = 0#8 := (encK_i_part _ _ _ _ _ _ 0 8 (by omega)).trans (ext_self _)
  have hdec : decodeFields (encK k 0x0a#6 d a 2#3 0#8) = some (.bkt k d a) := by
    rw [dec_major_0a _ (encK_m ..)]
    simp only [dec0a, h0_8, encK_d, encK_a, Tk.of, encK_k, tk_of_bits]
    rw [encK_f]
    rfl
  rw [henc]; unfold decode; rw [hdec]; simp only [hw, if_true]

theorem cstart (k : Tk) (d : Reg) (a : Reg) : Statement (.cstart k d a) := by
  intro _ hw
  have henc : encode (.cstart k d a) = encK k 0x0b#6 d a 0#3 0#8 := rfl
  have h0_8 : fld (encK k 0x0b#6 d a 0#3 0#8) 0 8 = 0#8 := (encK_i_part _ _ _ _ _ _ 0 8 (by omega)).trans (ext_self _)
  have hdec : decodeFields (encK k 0x0b#6 d a 0#3 0#8) = some (.cstart k d a) := by
    rw [dec_major_0b _ (encK_m ..)]
    simp only [dec0b, h0_8, encK_d, encK_a, Tk.of, encK_k, tk_of_bits]
    rw [encK_f]
    rfl
  rw [henc]; unfold decode; rw [hdec]; simp only [hw, if_true]

theorem cstop (k : Tk) (d : Reg) : Statement (.cstop k d) := by
  intro _ hw
  have henc : encode (.cstop k d) = encK k 0x0b#6 d 0#5 1#3 0#8 := rfl
  have h0_8 : fld (encK k 0x0b#6 d 0#5 1#3 0#8) 0 8 = 0#8 := (encK_i_part _ _ _ _ _ _ 0 8 (by omega)).trans (ext_self _)
  have hdec : decodeFields (encK k 0x0b#6 d 0#5 1#3 0#8) = some (.cstop k d) := by
    rw [dec_major_0b _ (encK_m ..)]
    simp only [dec0b, h0_8, encK_d, encK_a, Tk.of, encK_k, tk_of_bits]
    rw [encK_f]
    rfl
  rw [henc]; unfold decode; rw [hdec]; simp only [hw, if_true]

theorem cyield (k : Tk) (i : BitVec 8) : Statement (.cyield k i) := by
  intro _ hw
  have henc : encode (.cyield k i) = encK k 0x0b#6 0#5 0#5 2#3 i := rfl
  have h0_8 : fld (encK k 0x0b#6 0#5 0#5 2#3 i) 0 8 = i := (encK_i_part _ _ _ _ _ _ 0 8 (by omega)).trans (ext_self _)
  have hdec : decodeFields (encK k 0x0b#6 0#5 0#5 2#3 i) = some (.cyield k i) := by
    rw [dec_major_0b _ (encK_m ..)]
    simp only [dec0b, h0_8, encK_d, encK_a, Tk.of, encK_k, tk_of_bits]
    rw [encK_f]
    rfl
  rw [henc]; unfold decode; rw [hdec]; simp only [hw, if_true]

theorem cid (k : Tk) (d : Reg) : Statement (.cid k d) := by
  intro _ hw
  have henc : encode (.cid k d) = encK k 0x0b#6 d 0#5 3#3 0#8 := rfl
  have h0_8 : fld (encK k 0x0b#6 d 0#5 3#3 0#8) 0 8 = 0#8 := (encK_i_part _ _ _ _ _ _ 0 8 (by omega)).trans (ext_self _)
  have hdec : decodeFields (encK k 0x0b#6 d 0#5 3#3 0#8) = some (.cid k d) := by
    rw [dec_major_0b _ (encK_m ..)]
    simp only [dec0b, h0_8, encK_d, encK_a, Tk.of, encK_k, tk_of_bits]
    rw [encK_f]
    rfl
  rw [henc]; unfold decode; rw [hdec]; simp only [hw, if_true]

theorem cwait (k : Tk) (d : Reg) (w : BitVec 8) : Statement (.cwait k d w) := by
  intro _ hw
  have henc : encode (.cwait k d w) = encK k 0x0b#6 d 0#5 4#3 w := rfl
  have h0_8 : fld (encK k 0x0b#6 d 0#5 4#3 w) 0 8 = w := (encK_i_part _ _ _ _ _ _ 0 8 (by omega)).trans (ext_self _)
  have hdec : decodeFields (encK k 0x0b#6 d 0#5 4#3 w) = some (.cwait k d w) := by
    rw [dec_major_0b _ (encK_m ..)]
    simp only [dec0b, h0_8, encK_d, encK_a, Tk.of, encK_k, tk_of_bits]
    rw [encK_f]
    rfl
  rw [henc]; unfold decode; rw [hdec]; simp only [hw, if_true]

theorem faddD (k : Tk) (d : Reg) (a : Reg) (b : Reg) : Statement (.faddD k d a b) := by
  intro _ hw
  have henc : encode (.faddD k d a b) = encQ k 0x0c#6 d a b 0#6 := rfl
  have h0_6 : fld (encQ k 0x0c#6 d a b 0#6) 0 6 = 0#6 := (encQ_f_part _ _ _ _ _ _ 0 6 (by omega)).trans (ext_self _)
  have hdec : decodeFields (encQ k 0x0c#6 d a b 0#6) = some (.faddD k d a b) := by
    rw [dec_major_0c _ (encQ_m ..)]
    simp only [dec0c, encQ_d, encQ_a, encQ_b, Tk.of, encQ_k, tk_of_bits]
    rw [h0_6]
    rfl
  rw [henc]; unfold decode; rw [hdec]; simp only [hw, if_true]

theorem fsubD (k : Tk) (d : Reg) (a : Reg) (b : Reg) : Statement (.fsubD k d a b) := by
  intro _ hw
  have henc : encode (.fsubD k d a b) = encQ k 0x0c#6 d a b 1#6 := rfl
  have h0_6 : fld (encQ k 0x0c#6 d a b 1#6) 0 6 = 1#6 := (encQ_f_part _ _ _ _ _ _ 0 6 (by omega)).trans (ext_self _)
  have hdec : decodeFields (encQ k 0x0c#6 d a b 1#6) = some (.fsubD k d a b) := by
    rw [dec_major_0c _ (encQ_m ..)]
    simp only [dec0c, encQ_d, encQ_a, encQ_b, Tk.of, encQ_k, tk_of_bits]
    rw [h0_6]
    rfl
  rw [henc]; unfold decode; rw [hdec]; simp only [hw, if_true]

theorem fmulD (k : Tk) (d : Reg) (a : Reg) (b : Reg) : Statement (.fmulD k d a b) := by
  intro _ hw
  have henc : encode (.fmulD k d a b) = encQ k 0x0c#6 d a b 2#6 := rfl
  have h0_6 : fld (encQ k 0x0c#6 d a b 2#6) 0 6 = 2#6 := (encQ_f_part _ _ _ _ _ _ 0 6 (by omega)).trans (ext_self _)
  have hdec : decodeFields (encQ k 0x0c#6 d a b 2#6) = some (.fmulD k d a b) := by
    rw [dec_major_0c _ (encQ_m ..)]
    simp only [dec0c, encQ_d, encQ_a, encQ_b, Tk.of, encQ_k, tk_of_bits]
    rw [h0_6]
    rfl
  rw [henc]; unfold decode; rw [hdec]; simp only [hw, if_true]

theorem fdivD (k : Tk) (d : Reg) (a : Reg) (b : Reg) : Statement (.fdivD k d a b) := by
  intro _ hw
  have henc : encode (.fdivD k d a b) = encQ k 0x0c#6 d a b 3#6 := rfl
  have h0_6 : fld (encQ k 0x0c#6 d a b 3#6) 0 6 = 3#6 := (encQ_f_part _ _ _ _ _ _ 0 6 (by omega)).trans (ext_self _)
  have hdec : decodeFields (encQ k 0x0c#6 d a b 3#6) = some (.fdivD k d a b) := by
    rw [dec_major_0c _ (encQ_m ..)]
    simp only [dec0c, encQ_d, encQ_a, encQ_b, Tk.of, encQ_k, tk_of_bits]
    rw [h0_6]
    rfl
  rw [henc]; unfold decode; rw [hdec]; simp only [hw, if_true]

theorem fminD (k : Tk) (d : Reg) (a : Reg) (b : Reg) : Statement (.fminD k d a b) := by
  intro _ hw
  have henc : encode (.fminD k d a b) = encQ k 0x0c#6 d a b 4#6 := rfl
  have h0_6 : fld (encQ k 0x0c#6 d a b 4#6) 0 6 = 4#6 := (encQ_f_part _ _ _ _ _ _ 0 6 (by omega)).trans (ext_self _)
  have hdec : decodeFields (encQ k 0x0c#6 d a b 4#6) = some (.fminD k d a b) := by
    rw [dec_major_0c _ (encQ_m ..)]
    simp only [dec0c, encQ_d, encQ_a, encQ_b, Tk.of, encQ_k, tk_of_bits]
    rw [h0_6]
    rfl
  rw [henc]; unfold decode; rw [hdec]; simp only [hw, if_true]

theorem fmaxD (k : Tk) (d : Reg) (a : Reg) (b : Reg) : Statement (.fmaxD k d a b) := by
  intro _ hw
  have henc : encode (.fmaxD k d a b) = encQ k 0x0c#6 d a b 5#6 := rfl
  have h0_6 : fld (encQ k 0x0c#6 d a b 5#6) 0 6 = 5#6 := (encQ_f_part _ _ _ _ _ _ 0 6 (by omega)).trans (ext_self _)
  have hdec : decodeFields (encQ k 0x0c#6 d a b 5#6) = some (.fmaxD k d a b) := by
    rw [dec_major_0c _ (encQ_m ..)]
    simp only [dec0c, encQ_d, encQ_a, encQ_b, Tk.of, encQ_k, tk_of_bits]
    rw [h0_6]
    rfl
  rw [henc]; unfold decode; rw [hdec]; simp only [hw, if_true]

theorem fsqrtD (k : Tk) (d : Reg) (a : Reg) : Statement (.fsqrtD k d a) := by
  intro _ hw
  have henc : encode (.fsqrtD k d a) = encQ k 0x0c#6 d a 0#5 6#6 := rfl
  have h0_6 : fld (encQ k 0x0c#6 d a 0#5 6#6) 0 6 = 6#6 := (encQ_f_part _ _ _ _ _ _ 0 6 (by omega)).trans (ext_self _)
  have hdec : decodeFields (encQ k 0x0c#6 d a 0#5 6#6) = some (.fsqrtD k d a) := by
    rw [dec_major_0c _ (encQ_m ..)]
    simp only [dec0c, encQ_d, encQ_a, encQ_b, Tk.of, encQ_k, tk_of_bits]
    rw [h0_6]
    rfl
  rw [henc]; unfold decode; rw [hdec]; simp only [hw, if_true]

theorem fcvtDL (k : Tk) (d : Reg) (a : Reg) : Statement (.fcvtDL k d a) := by
  intro _ hw
  have henc : encode (.fcvtDL k d a) = encQ k 0x0c#6 d a 0#5 7#6 := rfl
  have h0_6 : fld (encQ k 0x0c#6 d a 0#5 7#6) 0 6 = 7#6 := (encQ_f_part _ _ _ _ _ _ 0 6 (by omega)).trans (ext_self _)
  have hdec : decodeFields (encQ k 0x0c#6 d a 0#5 7#6) = some (.fcvtDL k d a) := by
    rw [dec_major_0c _ (encQ_m ..)]
    simp only [dec0c, encQ_d, encQ_a, encQ_b, Tk.of, encQ_k, tk_of_bits]
    rw [h0_6]
    rfl
  rw [henc]; unfold decode; rw [hdec]; simp only [hw, if_true]

theorem fcvtLD (k : Tk) (d : Reg) (a : Reg) : Statement (.fcvtLD k d a) := by
  intro _ hw
  have henc : encode (.fcvtLD k d a) = encQ k 0x0c#6 d a 0#5 8#6 := rfl
  have h0_6 : fld (encQ k 0x0c#6 d a 0#5 8#6) 0 6 = 8#6 := (encQ_f_part _ _ _ _ _ _ 0 6 (by omega)).trans (ext_self _)
  have hdec : decodeFields (encQ k 0x0c#6 d a 0#5 8#6) = some (.fcvtLD k d a) := by
    rw [dec_major_0c _ (encQ_m ..)]
    simp only [dec0c, encQ_d, encQ_a, encQ_b, Tk.of, encQ_k, tk_of_bits]
    rw [h0_6]
    rfl
  rw [henc]; unfold decode; rw [hdec]; simp only [hw, if_true]

theorem feqD (k : Tk) (d : Reg) (a : Reg) (b : Reg) : Statement (.feqD k d a b) := by
  intro _ hw
  have henc : encode (.feqD k d a b) = encQ k 0x0c#6 d a b 9#6 := rfl
  have h0_6 : fld (encQ k 0x0c#6 d a b 9#6) 0 6 = 9#6 := (encQ_f_part _ _ _ _ _ _ 0 6 (by omega)).trans (ext_self _)
  have hdec : decodeFields (encQ k 0x0c#6 d a b 9#6) = some (.feqD k d a b) := by
    rw [dec_major_0c _ (encQ_m ..)]
    simp only [dec0c, encQ_d, encQ_a, encQ_b, Tk.of, encQ_k, tk_of_bits]
    rw [h0_6]
    rfl
  rw [henc]; unfold decode; rw [hdec]; simp only [hw, if_true]

theorem fltD (k : Tk) (d : Reg) (a : Reg) (b : Reg) : Statement (.fltD k d a b) := by
  intro _ hw
  have henc : encode (.fltD k d a b) = encQ k 0x0c#6 d a b 10#6 := rfl
  have h0_6 : fld (encQ k 0x0c#6 d a b 10#6) 0 6 = 10#6 := (encQ_f_part _ _ _ _ _ _ 0 6 (by omega)).trans (ext_self _)
  have hdec : decodeFields (encQ k 0x0c#6 d a b 10#6) = some (.fltD k d a b) := by
    rw [dec_major_0c _ (encQ_m ..)]
    simp only [dec0c, encQ_d, encQ_a, encQ_b, Tk.of, encQ_k, tk_of_bits]
    rw [h0_6]
    rfl
  rw [henc]; unfold decode; rw [hdec]; simp only [hw, if_true]

theorem fleD (k : Tk) (d : Reg) (a : Reg) (b : Reg) : Statement (.fleD k d a b) := by
  intro _ hw
  have henc : encode (.fleD k d a b) = encQ k 0x0c#6 d a b 11#6 := rfl
  have h0_6 : fld (encQ k 0x0c#6 d a b 11#6) 0 6 = 11#6 := (encQ_f_part _ _ _ _ _ _ 0 6 (by omega)).trans (ext_self _)
  have hdec : decodeFields (encQ k 0x0c#6 d a b 11#6) = some (.fleD k d a b) := by
    rw [dec_major_0c _ (encQ_m ..)]
    simp only [dec0c, encQ_d, encQ_a, encQ_b, Tk.of, encQ_k, tk_of_bits]
    rw [h0_6]
    rfl
  rw [henc]; unfold decode; rw [hdec]; simp only [hw, if_true]

theorem lb (k : Tk) (d : Reg) (a : Reg) (i : BitVec 8) : Statement (.lb k d a i) := by
  intro _ hw
  have henc : encode (.lb k d a i) = encK k 0x10#6 d a 0#3 i := rfl
  have h0_8 : fld (encK k 0x10#6 d a 0#3 i) 0 8 = i := (encK_i_part _ _ _ _ _ _ 0 8 (by omega)).trans (ext_self _)
  have hdec : decodeFields (encK k 0x10#6 d a 0#3 i) = some (.lb k d a i) := by
    rw [dec_major_10 _ (encK_m ..)]
    simp only [dec10, h0_8, encK_d, encK_a, Tk.of, encK_k, tk_of_bits]
    rw [encK_f]
    rfl
  rw [henc]; unfold decode; rw [hdec]; simp only [hw, if_true]

theorem lh (k : Tk) (d : Reg) (a : Reg) (i : BitVec 8) : Statement (.lh k d a i) := by
  intro _ hw
  have henc : encode (.lh k d a i) = encK k 0x10#6 d a 1#3 i := rfl
  have h0_8 : fld (encK k 0x10#6 d a 1#3 i) 0 8 = i := (encK_i_part _ _ _ _ _ _ 0 8 (by omega)).trans (ext_self _)
  have hdec : decodeFields (encK k 0x10#6 d a 1#3 i) = some (.lh k d a i) := by
    rw [dec_major_10 _ (encK_m ..)]
    simp only [dec10, h0_8, encK_d, encK_a, Tk.of, encK_k, tk_of_bits]
    rw [encK_f]
    rfl
  rw [henc]; unfold decode; rw [hdec]; simp only [hw, if_true]

theorem lw (k : Tk) (d : Reg) (a : Reg) (i : BitVec 8) : Statement (.lw k d a i) := by
  intro _ hw
  have henc : encode (.lw k d a i) = encK k 0x10#6 d a 2#3 i := rfl
  have h0_8 : fld (encK k 0x10#6 d a 2#3 i) 0 8 = i := (encK_i_part _ _ _ _ _ _ 0 8 (by omega)).trans (ext_self _)
  have hdec : decodeFields (encK k 0x10#6 d a 2#3 i) = some (.lw k d a i) := by
    rw [dec_major_10 _ (encK_m ..)]
    simp only [dec10, h0_8, encK_d, encK_a, Tk.of, encK_k, tk_of_bits]
    rw [encK_f]
    rfl
  rw [henc]; unfold decode; rw [hdec]; simp only [hw, if_true]

theorem ld (k : Tk) (d : Reg) (a : Reg) (i : BitVec 8) : Statement (.ld k d a i) := by
  intro _ hw
  have henc : encode (.ld k d a i) = encK k 0x10#6 d a 3#3 i := rfl
  have h0_8 : fld (encK k 0x10#6 d a 3#3 i) 0 8 = i := (encK_i_part _ _ _ _ _ _ 0 8 (by omega)).trans (ext_self _)
  have hdec : decodeFields (encK k 0x10#6 d a 3#3 i) = some (.ld k d a i) := by
    rw [dec_major_10 _ (encK_m ..)]
    simp only [dec10, h0_8, encK_d, encK_a, Tk.of, encK_k, tk_of_bits]
    rw [encK_f]
    rfl
  rw [henc]; unfold decode; rw [hdec]; simp only [hw, if_true]

theorem lbu (k : Tk) (d : Reg) (a : Reg) (i : BitVec 8) : Statement (.lbu k d a i) := by
  intro _ hw
  have henc : encode (.lbu k d a i) = encK k 0x10#6 d a 4#3 i := rfl
  have h0_8 : fld (encK k 0x10#6 d a 4#3 i) 0 8 = i := (encK_i_part _ _ _ _ _ _ 0 8 (by omega)).trans (ext_self _)
  have hdec : decodeFields (encK k 0x10#6 d a 4#3 i) = some (.lbu k d a i) := by
    rw [dec_major_10 _ (encK_m ..)]
    simp only [dec10, h0_8, encK_d, encK_a, Tk.of, encK_k, tk_of_bits]
    rw [encK_f]
    rfl
  rw [henc]; unfold decode; rw [hdec]; simp only [hw, if_true]

theorem lhu (k : Tk) (d : Reg) (a : Reg) (i : BitVec 8) : Statement (.lhu k d a i) := by
  intro _ hw
  have henc : encode (.lhu k d a i) = encK k 0x10#6 d a 5#3 i := rfl
  have h0_8 : fld (encK k 0x10#6 d a 5#3 i) 0 8 = i := (encK_i_part _ _ _ _ _ _ 0 8 (by omega)).trans (ext_self _)
  have hdec : decodeFields (encK k 0x10#6 d a 5#3 i) = some (.lhu k d a i) := by
    rw [dec_major_10 _ (encK_m ..)]
    simp only [dec10, h0_8, encK_d, encK_a, Tk.of, encK_k, tk_of_bits]
    rw [encK_f]
    rfl
  rw [henc]; unfold decode; rw [hdec]; simp only [hw, if_true]

theorem lwu (k : Tk) (d : Reg) (a : Reg) (i : BitVec 8) : Statement (.lwu k d a i) := by
  intro _ hw
  have henc : encode (.lwu k d a i) = encK k 0x10#6 d a 6#3 i := rfl
  have h0_8 : fld (encK k 0x10#6 d a 6#3 i) 0 8 = i := (encK_i_part _ _ _ _ _ _ 0 8 (by omega)).trans (ext_self _)
  have hdec : decodeFields (encK k 0x10#6 d a 6#3 i) = some (.lwu k d a i) := by
    rw [dec_major_10 _ (encK_m ..)]
    simp only [dec10, h0_8, encK_d, encK_a, Tk.of, encK_k, tk_of_bits]
    rw [encK_f]
    rfl
  rw [henc]; unfold decode; rw [hdec]; simp only [hw, if_true]

theorem sb (k : Tk) (d : Reg) (a : Reg) (i : BitVec 8) : Statement (.sb k d a i) := by
  intro _ hw
  have henc : encode (.sb k d a i) = encK k 0x11#6 d a 0#3 i := rfl
  have h0_8 : fld (encK k 0x11#6 d a 0#3 i) 0 8 = i := (encK_i_part _ _ _ _ _ _ 0 8 (by omega)).trans (ext_self _)
  have hdec : decodeFields (encK k 0x11#6 d a 0#3 i) = some (.sb k d a i) := by
    rw [dec_major_11 _ (encK_m ..)]
    simp only [dec11, h0_8, encK_d, encK_a, Tk.of, encK_k, tk_of_bits]
    rw [encK_f]
    rfl
  rw [henc]; unfold decode; rw [hdec]; simp only [hw, if_true]

theorem sh (k : Tk) (d : Reg) (a : Reg) (i : BitVec 8) : Statement (.sh k d a i) := by
  intro _ hw
  have henc : encode (.sh k d a i) = encK k 0x11#6 d a 1#3 i := rfl
  have h0_8 : fld (encK k 0x11#6 d a 1#3 i) 0 8 = i := (encK_i_part _ _ _ _ _ _ 0 8 (by omega)).trans (ext_self _)
  have hdec : decodeFields (encK k 0x11#6 d a 1#3 i) = some (.sh k d a i) := by
    rw [dec_major_11 _ (encK_m ..)]
    simp only [dec11, h0_8, encK_d, encK_a, Tk.of, encK_k, tk_of_bits]
    rw [encK_f]
    rfl
  rw [henc]; unfold decode; rw [hdec]; simp only [hw, if_true]

theorem sw (k : Tk) (d : Reg) (a : Reg) (i : BitVec 8) : Statement (.sw k d a i) := by
  intro _ hw
  have henc : encode (.sw k d a i) = encK k 0x11#6 d a 2#3 i := rfl
  have h0_8 : fld (encK k 0x11#6 d a 2#3 i) 0 8 = i := (encK_i_part _ _ _ _ _ _ 0 8 (by omega)).trans (ext_self _)
  have hdec : decodeFields (encK k 0x11#6 d a 2#3 i) = some (.sw k d a i) := by
    rw [dec_major_11 _ (encK_m ..)]
    simp only [dec11, h0_8, encK_d, encK_a, Tk.of, encK_k, tk_of_bits]
    rw [encK_f]
    rfl
  rw [henc]; unfold decode; rw [hdec]; simp only [hw, if_true]

theorem sd (k : Tk) (d : Reg) (a : Reg) (i : BitVec 8) : Statement (.sd k d a i) := by
  intro _ hw
  have henc : encode (.sd k d a i) = encK k 0x11#6 d a 3#3 i := rfl
  have h0_8 : fld (encK k 0x11#6 d a 3#3 i) 0 8 = i := (encK_i_part _ _ _ _ _ _ 0 8 (by omega)).trans (ext_self _)
  have hdec : decodeFields (encK k 0x11#6 d a 3#3 i) = some (.sd k d a i) := by
    rw [dec_major_11 _ (encK_m ..)]
    simp only [dec11, h0_8, encK_d, encK_a, Tk.of, encK_k, tk_of_bits]
    rw [encK_f]
    rfl
  rw [henc]; unfold decode; rw [hdec]; simp only [hw, if_true]

theorem ldx (k : Tk) (d : Reg) (a : Reg) (b : Reg) : Statement (.ldx k d a b) := by
  intro _ hw
  have henc : encode (.ldx k d a b) = encQ k 0x12#6 d a b 0#6 := rfl
  have h0_6 : fld (encQ k 0x12#6 d a b 0#6) 0 6 = 0#6 := (encQ_f_part _ _ _ _ _ _ 0 6 (by omega)).trans (ext_self _)
  have hdec : decodeFields (encQ k 0x12#6 d a b 0#6) = some (.ldx k d a b) := by
    rw [dec_major_12 _ (encQ_m ..)]
    simp only [dec12, encQ_d, encQ_a, encQ_b, Tk.of, encQ_k, tk_of_bits]
    rw [h0_6]
    rfl
  rw [henc]; unfold decode; rw [hdec]; simp only [hw, if_true]

theorem stx (k : Tk) (d : Reg) (a : Reg) (b : Reg) : Statement (.stx k d a b) := by
  intro _ hw
  have henc : encode (.stx k d a b) = encQ k 0x12#6 d a b 1#6 := rfl
  have h0_6 : fld (encQ k 0x12#6 d a b 1#6) 0 6 = 1#6 := (encQ_f_part _ _ _ _ _ _ 0 6 (by omega)).trans (ext_self _)
  have hdec : decodeFields (encQ k 0x12#6 d a b 1#6) = some (.stx k d a b) := by
    rw [dec_major_12 _ (encQ_m ..)]
    simp only [dec12, encQ_d, encQ_a, encQ_b, Tk.of, encQ_k, tk_of_bits]
    rw [h0_6]
    rfl
  rw [henc]; unfold decode; rw [hdec]; simp only [hw, if_true]

theorem amoadd (k : Tk) (d : Reg) (a : Reg) (b : Reg) (z : BitVec 1) : Statement (.amoadd k d a b z) := by
  intro _ hw
  have henc : encode (.amoadd k d a b z) = encQ k 0x13#6 d a b (0#5 ++ z) := rfl
  have h0_1 : fld (encQ k 0x13#6 d a b (0#5 ++ z)) 0 1 = z := (encQ_f_part _ _ _ _ _ _ 0 1 (by omega)).trans ((ext_right (n := 5) (m := 1) _ _ 0 1 (by omega)).trans (ext_self _))
  have h1_5 : fld (encQ k 0x13#6 d a b (0#5 ++ z)) 1 5 = 0#5 := (encQ_f_part _ _ _ _ _ _ 1 5 (by omega)).trans ((ext_left (n := 5) (m := 1) _ _ 1 _ (by omega)).trans (ext_self _))
  have hdec : decodeFields (encQ k 0x13#6 d a b (0#5 ++ z)) = some (.amoadd k d a b z) := by
    rw [dec_major_13 _ (encQ_m ..)]
    simp only [dec13, h0_1, encQ_d, encQ_a, encQ_b, Tk.of, encQ_k, tk_of_bits]
    rw [h1_5]
    rfl
  rw [henc]; unfold decode; rw [hdec]; simp only [hw, if_true]

theorem amoand (k : Tk) (d : Reg) (a : Reg) (b : Reg) (z : BitVec 1) : Statement (.amoand k d a b z) := by
  intro _ hw
  have henc : encode (.amoand k d a b z) = encQ k 0x13#6 d a b (1#5 ++ z) := rfl
  have h0_1 : fld (encQ k 0x13#6 d a b (1#5 ++ z)) 0 1 = z := (encQ_f_part _ _ _ _ _ _ 0 1 (by omega)).trans ((ext_right (n := 5) (m := 1) _ _ 0 1 (by omega)).trans (ext_self _))
  have h1_5 : fld (encQ k 0x13#6 d a b (1#5 ++ z)) 1 5 = 1#5 := (encQ_f_part _ _ _ _ _ _ 1 5 (by omega)).trans ((ext_left (n := 5) (m := 1) _ _ 1 _ (by omega)).trans (ext_self _))
  have hdec : decodeFields (encQ k 0x13#6 d a b (1#5 ++ z)) = some (.amoand k d a b z) := by
    rw [dec_major_13 _ (encQ_m ..)]
    simp only [dec13, h0_1, encQ_d, encQ_a, encQ_b, Tk.of, encQ_k, tk_of_bits]
    rw [h1_5]
    rfl
  rw [henc]; unfold decode; rw [hdec]; simp only [hw, if_true]

theorem amoor (k : Tk) (d : Reg) (a : Reg) (b : Reg) (z : BitVec 1) : Statement (.amoor k d a b z) := by
  intro _ hw
  have henc : encode (.amoor k d a b z) = encQ k 0x13#6 d a b (2#5 ++ z) := rfl
  have h0_1 : fld (encQ k 0x13#6 d a b (2#5 ++ z)) 0 1 = z := (encQ_f_part _ _ _ _ _ _ 0 1 (by omega)).trans ((ext_right (n := 5) (m := 1) _ _ 0 1 (by omega)).trans (ext_self _))
  have h1_5 : fld (encQ k 0x13#6 d a b (2#5 ++ z)) 1 5 = 2#5 := (encQ_f_part _ _ _ _ _ _ 1 5 (by omega)).trans ((ext_left (n := 5) (m := 1) _ _ 1 _ (by omega)).trans (ext_self _))
  have hdec : decodeFields (encQ k 0x13#6 d a b (2#5 ++ z)) = some (.amoor k d a b z) := by
    rw [dec_major_13 _ (encQ_m ..)]
    simp only [dec13, h0_1, encQ_d, encQ_a, encQ_b, Tk.of, encQ_k, tk_of_bits]
    rw [h1_5]
    rfl
  rw [henc]; unfold decode; rw [hdec]; simp only [hw, if_true]

theorem amoxor (k : Tk) (d : Reg) (a : Reg) (b : Reg) (z : BitVec 1) : Statement (.amoxor k d a b z) := by
  intro _ hw
  have henc : encode (.amoxor k d a b z) = encQ k 0x13#6 d a b (3#5 ++ z) := rfl
  have h0_1 : fld (encQ k 0x13#6 d a b (3#5 ++ z)) 0 1 = z := (encQ_f_part _ _ _ _ _ _ 0 1 (by omega)).trans ((ext_right (n := 5) (m := 1) _ _ 0 1 (by omega)).trans (ext_self _))
  have h1_5 : fld (encQ k 0x13#6 d a b (3#5 ++ z)) 1 5 = 3#5 := (encQ_f_part _ _ _ _ _ _ 1 5 (by omega)).trans ((ext_left (n := 5) (m := 1) _ _ 1 _ (by omega)).trans (ext_self _))
  have hdec : decodeFields (encQ k 0x13#6 d a b (3#5 ++ z)) = some (.amoxor k d a b z) := by
    rw [dec_major_13 _ (encQ_m ..)]
    simp only [dec13, h0_1, encQ_d, encQ_a, encQ_b, Tk.of, encQ_k, tk_of_bits]
    rw [h1_5]
    rfl
  rw [henc]; unfold decode; rw [hdec]; simp only [hw, if_true]

theorem amomin (k : Tk) (d : Reg) (a : Reg) (b : Reg) (z : BitVec 1) : Statement (.amomin k d a b z) := by
  intro _ hw
  have henc : encode (.amomin k d a b z) = encQ k 0x13#6 d a b (4#5 ++ z) := rfl
  have h0_1 : fld (encQ k 0x13#6 d a b (4#5 ++ z)) 0 1 = z := (encQ_f_part _ _ _ _ _ _ 0 1 (by omega)).trans ((ext_right (n := 5) (m := 1) _ _ 0 1 (by omega)).trans (ext_self _))
  have h1_5 : fld (encQ k 0x13#6 d a b (4#5 ++ z)) 1 5 = 4#5 := (encQ_f_part _ _ _ _ _ _ 1 5 (by omega)).trans ((ext_left (n := 5) (m := 1) _ _ 1 _ (by omega)).trans (ext_self _))
  have hdec : decodeFields (encQ k 0x13#6 d a b (4#5 ++ z)) = some (.amomin k d a b z) := by
    rw [dec_major_13 _ (encQ_m ..)]
    simp only [dec13, h0_1, encQ_d, encQ_a, encQ_b, Tk.of, encQ_k, tk_of_bits]
    rw [h1_5]
    rfl
  rw [henc]; unfold decode; rw [hdec]; simp only [hw, if_true]

theorem amomax (k : Tk) (d : Reg) (a : Reg) (b : Reg) (z : BitVec 1) : Statement (.amomax k d a b z) := by
  intro _ hw
  have henc : encode (.amomax k d a b z) = encQ k 0x13#6 d a b (5#5 ++ z) := rfl
  have h0_1 : fld (encQ k 0x13#6 d a b (5#5 ++ z)) 0 1 = z := (encQ_f_part _ _ _ _ _ _ 0 1 (by omega)).trans ((ext_right (n := 5) (m := 1) _ _ 0 1 (by omega)).trans (ext_self _))
  have h1_5 : fld (encQ k 0x13#6 d a b (5#5 ++ z)) 1 5 = 5#5 := (encQ_f_part _ _ _ _ _ _ 1 5 (by omega)).trans ((ext_left (n := 5) (m := 1) _ _ 1 _ (by omega)).trans (ext_self _))
  have hdec : decodeFields (encQ k 0x13#6 d a b (5#5 ++ z)) = some (.amomax k d a b z) := by
    rw [dec_major_13 _ (encQ_m ..)]
    simp only [dec13, h0_1, encQ_d, encQ_a, encQ_b, Tk.of, encQ_k, tk_of_bits]
    rw [h1_5]
    rfl
  rw [henc]; unfold decode; rw [hdec]; simp only [hw, if_true]

theorem amominu (k : Tk) (d : Reg) (a : Reg) (b : Reg) (z : BitVec 1) : Statement (.amominu k d a b z) := by
  intro _ hw
  have henc : encode (.amominu k d a b z) = encQ k 0x13#6 d a b (6#5 ++ z) := rfl
  have h0_1 : fld (encQ k 0x13#6 d a b (6#5 ++ z)) 0 1 = z := (encQ_f_part _ _ _ _ _ _ 0 1 (by omega)).trans ((ext_right (n := 5) (m := 1) _ _ 0 1 (by omega)).trans (ext_self _))
  have h1_5 : fld (encQ k 0x13#6 d a b (6#5 ++ z)) 1 5 = 6#5 := (encQ_f_part _ _ _ _ _ _ 1 5 (by omega)).trans ((ext_left (n := 5) (m := 1) _ _ 1 _ (by omega)).trans (ext_self _))
  have hdec : decodeFields (encQ k 0x13#6 d a b (6#5 ++ z)) = some (.amominu k d a b z) := by
    rw [dec_major_13 _ (encQ_m ..)]
    simp only [dec13, h0_1, encQ_d, encQ_a, encQ_b, Tk.of, encQ_k, tk_of_bits]
    rw [h1_5]
    rfl
  rw [henc]; unfold decode; rw [hdec]; simp only [hw, if_true]

theorem amomaxu (k : Tk) (d : Reg) (a : Reg) (b : Reg) (z : BitVec 1) : Statement (.amomaxu k d a b z) := by
  intro _ hw
  have henc : encode (.amomaxu k d a b z) = encQ k 0x13#6 d a b (7#5 ++ z) := rfl
  have h0_1 : fld (encQ k 0x13#6 d a b (7#5 ++ z)) 0 1 = z := (encQ_f_part _ _ _ _ _ _ 0 1 (by omega)).trans ((ext_right (n := 5) (m := 1) _ _ 0 1 (by omega)).trans (ext_self _))
  have h1_5 : fld (encQ k 0x13#6 d a b (7#5 ++ z)) 1 5 = 7#5 := (encQ_f_part _ _ _ _ _ _ 1 5 (by omega)).trans ((ext_left (n := 5) (m := 1) _ _ 1 _ (by omega)).trans (ext_self _))
  have hdec : decodeFields (encQ k 0x13#6 d a b (7#5 ++ z)) = some (.amomaxu k d a b z) := by
    rw [dec_major_13 _ (encQ_m ..)]
    simp only [dec13, h0_1, encQ_d, encQ_a, encQ_b, Tk.of, encQ_k, tk_of_bits]
    rw [h1_5]
    rfl
  rw [henc]; unfold decode; rw [hdec]; simp only [hw, if_true]

theorem amoswap (k : Tk) (d : Reg) (a : Reg) (b : Reg) (z : BitVec 1) : Statement (.amoswap k d a b z) := by
  intro _ hw
  have henc : encode (.amoswap k d a b z) = encQ k 0x13#6 d a b (8#5 ++ z) := rfl
  have h0_1 : fld (encQ k 0x13#6 d a b (8#5 ++ z)) 0 1 = z := (encQ_f_part _ _ _ _ _ _ 0 1 (by omega)).trans ((ext_right (n := 5) (m := 1) _ _ 0 1 (by omega)).trans (ext_self _))
  have h1_5 : fld (encQ k 0x13#6 d a b (8#5 ++ z)) 1 5 = 8#5 := (encQ_f_part _ _ _ _ _ _ 1 5 (by omega)).trans ((ext_left (n := 5) (m := 1) _ _ 1 _ (by omega)).trans (ext_self _))
  have hdec : decodeFields (encQ k 0x13#6 d a b (8#5 ++ z)) = some (.amoswap k d a b z) := by
    rw [dec_major_13 _ (encQ_m ..)]
    simp only [dec13, h0_1, encQ_d, encQ_a, encQ_b, Tk.of, encQ_k, tk_of_bits]
    rw [h1_5]
    rfl
  rw [henc]; unfold decode; rw [hdec]; simp only [hw, if_true]

theorem amocas (k : Tk) (d : Reg) (a : Reg) (b : Reg) (z : BitVec 1) : Statement (.amocas k d a b z) := by
  intro _ hw
  have henc : encode (.amocas k d a b z) = encQ k 0x13#6 d a b (9#5 ++ z) := rfl
  have h0_1 : fld (encQ k 0x13#6 d a b (9#5 ++ z)) 0 1 = z := (encQ_f_part _ _ _ _ _ _ 0 1 (by omega)).trans ((ext_right (n := 5) (m := 1) _ _ 0 1 (by omega)).trans (ext_self _))
  have h1_5 : fld (encQ k 0x13#6 d a b (9#5 ++ z)) 1 5 = 9#5 := (encQ_f_part _ _ _ _ _ _ 1 5 (by omega)).trans ((ext_left (n := 5) (m := 1) _ _ 1 _ (by omega)).trans (ext_self _))
  have hdec : decodeFields (encQ k 0x13#6 d a b (9#5 ++ z)) = some (.amocas k d a b z) := by
    rw [dec_major_13 _ (encQ_m ..)]
    simp only [dec13, h0_1, encQ_d, encQ_a, encQ_b, Tk.of, encQ_k, tk_of_bits]
    rw [h1_5]
    rfl
  rw [henc]; unfold decode; rw [hdec]; simp only [hw, if_true]

theorem amofadd (k : Tk) (d : Reg) (a : Reg) (b : Reg) (z : BitVec 1) : Statement (.amofadd k d a b z) := by
  intro _ hw
  have henc : encode (.amofadd k d a b z) = encQ k 0x13#6 d a b (10#5 ++ z) := rfl
  have h0_1 : fld (encQ k 0x13#6 d a b (10#5 ++ z)) 0 1 = z := (encQ_f_part _ _ _ _ _ _ 0 1 (by omega)).trans ((ext_right (n := 5) (m := 1) _ _ 0 1 (by omega)).trans (ext_self _))
  have h1_5 : fld (encQ k 0x13#6 d a b (10#5 ++ z)) 1 5 = 10#5 := (encQ_f_part _ _ _ _ _ _ 1 5 (by omega)).trans ((ext_left (n := 5) (m := 1) _ _ 1 _ (by omega)).trans (ext_self _))
  have hdec : decodeFields (encQ k 0x13#6 d a b (10#5 ++ z)) = some (.amofadd k d a b z) := by
    rw [dec_major_13 _ (encQ_m ..)]
    simp only [dec13, h0_1, encQ_d, encQ_a, encQ_b, Tk.of, encQ_k, tk_of_bits]
    rw [h1_5]
    rfl
  rw [henc]; unfold decode; rw [hdec]; simp only [hw, if_true]

theorem lblk (k : Tk) (d : Reg) (a : Reg) (i : BitVec 8) : Statement (.lblk k d a i) := by
  intro _ hw
  have henc : encode (.lblk k d a i) = encK k 0x14#6 d a 0#3 i := rfl
  have h0_8 : fld (encK k 0x14#6 d a 0#3 i) 0 8 = i := (encK_i_part _ _ _ _ _ _ 0 8 (by omega)).trans (ext_self _)
  have hdec : decodeFields (encK k 0x14#6 d a 0#3 i) = some (.lblk k d a i) := by
    rw [dec_major_14 _ (encK_m ..)]
    simp only [dec14, h0_8, encK_d, encK_a, Tk.of, encK_k, tk_of_bits]
    rw [encK_f]
    rfl
  rw [henc]; unfold decode; rw [hdec]; simp only [hw, if_true]

theorem wblk (k : Tk) (d : Reg) (a : Reg) : Statement (.wblk k d a) := by
  intro _ hw
  have henc : encode (.wblk k d a) = encK k 0x14#6 d a 1#3 0#8 := rfl
  have h0_8 : fld (encK k 0x14#6 d a 1#3 0#8) 0 8 = 0#8 := (encK_i_part _ _ _ _ _ _ 0 8 (by omega)).trans (ext_self _)
  have hdec : decodeFields (encK k 0x14#6 d a 1#3 0#8) = some (.wblk k d a) := by
    rw [dec_major_14 _ (encK_m ..)]
    simp only [dec14, h0_8, encK_d, encK_a, Tk.of, encK_k, tk_of_bits]
    rw [encK_f]
    rfl
  rw [henc]; unfold decode; rw [hdec]; simp only [hw, if_true]

theorem eblk (k : Tk) (d : Reg) (a : Reg) : Statement (.eblk k d a) := by
  intro _ hw
  have henc : encode (.eblk k d a) = encK k 0x14#6 d a 2#3 0#8 := rfl
  have h0_8 : fld (encK k 0x14#6 d a 2#3 0#8) 0 8 = 0#8 := (encK_i_part _ _ _ _ _ _ 0 8 (by omega)).trans (ext_self _)
  have hdec : decodeFields (encK k 0x14#6 d a 2#3 0#8) = some (.eblk k d a) := by
    rw [dec_major_14 _ (encK_m ..)]
    simp only [dec14, h0_8, encK_d, encK_a, Tk.of, encK_k, tk_of_bits]
    rw [encK_f]
    rfl
  rw [henc]; unfold decode; rw [hdec]; simp only [hw, if_true]

theorem dblk (k : Tk) (a : Reg) : Statement (.dblk k a) := by
  intro _ hw
  have henc : encode (.dblk k a) = encK k 0x14#6 0#5 a 3#3 0#8 := rfl
  have h0_8 : fld (encK k 0x14#6 0#5 a 3#3 0#8) 0 8 = 0#8 := (encK_i_part _ _ _ _ _ _ 0 8 (by omega)).trans (ext_self _)
  have hdec : decodeFields (encK k 0x14#6 0#5 a 3#3 0#8) = some (.dblk k a) := by
    rw [dec_major_14 _ (encK_m ..)]
    simp only [dec14, h0_8, encK_d, encK_a, Tk.of, encK_k, tk_of_bits]
    rw [encK_f]
    rfl
  rw [henc]; unfold decode; rw [hdec]; simp only [hw, if_true]

theorem fence (k : Tk) (s : BitVec 3) : Statement (.fence k s) := by
  intro _ hw
  have henc : encode (.fence k s) = encK k 0x15#6 0#5 0#5 0#3 (0#5 ++ s) := rfl
  have h0_3 : fld (encK k 0x15#6 0#5 0#5 0#3 (0#5 ++ s)) 0 3 = s := (encK_i_part _ _ _ _ _ _ 0 3 (by omega)).trans ((ext_right (n := 5) (m := 3) _ _ 0 3 (by omega)).trans (ext_self _))
  have h3_5 : fld (encK k 0x15#6 0#5 0#5 0#3 (0#5 ++ s)) 3 5 = 0#5 := (encK_i_part _ _ _ _ _ _ 3 5 (by omega)).trans ((ext_left (n := 5) (m := 3) _ _ 3 _ (by omega)).trans (ext_self _))
  have hdec : decodeFields (encK k 0x15#6 0#5 0#5 0#3 (0#5 ++ s)) = some (.fence k s) := by
    rw [dec_major_15 _ (encK_m ..)]
    simp only [dec15, h0_3, h3_5, encK_d, encK_a, Tk.of, encK_k, tk_of_bits]
    rw [encK_f]
    rfl
  rw [henc]; unfold decode; rw [hdec]; simp only [hw, if_true]

theorem acq (k : Tk) (s : BitVec 3) : Statement (.acq k s) := by
  intro _ hw
  have henc : encode (.acq k s) = encK k 0x15#6 0#5 0#5 1#3 (0#5 ++ s) := rfl
  have h0_3 : fld (encK k 0x15#6 0#5 0#5 1#3 (0#5 ++ s)) 0 3 = s := (encK_i_part _ _ _ _ _ _ 0 3 (by omega)).trans ((ext_right (n := 5) (m := 3) _ _ 0 3 (by omega)).trans (ext_self _))
  have h3_5 : fld (encK k 0x15#6 0#5 0#5 1#3 (0#5 ++ s)) 3 5 = 0#5 := (encK_i_part _ _ _ _ _ _ 3 5 (by omega)).trans ((ext_left (n := 5) (m := 3) _ _ 3 _ (by omega)).trans (ext_self _))
  have hdec : decodeFields (encK k 0x15#6 0#5 0#5 1#3 (0#5 ++ s)) = some (.acq k s) := by
    rw [dec_major_15 _ (encK_m ..)]
    simp only [dec15, h0_3, h3_5, encK_d, encK_a, Tk.of, encK_k, tk_of_bits]
    rw [encK_f]
    rfl
  rw [henc]; unfold decode; rw [hdec]; simp only [hw, if_true]

theorem rel (k : Tk) (s : BitVec 3) : Statement (.rel k s) := by
  intro _ hw
  have henc : encode (.rel k s) = encK k 0x15#6 0#5 0#5 2#3 (0#5 ++ s) := rfl
  have h0_3 : fld (encK k 0x15#6 0#5 0#5 2#3 (0#5 ++ s)) 0 3 = s := (encK_i_part _ _ _ _ _ _ 0 3 (by omega)).trans ((ext_right (n := 5) (m := 3) _ _ 0 3 (by omega)).trans (ext_self _))
  have h3_5 : fld (encK k 0x15#6 0#5 0#5 2#3 (0#5 ++ s)) 3 5 = 0#5 := (encK_i_part _ _ _ _ _ _ 3 5 (by omega)).trans ((ext_left (n := 5) (m := 3) _ _ 3 _ (by omega)).trans (ext_self _))
  have hdec : decodeFields (encK k 0x15#6 0#5 0#5 2#3 (0#5 ++ s)) = some (.rel k s) := by
    rw [dec_major_15 _ (encK_m ..)]
    simp only [dec15, h0_3, h3_5, encK_d, encK_a, Tk.of, encK_k, tk_of_bits]
    rw [encK_f]
    rfl
  rw [henc]; unfold decode; rw [hdec]; simp only [hw, if_true]

theorem invi (k : Tk) (s : BitVec 3) : Statement (.invi k s) := by
  intro _ hw
  have henc : encode (.invi k s) = encK k 0x15#6 0#5 0#5 3#3 (0#5 ++ s) := rfl
  have h0_3 : fld (encK k 0x15#6 0#5 0#5 3#3 (0#5 ++ s)) 0 3 = s := (encK_i_part _ _ _ _ _ _ 0 3 (by omega)).trans ((ext_right (n := 5) (m := 3) _ _ 0 3 (by omega)).trans (ext_self _))
  have h3_5 : fld (encK k 0x15#6 0#5 0#5 3#3 (0#5 ++ s)) 3 5 = 0#5 := (encK_i_part _ _ _ _ _ _ 3 5 (by omega)).trans ((ext_left (n := 5) (m := 3) _ _ 3 _ (by omega)).trans (ext_self _))
  have hdec : decodeFields (encK k 0x15#6 0#5 0#5 3#3 (0#5 ++ s)) = some (.invi k s) := by
    rw [dec_major_15 _ (encK_m ..)]
    simp only [dec15, h0_3, h3_5, encK_d, encK_a, Tk.of, encK_k, tk_of_bits]
    rw [encK_f]
    rfl
  rw [henc]; unfold decode; rw [hdec]; simp only [hw, if_true]

theorem smap (k : Tk) (d : Reg) (a : Reg) (b : Reg) : Statement (.smap k d a b) := by
  intro _ hw
  have henc : encode (.smap k d a b) = encQ k 0x16#6 d a b 0#6 := rfl
  have h0_6 : fld (encQ k 0x16#6 d a b 0#6) 0 6 = 0#6 := (encQ_f_part _ _ _ _ _ _ 0 6 (by omega)).trans (ext_self _)
  have hdec : decodeFields (encQ k 0x16#6 d a b 0#6) = some (.smap k d a b) := by
    rw [dec_major_16 _ (encQ_m ..)]
    simp only [dec16, encQ_d, encQ_a, encQ_b, Tk.of, encQ_k, tk_of_bits]
    rw [h0_6]
    rfl
  rw [henc]; unfold decode; rw [hdec]; simp only [hw, if_true]

theorem sunmap (k : Tk) (d : Reg) : Statement (.sunmap k d) := by
  intro _ hw
  have henc : encode (.sunmap k d) = encQ k 0x16#6 d 0#5 0#5 1#6 := rfl
  have h0_6 : fld (encQ k 0x16#6 d 0#5 0#5 1#6) 0 6 = 1#6 := (encQ_f_part _ _ _ _ _ _ 0 6 (by omega)).trans (ext_self _)
  have hdec : decodeFields (encQ k 0x16#6 d 0#5 0#5 1#6) = some (.sunmap k d) := by
    rw [dec_major_16 _ (encQ_m ..)]
    simp only [dec16, encQ_d, encQ_a, encQ_b, Tk.of, encQ_k, tk_of_bits]
    rw [h0_6]
    rfl
  rw [henc]; unfold decode; rw [hdec]; simp only [hw, if_true]

theorem sflush (k : Tk) (d : Reg) : Statement (.sflush k d) := by
  intro _ hw
  have henc : encode (.sflush k d) = encQ k 0x16#6 d 0#5 0#5 2#6 := rfl
  have h0_6 : fld (encQ k 0x16#6 d 0#5 0#5 2#6) 0 6 = 2#6 := (encQ_f_part _ _ _ _ _ _ 0 6 (by omega)).trans (ext_self _)
  have hdec : decodeFields (encQ k 0x16#6 d 0#5 0#5 2#6) = some (.sflush k d) := by
    rw [dec_major_16 _ (encQ_m ..)]
    simp only [dec16, encQ_d, encQ_a, encQ_b, Tk.of, encQ_k, tk_of_bits]
    rw [h0_6]
    rfl
  rw [henc]; unfold decode; rw [hdec]; simp only [hw, if_true]

theorem sstat (k : Tk) (d : Reg) (a : Reg) : Statement (.sstat k d a) := by
  intro _ hw
  have henc : encode (.sstat k d a) = encQ k 0x16#6 d a 0#5 3#6 := rfl
  have h0_6 : fld (encQ k 0x16#6 d a 0#5 3#6) 0 6 = 3#6 := (encQ_f_part _ _ _ _ _ _ 0 6 (by omega)).trans (ext_self _)
  have hdec : decodeFields (encQ k 0x16#6 d a 0#5 3#6) = some (.sstat k d a) := by
    rw [dec_major_16 _ (encQ_m ..)]
    simp only [dec16, encQ_d, encQ_a, encQ_b, Tk.of, encQ_k, tk_of_bits]
    rw [h0_6]
    rfl
  rw [henc]; unfold decode; rw [hdec]; simp only [hw, if_true]

theorem aage (k : Tk) (d : Reg) : Statement (.aage k d) := by
  intro _ hw
  have henc : encode (.aage k d) = encK k 0x17#6 d 0#5 0#3 0#8 := rfl
  have h0_8 : fld (encK k 0x17#6 d 0#5 0#3 0#8) 0 8 = 0#8 := (encK_i_part _ _ _ _ _ _ 0 8 (by omega)).trans (ext_self _)
  have hdec : decodeFields (encK k 0x17#6 d 0#5 0#3 0#8) = some (.aage k d) := by
    rw [dec_major_17 _ (encK_m ..)]
    simp only [dec17, h0_8, encK_d, encK_a, Tk.of, encK_k, tk_of_bits]
    rw [encK_f]
    rfl
  rw [henc]; unfold decode; rw [hdec]; simp only [hw, if_true]

theorem aheld (k : Tk) (d : Reg) (a : Reg) : Statement (.aheld k d a) := by
  intro _ hw
  have henc : encode (.aheld k d a) = encK k 0x17#6 d a 1#3 0#8 := rfl
  have h0_8 : fld (encK k 0x17#6 d a 1#3 0#8) 0 8 = 0#8 := (encK_i_part _ _ _ _ _ _ 0 8 (by omega)).trans (ext_self _)
  have hdec : decodeFields (encK k 0x17#6 d a 1#3 0#8) = some (.aheld k d a) := by
    rw [dec_major_17 _ (encK_m ..)]
    simp only [dec17, h0_8, encK_d, encK_a, Tk.of, encK_k, tk_of_bits]
    rw [encK_f]
    rfl
  rw [henc]; unfold decode; rw [hdec]; simp only [hw, if_true]

theorem airrev (k : Tk) : Statement (.airrev k) := by
  intro _ hw
  have henc : encode (.airrev k) = encK k 0x17#6 0#5 0#5 2#3 0#8 := rfl
  have h0_8 : fld (encK k 0x17#6 0#5 0#5 2#3 0#8) 0 8 = 0#8 := (encK_i_part _ _ _ _ _ _ 0 8 (by omega)).trans (ext_self _)
  have hdec : decodeFields (encK k 0x17#6 0#5 0#5 2#3 0#8) = some (.airrev k) := by
    rw [dec_major_17 _ (encK_m ..)]
    simp only [dec17, h0_8, encK_d, encK_a, Tk.of, encK_k, tk_of_bits]
    rw [encK_f]
    rfl
  rw [henc]; unfold decode; rw [hdec]; simp only [hw, if_true]

theorem csrr (k : Tk) (d : Reg) (c : BitVec 9) : Statement (.csrr k d c) := by
  intro _ hw
  have henc : encode (.csrr k d c) = encC k 0x18#6 d 0#5 0#2 c := rfl
  have hdec : decodeFields (encC k 0x18#6 d 0#5 0#2 c) = some (.csrr k d c) := by
    rw [dec_major_18 _ (encC_m ..)]
    simp only [dec18, encC_d, encC_a, encC_c, Tk.of, encC_k, tk_of_bits]
    rw [encC_f]
    rfl
  rw [henc]; unfold decode; rw [hdec]; simp only [hw, if_true]

theorem csrw (k : Tk) (d : Reg) (a : Reg) (c : BitVec 9) : Statement (.csrw k d a c) := by
  intro _ hw
  have henc : encode (.csrw k d a c) = encC k 0x18#6 d a 1#2 c := rfl
  have hdec : decodeFields (encC k 0x18#6 d a 1#2 c) = some (.csrw k d a c) := by
    rw [dec_major_18 _ (encC_m ..)]
    simp only [dec18, encC_d, encC_a, encC_c, Tk.of, encC_k, tk_of_bits]
    rw [encC_f]
    rfl
  rw [henc]; unfold decode; rw [hdec]; simp only [hw, if_true]

theorem csrs (k : Tk) (d : Reg) (a : Reg) (c : BitVec 9) : Statement (.csrs k d a c) := by
  intro _ hw
  have henc : encode (.csrs k d a c) = encC k 0x18#6 d a 2#2 c := rfl
  have hdec : decodeFields (encC k 0x18#6 d a 2#2 c) = some (.csrs k d a c) := by
    rw [dec_major_18 _ (encC_m ..)]
    simp only [dec18, encC_d, encC_a, encC_c, Tk.of, encC_k, tk_of_bits]
    rw [encC_f]
    rfl
  rw [henc]; unfold decode; rw [hdec]; simp only [hw, if_true]

theorem csrc (k : Tk) (d : Reg) (a : Reg) (c : BitVec 9) : Statement (.csrc k d a c) := by
  intro _ hw
  have henc : encode (.csrc k d a c) = encC k 0x18#6 d a 3#2 c := rfl
  have hdec : decodeFields (encC k 0x18#6 d a 3#2 c) = some (.csrc k d a c) := by
    rw [dec_major_18 _ (encC_m ..)]
    simp only [dec18, encC_d, encC_a, encC_c, Tk.of, encC_k, tk_of_bits]
    rw [encC_f]
    rfl
  rw [henc]; unfold decode; rw [hdec]; simp only [hw, if_true]

theorem sys (k : Tk) (i : BitVec 8) : Statement (.sys k i) := by
  intro _ hw
  have henc : encode (.sys k i) = encK k 0x19#6 0#5 0#5 0#3 i := rfl
  have h0_8 : fld (encK k 0x19#6 0#5 0#5 0#3 i) 0 8 = i := (encK_i_part _ _ _ _ _ _ 0 8 (by omega)).trans (ext_self _)
  have hdec : decodeFields (encK k 0x19#6 0#5 0#5 0#3 i) = some (.sys k i) := by
    rw [dec_major_19 _ (encK_m ..)]
    simp only [dec19, h0_8, encK_d, encK_a, Tk.of, encK_k, tk_of_bits]
    rw [encK_f]
    rfl
  rw [henc]; unfold decode; rw [hdec]; simp only [hw, if_true]

theorem trap (k : Tk) (a : Reg) (i : BitVec 8) : Statement (.trap k a i) := by
  intro _ hw
  have henc : encode (.trap k a i) = encK k 0x19#6 0#5 a 1#3 i := rfl
  have h0_8 : fld (encK k 0x19#6 0#5 a 1#3 i) 0 8 = i := (encK_i_part _ _ _ _ _ _ 0 8 (by omega)).trans (ext_self _)
  have hdec : decodeFields (encK k 0x19#6 0#5 a 1#3 i) = some (.trap k a i) := by
    rw [dec_major_19 _ (encK_m ..)]
    simp only [dec19, h0_8, encK_d, encK_a, Tk.of, encK_k, tk_of_bits]
    rw [encK_f]
    rfl
  rw [henc]; unfold decode; rw [hdec]; simp only [hw, if_true]

theorem eret (k : Tk) : Statement (.eret k) := by
  intro _ hw
  have henc : encode (.eret k) = encK k 0x19#6 0#5 0#5 2#3 0#8 := rfl
  have h0_8 : fld (encK k 0x19#6 0#5 0#5 2#3 0#8) 0 8 = 0#8 := (encK_i_part _ _ _ _ _ _ 0 8 (by omega)).trans (ext_self _)
  have hdec : decodeFields (encK k 0x19#6 0#5 0#5 2#3 0#8) = some (.eret k) := by
    rw [dec_major_19 _ (encK_m ..)]
    simp only [dec19, h0_8, encK_d, encK_a, Tk.of, encK_k, tk_of_bits]
    rw [encK_f]
    rfl
  rw [henc]; unfold decode; rw [hdec]; simp only [hw, if_true]

theorem brk (k : Tk) (i : BitVec 8) : Statement (.brk k i) := by
  intro _ hw
  have henc : encode (.brk k i) = encK k 0x19#6 0#5 0#5 3#3 i := rfl
  have h0_8 : fld (encK k 0x19#6 0#5 0#5 3#3 i) 0 8 = i := (encK_i_part _ _ _ _ _ _ 0 8 (by omega)).trans (ext_self _)
  have hdec : decodeFields (encK k 0x19#6 0#5 0#5 3#3 i) = some (.brk k i) := by
    rw [dec_major_19 _ (encK_m ..)]
    simp only [dec19, h0_8, encK_d, encK_a, Tk.of, encK_k, tk_of_bits]
    rw [encK_f]
    rfl
  rw [henc]; unfold decode; rw [hdec]; simp only [hw, if_true]

theorem halt (k : Tk) : Statement (.halt k) := by
  intro _ hw
  have henc : encode (.halt k) = encK k 0x19#6 0#5 0#5 4#3 0#8 := rfl
  have h0_8 : fld (encK k 0x19#6 0#5 0#5 4#3 0#8) 0 8 = 0#8 := (encK_i_part _ _ _ _ _ _ 0 8 (by omega)).trans (ext_self _)
  have hdec : decodeFields (encK k 0x19#6 0#5 0#5 4#3 0#8) = some (.halt k) := by
    rw [dec_major_19 _ (encK_m ..)]
    simp only [dec19, h0_8, encK_d, encK_a, Tk.of, encK_k, tk_of_bits]
    rw [encK_f]
    rfl
  rw [henc]; unfold decode; rw [hdec]; simp only [hw, if_true]

theorem fret (k : Tk) : Statement (.fret k) := by
  intro _ hw
  have henc : encode (.fret k) = encK k 0x19#6 0#5 0#5 5#3 0#8 := rfl
  have h0_8 : fld (encK k 0x19#6 0#5 0#5 5#3 0#8) 0 8 = 0#8 := (encK_i_part _ _ _ _ _ _ 0 8 (by omega)).trans (ext_self _)
  have hdec : decodeFields (encK k 0x19#6 0#5 0#5 5#3 0#8) = some (.fret k) := by
    rw [dec_major_19 _ (encK_m ..)]
    simp only [dec19, h0_8, encK_d, encK_a, Tk.of, encK_k, tk_of_bits]
    rw [encK_f]
    rfl
  rw [henc]; unfold decode; rw [hdec]; simp only [hw, if_true]

theorem tend (k : Tk) : Statement (.tend k) := by
  intro _ hw
  have henc : encode (.tend k) = encK k 0x1a#6 0#5 0#5 0#3 0#8 := rfl
  have h0_8 : fld (encK k 0x1a#6 0#5 0#5 0#3 0#8) 0 8 = 0#8 := (encK_i_part _ _ _ _ _ _ 0 8 (by omega)).trans (ext_self _)
  have hdec : decodeFields (encK k 0x1a#6 0#5 0#5 0#3 0#8) = some (.tend k) := by
    rw [dec_major_1a _ (encK_m ..)]
    simp only [dec1a, h0_8, encK_d, encK_a, Tk.of, encK_k, tk_of_bits]
    rw [encK_f]
    rfl
  rw [henc]; unfold decode; rw [hdec]; simp only [hw, if_true]

theorem tlnc (k : Tk) (d : Reg) (a : Reg) (i : BitVec 8) : Statement (.tlnc k d a i) := by
  intro _ hw
  have henc : encode (.tlnc k d a i) = encK k 0x1a#6 d a 1#3 i := rfl
  have h0_8 : fld (encK k 0x1a#6 d a 1#3 i) 0 8 = i := (encK_i_part _ _ _ _ _ _ 0 8 (by omega)).trans (ext_self _)
  have hdec : decodeFields (encK k 0x1a#6 d a 1#3 i) = some (.tlnc k d a i) := by
    rw [dec_major_1a _ (encK_m ..)]
    simp only [dec1a, h0_8, encK_d, encK_a, Tk.of, encK_k, tk_of_bits]
    rw [encK_f]
    rfl
  rw [henc]; unfold decode; rw [hdec]; simp only [hw, if_true]

theorem twid (k : Tk) (d : Reg) (i : BitVec 8) : Statement (.twid k d i) := by
  intro _ hw
  have henc : encode (.twid k d i) = encK k 0x1a#6 d 0#5 2#3 i := rfl
  have h0_8 : fld (encK k 0x1a#6 d 0#5 2#3 i) 0 8 = i := (encK_i_part _ _ _ _ _ _ 0 8 (by omega)).trans (ext_self _)
  have hdec : decodeFields (encK k 0x1a#6 d 0#5 2#3 i) = some (.twid k d i) := by
    rw [dec_major_1a _ (encK_m ..)]
    simp only [dec1a, h0_8, encK_d, encK_a, Tk.of, encK_k, tk_of_bits]
    rw [encK_f]
    rfl
  rw [henc]; unfold decode; rw [hdec]; simp only [hw, if_true]

theorem wtime (k : Tk) (a : Reg) (w : BitVec 8) : Statement (.wtime k a w) := by
  intro _ hw
  have henc : encode (.wtime k a w) = encK k 0x1b#6 0#5 a 0#3 w := rfl
  have h0_8 : fld (encK k 0x1b#6 0#5 a 0#3 w) 0 8 = w := (encK_i_part _ _ _ _ _ _ 0 8 (by omega)).trans (ext_self _)
  have hdec : decodeFields (encK k 0x1b#6 0#5 a 0#3 w) = some (.wtime k a w) := by
    rw [dec_major_1b _ (encK_m ..)]
    simp only [dec1b, h0_8, encK_d, encK_a, Tk.of, encK_k, tk_of_bits]
    rw [encK_f]
    rfl
  rw [henc]; unfold decode; rw [hdec]; simp only [hw, if_true]

theorem rtime (k : Tk) (d : Reg) : Statement (.rtime k d) := by
  intro _ hw
  have henc : encode (.rtime k d) = encK k 0x1b#6 d 0#5 1#3 0#8 := rfl
  have h0_8 : fld (encK k 0x1b#6 d 0#5 1#3 0#8) 0 8 = 0#8 := (encK_i_part _ _ _ _ _ _ 0 8 (by omega)).trans (ext_self _)
  have hdec : decodeFields (encK k 0x1b#6 d 0#5 1#3 0#8) = some (.rtime k d) := by
    rw [dec_major_1b _ (encK_m ..)]
    simp only [dec1b, h0_8, encK_d, encK_a, Tk.of, encK_k, tk_of_bits]
    rw [encK_f]
    rfl
  rw [henc]; unfold decode; rw [hdec]; simp only [hw, if_true]

theorem rframe (k : Tk) (d : Reg) : Statement (.rframe k d) := by
  intro _ hw
  have henc : encode (.rframe k d) = encK k 0x1b#6 d 0#5 2#3 0#8 := rfl
  have h0_8 : fld (encK k 0x1b#6 d 0#5 2#3 0#8) 0 8 = 0#8 := (encK_i_part _ _ _ _ _ _ 0 8 (by omega)).trans (ext_self _)
  have hdec : decodeFields (encK k 0x1b#6 d 0#5 2#3 0#8) = some (.rframe k d) := by
    rw [dec_major_1b _ (encK_m ..)]
    simp only [dec1b, h0_8, encK_d, encK_a, Tk.of, encK_k, tk_of_bits]
    rw [encK_f]
    rfl
  rw [henc]; unfold decode; rw [hdec]; simp only [hw, if_true]

theorem wframe (k : Tk) (a : Reg) (w : BitVec 8) : Statement (.wframe k a w) := by
  intro _ hw
  have henc : encode (.wframe k a w) = encK k 0x1b#6 0#5 a 3#3 w := rfl
  have h0_8 : fld (encK k 0x1b#6 0#5 a 3#3 w) 0 8 = w := (encK_i_part _ _ _ _ _ _ 0 8 (by omega)).trans (ext_self _)
  have hdec : decodeFields (encK k 0x1b#6 0#5 a 3#3 w) = some (.wframe k a w) := by
    rw [dec_major_1b _ (encK_m ..)]
    simp only [dec1b, h0_8, encK_d, encK_a, Tk.of, encK_k, tk_of_bits]
    rw [encK_f]
    rfl
  rw [henc]; unfold decode; rw [hdec]; simp only [hw, if_true]

theorem slk (k : Tk) (i : BitVec 8) : Statement (.slk k i) := by
  intro _ hw
  have henc : encode (.slk k i) = encK k 0x1b#6 0#5 0#5 4#3 i := rfl
  have h0_8 : fld (encK k 0x1b#6 0#5 0#5 4#3 i) 0 8 = i := (encK_i_part _ _ _ _ _ _ 0 8 (by omega)).trans (ext_self _)
  have hdec : decodeFields (encK k 0x1b#6 0#5 0#5 4#3 i) = some (.slk k i) := by
    rw [dec_major_1b _ (encK_m ..)]
    simp only [dec1b, h0_8, encK_d, encK_a, Tk.of, encK_k, tk_of_bits]
    rw [encK_f]
    rfl
  rw [henc]; unfold decode; rw [hdec]; simp only [hw, if_true]

theorem vadd (k : Tk) (d : Reg) (a : Reg) (b : Reg) (e : BitVec 2) : Statement (.vadd k d a b e) := by
  intro _ hw
  have henc : encode (.vadd k d a b e) = encQ k 0x20#6 d a b (0#4 ++ e) := rfl
  have h0_2 : fld (encQ k 0x20#6 d a b (0#4 ++ e)) 0 2 = e := (encQ_f_part _ _ _ _ _ _ 0 2 (by omega)).trans ((ext_right (n := 4) (m := 2) _ _ 0 2 (by omega)).trans (ext_self _))
  have h2_4 : fld (encQ k 0x20#6 d a b (0#4 ++ e)) 2 4 = 0#4 := (encQ_f_part _ _ _ _ _ _ 2 4 (by omega)).trans ((ext_left (n := 4) (m := 2) _ _ 2 _ (by omega)).trans (ext_self _))
  have hdec : decodeFields (encQ k 0x20#6 d a b (0#4 ++ e)) = some (.vadd k d a b e) := by
    rw [dec_major_20 _ (encQ_m ..)]
    simp only [dec20, h0_2, encQ_d, encQ_a, encQ_b, Tk.of, encQ_k, tk_of_bits]
    rw [h2_4]
    rfl
  rw [henc]; unfold decode; rw [hdec]; simp only [hw, if_true]

theorem vsub (k : Tk) (d : Reg) (a : Reg) (b : Reg) (e : BitVec 2) : Statement (.vsub k d a b e) := by
  intro _ hw
  have henc : encode (.vsub k d a b e) = encQ k 0x20#6 d a b (1#4 ++ e) := rfl
  have h0_2 : fld (encQ k 0x20#6 d a b (1#4 ++ e)) 0 2 = e := (encQ_f_part _ _ _ _ _ _ 0 2 (by omega)).trans ((ext_right (n := 4) (m := 2) _ _ 0 2 (by omega)).trans (ext_self _))
  have h2_4 : fld (encQ k 0x20#6 d a b (1#4 ++ e)) 2 4 = 1#4 := (encQ_f_part _ _ _ _ _ _ 2 4 (by omega)).trans ((ext_left (n := 4) (m := 2) _ _ 2 _ (by omega)).trans (ext_self _))
  have hdec : decodeFields (encQ k 0x20#6 d a b (1#4 ++ e)) = some (.vsub k d a b e) := by
    rw [dec_major_20 _ (encQ_m ..)]
    simp only [dec20, h0_2, encQ_d, encQ_a, encQ_b, Tk.of, encQ_k, tk_of_bits]
    rw [h2_4]
    rfl
  rw [henc]; unfold decode; rw [hdec]; simp only [hw, if_true]

theorem vmul (k : Tk) (d : Reg) (a : Reg) (b : Reg) (e : BitVec 2) : Statement (.vmul k d a b e) := by
  intro _ hw
  have henc : encode (.vmul k d a b e) = encQ k 0x20#6 d a b (2#4 ++ e) := rfl
  have h0_2 : fld (encQ k 0x20#6 d a b (2#4 ++ e)) 0 2 = e := (encQ_f_part _ _ _ _ _ _ 0 2 (by omega)).trans ((ext_right (n := 4) (m := 2) _ _ 0 2 (by omega)).trans (ext_self _))
  have h2_4 : fld (encQ k 0x20#6 d a b (2#4 ++ e)) 2 4 = 2#4 := (encQ_f_part _ _ _ _ _ _ 2 4 (by omega)).trans ((ext_left (n := 4) (m := 2) _ _ 2 _ (by omega)).trans (ext_self _))
  have hdec : decodeFields (encQ k 0x20#6 d a b (2#4 ++ e)) = some (.vmul k d a b e) := by
    rw [dec_major_20 _ (encQ_m ..)]
    simp only [dec20, h0_2, encQ_d, encQ_a, encQ_b, Tk.of, encQ_k, tk_of_bits]
    rw [h2_4]
    rfl
  rw [henc]; unfold decode; rw [hdec]; simp only [hw, if_true]

theorem vfma (k : Tk) (d : Reg) (a : Reg) (b : Reg) (e : BitVec 2) : Statement (.vfma k d a b e) := by
  intro _ hw
  have henc : encode (.vfma k d a b e) = encQ k 0x20#6 d a b (3#4 ++ e) := rfl
  have h0_2 : fld (encQ k 0x20#6 d a b (3#4 ++ e)) 0 2 = e := (encQ_f_part _ _ _ _ _ _ 0 2 (by omega)).trans ((ext_right (n := 4) (m := 2) _ _ 0 2 (by omega)).trans (ext_self _))
  have h2_4 : fld (encQ k 0x20#6 d a b (3#4 ++ e)) 2 4 = 3#4 := (encQ_f_part _ _ _ _ _ _ 2 4 (by omega)).trans ((ext_left (n := 4) (m := 2) _ _ 2 _ (by omega)).trans (ext_self _))
  have hdec : decodeFields (encQ k 0x20#6 d a b (3#4 ++ e)) = some (.vfma k d a b e) := by
    rw [dec_major_20 _ (encQ_m ..)]
    simp only [dec20, h0_2, encQ_d, encQ_a, encQ_b, Tk.of, encQ_k, tk_of_bits]
    rw [h2_4]
    rfl
  rw [henc]; unfold decode; rw [hdec]; simp only [hw, if_true]

theorem vmax (k : Tk) (d : Reg) (a : Reg) (b : Reg) (e : BitVec 2) : Statement (.vmax k d a b e) := by
  intro _ hw
  have henc : encode (.vmax k d a b e) = encQ k 0x20#6 d a b (4#4 ++ e) := rfl
  have h0_2 : fld (encQ k 0x20#6 d a b (4#4 ++ e)) 0 2 = e := (encQ_f_part _ _ _ _ _ _ 0 2 (by omega)).trans ((ext_right (n := 4) (m := 2) _ _ 0 2 (by omega)).trans (ext_self _))
  have h2_4 : fld (encQ k 0x20#6 d a b (4#4 ++ e)) 2 4 = 4#4 := (encQ_f_part _ _ _ _ _ _ 2 4 (by omega)).trans ((ext_left (n := 4) (m := 2) _ _ 2 _ (by omega)).trans (ext_self _))
  have hdec : decodeFields (encQ k 0x20#6 d a b (4#4 ++ e)) = some (.vmax k d a b e) := by
    rw [dec_major_20 _ (encQ_m ..)]
    simp only [dec20, h0_2, encQ_d, encQ_a, encQ_b, Tk.of, encQ_k, tk_of_bits]
    rw [h2_4]
    rfl
  rw [henc]; unfold decode; rw [hdec]; simp only [hw, if_true]

theorem vmin (k : Tk) (d : Reg) (a : Reg) (b : Reg) (e : BitVec 2) : Statement (.vmin k d a b e) := by
  intro _ hw
  have henc : encode (.vmin k d a b e) = encQ k 0x20#6 d a b (5#4 ++ e) := rfl
  have h0_2 : fld (encQ k 0x20#6 d a b (5#4 ++ e)) 0 2 = e := (encQ_f_part _ _ _ _ _ _ 0 2 (by omega)).trans ((ext_right (n := 4) (m := 2) _ _ 0 2 (by omega)).trans (ext_self _))
  have h2_4 : fld (encQ k 0x20#6 d a b (5#4 ++ e)) 2 4 = 5#4 := (encQ_f_part _ _ _ _ _ _ 2 4 (by omega)).trans ((ext_left (n := 4) (m := 2) _ _ 2 _ (by omega)).trans (ext_self _))
  have hdec : decodeFields (encQ k 0x20#6 d a b (5#4 ++ e)) = some (.vmin k d a b e) := by
    rw [dec_major_20 _ (encQ_m ..)]
    simp only [dec20, h0_2, encQ_d, encQ_a, encQ_b, Tk.of, encQ_k, tk_of_bits]
    rw [h2_4]
    rfl
  rw [henc]; unfold decode; rw [hdec]; simp only [hw, if_true]

theorem vabs (k : Tk) (d : Reg) (a : Reg) (e : BitVec 2) : Statement (.vabs k d a e) := by
  intro _ hw
  have henc : encode (.vabs k d a e) = encQ k 0x20#6 d a 0#5 (6#4 ++ e) := rfl
  have h0_2 : fld (encQ k 0x20#6 d a 0#5 (6#4 ++ e)) 0 2 = e := (encQ_f_part _ _ _ _ _ _ 0 2 (by omega)).trans ((ext_right (n := 4) (m := 2) _ _ 0 2 (by omega)).trans (ext_self _))
  have h2_4 : fld (encQ k 0x20#6 d a 0#5 (6#4 ++ e)) 2 4 = 6#4 := (encQ_f_part _ _ _ _ _ _ 2 4 (by omega)).trans ((ext_left (n := 4) (m := 2) _ _ 2 _ (by omega)).trans (ext_self _))
  have hdec : decodeFields (encQ k 0x20#6 d a 0#5 (6#4 ++ e)) = some (.vabs k d a e) := by
    rw [dec_major_20 _ (encQ_m ..)]
    simp only [dec20, h0_2, encQ_d, encQ_a, encQ_b, Tk.of, encQ_k, tk_of_bits]
    rw [h2_4]
    rfl
  rw [henc]; unfold decode; rw [hdec]; simp only [hw, if_true]

theorem vneg (k : Tk) (d : Reg) (a : Reg) (e : BitVec 2) : Statement (.vneg k d a e) := by
  intro _ hw
  have henc : encode (.vneg k d a e) = encQ k 0x20#6 d a 0#5 (7#4 ++ e) := rfl
  have h0_2 : fld (encQ k 0x20#6 d a 0#5 (7#4 ++ e)) 0 2 = e := (encQ_f_part _ _ _ _ _ _ 0 2 (by omega)).trans ((ext_right (n := 4) (m := 2) _ _ 0 2 (by omega)).trans (ext_self _))
  have h2_4 : fld (encQ k 0x20#6 d a 0#5 (7#4 ++ e)) 2 4 = 7#4 := (encQ_f_part _ _ _ _ _ _ 2 4 (by omega)).trans ((ext_left (n := 4) (m := 2) _ _ 2 _ (by omega)).trans (ext_self _))
  have hdec : decodeFields (encQ k 0x20#6 d a 0#5 (7#4 ++ e)) = some (.vneg k d a e) := by
    rw [dec_major_20 _ (encQ_m ..)]
    simp only [dec20, h0_2, encQ_d, encQ_a, encQ_b, Tk.of, encQ_k, tk_of_bits]
    rw [h2_4]
    rfl
  rw [henc]; unfold decode; rw [hdec]; simp only [hw, if_true]

theorem vand (k : Tk) (d : Reg) (a : Reg) (b : Reg) : Statement (.vand k d a b) := by
  intro _ hw
  have henc : encode (.vand k d a b) = encQ k 0x20#6 d a b 34#6 := rfl
  have h0_2 : fld (encQ k 0x20#6 d a b 34#6) 0 2 = 2#2 := (encQ_f_part _ _ _ _ _ _ 0 2 (by omega)).trans (rfl)
  have h2_4 : fld (encQ k 0x20#6 d a b 34#6) 2 4 = 8#4 := (encQ_f_part _ _ _ _ _ _ 2 4 (by omega)).trans (rfl)
  have hdec : decodeFields (encQ k 0x20#6 d a b 34#6) = some (.vand k d a b) := by
    rw [dec_major_20 _ (encQ_m ..)]
    simp only [dec20, h0_2, encQ_d, encQ_a, encQ_b, Tk.of, encQ_k, tk_of_bits]
    rw [h2_4]
    rfl
  rw [henc]; unfold decode; rw [hdec]; simp only [hw, if_true]

theorem vor (k : Tk) (d : Reg) (a : Reg) (b : Reg) : Statement (.vor k d a b) := by
  intro _ hw
  have henc : encode (.vor k d a b) = encQ k 0x20#6 d a b 38#6 := rfl
  have h0_2 : fld (encQ k 0x20#6 d a b 38#6) 0 2 = 2#2 := (encQ_f_part _ _ _ _ _ _ 0 2 (by omega)).trans (rfl)
  have h2_4 : fld (encQ k 0x20#6 d a b 38#6) 2 4 = 9#4 := (encQ_f_part _ _ _ _ _ _ 2 4 (by omega)).trans (rfl)
  have hdec : decodeFields (encQ k 0x20#6 d a b 38#6) = some (.vor k d a b) := by
    rw [dec_major_20 _ (encQ_m ..)]
    simp only [dec20, h0_2, encQ_d, encQ_a, encQ_b, Tk.of, encQ_k, tk_of_bits]
    rw [h2_4]
    rfl
  rw [henc]; unfold decode; rw [hdec]; simp only [hw, if_true]

theorem vxor (k : Tk) (d : Reg) (a : Reg) (b : Reg) : Statement (.vxor k d a b) := by
  intro _ hw
  have henc : encode (.vxor k d a b) = encQ k 0x20#6 d a b 42#6 := rfl
  have h0_2 : fld (encQ k 0x20#6 d a b 42#6) 0 2 = 2#2 := (encQ_f_part _ _ _ _ _ _ 0 2 (by omega)).trans (rfl)
  have h2_4 : fld (encQ k 0x20#6 d a b 42#6) 2 4 = 10#4 := (encQ_f_part _ _ _ _ _ _ 2 4 (by omega)).trans (rfl)
  have hdec : decodeFields (encQ k 0x20#6 d a b 42#6) = some (.vxor k d a b) := by
    rw [dec_major_20 _ (encQ_m ..)]
    simp only [dec20, h0_2, encQ_d, encQ_a, encQ_b, Tk.of, encQ_k, tk_of_bits]
    rw [h2_4]
    rfl
  rw [henc]; unfold decode; rw [hdec]; simp only [hw, if_true]

theorem vsll (k : Tk) (d : Reg) (a : Reg) (b : Reg) : Statement (.vsll k d a b) := by
  intro _ hw
  have henc : encode (.vsll k d a b) = encQ k 0x20#6 d a b 46#6 := rfl
  have h0_2 : fld (encQ k 0x20#6 d a b 46#6) 0 2 = 2#2 := (encQ_f_part _ _ _ _ _ _ 0 2 (by omega)).trans (rfl)
  have h2_4 : fld (encQ k 0x20#6 d a b 46#6) 2 4 = 11#4 := (encQ_f_part _ _ _ _ _ _ 2 4 (by omega)).trans (rfl)
  have hdec : decodeFields (encQ k 0x20#6 d a b 46#6) = some (.vsll k d a b) := by
    rw [dec_major_20 _ (encQ_m ..)]
    simp only [dec20, h0_2, encQ_d, encQ_a, encQ_b, Tk.of, encQ_k, tk_of_bits]
    rw [h2_4]
    rfl
  rw [henc]; unfold decode; rw [hdec]; simp only [hw, if_true]

theorem vsra (k : Tk) (d : Reg) (a : Reg) (b : Reg) : Statement (.vsra k d a b) := by
  intro _ hw
  have henc : encode (.vsra k d a b) = encQ k 0x20#6 d a b 50#6 := rfl
  have h0_2 : fld (encQ k 0x20#6 d a b 50#6) 0 2 = 2#2 := (encQ_f_part _ _ _ _ _ _ 0 2 (by omega)).trans (rfl)
  have h2_4 : fld (encQ k 0x20#6 d a b 50#6) 2 4 = 12#4 := (encQ_f_part _ _ _ _ _ _ 2 4 (by omega)).trans (rfl)
  have hdec : decodeFields (encQ k 0x20#6 d a b 50#6) = some (.vsra k d a b) := by
    rw [dec_major_20 _ (encQ_m ..)]
    simp only [dec20, h0_2, encQ_d, encQ_a, encQ_b, Tk.of, encQ_k, tk_of_bits]
    rw [h2_4]
    rfl
  rw [henc]; unfold decode; rw [hdec]; simp only [hw, if_true]

theorem vsrl (k : Tk) (d : Reg) (a : Reg) (b : Reg) : Statement (.vsrl k d a b) := by
  intro _ hw
  have henc : encode (.vsrl k d a b) = encQ k 0x20#6 d a b 54#6 := rfl
  have h0_2 : fld (encQ k 0x20#6 d a b 54#6) 0 2 = 2#2 := (encQ_f_part _ _ _ _ _ _ 0 2 (by omega)).trans (rfl)
  have h2_4 : fld (encQ k 0x20#6 d a b 54#6) 2 4 = 13#4 := (encQ_f_part _ _ _ _ _ _ 2 4 (by omega)).trans (rfl)
  have hdec : decodeFields (encQ k 0x20#6 d a b 54#6) = some (.vsrl k d a b) := by
    rw [dec_major_20 _ (encQ_m ..)]
    simp only [dec20, h0_2, encQ_d, encQ_a, encQ_b, Tk.of, encQ_k, tk_of_bits]
    rw [h2_4]
    rfl
  rw [henc]; unfold decode; rw [hdec]; simp only [hw, if_true]

theorem vcmplt (k : Tk) (d : Reg) (a : Reg) (b : Reg) (e : BitVec 2) : Statement (.vcmplt k d a b e) := by
  intro _ hw
  have henc : encode (.vcmplt k d a b e) = encQ k 0x20#6 d a b (14#4 ++ e) := rfl
  have h0_2 : fld (encQ k 0x20#6 d a b (14#4 ++ e)) 0 2 = e := (encQ_f_part _ _ _ _ _ _ 0 2 (by omega)).trans ((ext_right (n := 4) (m := 2) _ _ 0 2 (by omega)).trans (ext_self _))
  have h2_4 : fld (encQ k 0x20#6 d a b (14#4 ++ e)) 2 4 = 14#4 := (encQ_f_part _ _ _ _ _ _ 2 4 (by omega)).trans ((ext_left (n := 4) (m := 2) _ _ 2 _ (by omega)).trans (ext_self _))
  have hdec : decodeFields (encQ k 0x20#6 d a b (14#4 ++ e)) = some (.vcmplt k d a b e) := by
    rw [dec_major_20 _ (encQ_m ..)]
    simp only [dec20, h0_2, encQ_d, encQ_a, encQ_b, Tk.of, encQ_k, tk_of_bits]
    rw [h2_4]
    rfl
  rw [henc]; unfold decode; rw [hdec]; simp only [hw, if_true]

theorem vcmpeq (k : Tk) (d : Reg) (a : Reg) (b : Reg) (e : BitVec 2) : Statement (.vcmpeq k d a b e) := by
  intro _ hw
  have henc : encode (.vcmpeq k d a b e) = encQ k 0x20#6 d a b (15#4 ++ e) := rfl
  have h0_2 : fld (encQ k 0x20#6 d a b (15#4 ++ e)) 0 2 = e := (encQ_f_part _ _ _ _ _ _ 0 2 (by omega)).trans ((ext_right (n := 4) (m := 2) _ _ 0 2 (by omega)).trans (ext_self _))
  have h2_4 : fld (encQ k 0x20#6 d a b (15#4 ++ e)) 2 4 = 15#4 := (encQ_f_part _ _ _ _ _ _ 2 4 (by omega)).trans ((ext_left (n := 4) (m := 2) _ _ 2 _ (by omega)).trans (ext_self _))
  have hdec : decodeFields (encQ k 0x20#6 d a b (15#4 ++ e)) = some (.vcmpeq k d a b e) := by
    rw [dec_major_20 _ (encQ_m ..)]
    simp only [dec20, h0_2, encQ_d, encQ_a, encQ_b, Tk.of, encQ_k, tk_of_bits]
    rw [h2_4]
    rfl
  rw [henc]; unfold decode; rw [hdec]; simp only [hw, if_true]

theorem vexp2 (k : Tk) (d : Reg) (a : Reg) : Statement (.vexp2 k d a) := by
  intro _ hw
  have henc : encode (.vexp2 k d a) = encQ k 0x21#6 d a 0#5 0#6 := rfl
  have h0_6 : fld (encQ k 0x21#6 d a 0#5 0#6) 0 6 = 0#6 := (encQ_f_part _ _ _ _ _ _ 0 6 (by omega)).trans (ext_self _)
  have hdec : decodeFields (encQ k 0x21#6 d a 0#5 0#6) = some (.vexp2 k d a) := by
    rw [dec_major_21 _ (encQ_m ..)]
    simp only [dec21, encQ_d, encQ_a, encQ_b, Tk.of, encQ_k, tk_of_bits]
    rw [h0_6]
    rfl
  rw [henc]; unfold decode; rw [hdec]; simp only [hw, if_true]

theorem vlog2 (k : Tk) (d : Reg) (a : Reg) : Statement (.vlog2 k d a) := by
  intro _ hw
  have henc : encode (.vlog2 k d a) = encQ k 0x21#6 d a 0#5 1#6 := rfl
  have h0_6 : fld (encQ k 0x21#6 d a 0#5 1#6) 0 6 = 1#6 := (encQ_f_part _ _ _ _ _ _ 0 6 (by omega)).trans (ext_self _)
  have hdec : decodeFields (encQ k 0x21#6 d a 0#5 1#6) = some (.vlog2 k d a) := by
    rw [dec_major_21 _ (encQ_m ..)]
    simp only [dec21, encQ_d, encQ_a, encQ_b, Tk.of, encQ_k, tk_of_bits]
    rw [h0_6]
    rfl
  rw [henc]; unfold decode; rw [hdec]; simp only [hw, if_true]

theorem vrcp (k : Tk) (d : Reg) (a : Reg) : Statement (.vrcp k d a) := by
  intro _ hw
  have henc : encode (.vrcp k d a) = encQ k 0x21#6 d a 0#5 2#6 := rfl
  have h0_6 : fld (encQ k 0x21#6 d a 0#5 2#6) 0 6 = 2#6 := (encQ_f_part _ _ _ _ _ _ 0 6 (by omega)).trans (ext_self _)
  have hdec : decodeFields (encQ k 0x21#6 d a 0#5 2#6) = some (.vrcp k d a) := by
    rw [dec_major_21 _ (encQ_m ..)]
    simp only [dec21, encQ_d, encQ_a, encQ_b, Tk.of, encQ_k, tk_of_bits]
    rw [h0_6]
    rfl
  rw [henc]; unfold decode; rw [hdec]; simp only [hw, if_true]

theorem vrsqrt (k : Tk) (d : Reg) (a : Reg) : Statement (.vrsqrt k d a) := by
  intro _ hw
  have henc : encode (.vrsqrt k d a) = encQ k 0x21#6 d a 0#5 3#6 := rfl
  have h0_6 : fld (encQ k 0x21#6 d a 0#5 3#6) 0 6 = 3#6 := (encQ_f_part _ _ _ _ _ _ 0 6 (by omega)).trans (ext_self _)
  have hdec : decodeFields (encQ k 0x21#6 d a 0#5 3#6) = some (.vrsqrt k d a) := by
    rw [dec_major_21 _ (encQ_m ..)]
    simp only [dec21, encQ_d, encQ_a, encQ_b, Tk.of, encQ_k, tk_of_bits]
    rw [h0_6]
    rfl
  rw [henc]; unfold decode; rw [hdec]; simp only [hw, if_true]

theorem vcvt (k : Tk) (d : Reg) (a : Reg) (b : Reg) (m : BitVec 3) : Statement (.vcvt k d a b m) := by
  intro _ hw
  have henc : encode (.vcvt k d a b m) = encQ k 0x22#6 d a b (0#1 ++ m ++ 0#2) := rfl
  have h0_2 : fld (encQ k 0x22#6 d a b (0#1 ++ m ++ 0#2)) 0 2 = 0#2 := (encQ_f_part _ _ _ _ _ _ 0 2 (by omega)).trans ((ext_right (n := 4) (m := 2) _ _ 0 2 (by omega)).trans (ext_self _))
  have h2_3 : fld (encQ k 0x22#6 d a b (0#1 ++ m ++ 0#2)) 2 3 = m := (encQ_f_part _ _ _ _ _ _ 2 3 (by omega)).trans ((ext_left (n := 4) (m := 2) _ _ 2 _ (by omega)).trans ((ext_right (n := 1) (m := 3) _ _ 0 3 (by omega)).trans (ext_self _)))
  have h5_1 : fld (encQ k 0x22#6 d a b (0#1 ++ m ++ 0#2)) 5 1 = 0#1 := (encQ_f_part _ _ _ _ _ _ 5 1 (by omega)).trans ((ext_left (n := 4) (m := 2) _ _ 5 _ (by omega)).trans ((ext_left (n := 1) (m := 3) _ _ 3 _ (by omega)).trans (ext_self _)))
  have hdec : decodeFields (encQ k 0x22#6 d a b (0#1 ++ m ++ 0#2)) = some (.vcvt k d a b m) := by
    rw [dec_major_22 _ (encQ_m ..)]
    simp only [dec22, h2_3, h5_1, encQ_d, encQ_a, encQ_b, Tk.of, encQ_k, tk_of_bits]
    rw [h0_2]
    rfl
  rw [henc]; unfold decode; rw [hdec]; simp only [hw, if_true]

theorem vbmax (k : Tk) (d : Reg) (a : Reg) (b : Reg) : Statement (.vbmax k d a b) := by
  intro _ hw
  have henc : encode (.vbmax k d a b) = encQ k 0x22#6 d a b 1#6 := rfl
  have h0_2 : fld (encQ k 0x22#6 d a b 1#6) 0 2 = 1#2 := (encQ_f_part _ _ _ _ _ _ 0 2 (by omega)).trans (rfl)
  have h2_3 : fld (encQ k 0x22#6 d a b 1#6) 2 3 = 0#3 := (encQ_f_part _ _ _ _ _ _ 2 3 (by omega)).trans (rfl)
  have h2_4 : fld (encQ k 0x22#6 d a b 1#6) 2 4 = 0#4 := (encQ_f_part _ _ _ _ _ _ 2 4 (by omega)).trans (rfl)
  have h5_1 : fld (encQ k 0x22#6 d a b 1#6) 5 1 = 0#1 := (encQ_f_part _ _ _ _ _ _ 5 1 (by omega)).trans (rfl)
  have hdec : decodeFields (encQ k 0x22#6 d a b 1#6) = some (.vbmax k d a b) := by
    rw [dec_major_22 _ (encQ_m ..)]
    simp only [dec22, h2_3, h2_4, h5_1, encQ_d, encQ_a, encQ_b, Tk.of, encQ_k, tk_of_bits]
    rw [h0_2]
    rfl
  rw [henc]; unfold decode; rw [hdec]; simp only [hw, if_true]

theorem vq (k : Tk) (d : Reg) (a : Reg) (b : Reg) (m : BitVec 3) : Statement (.vq k d a b m) := by
  intro _ hw
  have henc : encode (.vq k d a b m) = encQ k 0x22#6 d a b (0#1 ++ m ++ 2#2) := rfl
  have h0_2 : fld (encQ k 0x22#6 d a b (0#1 ++ m ++ 2#2)) 0 2 = 2#2 := (encQ_f_part _ _ _ _ _ _ 0 2 (by omega)).trans ((ext_right (n := 4) (m := 2) _ _ 0 2 (by omega)).trans (ext_self _))
  have h2_3 : fld (encQ k 0x22#6 d a b (0#1 ++ m ++ 2#2)) 2 3 = m := (encQ_f_part _ _ _ _ _ _ 2 3 (by omega)).trans ((ext_left (n := 4) (m := 2) _ _ 2 _ (by omega)).trans ((ext_right (n := 1) (m := 3) _ _ 0 3 (by omega)).trans (ext_self _)))
  have h5_1 : fld (encQ k 0x22#6 d a b (0#1 ++ m ++ 2#2)) 5 1 = 0#1 := (encQ_f_part _ _ _ _ _ _ 5 1 (by omega)).trans ((ext_left (n := 4) (m := 2) _ _ 5 _ (by omega)).trans ((ext_left (n := 1) (m := 3) _ _ 3 _ (by omega)).trans (ext_self _)))
  have hdec : decodeFields (encQ k 0x22#6 d a b (0#1 ++ m ++ 2#2)) = some (.vq k d a b m) := by
    rw [dec_major_22 _ (encQ_m ..)]
    simp only [dec22, h2_3, h5_1, encQ_d, encQ_a, encQ_b, Tk.of, encQ_k, tk_of_bits]
    rw [h0_2]
    rfl
  rw [henc]; unfold decode; rw [hdec]; simp only [hw, if_true]

theorem vdq (k : Tk) (d : Reg) (a : Reg) (b : Reg) (m : BitVec 3) : Statement (.vdq k d a b m) := by
  intro _ hw
  have henc : encode (.vdq k d a b m) = encQ k 0x22#6 d a b (0#1 ++ m ++ 3#2) := rfl
  have h0_2 : fld (encQ k 0x22#6 d a b (0#1 ++ m ++ 3#2)) 0 2 = 3#2 := (encQ_f_part _ _ _ _ _ _ 0 2 (by omega)).trans ((ext_right (n := 4) (m := 2) _ _ 0 2 (by omega)).trans (ext_self _))
  have h2_3 : fld (encQ k 0x22#6 d a b (0#1 ++ m ++ 3#2)) 2 3 = m := (encQ_f_part _ _ _ _ _ _ 2 3 (by omega)).trans ((ext_left (n := 4) (m := 2) _ _ 2 _ (by omega)).trans ((ext_right (n := 1) (m := 3) _ _ 0 3 (by omega)).trans (ext_self _)))
  have h5_1 : fld (encQ k 0x22#6 d a b (0#1 ++ m ++ 3#2)) 5 1 = 0#1 := (encQ_f_part _ _ _ _ _ _ 5 1 (by omega)).trans ((ext_left (n := 4) (m := 2) _ _ 5 _ (by omega)).trans ((ext_left (n := 1) (m := 3) _ _ 3 _ (by omega)).trans (ext_self _)))
  have hdec : decodeFields (encQ k 0x22#6 d a b (0#1 ++ m ++ 3#2)) = some (.vdq k d a b m) := by
    rw [dec_major_22 _ (encQ_m ..)]
    simp only [dec22, h2_3, h5_1, encQ_d, encQ_a, encQ_b, Tk.of, encQ_k, tk_of_bits]
    rw [h0_2]
    rfl
  rw [henc]; unfold decode; rw [hdec]; simp only [hw, if_true]

theorem vredmax (k : Tk) (d : Reg) (a : Reg) (e : BitVec 2) (g : BitVec 1) : Statement (.vredmax k d a e g) := by
  intro _ hw
  have henc : encode (.vredmax k d a e g) = encQ k 0x23#6 d a 0#5 (e ++ g ++ 0#3) := rfl
  have h0_3 : fld (encQ k 0x23#6 d a 0#5 (e ++ g ++ 0#3)) 0 3 = 0#3 := (encQ_f_part _ _ _ _ _ _ 0 3 (by omega)).trans ((ext_right (n := 3) (m := 3) _ _ 0 3 (by omega)).trans (ext_self _))
  have h3_1 : fld (encQ k 0x23#6 d a 0#5 (e ++ g ++ 0#3)) 3 1 = g := (encQ_f_part _ _ _ _ _ _ 3 1 (by omega)).trans ((ext_left (n := 3) (m := 3) _ _ 3 _ (by omega)).trans ((ext_right (n := 2) (m := 1) _ _ 0 1 (by omega)).trans (ext_self _)))
  have h4_2 : fld (encQ k 0x23#6 d a 0#5 (e ++ g ++ 0#3)) 4 2 = e := (encQ_f_part _ _ _ _ _ _ 4 2 (by omega)).trans ((ext_left (n := 3) (m := 3) _ _ 4 _ (by omega)).trans ((ext_left (n := 2) (m := 1) _ _ 1 _ (by omega)).trans (ext_self _)))
  have hdec : decodeFields (encQ k 0x23#6 d a 0#5 (e ++ g ++ 0#3)) = some (.vredmax k d a e g) := by
    rw [dec_major_23 _ (encQ_m ..)]
    simp only [dec23, h3_1, h4_2, encQ_d, encQ_a, encQ_b, Tk.of, encQ_k, tk_of_bits]
    rw [h0_3]
    rfl
  rw [henc]; unfold decode; rw [hdec]; simp only [hw, if_true]

theorem vredsum (k : Tk) (d : Reg) (a : Reg) (e : BitVec 2) (g : BitVec 1) : Statement (.vredsum k d a e g) := by
  intro _ hw
  have henc : encode (.vredsum k d a e g) = encQ k 0x23#6 d a 0#5 (e ++ g ++ 1#3) := rfl
  have h0_3 : fld (encQ k 0x23#6 d a 0#5 (e ++ g ++ 1#3)) 0 3 = 1#3 := (encQ_f_part _ _ _ _ _ _ 0 3 (by omega)).trans ((ext_right (n := 3) (m := 3) _ _ 0 3 (by omega)).trans (ext_self _))
  have h3_1 : fld (encQ k 0x23#6 d a 0#5 (e ++ g ++ 1#3)) 3 1 = g := (encQ_f_part _ _ _ _ _ _ 3 1 (by omega)).trans ((ext_left (n := 3) (m := 3) _ _ 3 _ (by omega)).trans ((ext_right (n := 2) (m := 1) _ _ 0 1 (by omega)).trans (ext_self _)))
  have h4_2 : fld (encQ k 0x23#6 d a 0#5 (e ++ g ++ 1#3)) 4 2 = e := (encQ_f_part _ _ _ _ _ _ 4 2 (by omega)).trans ((ext_left (n := 3) (m := 3) _ _ 4 _ (by omega)).trans ((ext_left (n := 2) (m := 1) _ _ 1 _ (by omega)).trans (ext_self _)))
  have hdec : decodeFields (encQ k 0x23#6 d a 0#5 (e ++ g ++ 1#3)) = some (.vredsum k d a e g) := by
    rw [dec_major_23 _ (encQ_m ..)]
    simp only [dec23, h3_1, h4_2, encQ_d, encQ_a, encQ_b, Tk.of, encQ_k, tk_of_bits]
    rw [h0_3]
    rfl
  rw [henc]; unfold decode; rw [hdec]; simp only [hw, if_true]

theorem vredmin (k : Tk) (d : Reg) (a : Reg) (e : BitVec 2) (g : BitVec 1) : Statement (.vredmin k d a e g) := by
  intro _ hw
  have henc : encode (.vredmin k d a e g) = encQ k 0x23#6 d a 0#5 (e ++ g ++ 2#3) := rfl
  have h0_3 : fld (encQ k 0x23#6 d a 0#5 (e ++ g ++ 2#3)) 0 3 = 2#3 := (encQ_f_part _ _ _ _ _ _ 0 3 (by omega)).trans ((ext_right (n := 3) (m := 3) _ _ 0 3 (by omega)).trans (ext_self _))
  have h3_1 : fld (encQ k 0x23#6 d a 0#5 (e ++ g ++ 2#3)) 3 1 = g := (encQ_f_part _ _ _ _ _ _ 3 1 (by omega)).trans ((ext_left (n := 3) (m := 3) _ _ 3 _ (by omega)).trans ((ext_right (n := 2) (m := 1) _ _ 0 1 (by omega)).trans (ext_self _)))
  have h4_2 : fld (encQ k 0x23#6 d a 0#5 (e ++ g ++ 2#3)) 4 2 = e := (encQ_f_part _ _ _ _ _ _ 4 2 (by omega)).trans ((ext_left (n := 3) (m := 3) _ _ 4 _ (by omega)).trans ((ext_left (n := 2) (m := 1) _ _ 1 _ (by omega)).trans (ext_self _)))
  have hdec : decodeFields (encQ k 0x23#6 d a 0#5 (e ++ g ++ 2#3)) = some (.vredmin k d a e g) := by
    rw [dec_major_23 _ (encQ_m ..)]
    simp only [dec23, h3_1, h4_2, encQ_d, encQ_a, encQ_b, Tk.of, encQ_k, tk_of_bits]
    rw [h0_3]
    rfl
  rw [henc]; unfold decode; rw [hdec]; simp only [hw, if_true]

theorem vbcast (k : Tk) (d : Reg) (a : Reg) (b : Reg) : Statement (.vbcast k d a b) := by
  intro _ hw
  have henc : encode (.vbcast k d a b) = encQ k 0x23#6 d a b 3#6 := rfl
  have h0_3 : fld (encQ k 0x23#6 d a b 3#6) 0 3 = 3#3 := (encQ_f_part _ _ _ _ _ _ 0 3 (by omega)).trans (rfl)
  have h3_1 : fld (encQ k 0x23#6 d a b 3#6) 3 1 = 0#1 := (encQ_f_part _ _ _ _ _ _ 3 1 (by omega)).trans (rfl)
  have h3_3 : fld (encQ k 0x23#6 d a b 3#6) 3 3 = 0#3 := (encQ_f_part _ _ _ _ _ _ 3 3 (by omega)).trans (rfl)
  have h4_2 : fld (encQ k 0x23#6 d a b 3#6) 4 2 = 0#2 := (encQ_f_part _ _ _ _ _ _ 4 2 (by omega)).trans (rfl)
  have hdec : decodeFields (encQ k 0x23#6 d a b 3#6) = some (.vbcast k d a b) := by
    rw [dec_major_23 _ (encQ_m ..)]
    simp only [dec23, h3_1, h3_3, h4_2, encQ_d, encQ_a, encQ_b, Tk.of, encQ_k, tk_of_bits]
    rw [h0_3]
    rfl
  rw [henc]; unfold decode; rw [hdec]; simp only [hw, if_true]

theorem vperm (k : Tk) (d : Reg) (a : Reg) (b : Reg) : Statement (.vperm k d a b) := by
  intro _ hw
  have henc : encode (.vperm k d a b) = encQ k 0x23#6 d a b 4#6 := rfl
  have h0_3 : fld (encQ k 0x23#6 d a b 4#6) 0 3 = 4#3 := (encQ_f_part _ _ _ _ _ _ 0 3 (by omega)).trans (rfl)
  have h3_1 : fld (encQ k 0x23#6 d a b 4#6) 3 1 = 0#1 := (encQ_f_part _ _ _ _ _ _ 3 1 (by omega)).trans (rfl)
  have h3_3 : fld (encQ k 0x23#6 d a b 4#6) 3 3 = 0#3 := (encQ_f_part _ _ _ _ _ _ 3 3 (by omega)).trans (rfl)
  have h4_2 : fld (encQ k 0x23#6 d a b 4#6) 4 2 = 0#2 := (encQ_f_part _ _ _ _ _ _ 4 2 (by omega)).trans (rfl)
  have hdec : decodeFields (encQ k 0x23#6 d a b 4#6) = some (.vperm k d a b) := by
    rw [dec_major_23 _ (encQ_m ..)]
    simp only [dec23, h3_1, h3_3, h4_2, encQ_d, encQ_a, encQ_b, Tk.of, encQ_k, tk_of_bits]
    rw [h0_3]
    rfl
  rw [henc]; unfold decode; rw [hdec]; simp only [hw, if_true]

theorem vld (k : Tk) (d : Reg) (a : Reg) : Statement (.vld k d a) := by
  intro _ hw
  have henc : encode (.vld k d a) = encQ k 0x24#6 d a 0#5 0#6 := rfl
  have h0_6 : fld (encQ k 0x24#6 d a 0#5 0#6) 0 6 = 0#6 := (encQ_f_part _ _ _ _ _ _ 0 6 (by omega)).trans (ext_self _)
  have hdec : decodeFields (encQ k 0x24#6 d a 0#5 0#6) = some (.vld k d a) := by
    rw [dec_major_24 _ (encQ_m ..)]
    simp only [dec24, encQ_d, encQ_a, encQ_b, Tk.of, encQ_k, tk_of_bits]
    rw [h0_6]
    rfl
  rw [henc]; unfold decode; rw [hdec]; simp only [hw, if_true]

theorem vst (k : Tk) (d : Reg) (a : Reg) : Statement (.vst k d a) := by
  intro _ hw
  have henc : encode (.vst k d a) = encQ k 0x24#6 d a 0#5 1#6 := rfl
  have h0_6 : fld (encQ k 0x24#6 d a 0#5 1#6) 0 6 = 1#6 := (encQ_f_part _ _ _ _ _ _ 0 6 (by omega)).trans (ext_self _)
  have hdec : decodeFields (encQ k 0x24#6 d a 0#5 1#6) = some (.vst k d a) := by
    rw [dec_major_24 _ (encQ_m ..)]
    simp only [dec24, encQ_d, encQ_a, encQ_b, Tk.of, encQ_k, tk_of_bits]
    rw [h0_6]
    rfl
  rw [henc]; unfold decode; rw [hdec]; simp only [hw, if_true]

theorem vlds (k : Tk) (d : Reg) (a : Reg) (b : Reg) : Statement (.vlds k d a b) := by
  intro _ hw
  have henc : encode (.vlds k d a b) = encQ k 0x24#6 d a b 2#6 := rfl
  have h0_6 : fld (encQ k 0x24#6 d a b 2#6) 0 6 = 2#6 := (encQ_f_part _ _ _ _ _ _ 0 6 (by omega)).trans (ext_self _)
  have hdec : decodeFields (encQ k 0x24#6 d a b 2#6) = some (.vlds k d a b) := by
    rw [dec_major_24 _ (encQ_m ..)]
    simp only [dec24, encQ_d, encQ_a, encQ_b, Tk.of, encQ_k, tk_of_bits]
    rw [h0_6]
    rfl
  rw [henc]; unfold decode; rw [hdec]; simp only [hw, if_true]

theorem vsts (k : Tk) (d : Reg) (a : Reg) (b : Reg) : Statement (.vsts k d a b) := by
  intro _ hw
  have henc : encode (.vsts k d a b) = encQ k 0x24#6 d a b 3#6 := rfl
  have h0_6 : fld (encQ k 0x24#6 d a b 3#6) 0 6 = 3#6 := (encQ_f_part _ _ _ _ _ _ 0 6 (by omega)).trans (ext_self _)
  have hdec : decodeFields (encQ k 0x24#6 d a b 3#6) = some (.vsts k d a b) := by
    rw [dec_major_24 _ (encQ_m ..)]
    simp only [dec24, encQ_d, encQ_a, encQ_b, Tk.of, encQ_k, tk_of_bits]
    rw [h0_6]
    rfl
  rw [henc]; unfold decode; rw [hdec]; simp only [hw, if_true]

theorem vldx (k : Tk) (d : Reg) (a : Reg) (b : Reg) : Statement (.vldx k d a b) := by
  intro _ hw
  have henc : encode (.vldx k d a b) = encQ k 0x24#6 d a b 4#6 := rfl
  have h0_6 : fld (encQ k 0x24#6 d a b 4#6) 0 6 = 4#6 := (encQ_f_part _ _ _ _ _ _ 0 6 (by omega)).trans (ext_self _)
  have hdec : decodeFields (encQ k 0x24#6 d a b 4#6) = some (.vldx k d a b) := by
    rw [dec_major_24 _ (encQ_m ..)]
    simp only [dec24, encQ_d, encQ_a, encQ_b, Tk.of, encQ_k, tk_of_bits]
    rw [h0_6]
    rfl
  rw [henc]; unfold decode; rw [hdec]; simp only [hw, if_true]

theorem vstx (k : Tk) (d : Reg) (a : Reg) (b : Reg) : Statement (.vstx k d a b) := by
  intro _ hw
  have henc : encode (.vstx k d a b) = encQ k 0x24#6 d a b 5#6 := rfl
  have h0_6 : fld (encQ k 0x24#6 d a b 5#6) 0 6 = 5#6 := (encQ_f_part _ _ _ _ _ _ 0 6 (by omega)).trans (ext_self _)
  have hdec : decodeFields (encQ k 0x24#6 d a b 5#6) = some (.vstx k d a b) := by
    rw [dec_major_24 _ (encQ_m ..)]
    simp only [dec24, encQ_d, encQ_a, encQ_b, Tk.of, encQ_k, tk_of_bits]
    rw [h0_6]
    rfl
  rw [henc]; unfold decode; rw [hdec]; simp only [hw, if_true]

theorem vldb (k : Tk) (a : Reg) : Statement (.vldb k a) := by
  intro _ hw
  have henc : encode (.vldb k a) = encQ k 0x24#6 0#5 a 0#5 6#6 := rfl
  have h0_6 : fld (encQ k 0x24#6 0#5 a 0#5 6#6) 0 6 = 6#6 := (encQ_f_part _ _ _ _ _ _ 0 6 (by omega)).trans (ext_self _)
  have hdec : decodeFields (encQ k 0x24#6 0#5 a 0#5 6#6) = some (.vldb k a) := by
    rw [dec_major_24 _ (encQ_m ..)]
    simp only [dec24, encQ_d, encQ_a, encQ_b, Tk.of, encQ_k, tk_of_bits]
    rw [h0_6]
    rfl
  rw [henc]; unfold decode; rw [hdec]; simp only [hw, if_true]

theorem vpushc (k : Tk) (a : Reg) (b : Reg) : Statement (.vpushc k a b) := by
  intro _ hw
  have henc : encode (.vpushc k a b) = encQ k 0x25#6 0#5 a b 0#6 := rfl
  have h0_6 : fld (encQ k 0x25#6 0#5 a b 0#6) 0 6 = 0#6 := (encQ_f_part _ _ _ _ _ _ 0 6 (by omega)).trans (ext_self _)
  have hdec : decodeFields (encQ k 0x25#6 0#5 a b 0#6) = some (.vpushc k a b) := by
    rw [dec_major_25 _ (encQ_m ..)]
    simp only [dec25, encQ_d, encQ_a, encQ_b, Tk.of, encQ_k, tk_of_bits]
    rw [h0_6]
    rfl
  rw [henc]; unfold decode; rw [hdec]; simp only [hw, if_true]

theorem vpopc (k : Tk) (d : Reg) (b : Reg) : Statement (.vpopc k d b) := by
  intro _ hw
  have henc : encode (.vpopc k d b) = encQ k 0x25#6 d 0#5 b 1#6 := rfl
  have h0_6 : fld (encQ k 0x25#6 d 0#5 b 1#6) 0 6 = 1#6 := (encQ_f_part _ _ _ _ _ _ 0 6 (by omega)).trans (ext_self _)
  have hdec : decodeFields (encQ k 0x25#6 d 0#5 b 1#6) = some (.vpopc k d b) := by
    rw [dec_major_25 _ (encQ_m ..)]
    simp only [dec25, encQ_d, encQ_a, encQ_b, Tk.of, encQ_k, tk_of_bits]
    rw [h0_6]
    rfl
  rw [henc]; unfold decode; rw [hdec]; simp only [hw, if_true]

theorem vbal (k : Tk) (d : Reg) (a : Reg) : Statement (.vbal k d a) := by
  intro _ hw
  have henc : encode (.vbal k d a) = encQ k 0x25#6 d a 0#5 2#6 := rfl
  have h0_6 : fld (encQ k 0x25#6 d a 0#5 2#6) 0 6 = 2#6 := (encQ_f_part _ _ _ _ _ _ 0 6 (by omega)).trans (ext_self _)
  have hdec : decodeFields (encQ k 0x25#6 d a 0#5 2#6) = some (.vbal k d a) := by
    rw [dec_major_25 _ (encQ_m ..)]
    simp only [dec25, encQ_d, encQ_a, encQ_b, Tk.of, encQ_k, tk_of_bits]
    rw [h0_6]
    rfl
  rw [henc]; unfold decode; rw [hdec]; simp only [hw, if_true]

theorem vsoftk (k : Tk) (d : Reg) (a : Reg) (b : Reg) : Statement (.vsoftk k d a b) := by
  intro _ hw
  have henc : encode (.vsoftk k d a b) = encQ k 0x26#6 d a b 0#6 := rfl
  have h0_6 : fld (encQ k 0x26#6 d a b 0#6) 0 6 = 0#6 := (encQ_f_part _ _ _ _ _ _ 0 6 (by omega)).trans (ext_self _)
  have hdec : decodeFields (encQ k 0x26#6 d a b 0#6) = some (.vsoftk k d a b) := by
    rw [dec_major_26 _ (encQ_m ..)]
    simp only [dec26, encQ_d, encQ_a, encQ_b, Tk.of, encQ_k, tk_of_bits]
    rw [h0_6]
    rfl
  rw [henc]; unfold decode; rw [hdec]; simp only [hw, if_true]

theorem vhist (k : Tk) (d : Reg) (a : Reg) (b : Reg) : Statement (.vhist k d a b) := by
  intro _ hw
  have henc : encode (.vhist k d a b) = encQ k 0x26#6 d a b 1#6 := rfl
  have h0_6 : fld (encQ k 0x26#6 d a b 1#6) 0 6 = 1#6 := (encQ_f_part _ _ _ _ _ _ 0 6 (by omega)).trans (ext_self _)
  have hdec : decodeFields (encQ k 0x26#6 d a b 1#6) = some (.vhist k d a b) := by
    rw [dec_major_26 _ (encQ_m ..)]
    simp only [dec26, encQ_d, encQ_a, encQ_b, Tk.of, encQ_k, tk_of_bits]
    rw [h0_6]
    rfl
  rw [henc]; unfold decode; rw [hdec]; simp only [hw, if_true]

theorem vmov (k : Tk) (d : Reg) (a : Reg) : Statement (.vmov k d a) := by
  intro _ hw
  have henc : encode (.vmov k d a) = encQ k 0x27#6 d a 0#5 0#6 := rfl
  have h0_6 : fld (encQ k 0x27#6 d a 0#5 0#6) 0 6 = 0#6 := (encQ_f_part _ _ _ _ _ _ 0 6 (by omega)).trans (ext_self _)
  have hdec : decodeFields (encQ k 0x27#6 d a 0#5 0#6) = some (.vmov k d a) := by
    rw [dec_major_27 _ (encQ_m ..)]
    simp only [dec27, encQ_d, encQ_a, encQ_b, Tk.of, encQ_k, tk_of_bits]
    rw [h0_6]
    rfl
  rw [henc]; unfold decode; rw [hdec]; simp only [hw, if_true]

theorem vsplat (k : Tk) (d : Reg) (a : Reg) : Statement (.vsplat k d a) := by
  intro _ hw
  have henc : encode (.vsplat k d a) = encQ k 0x27#6 d a 0#5 1#6 := rfl
  have h0_6 : fld (encQ k 0x27#6 d a 0#5 1#6) 0 6 = 1#6 := (encQ_f_part _ _ _ _ _ _ 0 6 (by omega)).trans (ext_self _)
  have hdec : decodeFields (encQ k 0x27#6 d a 0#5 1#6) = some (.vsplat k d a) := by
    rw [dec_major_27 _ (encQ_m ..)]
    simp only [dec27, encQ_d, encQ_a, encQ_b, Tk.of, encQ_k, tk_of_bits]
    rw [h0_6]
    rfl
  rw [henc]; unfold decode; rw [hdec]; simp only [hw, if_true]

theorem vlane (k : Tk) (d : Reg) (a : Reg) (b : Reg) : Statement (.vlane k d a b) := by
  intro _ hw
  have henc : encode (.vlane k d a b) = encQ k 0x27#6 d a b 2#6 := rfl
  have h0_6 : fld (encQ k 0x27#6 d a b 2#6) 0 6 = 2#6 := (encQ_f_part _ _ _ _ _ _ 0 6 (by omega)).trans (ext_self _)
  have hdec : decodeFields (encQ k 0x27#6 d a b 2#6) = some (.vlane k d a b) := by
    rw [dec_major_27 _ (encQ_m ..)]
    simp only [dec27, encQ_d, encQ_a, encQ_b, Tk.of, encQ_k, tk_of_bits]
    rw [h0_6]
    rfl
  rw [henc]; unfold decode; rw [hdec]; simp only [hw, if_true]

theorem vsel (k : Tk) (d : Reg) (a : Reg) (b : Reg) : Statement (.vsel k d a b) := by
  intro _ hw
  have henc : encode (.vsel k d a b) = encQ k 0x27#6 d a b 3#6 := rfl
  have h0_6 : fld (encQ k 0x27#6 d a b 3#6) 0 6 = 3#6 := (encQ_f_part _ _ _ _ _ _ 0 6 (by omega)).trans (ext_self _)
  have hdec : decodeFields (encQ k 0x27#6 d a b 3#6) = some (.vsel k d a b) := by
    rw [dec_major_27 _ (encQ_m ..)]
    simp only [dec27, encQ_d, encQ_a, encQ_b, Tk.of, encQ_k, tk_of_bits]
    rw [h0_6]
    rfl
  rw [henc]; unfold decode; rw [hdec]; simp only [hw, if_true]

theorem vmset (k : Tk) (d : Reg) (a : Reg) (b : Reg) : Statement (.vmset k d a b) := by
  intro _ hw
  have henc : encode (.vmset k d a b) = encQ k 0x27#6 d a b 4#6 := rfl
  have h0_6 : fld (encQ k 0x27#6 d a b 4#6) 0 6 = 4#6 := (encQ_f_part _ _ _ _ _ _ 0 6 (by omega)).trans (ext_self _)
  have hdec : decodeFields (encQ k 0x27#6 d a b 4#6) = some (.vmset k d a b) := by
    rw [dec_major_27 _ (encQ_m ..)]
    simp only [dec27, encQ_d, encQ_a, encQ_b, Tk.of, encQ_k, tk_of_bits]
    rw [h0_6]
    rfl
  rw [henc]; unfold decode; rw [hdec]; simp only [hw, if_true]

theorem vidx (k : Tk) (d : Reg) : Statement (.vidx k d) := by
  intro _ hw
  have henc : encode (.vidx k d) = encQ k 0x27#6 d 0#5 0#5 5#6 := rfl
  have h0_6 : fld (encQ k 0x27#6 d 0#5 0#5 5#6) 0 6 = 5#6 := (encQ_f_part _ _ _ _ _ _ 0 6 (by omega)).trans (ext_self _)
  have hdec : decodeFields (encQ k 0x27#6 d 0#5 0#5 5#6) = some (.vidx k d) := by
    rw [dec_major_27 _ (encQ_m ..)]
    simp only [dec27, encQ_d, encQ_a, encQ_b, Tk.of, encQ_k, tk_of_bits]
    rw [h0_6]
    rfl
  rw [henc]; unfold decode; rw [hdec]; simp only [hw, if_true]

theorem mxcfg (k : Tk) (a : Reg) : Statement (.mxcfg k a) := by
  intro _ hw
  have henc : encode (.mxcfg k a) = encK k 0x28#6 0#5 a 0#3 0#8 := rfl
  have h0_1 : fld (encK k 0x28#6 0#5 a 0#3 0#8) 0 1 = 0#1 := (encK_i_part _ _ _ _ _ _ 0 1 (by omega)).trans (rfl)
  have h0_8 : fld (encK k 0x28#6 0#5 a 0#3 0#8) 0 8 = 0#8 := (encK_i_part _ _ _ _ _ _ 0 8 (by omega)).trans (ext_self _)
  have h1_7 : fld (encK k 0x28#6 0#5 a 0#3 0#8) 1 7 = 0#7 := (encK_i_part _ _ _ _ _ _ 1 7 (by omega)).trans (rfl)
  have hdec : decodeFields (encK k 0x28#6 0#5 a 0#3 0#8) = some (.mxcfg k a) := by
    rw [dec_major_28 _ (encK_m ..)]
    simp only [dec28, h0_1, h0_8, h1_7, encK_d, encK_a, Tk.of, encK_k, tk_of_bits]
    rw [encK_f]
    rfl
  rw [henc]; unfold decode; rw [hdec]; simp only [hw, if_true]

theorem mxfmt (k : Tk) (d : Reg) (a : Reg) : Statement (.mxfmt k d a) := by
  intro _ hw
  have henc : encode (.mxfmt k d a) = encK k 0x28#6 d a 1#3 0#8 := rfl
  have h0_1 : fld (encK k 0x28#6 d a 1#3 0#8) 0 1 = 0#1 := (encK_i_part _ _ _ _ _ _ 0 1 (by omega)).trans (rfl)
  have h0_8 : fld (encK k 0x28#6 d a 1#3 0#8) 0 8 = 0#8 := (encK_i_part _ _ _ _ _ _ 0 8 (by omega)).trans (ext_self _)
  have h1_7 : fld (encK k 0x28#6 d a 1#3 0#8) 1 7 = 0#7 := (encK_i_part _ _ _ _ _ _ 1 7 (by omega)).trans (rfl)
  have hdec : decodeFields (encK k 0x28#6 d a 1#3 0#8) = some (.mxfmt k d a) := by
    rw [dec_major_28 _ (encK_m ..)]
    simp only [dec28, h0_1, h0_8, h1_7, encK_d, encK_a, Tk.of, encK_k, tk_of_bits]
    rw [encK_f]
    rfl
  rw [henc]; unfold decode; rw [hdec]; simp only [hw, if_true]

theorem mxgo (k : Tk) (d : Reg) (a : Reg) : Statement (.mxgo k d a) := by
  intro _ hw
  have henc : encode (.mxgo k d a) = encK k 0x28#6 d a 2#3 0#8 := rfl
  have h0_1 : fld (encK k 0x28#6 d a 2#3 0#8) 0 1 = 0#1 := (encK_i_part _ _ _ _ _ _ 0 1 (by omega)).trans (rfl)
  have h0_8 : fld (encK k 0x28#6 d a 2#3 0#8) 0 8 = 0#8 := (encK_i_part _ _ _ _ _ _ 0 8 (by omega)).trans (ext_self _)
  have h1_7 : fld (encK k 0x28#6 d a 2#3 0#8) 1 7 = 0#7 := (encK_i_part _ _ _ _ _ _ 1 7 (by omega)).trans (rfl)
  have hdec : decodeFields (encK k 0x28#6 d a 2#3 0#8) = some (.mxgo k d a) := by
    rw [dec_major_28 _ (encK_m ..)]
    simp only [dec28, h0_1, h0_8, h1_7, encK_d, encK_a, Tk.of, encK_k, tk_of_bits]
    rw [encK_f]
    rfl
  rw [henc]; unfold decode; rw [hdec]; simp only [hw, if_true]

theorem mxzero (k : Tk) (d : Reg) : Statement (.mxzero k d) := by
  intro _ hw
  have henc : encode (.mxzero k d) = encK k 0x28#6 d 0#5 3#3 0#8 := rfl
  have h0_1 : fld (encK k 0x28#6 d 0#5 3#3 0#8) 0 1 = 0#1 := (encK_i_part _ _ _ _ _ _ 0 1 (by omega)).trans (rfl)
  have h0_8 : fld (encK k 0x28#6 d 0#5 3#3 0#8) 0 8 = 0#8 := (encK_i_part _ _ _ _ _ _ 0 8 (by omega)).trans (ext_self _)
  have h1_7 : fld (encK k 0x28#6 d 0#5 3#3 0#8) 1 7 = 0#7 := (encK_i_part _ _ _ _ _ _ 1 7 (by omega)).trans (rfl)
  have hdec : decodeFields (encK k 0x28#6 d 0#5 3#3 0#8) = some (.mxzero k d) := by
    rw [dec_major_28 _ (encK_m ..)]
    simp only [dec28, h0_1, h0_8, h1_7, encK_d, encK_a, Tk.of, encK_k, tk_of_bits]
    rw [encK_f]
    rfl
  rw [henc]; unfold decode; rw [hdec]; simp only [hw, if_true]

theorem mxstat (k : Tk) (d : Reg) (c : BitVec 1) : Statement (.mxstat k d c) := by
  intro _ hw
  have henc : encode (.mxstat k d c) = encK k 0x28#6 d 0#5 4#3 (0#7 ++ c) := rfl
  have h0_1 : fld (encK k 0x28#6 d 0#5 4#3 (0#7 ++ c)) 0 1 = c := (encK_i_part _ _ _ _ _ _ 0 1 (by omega)).trans ((ext_right (n := 7) (m := 1) _ _ 0 1 (by omega)).trans (ext_self _))
  have h1_7 : fld (encK k 0x28#6 d 0#5 4#3 (0#7 ++ c)) 1 7 = 0#7 := (encK_i_part _ _ _ _ _ _ 1 7 (by omega)).trans ((ext_left (n := 7) (m := 1) _ _ 1 _ (by omega)).trans (ext_self _))
  have hdec : decodeFields (encK k 0x28#6 d 0#5 4#3 (0#7 ++ c)) = some (.mxstat k d c) := by
    rw [dec_major_28 _ (encK_m ..)]
    simp only [dec28, h0_1, h1_7, encK_d, encK_a, Tk.of, encK_k, tk_of_bits]
    rw [encK_f]
    rfl
  rw [henc]; unfold decode; rw [hdec]; simp only [hw, if_true]

theorem mxmm (k : Tk) (d : Reg) (a : Reg) (b : Reg) : Statement (.mxmm k d a b) := by
  intro _ hw
  have henc : encode (.mxmm k d a b) = encQ k 0x29#6 d a b 0#6 := rfl
  have h0_6 : fld (encQ k 0x29#6 d a b 0#6) 0 6 = 0#6 := (encQ_f_part _ _ _ _ _ _ 0 6 (by omega)).trans (ext_self _)
  have hdec : decodeFields (encQ k 0x29#6 d a b 0#6) = some (.mxmm k d a b) := by
    rw [dec_major_29 _ (encQ_m ..)]
    simp only [dec29, encQ_d, encQ_a, encQ_b, Tk.of, encQ_k, tk_of_bits]
    rw [h0_6]
    rfl
  rw [henc]; unfold decode; rw [hdec]; simp only [hw, if_true]

theorem mxbin (k : Tk) (d : Reg) (a : Reg) (b : Reg) : Statement (.mxbin k d a b) := by
  intro _ hw
  have henc : encode (.mxbin k d a b) = encQ k 0x29#6 d a b 1#6 := rfl
  have h0_6 : fld (encQ k 0x29#6 d a b 1#6) 0 6 = 1#6 := (encQ_f_part _ _ _ _ _ _ 0 6 (by omega)).trans (ext_self _)
  have hdec : decodeFields (encQ k 0x29#6 d a b 1#6) = some (.mxbin k d a b) := by
    rw [dec_major_29 _ (encQ_m ..)]
    simp only [dec29, encQ_d, encQ_a, encQ_b, Tk.of, encQ_k, tk_of_bits]
    rw [h0_6]
    rfl
  rw [henc]; unfold decode; rw [hdec]; simp only [hw, if_true]

theorem mxrank (k : Tk) (d : Reg) (a : Reg) (b : Reg) : Statement (.mxrank k d a b) := by
  intro _ hw
  have henc : encode (.mxrank k d a b) = encQ k 0x29#6 d a b 2#6 := rfl
  have h0_6 : fld (encQ k 0x29#6 d a b 2#6) 0 6 = 2#6 := (encQ_f_part _ _ _ _ _ _ 0 6 (by omega)).trans (ext_self _)
  have hdec : decodeFields (encQ k 0x29#6 d a b 2#6) = some (.mxrank k d a b) := by
    rw [dec_major_29 _ (encQ_m ..)]
    simp only [dec29, encQ_d, encQ_a, encQ_b, Tk.of, encQ_k, tk_of_bits]
    rw [h0_6]
    rfl
  rw [henc]; unfold decode; rw [hdec]; simp only [hw, if_true]

theorem mxsp (k : Tk) (d : Reg) (a : Reg) (b : Reg) : Statement (.mxsp k d a b) := by
  intro _ hw
  have henc : encode (.mxsp k d a b) = encQ k 0x29#6 d a b 3#6 := rfl
  have h0_6 : fld (encQ k 0x29#6 d a b 3#6) 0 6 = 3#6 := (encQ_f_part _ _ _ _ _ _ 0 6 (by omega)).trans (ext_self _)
  have hdec : decodeFields (encQ k 0x29#6 d a b 3#6) = some (.mxsp k d a b) := by
    rw [dec_major_29 _ (encQ_m ..)]
    simp only [dec29, encQ_d, encQ_a, encQ_b, Tk.of, encQ_k, tk_of_bits]
    rw [h0_6]
    rfl
  rw [henc]; unfold decode; rw [hdec]; simp only [hw, if_true]

theorem mxst (k : Tk) (d : Reg) (a : Reg) (b : Reg) : Statement (.mxst k d a b) := by
  intro _ hw
  have henc : encode (.mxst k d a b) = encQ k 0x2a#6 d a b 0#6 := rfl
  have h0_6 : fld (encQ k 0x2a#6 d a b 0#6) 0 6 = 0#6 := (encQ_f_part _ _ _ _ _ _ 0 6 (by omega)).trans (ext_self _)
  have hdec : decodeFields (encQ k 0x2a#6 d a b 0#6) = some (.mxst k d a b) := by
    rw [dec_major_2a _ (encQ_m ..)]
    simp only [dec2a, encQ_d, encQ_a, encQ_b, Tk.of, encQ_k, tk_of_bits]
    rw [h0_6]
    rfl
  rw [henc]; unfold decode; rw [hdec]; simp only [hw, if_true]

theorem mxld (k : Tk) (d : Reg) (a : Reg) (b : Reg) : Statement (.mxld k d a b) := by
  intro _ hw
  have henc : encode (.mxld k d a b) = encQ k 0x2a#6 d a b 1#6 := rfl
  have h0_6 : fld (encQ k 0x2a#6 d a b 1#6) 0 6 = 1#6 := (encQ_f_part _ _ _ _ _ _ 0 6 (by omega)).trans (ext_self _)
  have hdec : decodeFields (encQ k 0x2a#6 d a b 1#6) = some (.mxld k d a b) := by
    rw [dec_major_2a _ (encQ_m ..)]
    simp only [dec2a, encQ_d, encQ_a, encQ_b, Tk.of, encQ_k, tk_of_bits]
    rw [h0_6]
    rfl
  rw [henc]; unfold decode; rw [hdec]; simp only [hw, if_true]

theorem mxtov (k : Tk) (d : Reg) (a : Reg) (b : Reg) : Statement (.mxtov k d a b) := by
  intro _ hw
  have henc : encode (.mxtov k d a b) = encQ k 0x2a#6 d a b 2#6 := rfl
  have h0_6 : fld (encQ k 0x2a#6 d a b 2#6) 0 6 = 2#6 := (encQ_f_part _ _ _ _ _ _ 0 6 (by omega)).trans (ext_self _)
  have hdec : decodeFields (encQ k 0x2a#6 d a b 2#6) = some (.mxtov k d a b) := by
    rw [dec_major_2a _ (encQ_m ..)]
    simp only [dec2a, encQ_d, encQ_a, encQ_b, Tk.of, encQ_k, tk_of_bits]
    rw [h0_6]
    rfl
  rw [henc]; unfold decode; rw [hdec]; simp only [hw, if_true]

theorem mxfromv (k : Tk) (d : Reg) (a : Reg) (b : Reg) : Statement (.mxfromv k d a b) := by
  intro _ hw
  have henc : encode (.mxfromv k d a b) = encQ k 0x2a#6 d a b 3#6 := rfl
  have h0_6 : fld (encQ k 0x2a#6 d a b 3#6) 0 6 = 3#6 := (encQ_f_part _ _ _ _ _ _ 0 6 (by omega)).trans (ext_self _)
  have hdec : decodeFields (encQ k 0x2a#6 d a b 3#6) = some (.mxfromv k d a b) := by
    rw [dec_major_2a _ (encQ_m ..)]
    simp only [dec2a, encQ_d, encQ_a, encQ_b, Tk.of, encQ_k, tk_of_bits]
    rw [h0_6]
    rfl
  rw [henc]; unfold decode; rw [hdec]; simp only [hw, if_true]

theorem enote (k : Tk) (d : Reg) : Statement (.enote k d) := by
  intro _ hw
  have henc : encode (.enote k d) = encK k 0x2b#6 d 0#5 0#3 0#8 := rfl
  have h0_1 : fld (encK k 0x2b#6 d 0#5 0#3 0#8) 0 1 = 0#1 := (encK_i_part _ _ _ _ _ _ 0 1 (by omega)).trans (rfl)
  have h0_3 : fld (encK k 0x2b#6 d 0#5 0#3 0#8) 0 3 = 0#3 := (encK_i_part _ _ _ _ _ _ 0 3 (by omega)).trans (rfl)
  have h0_8 : fld (encK k 0x2b#6 d 0#5 0#3 0#8) 0 8 = 0#8 := (encK_i_part _ _ _ _ _ _ 0 8 (by omega)).trans (ext_self _)
  have h1_7 : fld (encK k 0x2b#6 d 0#5 0#3 0#8) 1 7 = 0#7 := (encK_i_part _ _ _ _ _ _ 1 7 (by omega)).trans (rfl)
  have h3_5 : fld (encK k 0x2b#6 d 0#5 0#3 0#8) 3 5 = 0#5 := (encK_i_part _ _ _ _ _ _ 3 5 (by omega)).trans (rfl)
  have hdec : decodeFields (encK k 0x2b#6 d 0#5 0#3 0#8) = some (.enote k d) := by
    rw [dec_major_2b _ (encK_m ..)]
    simp only [dec2b, h0_1, h0_3, h0_8, h1_7, h3_5, encK_d, encK_a, Tk.of, encK_k, tk_of_bits]
    rw [encK_f]
    rfl
  rw [henc]; unfold decode; rw [hdec]; simp only [hw, if_true]

theorem eqf (y : Bool) (m : BitVec 3) : Statement (.eqf y m) := by
  intro _ hw
  have henc : encode (.eqf y m) = encK ⟨false, false, false, false, y⟩ 0x2b#6 0#5 0#5 1#3 (0#5 ++ m) := rfl
  have h0_3 : fld (encK ⟨false, false, false, false, y⟩ 0x2b#6 0#5 0#5 1#3 (0#5 ++ m)) 0 3 = m := (encK_i_part _ _ _ _ _ _ 0 3 (by omega)).trans ((ext_right (n := 5) (m := 3) _ _ 0 3 (by omega)).trans (ext_self _))
  have h3_5 : fld (encK ⟨false, false, false, false, y⟩ 0x2b#6 0#5 0#5 1#3 (0#5 ++ m)) 3 5 = 0#5 := (encK_i_part _ _ _ _ _ _ 3 5 (by omega)).trans ((ext_left (n := 5) (m := 3) _ _ 3 _ (by omega)).trans (ext_self _))
  have hdec : decodeFields (encK ⟨false, false, false, false, y⟩ 0x2b#6 0#5 0#5 1#3 (0#5 ++ m)) = some (.eqf y m) := by
    rw [dec_major_2b _ (encK_m ..)]
    simp only [dec2b, h0_3, h3_5, encK_d, encK_a, Tk.of, encK_k, tk_of_bits]
    rw [encK_f]
    rfl
  rw [henc]; unfold decode; rw [hdec]; simp only [hw, if_true]

theorem egrd (d : Reg) (g : BitVec 1) : Statement (.egrd d g) := by
  intro _ hw
  have henc : encode (.egrd d g) = encK Tk.none 0x2b#6 d 0#5 2#3 (0#7 ++ g) := rfl
  have h0_1 : fld (encK Tk.none 0x2b#6 d 0#5 2#3 (0#7 ++ g)) 0 1 = g := (encK_i_part _ _ _ _ _ _ 0 1 (by omega)).trans ((ext_right (n := 7) (m := 1) _ _ 0 1 (by omega)).trans (ext_self _))
  have h1_7 : fld (encK Tk.none 0x2b#6 d 0#5 2#3 (0#7 ++ g)) 1 7 = 0#7 := (encK_i_part _ _ _ _ _ _ 1 7 (by omega)).trans ((ext_left (n := 7) (m := 1) _ _ 1 _ (by omega)).trans (ext_self _))
  have h3_5 : fld (encK Tk.none 0x2b#6 d 0#5 2#3 (0#7 ++ g)) 3 5 = 0#5 := (encK_i_part _ _ _ _ _ _ 3 5 (by omega)).trans ((ext_left (n := 7) (m := 1) _ _ 3 _ (by omega)).trans (rfl))
  have hdec : decodeFields (encK Tk.none 0x2b#6 d 0#5 2#3 (0#7 ++ g)) = some (.egrd d g) := by
    rw [dec_major_2b _ (encK_m ..)]
    simp only [dec2b, h0_1, h1_7, h3_5, encK_d, encK_a, Tk.of, encK_k, tk_of_bits]
    rw [encK_f]
    rfl
  rw [henc]; unfold decode; rw [hdec]; simp only [hw, if_true]

theorem cpin (k : Tk) (s : BitVec 4) (p : BitVec 4) (a : Reg) (b : Reg) : Statement (.cpin k s p a b) := by
  intro _ hw
  have henc : encode (.cpin k s p a b) = encX k 0x2c#6 s 0#2 p a b 0#1 := rfl
  have hdec : decodeFields (encX k 0x2c#6 s 0#2 p a b 0#1) = some (.cpin k s p a b) := by
    rw [dec_major_2c _ (encX_m ..)]
    simp only [dec2c, encX_s, encX_r, encX_p, encX_a, encX_b, encX_f, Tk.of, encX_k, tk_of_bits]
    rfl
  rw [henc]; unfold decode; rw [hdec]; simp only [hw, if_true]

theorem cpout (k : Tk) (s : BitVec 4) (p : BitVec 4) (a : Reg) (b : Reg) : Statement (.cpout k s p a b) := by
  intro _ hw
  have henc : encode (.cpout k s p a b) = encX k 0x2d#6 s 0#2 p a b 0#1 := rfl
  have hdec : decodeFields (encX k 0x2d#6 s 0#2 p a b 0#1) = some (.cpout k s p a b) := by
    rw [dec_major_2d _ (encX_m ..)]
    simp only [dec2d, encX_s, encX_r, encX_p, encX_a, encX_b, encX_f, Tk.of, encX_k, tk_of_bits]
    rfl
  rw [henc]; unfold decode; rw [hdec]; simp only [hw, if_true]

theorem cpss (k : Tk) (s : BitVec 4) (p : BitVec 4) (a : Reg) (b : Reg) : Statement (.cpss k s p a b) := by
  intro _ hw
  have henc : encode (.cpss k s p a b) = encX k 0x2e#6 s 0#2 p a b 0#1 := rfl
  have hdec : decodeFields (encX k 0x2e#6 s 0#2 p a b 0#1) = some (.cpss k s p a b) := by
    rw [dec_major_2e _ (encX_m ..)]
    simp only [dec2e, encX_s, encX_r, encX_p, encX_a, encX_b, encX_f, Tk.of, encX_k, tk_of_bits]
    rfl
  rw [henc]; unfold decode; rw [hdec]; simp only [hw, if_true]

theorem cpred (k : Tk) (s : BitVec 4) (p : BitVec 4) (a : Reg) (b : Reg) : Statement (.cpred k s p a b) := by
  intro _ hw
  have henc : encode (.cpred k s p a b) = encX k 0x2f#6 s 0#2 p a b 0#1 := rfl
  have hdec : decodeFields (encX k 0x2f#6 s 0#2 p a b 0#1) = some (.cpred k s p a b) := by
    rw [dec_major_2f _ (encX_m ..)]
    simp only [dec2f, encX_s, encX_r, encX_p, encX_a, encX_b, encX_f, Tk.of, encX_k, tk_of_bits]
    rfl
  rw [henc]; unfold decode; rw [hdec]; simp only [hw, if_true]

theorem cpoq (k : Tk) (s : BitVec 4) (p : BitVec 4) (a : Reg) (b : Reg) : Statement (.cpoq k s p a b) := by
  intro _ hw
  have henc : encode (.cpoq k s p a b) = encX k 0x30#6 s 0#2 p a b 0#1 := rfl
  have hdec : decodeFields (encX k 0x30#6 s 0#2 p a b 0#1) = some (.cpoq k s p a b) := by
    rw [dec_major_30 _ (encX_m ..)]
    simp only [dec30, encX_s, encX_r, encX_p, encX_a, encX_b, encX_f, Tk.of, encX_k, tk_of_bits]
    rfl
  rw [henc]; unfold decode; rw [hdec]; simp only [hw, if_true]

theorem xput (k : Tk) (s : BitVec 4) (r : BitVec 2) (p : BitVec 4) (a : Reg) (b : Reg) : Statement (.xput k s r p a b) := by
  intro _ hw
  have henc : encode (.xput k s r p a b) = encX k 0x31#6 s r p a b 0#1 := rfl
  have hdec : decodeFields (encX k 0x31#6 s r p a b 0#1) = some (.xput k s r p a b) := by
    rw [dec_major_31 _ (encX_m ..)]
    simp only [dec31, encX_s, encX_r, encX_p, encX_a, encX_b, encX_f, Tk.of, encX_k, tk_of_bits]
    rfl
  rw [henc]; unfold decode; rw [hdec]; simp only [hw, if_true]

theorem xget (k : Tk) (s : BitVec 4) (r : BitVec 2) (p : BitVec 4) (a : Reg) (b : Reg) : Statement (.xget k s r p a b) := by
  intro _ hw
  have henc : encode (.xget k s r p a b) = encX k 0x32#6 s r p a b 0#1 := rfl
  have hdec : decodeFields (encX k 0x32#6 s r p a b 0#1) = some (.xget k s r p a b) := by
    rw [dec_major_32 _ (encX_m ..)]
    simp only [dec32, encX_s, encX_r, encX_p, encX_a, encX_b, encX_f, Tk.of, encX_k, tk_of_bits]
    rfl
  rw [henc]; unfold decode; rw [hdec]; simp only [hw, if_true]

theorem xmc (k : Tk) (s : BitVec 4) (r : BitVec 2) (p : BitVec 4) (a : Reg) (b : Reg) : Statement (.xmc k s r p a b) := by
  intro _ hw
  have henc : encode (.xmc k s r p a b) = encX k 0x33#6 s r p a b 0#1 := rfl
  have hdec : decodeFields (encX k 0x33#6 s r p a b 0#1) = some (.xmc k s r p a b) := by
    rw [dec_major_33 _ (encX_m ..)]
    simp only [dec33, encX_s, encX_r, encX_p, encX_a, encX_b, encX_f, Tk.of, encX_k, tk_of_bits]
    rfl
  rw [henc]; unfold decode; rw [hdec]; simp only [hw, if_true]

theorem xcmb (k : Tk) (s : BitVec 4) (r : BitVec 2) (p : BitVec 4) (a : Reg) (b : Reg) : Statement (.xcmb k s r p a b) := by
  intro _ hw
  have henc : encode (.xcmb k s r p a b) = encX k 0x34#6 s r p a b 0#1 := rfl
  have hdec : decodeFields (encX k 0x34#6 s r p a b 0#1) = some (.xcmb k s r p a b) := by
    rw [dec_major_34 _ (encX_m ..)]
    simp only [dec34, encX_s, encX_r, encX_p, encX_a, encX_b, encX_f, Tk.of, encX_k, tk_of_bits]
    rfl
  rw [henc]; unfold decode; rw [hdec]; simp only [hw, if_true]

theorem xamo (k : Tk) (s : BitVec 4) (r : BitVec 2) (p : BitVec 4) (a : Reg) (b : Reg) : Statement (.xamo k s r p a b) := by
  intro _ hw
  have henc : encode (.xamo k s r p a b) = encX k 0x35#6 s r p a b 0#1 := rfl
  have hdec : decodeFields (encX k 0x35#6 s r p a b 0#1) = some (.xamo k s r p a b) := by
    rw [dec_major_35 _ (encX_m ..)]
    simp only [dec35, encX_s, encX_r, encX_p, encX_a, encX_b, encX_f, Tk.of, encX_k, tk_of_bits]
    rfl
  rw [henc]; unfold decode; rw [hdec]; simp only [hw, if_true]

theorem xlnc (k : Tk) (s : BitVec 4) (r : BitVec 2) (p : BitVec 4) (a : Reg) (b : Reg) : Statement (.xlnc k s r p a b) := by
  intro _ hw
  have henc : encode (.xlnc k s r p a b) = encX k 0x36#6 s r p a b 0#1 := rfl
  have hdec : decodeFields (encX k 0x36#6 s r p a b 0#1) = some (.xlnc k s r p a b) := by
    rw [dec_major_36 _ (encX_m ..)]
    simp only [dec36, encX_s, encX_r, encX_p, encX_a, encX_b, encX_f, Tk.of, encX_k, tk_of_bits]
    rfl
  rw [henc]; unfold decode; rw [hdec]; simp only [hw, if_true]

theorem sfsort (k : Tk) (s : BitVec 4) (r : BitVec 2) (p : BitVec 4) (a : Reg) (b : Reg) : Statement (.sfsort k s r p a b) := by
  intro _ hw
  have henc : encode (.sfsort k s r p a b) = encX k 0x37#6 s r p a b 0#1 := rfl
  have hdec : decodeFields (encX k 0x37#6 s r p a b 0#1) = some (.sfsort k s r p a b) := by
    rw [dec_major_37 _ (encX_m ..)]
    simp only [dec37, encX_s, encX_r, encX_p, encX_a, encX_b, encX_f, Tk.of, encX_k, tk_of_bits]
    rfl
  rw [henc]; unfold decode; rw [hdec]; simp only [hw, if_true]

theorem sftopk (k : Tk) (s : BitVec 4) (r : BitVec 2) (p : BitVec 4) (a : Reg) (b : Reg) : Statement (.sftopk k s r p a b) := by
  intro _ hw
  have henc : encode (.sftopk k s r p a b) = encX k 0x3c#6 s r p a b 0#1 := rfl
  have hdec : decodeFields (encX k 0x3c#6 s r p a b 0#1) = some (.sftopk k s r p a b) := by
    rw [dec_major_3c _ (encX_m ..)]
    simp only [dec3c, encX_s, encX_r, encX_p, encX_a, encX_b, encX_f, Tk.of, encX_k, tk_of_bits]
    rfl
  rw [henc]; unfold decode; rw [hdec]; simp only [hw, if_true]

theorem lftopRed (k : Tk) (s : BitVec 4) (r : BitVec 2) (p : BitVec 4) (a : Reg) (b : Reg) : Statement (.lftopRed k s r p a b) := by
  intro _ hw
  have henc : encode (.lftopRed k s r p a b) = encX k 0x3d#6 s r p a b 0#1 := rfl
  have hdec : decodeFields (encX k 0x3d#6 s r p a b 0#1) = some (.lftopRed k s r p a b) := by
    rw [dec_major_3d _ (encX_m ..)]
    simp only [dec3d, encX_s, encX_r, encX_p, encX_a, encX_b, Tk.of, encX_k, tk_of_bits]
    rw [encX_f]
    rfl
  rw [henc]; unfold decode; rw [hdec]; simp only [hw, if_true]

theorem lftopHist (k : Tk) (s : BitVec 4) (r : BitVec 2) (p : BitVec 4) (a : Reg) (b : Reg) : Statement (.lftopHist k s r p a b) := by
  intro _ hw
  have henc : encode (.lftopHist k s r p a b) = encX k 0x3d#6 s r p a b 1#1 := rfl
  have hdec : decodeFields (encX k 0x3d#6 s r p a b 1#1) = some (.lftopHist k s r p a b) := by
    rw [dec_major_3d _ (encX_m ..)]
    simp only [dec3d, encX_s, encX_r, encX_p, encX_a, encX_b, Tk.of, encX_k, tk_of_bits]
    rw [encX_f]
    rfl
  rw [henc]; unfold decode; rw [hdec]; simp only [hw, if_true]

theorem tksnd (k : Tk) (a : Reg) : Statement (.tksnd k a) := by
  intro _ hw
  have henc : encode (.tksnd k a) = encK k 0x38#6 0#5 a 0#3 0#8 := rfl
  have h0_8 : fld (encK k 0x38#6 0#5 a 0#3 0#8) 0 8 = 0#8 := (encK_i_part _ _ _ _ _ _ 0 8 (by omega)).trans (ext_self _)
  have hdec : decodeFields (encK k 0x38#6 0#5 a 0#3 0#8) = some (.tksnd k a) := by
    rw [dec_major_38 _ (encK_m ..)]
    simp only [dec38, h0_8, encK_d, encK_a, Tk.of, encK_k, tk_of_bits]
    rw [encK_f]
    rfl
  rw [henc]; unfold decode; rw [hdec]; simp only [hw, if_true]

theorem tkrcv (k : Tk) (a : Reg) (w : BitVec 8) : Statement (.tkrcv k a w) := by
  intro _ hw
  have henc : encode (.tkrcv k a w) = encK k 0x38#6 0#5 a 1#3 w := rfl
  have h0_8 : fld (encK k 0x38#6 0#5 a 1#3 w) 0 8 = w := (encK_i_part _ _ _ _ _ _ 0 8 (by omega)).trans (ext_self _)
  have hdec : decodeFields (encK k 0x38#6 0#5 a 1#3 w) = some (.tkrcv k a w) := by
    rw [dec_major_38 _ (encK_m ..)]
    simp only [dec38, h0_8, encK_d, encK_a, Tk.of, encK_k, tk_of_bits]
    rw [encK_f]
    rfl
  rw [henc]; unfold decode; rw [hdec]; simp only [hw, if_true]

theorem tktry (k : Tk) (d : Reg) (a : Reg) : Statement (.tktry k d a) := by
  intro _ hw
  have henc : encode (.tktry k d a) = encK k 0x38#6 d a 2#3 0#8 := rfl
  have h0_8 : fld (encK k 0x38#6 d a 2#3 0#8) 0 8 = 0#8 := (encK_i_part _ _ _ _ _ _ 0 8 (by omega)).trans (ext_self _)
  have hdec : decodeFields (encK k 0x38#6 d a 2#3 0#8) = some (.tktry k d a) := by
    rw [dec_major_38 _ (encK_m ..)]
    simp only [dec38, h0_8, encK_d, encK_a, Tk.of, encK_k, tk_of_bits]
    rw [encK_f]
    rfl
  rw [henc]; unfold decode; rw [hdec]; simp only [hw, if_true]

theorem rgclaim (k : Tk) (d : Reg) (a : Reg) (w : BitVec 8) : Statement (.rgclaim k d a w) := by
  intro _ hw
  have henc : encode (.rgclaim k d a w) = encK k 0x39#6 d a 0#3 w := rfl
  have h0_8 : fld (encK k 0x39#6 d a 0#3 w) 0 8 = w := (encK_i_part _ _ _ _ _ _ 0 8 (by omega)).trans (ext_self _)
  have hdec : decodeFields (encK k 0x39#6 d a 0#3 w) = some (.rgclaim k d a w) := by
    rw [dec_major_39 _ (encK_m ..)]
    simp only [dec39, h0_8, encK_d, encK_a, Tk.of, encK_k, tk_of_bits]
    rw [encK_f]
    rfl
  rw [henc]; unfold decode; rw [hdec]; simp only [hw, if_true]

theorem rgfill (k : Tk) (a : Reg) : Statement (.rgfill k a) := by
  intro _ hw
  have henc : encode (.rgfill k a) = encK k 0x39#6 0#5 a 1#3 0#8 := rfl
  have h0_8 : fld (encK k 0x39#6 0#5 a 1#3 0#8) 0 8 = 0#8 := (encK_i_part _ _ _ _ _ _ 0 8 (by omega)).trans (ext_self _)
  have hdec : decodeFields (encK k 0x39#6 0#5 a 1#3 0#8) = some (.rgfill k a) := by
    rw [dec_major_39 _ (encK_m ..)]
    simp only [dec39, h0_8, encK_d, encK_a, Tk.of, encK_k, tk_of_bits]
    rw [encK_f]
    rfl
  rw [henc]; unfold decode; rw [hdec]; simp only [hw, if_true]

theorem rgwait (k : Tk) (d : Reg) (a : Reg) (w : BitVec 8) : Statement (.rgwait k d a w) := by
  intro _ hw
  have henc : encode (.rgwait k d a w) = encK k 0x39#6 d a 2#3 w := rfl
  have h0_8 : fld (encK k 0x39#6 d a 2#3 w) 0 8 = w := (encK_i_part _ _ _ _ _ _ 0 8 (by omega)).trans (ext_self _)
  have hdec : decodeFields (encK k 0x39#6 d a 2#3 w) = some (.rgwait k d a w) := by
    rw [dec_major_39 _ (encK_m ..)]
    simp only [dec39, h0_8, encK_d, encK_a, Tk.of, encK_k, tk_of_bits]
    rw [encK_f]
    rfl
  rw [henc]; unfold decode; rw [hdec]; simp only [hw, if_true]

theorem rgfree (k : Tk) (a : Reg) : Statement (.rgfree k a) := by
  intro _ hw
  have henc : encode (.rgfree k a) = encK k 0x39#6 0#5 a 3#3 0#8 := rfl
  have h0_8 : fld (encK k 0x39#6 0#5 a 3#3 0#8) 0 8 = 0#8 := (encK_i_part _ _ _ _ _ _ 0 8 (by omega)).trans (ext_self _)
  have hdec : decodeFields (encK k 0x39#6 0#5 a 3#3 0#8) = some (.rgfree k a) := by
    rw [dec_major_39 _ (encK_m ..)]
    simp only [dec39, h0_8, encK_d, encK_a, Tk.of, encK_k, tk_of_bits]
    rw [encK_f]
    rfl
  rw [henc]; unfold decode; rw [hdec]; simp only [hw, if_true]

theorem rgstat (k : Tk) (d : Reg) (a : Reg) : Statement (.rgstat k d a) := by
  intro _ hw
  have henc : encode (.rgstat k d a) = encK k 0x39#6 d a 4#3 0#8 := rfl
  have h0_8 : fld (encK k 0x39#6 d a 4#3 0#8) 0 8 = 0#8 := (encK_i_part _ _ _ _ _ _ 0 8 (by omega)).trans (ext_self _)
  have hdec : decodeFields (encK k 0x39#6 d a 4#3 0#8) = some (.rgstat k d a) := by
    rw [dec_major_39 _ (encK_m ..)]
    simp only [dec39, h0_8, encK_d, encK_a, Tk.of, encK_k, tk_of_bits]
    rw [encK_f]
    rfl
  rw [henc]; unfold decode; rw [hdec]; simp only [hw, if_true]

theorem rgstatSet (k : Tk) (d : Reg) (a : Reg) : Statement (.rgstatSet k d a) := by
  intro _ hw
  have henc : encode (.rgstatSet k d a) = encK k 0x39#6 d a 4#3 1#8 := rfl
  have h0_8 : fld (encK k 0x39#6 d a 4#3 1#8) 0 8 = 1#8 := (encK_i_part _ _ _ _ _ _ 0 8 (by omega)).trans (ext_self _)
  have hdec : decodeFields (encK k 0x39#6 d a 4#3 1#8) = some (.rgstatSet k d a) := by
    rw [dec_major_39 _ (encK_m ..)]
    simp only [dec39, h0_8, encK_d, encK_a, Tk.of, encK_k, tk_of_bits]
    rw [encK_f]
    rfl
  rw [henc]; unfold decode; rw [hdec]; simp only [hw, if_true]

theorem rgstatSave (k : Tk) (d : Reg) (a : Reg) : Statement (.rgstatSave k d a) := by
  intro _ hw
  have henc : encode (.rgstatSave k d a) = encK k 0x39#6 d a 4#3 2#8 := rfl
  have h0_8 : fld (encK k 0x39#6 d a 4#3 2#8) 0 8 = 2#8 := (encK_i_part _ _ _ _ _ _ 0 8 (by omega)).trans (ext_self _)
  have hdec : decodeFields (encK k 0x39#6 d a 4#3 2#8) = some (.rgstatSave k d a) := by
    rw [dec_major_39 _ (encK_m ..)]
    simp only [dec39, h0_8, encK_d, encK_a, Tk.of, encK_k, tk_of_bits]
    rw [encK_f]
    rfl
  rw [henc]; unfold decode; rw [hdec]; simp only [hw, if_true]

theorem pwr (k : Tk) (d : Reg) (a : Reg) : Statement (.pwr k d a) := by
  intro _ hw
  have henc : encode (.pwr k d a) = encK k 0x3a#6 d a 0#3 0#8 := rfl
  have h0_8 : fld (encK k 0x3a#6 d a 0#3 0#8) 0 8 = 0#8 := (encK_i_part _ _ _ _ _ _ 0 8 (by omega)).trans (ext_self _)
  have hdec : decodeFields (encK k 0x3a#6 d a 0#3 0#8) = some (.pwr k d a) := by
    rw [dec_major_3a _ (encK_m ..)]
    simp only [dec3a, h0_8, encK_d, encK_a, Tk.of, encK_k, tk_of_bits]
    rw [encK_f]
    rfl
  rw [henc]; unfold decode; rw [hdec]; simp only [hw, if_true]

theorem prd (k : Tk) (d : Reg) (a : Reg) : Statement (.prd k d a) := by
  intro _ hw
  have henc : encode (.prd k d a) = encK k 0x3a#6 d a 1#3 0#8 := rfl
  have h0_8 : fld (encK k 0x3a#6 d a 1#3 0#8) 0 8 = 0#8 := (encK_i_part _ _ _ _ _ _ 0 8 (by omega)).trans (ext_self _)
  have hdec : decodeFields (encK k 0x3a#6 d a 1#3 0#8) = some (.prd k d a) := by
    rw [dec_major_3a _ (encK_m ..)]
    simp only [dec3a, h0_8, encK_d, encK_a, Tk.of, encK_k, tk_of_bits]
    rw [encK_f]
    rfl
  rw [henc]; unfold decode; rw [hdec]; simp only [hw, if_true]

theorem pclr (k : Tk) (d : Reg) : Statement (.pclr k d) := by
  intro _ hw
  have henc : encode (.pclr k d) = encK k 0x3a#6 d 0#5 2#3 0#8 := rfl
  have h0_8 : fld (encK k 0x3a#6 d 0#5 2#3 0#8) 0 8 = 0#8 := (encK_i_part _ _ _ _ _ _ 0 8 (by omega)).trans (ext_self _)
  have hdec : decodeFields (encK k 0x3a#6 d 0#5 2#3 0#8) = some (.pclr k d) := by
    rw [dec_major_3a _ (encK_m ..)]
    simp only [dec3a, h0_8, encK_d, encK_a, Tk.of, encK_k, tk_of_bits]
    rw [encK_f]
    rfl
  rw [henc]; unfold decode; rw [hdec]; simp only [hw, if_true]

theorem pwait (k : Tk) (d : Reg) (w : BitVec 8) : Statement (.pwait k d w) := by
  intro _ hw
  have henc : encode (.pwait k d w) = encK k 0x3a#6 d 0#5 3#3 w := rfl
  have h0_8 : fld (encK k 0x3a#6 d 0#5 3#3 w) 0 8 = w := (encK_i_part _ _ _ _ _ _ 0 8 (by omega)).trans (ext_self _)
  have hdec : decodeFields (encK k 0x3a#6 d 0#5 3#3 w) = some (.pwait k d w) := by
    rw [dec_major_3a _ (encK_m ..)]
    simp only [dec3a, h0_8, encK_d, encK_a, Tk.of, encK_k, tk_of_bits]
    rw [encK_f]
    rfl
  rw [henc]; unfold decode; rw [hdec]; simp only [hw, if_true]

theorem barinit (k : Tk) (a : Reg) (i : BitVec 8) : Statement (.barinit k a i) := by
  intro _ hw
  have henc : encode (.barinit k a i) = encK k 0x3b#6 0#5 a 0#3 i := rfl
  have h0_8 : fld (encK k 0x3b#6 0#5 a 0#3 i) 0 8 = i := (encK_i_part _ _ _ _ _ _ 0 8 (by omega)).trans (ext_self _)
  have hdec : decodeFields (encK k 0x3b#6 0#5 a 0#3 i) = some (.barinit k a i) := by
    rw [dec_major_3b _ (encK_m ..)]
    simp only [dec3b, h0_8, encK_d, encK_a, Tk.of, encK_k, tk_of_bits]
    rw [encK_f]
    rfl
  rw [henc]; unfold decode; rw [hdec]; simp only [hw, if_true]

theorem bararr (k : Tk) (d : Reg) (i : BitVec 8) : Statement (.bararr k d i) := by
  intro _ hw
  have henc : encode (.bararr k d i) = encK k 0x3b#6 d 0#5 1#3 i := rfl
  have h0_8 : fld (encK k 0x3b#6 d 0#5 1#3 i) 0 8 = i := (encK_i_part _ _ _ _ _ _ 0 8 (by omega)).trans (ext_self _)
  have hdec : decodeFields (encK k 0x3b#6 d 0#5 1#3 i) = some (.bararr k d i) := by
    rw [dec_major_3b _ (encK_m ..)]
    simp only [dec3b, h0_8, encK_d, encK_a, Tk.of, encK_k, tk_of_bits]
    rw [encK_f]
    rfl
  rw [henc]; unfold decode; rw [hdec]; simp only [hw, if_true]

theorem barwait (k : Tk) (a : Reg) (w : BitVec 8) : Statement (.barwait k a w) := by
  intro _ hw
  have henc : encode (.barwait k a w) = encK k 0x3b#6 0#5 a 2#3 w := rfl
  have h0_8 : fld (encK k 0x3b#6 0#5 a 2#3 w) 0 8 = w := (encK_i_part _ _ _ _ _ _ 0 8 (by omega)).trans (ext_self _)
  have hdec : decodeFields (encK k 0x3b#6 0#5 a 2#3 w) = some (.barwait k a w) := by
    rw [dec_major_3b _ (encK_m ..)]
    simp only [dec3b, h0_8, encK_d, encK_a, Tk.of, encK_k, tk_of_bits]
    rw [encK_f]
    rfl
  rw [henc]; unfold decode; rw [hdec]; simp only [hw, if_true]

theorem admrt (k : Tk) (d : Reg) (a : Reg) (b : Reg) : Statement (.admrt k d a b) := by
  intro _ hw
  have henc : encode (.admrt k d a b) = encQ k 0x3e#6 d a b 0#6 := rfl
  have h0_6 : fld (encQ k 0x3e#6 d a b 0#6) 0 6 = 0#6 := (encQ_f_part _ _ _ _ _ _ 0 6 (by omega)).trans (ext_self _)
  have hdec : decodeFields (encQ k 0x3e#6 d a b 0#6) = some (.admrt k d a b) := by
    rw [dec_major_3e _ (encQ_m ..)]
    simp only [dec3e, encQ_d, encQ_a, encQ_b, Tk.of, encQ_k, tk_of_bits]
    rw [h0_6]
    rfl
  rw [henc]; unfold decode; rw [hdec]; simp only [hw, if_true]

theorem admctr (k : Tk) (d : Reg) (a : Reg) : Statement (.admctr k d a) := by
  intro _ hw
  have henc : encode (.admctr k d a) = encQ k 0x3e#6 d a 0#5 1#6 := rfl
  have h0_6 : fld (encQ k 0x3e#6 d a 0#5 1#6) 0 6 = 1#6 := (encQ_f_part _ _ _ _ _ _ 0 6 (by omega)).trans (ext_self _)
  have hdec : decodeFields (encQ k 0x3e#6 d a 0#5 1#6) = some (.admctr k d a) := by
    rw [dec_major_3e _ (encQ_m ..)]
    simp only [dec3e, encQ_d, encQ_a, encQ_b, Tk.of, encQ_k, tk_of_bits]
    rw [h0_6]
    rfl
  rw [henc]; unfold decode; rw [hdec]; simp only [hw, if_true]

theorem admtk (k : Tk) (d : Reg) (a : Reg) (b : Reg) : Statement (.admtk k d a b) := by
  intro _ hw
  have henc : encode (.admtk k d a b) = encQ k 0x3e#6 d a b 2#6 := rfl
  have h0_6 : fld (encQ k 0x3e#6 d a b 2#6) 0 6 = 2#6 := (encQ_f_part _ _ _ _ _ _ 0 6 (by omega)).trans (ext_self _)
  have hdec : decodeFields (encQ k 0x3e#6 d a b 2#6) = some (.admtk k d a b) := by
    rw [dec_major_3e _ (encQ_m ..)]
    simp only [dec3e, encQ_d, encQ_a, encQ_b, Tk.of, encQ_k, tk_of_bits]
    rw [h0_6]
    rfl
  rw [henc]; unfold decode; rw [hdec]; simp only [hw, if_true]

theorem pendingEventTake (core : Nat) (ctx : Nat) : Statement (.pendingEventTake core ctx) := fun h => by cases h

theorem waitBoundExpiry (core : Nat) (who : Nat) : Statement (.waitBoundExpiry core who) := fun h => by cases h

theorem waitSatisfied (core : Nat) (who : Nat) : Statement (.waitSatisfied core who) := fun h => by cases h

theorem yRendezvous (core : Nat) : Statement (.yRendezvous core) := fun h => by cases h

theorem heldSignalPush (core : Nat) (who : Nat) : Statement (.heldSignalPush core who) := fun h => by cases h

theorem tokenDelivery (n : Nat) : Statement (.tokenDelivery n) := fun h => by cases h

theorem vxeCommandStart (core : Nat) : Statement (.vxeCommandStart core) := fun h => by cases h

theorem vxeWriteback (core : Nat) : Statement (.vxeWriteback core) := fun h => by cases h

theorem mxeCommandStart (core : Nat) : Statement (.mxeCommandStart core) := fun h => by cases h

theorem mxeWriteback (core : Nat) : Statement (.mxeWriteback core) := fun h => by cases h

theorem nestStep (core : Nat) : Statement (.nestStep core) := fun h => by cases h

theorem nestStoreDrainEnd (core : Nat) : Statement (.nestStoreDrainEnd core) := fun h => by cases h

theorem cpeCommandStart (core : Nat) : Statement (.cpeCommandStart core) := fun h => by cases h

theorem copyPacketForm (core : Nat) : Statement (.copyPacketForm core) := fun h => by cases h

theorem copyLineComplete (core : Nat) (n : Nat) (rep : Reply) : Statement (.copyLineComplete core n rep) := fun h => by cases h

theorem engineCommandRetire (core : Nat) (q : Nat) : Statement (.engineCommandRetire core q) := fun h => by cases h

theorem taskComplete (core : Nat) : Statement (.taskComplete core) := fun h => by cases h

theorem taskStart (core : Nat) : Statement (.taskStart core) := fun h => by cases h

theorem launchRelease (blk : Nat) (q : Nat) : Statement (.launchRelease blk q) := fun h => by cases h

theorem frameTick (blk : Nat) : Statement (.frameTick blk) := fun h => by cases h

theorem slipEnd (blk : Nat) : Statement (.slipEnd blk) := fun h => by cases h

theorem timeCounterStep  : Statement .timeCounterStep := fun h => by cases h

theorem timeSyncExchange (offset : Int) : Statement (.timeSyncExchange offset) := fun h => by cases h

theorem ptpEventMessage (port : Nat) (offset : Int) : Statement (.ptpEventMessage port offset) := fun h => by cases h

theorem storePerform (core : Nat) (ctx : Nat) : Statement (.storePerform core ctx) := fun h => by cases h

theorem loadReply (core : Nat) (ctx : Nat) (rep : Reply) : Statement (.loadReply core ctx rep) := fun h => by cases h

theorem blockFillComplete (core : Nat) (n : Nat) : Statement (.blockFillComplete core n) := fun h => by cases h

theorem hcHomeAccess (line : Nat) (wr : List (Nat × Byte)) (pts : Word) : Statement (.hcHomeAccess line wr pts) := fun h => by cases h

theorem leaseExpiry (core : Nat) (line : Nat) : Statement (.leaseExpiry core line) := fun h => by cases h

theorem stashFill (core : Nat) : Statement (.stashFill core) := fun h => by cases h

theorem oqEntryFill (core : Nat) (q : Nat) : Statement (.oqEntryFill core q) := fun h => by cases h

theorem freezeEnd (core : Nat) : Statement (.freezeEnd core) := fun h => by cases h

theorem freezeLimit (core : Nat) : Statement (.freezeLimit core) := fun h => by cases h

theorem farrierRetry (unit : Nat) (core : Nat) (addr : Nat) (lasting : Bool) (synd : Word) : Statement (.farrierRetry unit core addr lasting synd) := fun h => by cases h

theorem shootdown (core : Nat) : Statement (.shootdown core) := fun h => by cases h

theorem pageWalk (core : Nat) (ctx : Nat) (va : Word) : Statement (.pageWalk core ctx va) := fun h => by cases h

theorem lotRequest (core : Nat) (who : Nat) : Statement (.lotRequest core who) := fun h => by cases h

theorem lotGrant (key : Nat) : Statement (.lotGrant key) := fun h => by cases h

theorem rollback (core : Nat) : Statement (.rollback core) := fun h => by cases h

theorem commit (core : Nat) : Statement (.commit core) := fun h => by cases h

theorem irrevocabilityGrant (blk : Nat) : Statement (.irrevocabilityGrant blk) := fun h => by cases h

theorem packetWaitUnit (point : Nat) (n : Nat) : Statement (.packetWaitUnit point n) := fun h => by cases h

theorem arbiterGrant (point : Nat) (vc : Nat) : Statement (.arbiterGrant point vc) := fun h => by cases h

theorem replyForm (point : Nat) (t : Nat) : Statement (.replyForm point t) := fun h => by cases h

theorem eventLogWrite (core : Nat) (ctx : Nat) (entry : Word) : Statement (.eventLogWrite core ctx entry) := fun h => by cases h

theorem admissionDecision (core : Nat) (ctx : Nat) : Statement (.admissionDecision core ctx) := fun h => by cases h

theorem admissionAnswer (core : Nat) (ctx : Nat) : Statement (.admissionAnswer core ctx) := fun h => by cases h

theorem ticketIssue (cls : Nat) (unit : Nat) : Statement (.ticketIssue cls unit) := fun h => by cases h

theorem ticketLapse (cls : Nat) (unit : Nat) : Statement (.ticketLapse cls unit) := fun h => by cases h

theorem bayComplete (cls : Nat) (unit : Nat) (bay : Nat) (rep : BayReply) : Statement (.bayComplete cls unit bay rep) := fun h => by cases h

theorem loftLineOperation (line : Nat) (op : Nat) (data : Line) : Statement (.loftLineOperation line op data) := fun h => by cases h

theorem sliceExpiry (core : Nat) : Statement (.sliceExpiry core) := fun h => by cases h

theorem preemptionPoint (core : Nat) : Statement (.preemptionPoint core) := fun h => by cases h

theorem saveSequence (core : Nat) : Statement (.saveSequence core) := fun h => by cases h

theorem restore (core : Nat) : Statement (.restore core) := fun h => by cases h

theorem halterWatchFire (kind : Nat) (core : Nat) (ctx : Nat) : Statement (.halterWatchFire kind core ctx) := fun h => by cases h

theorem halterLevelTimeout (n : Nat) : Statement (.halterLevelTimeout n) := fun h => by cases h

theorem packageReset  : Statement .packageReset := fun h => by cases h

theorem ilheadWrite (fn : Nat) (v : Word) : Statement (.ilheadWrite fn v) := fun h => by cases h

theorem cellInject (stop : Nat) (dir : Nat) (lane : Nat) (blk : Nat) : Statement (.cellInject stop dir lane blk) := fun h => by cases h

theorem slotTableCommit  : Statement .slotTableCommit := fun h => by cases h

theorem domainRequest (h0 h1 adr ts lk : Word) (hostOk : Bool) (op : DomOp) : Statement (.domainRequest h0 h1 adr ts lk hostOk op) := fun h => by cases h

theorem requestTimeout (core : Nat) (ctx : Nat) : Statement (.requestTimeout core ctx) := fun h => by cases h

theorem linkUnitReceive (port : Nat) (side : Word) (flit : List Word) (crcOk : Bool) : Statement (.linkUnitReceive port side flit crcOk) := fun h => by cases h

theorem replayRequest (port : Nat) (seq : Nat) : Statement (.replayRequest port seq) := fun h => by cases h

theorem linkRetrain (port : Nat) : Statement (.linkRetrain port) := fun h => by cases h

theorem multicastForward (n : Nat) (branch : Nat) : Statement (.multicastForward n branch) := fun h => by cases h

theorem multicastDelivery (core : Nat) (n : Nat) : Statement (.multicastDelivery core n) := fun h => by cases h

theorem multicastDropTimeout (core : Nat) (n : Nat) : Statement (.multicastDropTimeout core n) := fun h => by cases h

theorem combineContribution (stop : Nat) (group : Nat) (num : Nat) (v : CombIn) : Statement (.combineContribution stop group num v) := fun h => by cases h

theorem combineResultLand (core : Nat) (n : Nat) : Statement (.combineResultLand core n) := fun h => by cases h

theorem proxyOffer (shed : Nat) (bay : Nat) (rep : Reply) : Statement (.proxyOffer shed bay rep) := fun h => by cases h

theorem doorbellWrite (fn : Nat) (blk : Nat) (q : Nat) (packet : List Word) : Statement (.doorbellWrite fn blk q packet) := fun h => by cases h

theorem info (fn : Nat) (e : Nat) : Statement (.info fn e) := fun h => by cases h

theorem fwchunk (fn : Nat) (e : Nat) : Statement (.fwchunk fn e) := fun h => by cases h

theorem fwverify (fn : Nat) (e : Nat) : Statement (.fwverify fn e) := fun h => by cases h

theorem fwswap (fn : Nat) (e : Nat) : Statement (.fwswap fn e) := fun h => by cases h

theorem merge (fn : Nat) (e : Nat) : Statement (.merge fn e) := fun h => by cases h

theorem vfreset (fn : Nat) (e : Nat) : Statement (.vfreset fn e) := fun h => by cases h

theorem diagread (fn : Nat) (e : Nat) : Statement (.diagread fn e) := fun h => by cases h

theorem cfgwrite (fn : Nat) (e : Nat) : Statement (.cfgwrite fn e) := fun h => by cases h

theorem cfgread (fn : Nat) (e : Nat) : Statement (.cfgread fn e) := fun h => by cases h

theorem ptpcfg (fn : Nat) (e : Nat) : Statement (.ptpcfg fn e) := fun h => by cases h

theorem functionReset (fn : Nat) : Statement (.functionReset fn) := fun h => by cases h

theorem sdctlGo (blk : Nat) (v : Word) : Statement (.sdctlGo blk v) := fun h => by cases h

theorem tackHbeatWrite  : Statement .tackHbeatWrite := fun h => by cases h

theorem heartbeatTimeout  : Statement .heartbeatTimeout := fun h => by cases h

theorem fwctlSwap  : Statement .fwctlSwap := fun h => by cases h

theorem firmwareHandover  : Statement .firmwareHandover := fun h => by cases h

theorem fwctlCommit  : Statement .fwctlCommit := fun h => by cases h

theorem trialTimeout  : Statement .trialTimeout := fun h => by cases h

theorem tmadjWrite (v : Word) : Statement (.tmadjWrite v) := fun h => by cases h

theorem stgctlCommit  : Statement .stgctlCommit := fun h => by cases h

theorem dwdataRead  : Statement .dwdataRead := fun h => by cases h

theorem powerCapCheck (watts : Nat) : Statement (.powerCapCheck watts) := fun h => by cases h

theorem ethernetFrame (port : Nat) (inbound : Bool) (pa : Nat) (data : List Byte) : Statement (.ethernetFrame port inbound pa data) := fun h => by cases h

theorem registerWrite (agent : Nat) (addr : Nat) (v : Word) : Statement (.registerWrite agent addr v) := fun h => by cases h

theorem illegalWord (w : Code) : Statement (.illegalWord w) := fun h => by cases h

theorem fetchFault  : Statement .fetchFault := fun h => by cases h

theorem blockWritebackComplete (core : Nat) (n : Nat) : Statement (.blockWritebackComplete core n) := fun h => by cases h

theorem linkTrainingEnd (port : Nat) (ok : Bool) : Statement (.linkTrainingEnd port ok) := fun h => by cases h

theorem unitReady (bit : Nat) : Statement (.unitReady bit) := fun h => by cases h

theorem mailboxDoneClear (fn : Nat) (e : Nat) : Statement (.mailboxDoneClear fn e) := fun h => by cases h

theorem unknownMailboxCode (fn : Nat) (e : Nat) : Statement (.unknownMailboxCode fn e) := fun h => by cases h

end Sys2Proof.Laws.RoundTrip
end

