-- ==== Sys2Proof/Safety.lean ====
section
/-!
DEFINITION. What the claims speak of: the canonical form of memory, the conditions under which a word of the current context
issues, and what a step may leave changed.
-/
namespace Sys2Proof.Machine

/-- The memory is in its canonical form: addresses rise, and no listed byte is 0 (log 2). -/
abbrev Memory.wf (m : List Host.Cell) : Prop := Map.wf (0 : Byte) m

/-- The context whose turn it is, and the state at the issue of its word `k`: the tokens of the wait bits are popped. -/
def State.now (s : State) : Ctx := s.ctx s.cur.1 s.cur.2
def State.issued (s : State) (k : Tk) : State := s.popAll s.cur.1 s.cur.2 (waitFifos k s.cur.2)

/-- A control word of the current context issues and its own effect happens: its fields are in range (R49), its level is
allowed (R19), each FIFO that it waits on holds a token (R106), no rendezvous is open (R104), and a control transfer does
not stand at the last word of an active loop (R80). -/
structure Issues (lvl : BitVec 2) (i : Instr) (k : Tk) (s : State) : Prop where
  fields : i.wf = true
  level  : lvl ≤ s.now.pl
  tokens : emptyWait (s.core s.cur.1) (waitFifos k s.cur.2) = none
  meets  : k.y = false ∨ s.now.rendez = true ∨ (s.core s.cur.1).othersRun s.cur.2 = false
  noNest : isTransfer i = false ∨ s.now.loopAt s.now.pc = none

/-- How a word that issued ends, when `t` is what its own effect leaves: it completes and the pc advances (R11, R78), it goes on
at `a` without touching the loops, it transfers control to `a` (R81), it returns to `a` (R82), or it leaves the pc as it set it.
In each case the word counts and its signals act (R106). -/
def State.finished (t : State) (k : Tk) : State := finishWord t t.cur.1 t.cur.2 k
def State.wentTo (t : State) (k : Tk) (a : Word) : State :=
  ((t.retire t.cur.1 t.cur.2).updCtx t.cur.1 t.cur.2 (fun u => { u with pc := a })).signals t.cur.1 t.cur.2 (signalFifos k t.cur.2)
def State.transferred (t : State) (k : Tk) (a : Word) : State :=
  ((t.retire t.cur.1 t.cur.2).updCtx t.cur.1 t.cur.2 (fun u => { u.abandon a with pc := a })).signals t.cur.1 t.cur.2
    (signalFifos k t.cur.2)
def State.returned (t : State) (k : Tk) (a : Word) : State :=
  ((t.retire t.cur.1 t.cur.2).updCtx t.cur.1 t.cur.2 (fun u => u.returnTo a (t.preReq t.cur.1))).signals t.cur.1 t.cur.2
    (signalFifos k t.cur.2)
def State.stayed (t : State) (k : Tk) (atU : Bool) : State :=
  (t.retireAt t.cur.1 t.cur.2 atU).signals t.cur.1 t.cur.2 (signalFifos k t.cur.2)

/-- The word of the current context raises a trap, with nothing of its own effect (R20). -/
def State.raised (s : State) (c : BitVec 5) (v : Word) : State := takeTrap s s.cur.1 s.cur.2 c v s.now.pc

/-- The word waits, and nothing of it has happened (R116). -/
def State.waits (s : State) (k : Tk) (w : Wait) (bound : Nat) : State := s.holdAt s.cur.1 s.cur.2 k w bound

/-- The issuing context of `s` with a register written, or changed as a whole. -/
def State.put (s : State) (d : Reg) (v : Word) : State := s.updCtx s.cur.1 s.cur.2 (fun t => t.wr d v)
def State.setNow (s : State) (t : Ctx) : State := s.setCtx s.cur.1 s.cur.2 t

/-- What a word may move of its own context beside its result: the pc, the loop counters, its waiting and its counts. -/
def Ctx.Moves (u v : Ctx) : Prop :=
  v = { u with
    pc := v.pc, lc := v.lc, wait := v.wait, waitTk := v.waitTk, bound := v.bound, stall := v.stall
    waitAt := v.waitAt, reached := v.reached, rendez := v.rendez, heldSig := v.heldSig, gotten := v.gotten
    popped := v.popped, waived := v.waived, retired := v.retired, retiredU := v.retiredU }

/-- What a trap may move beside those: the status, the banks, the future trap's pc, and whether the context runs (R23, R25). -/
def Ctx.Trapped (u v : Ctx) : Prop :=
  Ctx.Moves { u with status := v.status, sBank := v.sBank, hBank := v.hBank, fepc := v.fepc, run := v.run } v

/-- Of the whole package, only core `c` and the conditions that the halter notes may change, and of the requests for lots only the
core's own may go (R280). -/
structure CoreFrame (s t : State) (c : Nat) : Prop where
  rest   : t = { s with cores := t.cores, watches := t.watches, lotReqs := t.lotReqs }
  asks   : t.lotReqs.Sublist s.lotReqs ∧ ∀ r ∈ s.lotReqs, r.core ≠ c → r ∈ t.lotReqs
  others : ∀ d, d ≠ c → t.core d = s.core d

/-- Of core `c`, only context `x`, the token counts, the event counters and the places of ring waits may change. -/
structure CtxFrame (s t : State) (c x : Nat) : Prop extends CoreFrame s t c where
  unit : t.core c = { s.core c with
    ctx := (t.core c).ctx, fifo := (t.core c).fifo, fresh := (t.core c).fresh, perf := (t.core c).perf
    hypPerf := (t.core c).hypPerf, ringWait := (t.core c).ringWait }
  ctxs : ∀ y, y ≠ x → t.ctx c y = s.ctx c y

end Sys2Proof.Machine
end

