-- ==== Sys2Proof/Certificates/Slice0/Obligations.lean ====
section
/-!
DEFINITION. The statements for the provers, and the tables of the spec that they compare the model with.
-/
namespace Sys2Proof.Machine

/-! ### Tables of the scalar chapter -/

/-- A comparison's result. -/
def oneIf (p : Prop) [Decidable p] : Word := if p then 1 else 0

/-- The words that write `x[d]` with an integer result, and the results of R64, R66, R67 and R68. -/
def intResult (i : Instr) (t : Ctx) : Option (Tk × Reg × Word) :=
  match i with
  | .add k d a b => some (k, d, t.rd a + t.rd b)
  | .sub k d a b => some (k, d, t.rd a - t.rd b)
  | .and k d a b => some (k, d, t.rd a &&& t.rd b)
  | .or k d a b => some (k, d, t.rd a ||| t.rd b)
  | .xor k d a b => some (k, d, t.rd a ^^^ t.rd b)
  | .andn k d a b => some (k, d, t.rd a &&& ~~~ (t.rd b))
  | .sll k d a b => some (k, d, t.rd a <<< ((t.rd b).toNat % 64))
  | .srl k d a b => some (k, d, t.rd a >>> ((t.rd b).toNat % 64))
  | .sra k d a b => some (k, d, (t.rd a).sshiftRight ((t.rd b).toNat % 64))
  | .slt k d a b => some (k, d, oneIf ((t.rd a).toInt < (t.rd b).toInt))
  | .sltu k d a b => some (k, d, oneIf ((t.rd a).toNat < (t.rd b).toNat))
  | .min k d a b => some (k, d, if (t.rd a).toInt ≤ (t.rd b).toInt then t.rd a else t.rd b)
  | .max k d a b => some (k, d, if (t.rd b).toInt ≤ (t.rd a).toInt then t.rd a else t.rd b)
  | .minu k d a b => some (k, d, if (t.rd a).toNat ≤ (t.rd b).toNat then t.rd a else t.rd b)
  | .maxu k d a b => some (k, d, if (t.rd b).toNat ≤ (t.rd a).toNat then t.rd a else t.rd b)
  | .mul k d a b => some (k, d, BitVec.ofInt 64 ((t.rd a).toInt * (t.rd b).toInt))
  | .mulh k d a b => some (k, d, BitVec.ofInt 64 ((t.rd a).toInt * (t.rd b).toInt / 2 ^ 64))
  | .mulhu k d a b => some (k, d, BitVec.ofNat 64 ((t.rd a).toNat * (t.rd b).toNat / 2 ^ 64))
  | .div k d a b => some (k, d, if t.rd b = 0 then -1 else (t.rd a).sdiv (t.rd b))
  | .divu k d a b => some (k, d, if t.rd b = 0 then -1 else t.rd a / t.rd b)
  | .rem k d a b => some (k, d, (t.rd a).srem (t.rd b))
  | .remu k d a b => some (k, d, t.rd a % t.rd b)
  | .clz k d a => some (k, d, BitVec.ofNat 64 ((List.range 64).takeWhile (fun j => ! (t.rd a).getLsbD (63 - j))).length)
  | .ctz k d a => some (k, d, BitVec.ofNat 64 ((List.range 64).takeWhile (fun j => ! (t.rd a).getLsbD j)).length)
  | .popc k d a => some (k, d, BitVec.ofNat 64 ((List.range 64).filter (fun j => (t.rd a).getLsbD j)).length)
  | .sextb k d a => some (k, d, ((t.rd a).extractLsb' 0 8).signExtend 64)
  | .sexth k d a => some (k, d, ((t.rd a).extractLsb' 0 16).signExtend 64)
  | .sextw k d a => some (k, d, ((t.rd a).extractLsb' 0 32).signExtend 64)
  | .addi k d a n => some (k, d, t.rd a + n.signExtend 64)
  | .andi k d a n => some (k, d, t.rd a &&& n.signExtend 64)
  | .ori k d a n => some (k, d, t.rd a ||| n.signExtend 64)
  | .xori k d a n => some (k, d, t.rd a ^^^ n.signExtend 64)
  | .slli k d a n => some (k, d, t.rd a <<< n.toNat)
  | .srli k d a n => some (k, d, t.rd a >>> n.toNat)
  | .srai k d a n => some (k, d, (t.rd a).sshiftRight n.toNat)
  | .slti k d a n => some (k, d, oneIf ((t.rd a).toInt < (n.signExtend 64).toInt))
  | .sltiu k d a n => some (k, d, oneIf ((t.rd a).toNat < (n.signExtend 64).toNat))
  | .lim k d n => some (k, d, n.signExtend 64)
  | .lis k d n => some (k, d, (t.rd d <<< 16) ||| n.setWidth 64)
  | _ => none

/-- Binary64: the value of a pattern, and the one pattern that every NaN result is (R87). -/
def f64 (w : Word) : FV := fmt64.dec w.toNat
def nan64 : Word := 0x7ff8000000000000

/-- A result of R87: rounded once to nearest, ties to even. -/
def rounded64 (v : FV) : Word := BitVec.ofNat 64 (fmt64.round .rne false v)

/-- The order of two values that are no NaN: by the integer that the sign and the magnitude of the pattern give, in which −0
equals +0 (R88). -/
def key64 (w : Word) : Int := if w.getLsbD 63 then -((w.toNat % 2 ^ 63 : Nat) : Int) else ((w.toNat % 2 ^ 63 : Nat) : Int)
def isNan64 (w : Word) : Bool := 0x7ff0000000000000 < w.toNat % 2 ^ 63

/-- The smaller of two patterns, −0 below +0, and the other operand of a NaN (R88). -/
def min64 (a b : Word) : Word :=
  if isNan64 a then (if isNan64 b then nan64 else b)
  else if isNan64 b then a
  else if key64 a < key64 b then a else if key64 b < key64 a then b else if a.getLsbD 63 then a else b
def max64 (a b : Word) : Word :=
  if isNan64 a then (if isNan64 b then nan64 else b)
  else if isNan64 b then a
  else if key64 a < key64 b then b else if key64 b < key64 a then a else if a.getLsbD 63 then b else a

/-- The words of the FSC group and their results (R88, R89). -/
def fpResult (i : Instr) (t : Ctx) : Option (Tk × Reg × Word) :=
  match i with
  | .faddD k d a b => some (k, d, rounded64 ((f64 (t.rd a)).add (f64 (t.rd b))))
  | .fsubD k d a b => some (k, d, rounded64 ((f64 (t.rd a)).add (f64 (t.rd b)).neg))
  | .fmulD k d a b => some (k, d, rounded64 ((f64 (t.rd a)).mul (f64 (t.rd b))))
  | .fdivD k d a b => some (k, d, rounded64 ((f64 (t.rd a)).div (f64 (t.rd b))))
  | .fminD k d a b => some (k, d, min64 (t.rd a) (t.rd b))
  | .fmaxD k d a b => some (k, d, max64 (t.rd a) (t.rd b))
  | .fsqrtD k d a => some (k, d, rounded64 (f64 (t.rd a)).sqrt)
  | .fcvtDL k d a => some (k, d, rounded64 (.fin ((t.rd a).toInt < 0) (t.rd a).toInt.natAbs 0))
  | .fcvtLD k d a => some (k, d, BitVec.ofInt 64 (match f64 (t.rd a) with
    | .nan => 0
    | .inf s => if s then -(2 ^ 63) else 2 ^ 63 - 1
    | .fin s m e =>
      let n : Int := if 0 ≤ e then m * 2 ^ e.toNat else m / 2 ^ (-e).toNat
      if s then max (-(2 ^ 63)) (-n) else min (2 ^ 63 - 1) n))
  | .feqD k d a b => some (k, d, oneIf (isNan64 (t.rd a) = false ∧ isNan64 (t.rd b) = false ∧ key64 (t.rd a) = key64 (t.rd b)))
  | .fltD k d a b => some (k, d, oneIf (isNan64 (t.rd a) = false ∧ isNan64 (t.rd b) = false ∧ key64 (t.rd a) < key64 (t.rd b)))
  | .fleD k d a b => some (k, d, oneIf (isNan64 (t.rd a) = false ∧ isNan64 (t.rd b) = false ∧ key64 (t.rd a) ≤ key64 (t.rd b)))
  | _ => none

/-- The branches of R69 and R71 with what decides them: the slot that must be full, whether the branch is taken, and its
target. -/
def branchOf (i : Instr) (s : State) : Option (Tk × Option Nat × Bool × Word) :=
  let t := s.now
  let slot (p : BitVec 4) : Word := Map.get 0 (s.core s.cur.1).pval p.toNat
  match i with
  | .beq k a b o => some (k, none, t.rd a == t.rd b, t.pc + 4 * o.signExtend 64)
  | .bne k a b o => some (k, none, t.rd a != t.rd b, t.pc + 4 * o.signExtend 64)
  | .blt k a b o => some (k, none, decide ((t.rd a).toInt < (t.rd b).toInt), t.pc + 4 * o.signExtend 64)
  | .bge k a b o => some (k, none, decide ((t.rd b).toInt ≤ (t.rd a).toInt), t.pc + 4 * o.signExtend 64)
  | .bltu k a b o => some (k, none, decide ((t.rd a).toNat < (t.rd b).toNat), t.pc + 4 * o.signExtend 64)
  | .bgeu k a b o => some (k, none, decide ((t.rd b).toNat ≤ (t.rd a).toNat), t.pc + 4 * o.signExtend 64)
  | .bbusy k o => some (k, none, t.bz, t.pc + 4 * o.signExtend 64)
  | .bfree k o => some (k, none, ! t.bz, t.pc + 4 * o.signExtend 64)
  | .bpt k p o => some (k, some p.toNat, slot p != 0, t.pc + 4 * o.signExtend 64)
  | .bpf k p o => some (k, some p.toNat, slot p == 0, t.pc + 4 * o.signExtend 64)
  | _ => none

/-- Words that read the context, the task and the clocks into a register (R131, R132, R133). -/
def readResult (i : Instr) (s : State) : Option (Tk × Reg × Word) :=
  match i with
  | .cid k d => some (k, d, BitVec.ofNat 64 s.cur.2)
  | .rtime k d => some (k, d, BitVec.ofNat 64 (s.time / 2 ^ 32))
  | .rframe k d => some (k, d, (s.pdk (s.coreBlk s.cur.1)).frame)
  | .twid k d n => some (k, d, match (s.core s.cur.1).task with
    | none => 0
    | some tk =>
      if n = 6 then tk.wid
      else (tk.wid >>> (tk.widths.take n.toNat).sum) &&& BitVec.ofNat 64 (2 ^ tk.widths.getD n.toNat 0 - 1))
  | .prd k d a => some (k, d, Map.get 0 (s.core s.cur.1).pval a.toNat)
  | _ => none

end Sys2Proof.Machine
namespace Sys2Proof.Machine

/-! ### Tables of the system chapter -/

/-- The level that takes a trap (R21): 1 for S, 2 for H. -/
def levelOf (c : BitVec 5) (pl : BitVec 2) : BitVec 2 :=
  if pl = 2 then 2
  else if c = 15 ∨ c = 16 then 2
  else if (c = 10 ∨ c = 1) ∧ pl = 1 then 2
  else 1

/-- The registers of R52 that a program may write whole or in part at their level, with the bits that are RW (R94): every such
register but `ctx.status`, `vround`, `frz.max`, the counters and the banked registers, whose own rules say more. -/
def csrMask (n : Nat) : Option Word :=
  if n = 0x000 ∨ n = 0x001 ∨ n = 0x060 then some 0x0000fffffffffffc
  else if n = 0x002 then some 0xf
  else if n = 0x003 then some 0xffffff
  else if n = 0x009 then some 0xffff
  else if 0x040 ≤ n ∧ n ≤ 0x04f then some 0xfff0fff
  else if 0x050 ≤ n ∧ n ≤ 0x057 then some 0x80000000ffffffff
  else if 0x058 ≤ n ∧ n ≤ 0x05f then some 0x0000fffffffffffc
  else none

/-- The numbers of R52 with the minimum level, and whether a write form is refused at U and at S or H. -/
def csrRow (n : Nat) : Option (BitVec 2 × Bool × Bool) :=
  if n ≤ 0x003 ∨ n = 0x008 ∨ n = 0x009 ∨ (0x040 ≤ n ∧ n ≤ 0x060) then some (0, false, false)
  else if n = 0x010 ∨ n = 0x011 ∨ (0x018 ≤ n ∧ n ≤ 0x01b) ∨ n = 0x020 ∨ n = 0x021 then some (0, true, true)
  else if 0x070 ≤ n ∧ n ≤ 0x07f then some (0, true, false)
  else if (0x080 ≤ n ∧ n ≤ 0x084) ∨ (0x090 ≤ n ∧ n ≤ 0x09f) then some (1, false, false)
  else if 0x100 ≤ n ∧ n ≤ 0x102 then some (2, false, false)
  else none

/-- The write forms of R94: the new value from the old one and x[a]. -/
def csrWriteForm (i : Instr) (t : Ctx) : Option (Tk × Reg × BitVec 9 × (Word → Word)) :=
  match i with
  | .csrw k d a n => some (k, d, n, fun _ => t.rd a)
  | .csrs k d a n => some (k, d, n, fun o => o ||| t.rd a)
  | .csrc k d a n => some (k, d, n, fun o => o &&& ~~~ (t.rd a))
  | _ => none

/-- A word of the TRP group whose whole effect is its trap (R97, R98): its level, its cause and its value. -/
def ownTrap (i : Instr) (t : Ctx) : Option (BitVec 2 × Tk × BitVec 5 × Word) :=
  match i with
  | .sys k _ => some (0, k, 10, wordVal i)
  | .brk k _ => some (0, k, 11, wordVal i)
  | .trap k a c => some (1, k, c.setWidth 5, t.rd a)
  | _ => none

/-- The words that need level S (R96, R131). -/
def needsS (i : Instr) : Option Tk :=
  match i with
  | .trap k _ _ => some k
  | .eret k => some k
  | .halt k => some k
  | .cstart k _ _ => some k
  | .cstop k _ => some k
  | _ => none

/-- Words that wait for something or complete at once: the waits of R131, R133 and R114, with what they wait for, the bound, and
whether it has come. -/
def waitWord (i : Instr) (s : State) : Option (Tk × Wait × Nat × Bool) :=
  let t := s.now
  match i with
  | .wtime k a w => some (k, .time (t.rd a), waitBound w.toNat, decide ((t.rd a).toNat ≤ s.time / 2 ^ 32 % 2 ^ 64))
  | .wframe k a w => some (k, .frame (t.rd a), waitBound w.toNat, decide ((t.rd a).toNat ≤ (s.pdk (s.coreBlk s.cur.1)).frame.toNat))
  | .cwait k d w => some (k, .ctxStop d.toNat, waitBound w.toNat,
      decide ((s.ctx s.cur.1 d.toNat).run ≠ .running ∧ (s.ctx s.cur.1 d.toNat).run ≠ .failed))
  | .pwait k d w => some (k, .pslot d.toNat, waitBound w.toNat, (s.core s.cur.1).pfull.getLsbD d.toNat)
  | _ => none

end Sys2Proof.Machine
namespace Sys2Proof.Machine

/-! ### Tables of the memory chapters -/

/-- The scalar loads: destination, address, width and whether the value is sign-extended (R90, R92). -/
def loadOf (i : Instr) (t : Ctx) : Option (Tk × Reg × Word × Nat × Bool) :=
  match i with
  | .lb k d a n => some (k, d, t.rd a + n.signExtend 64, 1, true)
  | .lh k d a n => some (k, d, t.rd a + 2 * n.signExtend 64, 2, true)
  | .lw k d a n => some (k, d, t.rd a + 4 * n.signExtend 64, 4, true)
  | .ld k d a n => some (k, d, t.rd a + 8 * n.signExtend 64, 8, false)
  | .lbu k d a n => some (k, d, t.rd a + n.signExtend 64, 1, false)
  | .lhu k d a n => some (k, d, t.rd a + 2 * n.signExtend 64, 2, false)
  | .lwu k d a n => some (k, d, t.rd a + 4 * n.signExtend 64, 4, false)
  | .ldx k d a b => some (k, d, t.rd a + 8 * t.rd b, 8, false)
  | _ => none

/-- The scalar stores: the value, the address and the width (R91, R92). -/
def storeOf (i : Instr) (t : Ctx) : Option (Tk × Word × Word × Nat) :=
  match i with
  | .sb k d a n => some (k, t.rd d, t.rd a + n.signExtend 64, 1)
  | .sh k d a n => some (k, t.rd d, t.rd a + 2 * n.signExtend 64, 2)
  | .sw k d a n => some (k, t.rd d, t.rd a + 4 * n.signExtend 64, 4)
  | .sd k d a n => some (k, t.rd d, t.rd a + 8 * n.signExtend 64, 8)
  | .stx k d a b => some (k, t.rd d, t.rd a + 8 * t.rd b, 8)
  | _ => none

/-- The value of `w` loaded bytes in a register (R90). -/
def extended (v w : Nat) (signed : Bool) : Word :=
  if signed then (BitVec.ofNat (8 * w) v).signExtend 64 else BitVec.ofNat 64 v

/-- The atomic operations: the destination, the address, the width, the operand, the new value for an old one, and whether it is written
(R248). `amocas` reads its comparand from `x[d]`. -/
def amoOf (i : Instr) (t : Ctx) : Option (Tk × Reg × Word × Nat × (Nat → Nat) × (Nat → Bool)) :=
  let row (k : Tk) (d a b : Reg) (z : BitVec 1) (f : (w : Nat) → BitVec (8 * w) → BitVec (8 * w) → BitVec (8 * w)) :
      Option (Tk × Reg × Word × Nat × (Nat → Nat) × (Nat → Bool)) :=
    let w := if z = 0 then 4 else 8
    some (k, d, t.rd a, w, fun old => (f w (BitVec.ofNat _ old) (BitVec.ofNat _ (t.rd b).toNat)).toNat, fun _ => true)
  match i with
  | .amoadd k d a b z => row k d a b z (fun _ x y => x + y)
  | .amoand k d a b z => row k d a b z (fun _ x y => x &&& y)
  | .amoor k d a b z => row k d a b z (fun _ x y => x ||| y)
  | .amoxor k d a b z => row k d a b z (fun _ x y => x ^^^ y)
  | .amomin k d a b z => row k d a b z (fun _ x y => if x.toInt ≤ y.toInt then x else y)
  | .amomax k d a b z => row k d a b z (fun _ x y => if x.toInt ≤ y.toInt then y else x)
  | .amominu k d a b z => row k d a b z (fun _ x y => if x.toNat ≤ y.toNat then x else y)
  | .amomaxu k d a b z => row k d a b z (fun _ x y => if x.toNat ≤ y.toNat then y else x)
  | .amoswap k d a b z => row k d a b z (fun _ _ y => y)
  | .amocas k d a b z =>
    let w := if z = 0 then 4 else 8
    let hit (old : Nat) : Bool := old = (t.rd d).toNat % 256 ^ w
    some (k, d, t.rd a, w, fun old => if hit old then (t.rd b).toNat % 256 ^ w else old, hit)
  | .amofadd k d a b z => row k d a b z (fun w x y =>
      BitVec.ofNat _ (if w = 4 then fmt32.round .rne false ((fmt32.dec x.toNat).add (fmt32.dec y.toNat))
        else fmt64.round .rne false ((fmt64.dec x.toNat).add (fmt64.dec y.toNat))))
  | _ => none

/-- The ordering words with their scopes (R268). -/
def orderingOf (i : Instr) : Option (Tk × Nat) :=
  match i with
  | .fence k sc => some (k, sc.toNat)
  | .acq k sc => some (k, sc.toNat)
  | .rel k sc => some (k, sc.toNat)
  | .invi k sc => some (k, sc.toNat)
  | _ => none

/-- The function of a core limits scopes at the level of its context (R256): not at H, and not without LIM. -/
def limited (s : State) (c x : Nat) : Bool :=
  (s.ctx c x).pl ≠ 2 && ((s.func (s.coreVf c)).vfctl).getLsbD 48

/-- What an acquire of scope `sc` leaves of line `ln` of the L1 (R261, R270, R431): of an SW page whose home lies in the scope, the dirty
words alone are valid; a line with none goes, and keeps only its place in a block of several lines (R238). -/
def acquired (sc ln : Nat) (l : L1Line) : Option L1Line :=
  if l.cls = 1 ∧ (if 2 ^ 47 ≤ 128 * ln then 3 ≤ sc else 1 ≤ sc) then
    (if l.dirty ≠ 0 then some { l with valid := l.dirty, poison := l.poison &&& l.dirty }
     else if l.blk % 128 ≤ 1 then none
     else some { l with valid := 0, dirty := 0, poison := 0 })
  else some l

/-- The L1 of a core after an acquire of scope `sc`. -/
def Acquires (s t : State) (c sc : Nat) : Prop :=
  ∀ ln l', (ln, some l') ∈ (t.core c).l1 ↔ ∃ l, (ln, some l) ∈ (s.core c).l1 ∧ acquired sc ln l = some l'

end Sys2Proof.Machine
namespace Sys2Proof.Machine

/-! ### Tables of the engine words -/

/-- The vector words: token bits, the registers X[a] and X[b] that the entry takes with it (R170), and the slot that the word
empties (R190, R195). -/
def vecRow (i : Instr) : Option (Tk × Option Reg × Option Reg × Option Reg) :=
  match i with
  | .vadd k _ _ _ _ => some (k, none, none, none)
  | .vsub k _ _ _ _ => some (k, none, none, none)
  | .vmul k _ _ _ _ => some (k, none, none, none)
  | .vfma k _ _ _ _ => some (k, none, none, none)
  | .vmax k _ _ _ _ => some (k, none, none, none)
  | .vmin k _ _ _ _ => some (k, none, none, none)
  | .vabs k _ _ _ => some (k, none, none, none)
  | .vneg k _ _ _ => some (k, none, none, none)
  | .vand k _ _ _ => some (k, none, none, none)
  | .vor k _ _ _ => some (k, none, none, none)
  | .vxor k _ _ _ => some (k, none, none, none)
  | .vsll k _ _ _ => some (k, none, none, none)
  | .vsra k _ _ _ => some (k, none, none, none)
  | .vsrl k _ _ _ => some (k, none, none, none)
  | .vcmplt k _ _ _ _ => some (k, none, none, none)
  | .vcmpeq k _ _ _ _ => some (k, none, none, none)
  | .vexp2 k _ _ => some (k, none, none, none)
  | .vlog2 k _ _ => some (k, none, none, none)
  | .vrcp k _ _ => some (k, none, none, none)
  | .vrsqrt k _ _ => some (k, none, none, none)
  | .vcvt k _ _ _ _ => some (k, none, none, none)
  | .vbmax k _ _ _ => some (k, none, none, none)
  | .vq k _ _ _ _ => some (k, none, none, none)
  | .vdq k _ _ _ _ => some (k, none, none, none)
  | .vredmax k _ _ _ _ => some (k, none, none, none)
  | .vredsum k _ _ _ _ => some (k, none, none, none)
  | .vredmin k _ _ _ _ => some (k, none, none, none)
  | .vbcast k _ _ b => some (k, none, some b, none)
  | .vperm k _ _ _ => some (k, none, none, none)
  | .vld k _ a => some (k, some a, none, none)
  | .vst k _ a => some (k, some a, none, none)
  | .vlds k _ a b => some (k, some a, some b, none)
  | .vsts k _ a b => some (k, some a, some b, none)
  | .vldx k _ a _ => some (k, some a, none, none)
  | .vstx k _ a _ => some (k, some a, none, none)
  | .vldb k a => some (k, some a, none, none)
  | .vpushc k _ _ => some (k, none, none, none)
  | .vpopc k _ _ => some (k, none, none, none)
  | .vbal k d _ => some (k, none, none, some d)
  | .vsoftk k _ _ _ => some (k, none, none, none)
  | .vhist k _ _ _ => some (k, none, none, none)
  | .vmov k _ _ => some (k, none, none, none)
  | .vsplat k _ a => some (k, some a, none, none)
  | .vlane k d _ b => some (k, none, some b, some d)
  | .vsel k _ _ _ => some (k, none, none, none)
  | .vmset k _ a _ => some (k, some a, none, none)
  | .vidx k _ => some (k, none, none, none)
  | _ => none

/-- The address checks of R186 at issue, in their order: the value of the first that fails. -/
def vlsTrap (i : Instr) (t : Ctx) : Option Word :=
  let bad (v : Word) (al n : Nat) : Prop := 2 ^ 25 ≤ v.toNat ∨ v.toNat % al ≠ 0 ∨ 2 ^ 25 < v.toNat + n
  match i with
  | .vld _ _ a => if bad (t.rd a) 128 4096 then some (t.rd a) else none
  | .vst _ _ a => if bad (t.rd a) 128 4096 then some (t.rd a) else none
  | .vlds _ _ a b => if bad (t.rd a) 128 4096 then some (t.rd a) else if bad (t.rd b) 128 0 then some (t.rd b)
      else if 2 ^ 25 < (t.rd a).toNat + 7 * (t.rd b).toNat + 512 then some (t.rd a + 7 * t.rd b) else none
  | .vsts _ _ a b => if bad (t.rd a) 128 4096 then some (t.rd a) else if bad (t.rd b) 128 0 then some (t.rd b)
      else if 2 ^ 25 < (t.rd a).toNat + 7 * (t.rd b).toNat + 512 then some (t.rd a + 7 * t.rd b) else none
  | .vldx _ _ a _ => if bad (t.rd a) 4 0 then some (t.rd a) else none
  | .vstx _ _ a _ => if bad (t.rd a) 4 0 then some (t.rd a) else none
  | .vldb _ a => if bad (t.rd a) 32 32 then some (t.rd a) else none
  | _ => none

/-- A matrix operand word keeps the layout of R203: `opts` is the greatest OPT, `oq` and `int` whether it may set OQ and INT. -/
def operandOk (w : Word) (opts : Nat) (oq int : Bool) : Prop :=
  wbits w 59 4 = 0 ∧ wbits w 53 3 = 0 ∧ wbits w 25 23 = 0 ∧ wbits w 0 7 = 0 ∧ wbits w 48 4 ≤ opts ∧
  (int = false → w.getLsbD 52 = false) ∧ (w.getLsbD 63 = true → oq = true ∧ wbits w 0 25 = 0) ∧
  (w.getLsbD 63 = false → wbits w 56 3 = 0)

/-- The matrix words that read no block: their token bits, the slot that they empty, the registers that the entry takes with it,
and what their operand words must be (R203, R214, R216, R219, R221). -/
def matRow (i : Instr) (t : Ctx) : Option (Tk × Option Reg × Option Reg × Option Reg × Prop) :=
  match i with
  | .mxfmt k _ a => some (k, none, some a, none, wbits (t.rd a) 16 48 = 0 ∧ fmtOk (t.rd a).toNat = true)
  | .mxzero k _ => some (k, none, none, none, True)
  | .mxstat k d _ => some (k, some d, none, none, True)
  | .mxmm k _ a b => some (k, none, some a, some b, operandOk (t.rd a) 15 true false ∧ operandOk (t.rd b) 0 true false)
  | .mxbin k _ a b => some (k, none, some a, some b, operandOk (t.rd a) 1 true false ∧ operandOk (t.rd b) 0 true false)
  | .mxrank k _ _ _ => some (k, none, none, none, True)
  | .mxsp k _ a b => some (k, none, some a, some b, operandOk (t.rd a) 15 true false ∧ operandOk (t.rd b) 0 true false)
  | .mxst k _ a _ => some (k, none, some a, none, operandOk (t.rd a) 5 false true ∧
      (((t.rd a).getLsbD 52 = true) → 4 ≤ wbits (t.rd a) 48 4) ∧
      wbits (t.rd a) 0 25 + 1024 * elemSize (wbits (t.rd a) 48 4) ≤ 2 ^ 25)
  | .mxld k _ a _ => some (k, none, some a, none, operandOk (t.rd a) 0 false false ∧ wbits (t.rd a) 0 25 + 4096 ≤ 2 ^ 25)
  | .mxtov k _ _ _ => some (k, none, none, none, True)
  | .mxfromv k _ _ _ => some (k, none, none, none, True)
  | _ => none

/-- A spad word in the layout of R44 with no option but those of `opts`, and its range inside the scratchpad. -/
def spadOk (v : Word) (opts : Nat) : Prop :=
  wbits v 25 7 = 0 ∧ (wbits v 48 16 &&& (65535 - opts)) = 0 ∧ wbits v 0 7 = 0 ∧ wbits v 0 25 + 128 * wbits v 32 16 ≤ 2 ^ 25

/-- A global range of `n` bytes that stays in its half and, in the upper one, in its package (R310). -/
def globalOk (g : Word) (n : Nat) : Prop :=
  let e := g.toNat + n - 1
  wbits g 0 7 = 0 ∧ e < 2 ^ 48 ∧ g.toNat < 2 ^ 48 ∧ e / 2 ^ 47 = g.toNat / 2 ^ 47 ∧ (2 ^ 47 ≤ g.toNat → e / 2 ^ 41 = g.toNat / 2 ^ 41)

/-- The copy words but the row forms of `cpss` with a descriptor: token bits, class field, slot, registers, and what their operands must
be (R309 to R317). -/
def copyRow (i : Instr) (t : Ctx) : Option (Tk × BitVec 4 × BitVec 4 × Reg × Reg × Prop) :=
  match i with
  | .cpin k f p a b => some (k, f, p, a, b,
      spadOk (t.rd a) 0 ∧ (wbits (t.rd a) 32 16 ≠ 0 → globalOk (t.rd b) (128 * wbits (t.rd a) 32 16)))
  | .cpout k f p a b => some (k, f, p, a, b,
      spadOk (t.rd a) 0 ∧ (wbits (t.rd a) 32 16 ≠ 0 → globalOk (t.rd b) (128 * wbits (t.rd a) 32 16)))
  | .cpss k f p a b => some (k, f, p, a, b, spadOk (t.rd a) 3 ∧ wbits (t.rd a) 48 2 ≠ 3 ∧ wbits (t.rd a) 32 16 = 0)
  | .cpred k f p a b => some (k, f, p, a, b,
      spadOk (t.rd a) 15 ∧ wbits (t.rd a) 48 16 ≤ 2 ∧
      (wbits (t.rd a) 32 16 ≠ 0 → globalOk (t.rd b) (128 * wbits (t.rd a) 32 16)))
  | .cpoq k f p a b => some (k, f, p, a, b,
      wbits (t.rd a) 21 43 = 0 ∧ wbits (t.rd a) 3 13 = 0 ∧ 1 ≤ wbits (t.rd a) 16 5 ∧ wbits (t.rd a) 16 5 ≤ 16 ∧
      globalOk (t.rd b) (1024 * wbits (t.rd a) 16 5))
  | _ => none

/-- What an enqueued word leaves at its engine: one entry more at the end of that queue, with the queue's next number, and the
other queues as they were (R108, R343). -/
def Enqueued (s t : State) (c e : Nat) (ent : Entry) : Prop :=
  ((t.core c).q e).q = ((s.core c).q e).q ++ [ent] ∧ ((t.core c).q e).fl = ((s.core c).q e).fl ∧
  ent.seq = ((s.core c).q e).next ∧ ((t.core c).q e).next = ((s.core c).q e).next + 1 ∧
  ∀ e', e' < 3 → e' ≠ e → (t.core c).q e' = (s.core c).q e'

/-- The issuing context after an engine word: it goes on behind the word, and no general register changes. -/
def WentOn (s t : State) : Prop :=
  t.now.x = s.now.x ∧ (∀ a, t.byteAt a = s.byteAt a) ∧ t.now.retired = s.now.retired + 1 ∧
  (s.now.loopAt s.now.pc = none → t.now.pc = s.now.pc + 4)

/-- The request words: token bits, the engine class, class field, route, slot, registers, the option bits, and what the operands must be for
a LEN that is 0 or not (R397 to R402, R332, R333). -/
def reqRow (i : Instr) (s : State) :
    Option (Tk × Nat × BitVec 4 × BitVec 2 × BitVec 4 × Reg × Reg × Nat × Prop) :=
  let t := s.now
  let len (a : Reg) : Nat := wbits (t.rd a) 32 16
  let opt (a : Reg) : Nat := wbits (t.rd a) 48 16
  let addr (a : Reg) : Nat := wbits (t.rd a) 0 25
  let apart (a n b m : Nat) : Prop := b + 128 * m ≤ a ∨ a + 128 * n ≤ b
  match i with
  | .xput k f r p a b => some (k, 0, f, r, p, a, b, if opt a / 16 % 2 = 1 then 31 else 0,
      if opt a / 16 % 2 = 1 then addr a = 0 ∧ len a ≤ 8 ∧
        (len a ≠ 0 → wbits (t.rd b) 4 4 = 0 ∧ wbits (t.rd b) 13 3 = 0 ∧ wbits (t.rd b) 22 42 = 0 ∧
          ¬ (wbits (t.rd b) 16 6 = s.pkg.toNat ∧ wbits (t.rd b) 8 5 / 4 = s.cur.1 / 4))
      else len a ≤ 8192 ∧ (len a ≠ 0 → globalOk (t.rd b) (128 * len a)))
  | .xget k f r p a b => some (k, 0, f, r, p, a, b, 0,
      len a ≤ 8192 ∧ (len a ≠ 0 → globalOk (t.rd b) (128 * len a) ∧ s.lateGet s.cur.1 (t.rd b) (len a) = false ∧
        (s.issued k).badSet s.cur.1 (t.rd b) (len a) (t.pl = 0) = none ∧ (s.issued k).lotsFor s.cur.1 (t.rd b) (len a) = none))
  | .xmc k f r p a b => some (k, 0, f, r, p, a, b, 0, len a ≤ 8 ∧ (len a ≠ 0 → wbits (t.rd b) 20 44 = 0))
  | .xcmb k f r p a b => some (k, 0, f, r, p, a, b, 0x3ff,
      len a ≠ 0 → (if opt a % 4 = 3 then 1 else 0) + (opt a / 4 % 256 + 1 + 31) / 32 ≤ len a ∧
        wbits (t.rd b) 57 7 = 0 ∧ wbits (t.rd b) 32 7 = 0 ∧ wbits (t.rd b) 32 25 + 128 * len a ≤ 2 ^ 25)
  | .xamo k f r p a b => some (k, 0, f, r, p, a, b, 0x3f,
      len a ≤ 1 ∧ opt a % 32 ≤ 10 ∧ (len a ≠ 0 → (t.rd b).toNat % (if opt a / 32 % 2 = 1 then 8 else 4) = 0))
  | .xlnc k f r p a b => some (k, 0, f, r, p, a, b, 0,
      len a ≤ 1 ∧ (len a ≠ 0 → wbits (t.rd b) 6 2 = 0 ∧ wbits (t.rd b) 14 2 = 0 ∧ wbits (t.rd b) 20 44 = 0))
  | .sfsort k f r p a b => some (k, 1, f, r, p, a, b, 7,
      len a ≤ 4096 ∧ opt a / 2 % 4 ≠ 3 ∧ (len a ≠ 0 → wbits (t.rd b) 25 7 = 0 ∧ wbits (t.rd b) 48 16 = 0 ∧
        (wbits (t.rd b) 32 16 = 0 ∨ wbits (t.rd b) 32 16 = len a) ∧ wbits (t.rd b) 0 7 = 0 ∧
        wbits (t.rd b) 0 25 + 128 * len a ≤ 2 ^ 25 ∧
        (wbits (t.rd b) 0 25 = addr a ∨ apart (addr a) (len a) (wbits (t.rd b) 0 25) (len a))))
  | .sftopk k f r p a b => some (k, 1, f, r, p, a, b, 7,
      len a ≤ 4096 ∧ opt a / 2 % 4 ≠ 3 ∧ (len a ≠ 0 → wbits (t.rd b) 25 7 = 0 ∧ wbits (t.rd b) 48 16 < 256 ∧
        (wbits (t.rd b) 48 16 + 1 + 15) / 16 ≤ wbits (t.rd b) 32 16 ∧ wbits (t.rd b) 0 7 = 0 ∧
        wbits (t.rd b) 0 25 + 128 * wbits (t.rd b) 32 16 ≤ 2 ^ 25 ∧
        apart (addr a) (len a) (wbits (t.rd b) 0 25) (wbits (t.rd b) 32 16)))
  | _ => none

/-- The loft words: token bits, class field, route, slot, registers, the lines of their table at its home, and what the spad word must be
(R334). -/
def loftRow (i : Instr) (t : Ctx) : Option (Tk × BitVec 4 × BitVec 2 × BitVec 4 × Reg × Reg × Nat × Prop) :=
  match i with
  | .lftopRed k f r p a b => some (k, f, r, p, a, b, wbits (t.rd a) 32 16,
      wbits (t.rd a) 32 16 ≤ 64 ∧ wbits (t.rd a) 48 16 ≤ 2)
  | .lftopHist k f r p a b => some (k, f, r, p, a, b, wbits (t.rd a) 48 16,
      wbits (t.rd a) 32 16 ≤ 64 ∧ 1 ≤ wbits (t.rd a) 48 16 ∧ wbits (t.rd a) 48 16 ≤ 64)
  | _ => none

/-- What a request leaves: it is on its way to its engine, and its word waits for the answer (R321). -/
def Requested (s t : State) (i : Instr) (cls : Nat) (f rt : Nat) (slot : BitVec 4) (va vb : Word) (unit : Option Nat) : Prop :=
  (∃ r : Req, t.reqs = s.reqs ++ [r] ∧ r.core = s.cur.1 ∧ r.ctx = s.cur.2 ∧ r.ins = i ∧ r.cls = cls ∧ r.unit = unit ∧ r.rt = rt ∧
    r.slot = slot.toNat ∧ r.va = va ∧ r.vb = vb ∧ r.slk = (if f = 0 then s.now.slk.toNat else f) ∧
    r.answer = (if unit = none then some .forced else none)) ∧
  t.now.wait = some .answer ∧ t.now.x = s.now.x ∧ t.now.pc = s.now.pc ∧ ∀ a, t.byteAt a = s.byteAt a

/-- A slot that is full with a value, and every other slot as it was. -/
def FilledIn (s t : State) (c n : Nat) (v : Word) : Prop :=
  (t.core c).slotFull n = true ∧ (t.core c).slotVal n = v ∧
  ∀ m, m < 16 → m ≠ n → (t.core c).slotFull m = (s.core c).slotFull m ∧ (t.core c).slotVal m = (s.core c).slotVal m

/-- The FIFO that a token descriptor names (R107). -/
def tokenTarget (v : Word) : Nat :=
  if wbits v 4 2 = 0 then 2 * wbits v 2 2 + wbits v 0 2
  else if wbits v 4 2 = 1 then 12 + 2 * wbits v 2 2 + wbits v 0 2
  else 8 + wbits v 2 2

/-- The own FIFO that a field names: 0 the ring's from the predecessor, 1 from the successor, 2 the remote one. -/
def ringFifo (x : Nat) (f : Reg) : Nat := if f = 2 then 8 + x else 2 * x + f.toNat

end Sys2Proof.Machine
namespace Sys2Proof.Machine

/-! ### Tables of the events -/

/-- KIND and NAME of the waits that have a bound (R118), as a trap value holds them. -/
def waitName (w : Wait) : Option (Nat × Nat) :=
  match w with
  | .token f => some (0, if f < 8 then f else 8)
  | .tkrcv f => some (0, if f < 8 then f else 8)
  | .signal f => some (0, if f < 8 then f else 8)
  | .rendezvous => some (1, 0)
  | .pslot n => some (2, n)
  | .barrier n _ => some (3, n)
  | .ringClaim _ n => some (4, n)
  | .ringWait _ n => some (4, n)
  | .time _ => some (5, 0)
  | .frame _ => some (6, 0)
  | .queueFull q => some (7, q)
  | .ctxStop n => some (9, n)
  | .lot _ n _ => some (10, n)
  | .token286 => some (11, 0)
  | _ => none

/-- A context that is running, at its word, and held by nothing (R109, R285, R345). -/
def State.active (s : State) (c x : Nat) : Prop :=
  x < 4 ∧ (s.ctx c x).run = .running ∧ (s.core c).frozen = none ∧ ((s.core c).holdFor = none ∨ (s.core c).holdFor = some x) ∧
  ((s.core c).wounded = false ∨ (s.ctx c x).pl ≠ 0)

/-- An entry that stands at the head of queue `e` with its tokens there, no fence, and a guard that lets it run. -/
def AtHead (s : State) (c e : Nat) (ent : Entry) (r : List Entry) : Prop :=
  ((s.core c).q e).q = ent :: r ∧ (s.core c).mayStart e = true ∧ ent.fence = none ∧ (s.core c).headTokens e ent = true ∧
  (s.core c).guardOf ent = .run

/-- A started command of queue `e`, and the queue without its entry. -/
def Started (s t : State) (c e : Nat) (r : List Entry) (f : Flight) : Prop :=
  ((t.core c).q e).q = r ∧ ((t.core c).q e).fl = ((s.core c).q e).fl ++ [f]

/-- Lane i of the results of vector words whose lanes depend on the same lanes of their operands (R178, R195): the destination, the latency,
and the lane. The type codes are 0 f32, 1 bf16, 2 i32. -/
def laneRow (v : Vxe) (ent : Entry) : Option (Reg × Nat × (Nat → Nat)) :=
  let la (a : Reg) (i : Nat) : Nat := laneOf (v.vr a) i
  let hi (x : Nat) : Nat := x / 2 ^ 16
  let fp (e : BitVec 2) (op : FV → FV → FV) (x y : Nat) : Nat :=
    if e = 0 then fmt32.round .rne false (op (fmt32.dec x) (fmt32.dec y))
    else fmtBf.round .rne false (op (fmtBf.dec (hi x)) (fmtBf.dec (hi y))) * 2 ^ 16
  let sg (x : Nat) : Int := (BitVec.ofNat 32 x).toInt
  match ent.ins with
  | .vadd _ d a b e => some (d, 4, fun i => if e.toNat < 2 then fp e FV.add (la a i) (la b i) else (la a i + la b i) % 2 ^ 32)
  | .vsub _ d a b e => some (d, 4, fun i => if e.toNat < 2 then fp e FV.sub (la a i) (la b i)
      else (la a i + (2 ^ 32 - la b i)) % 2 ^ 32)
  | .vmul _ d a b e => some (d, 4, fun i => if e.toNat < 2 then fp e FV.mul (la a i) (la b i) else (la a i * la b i) % 2 ^ 32)
  | .vand _ d a b => some (d, 4, fun i => la a i &&& la b i)
  | .vor _ d a b => some (d, 4, fun i => la a i ||| la b i)
  | .vxor _ d a b => some (d, 4, fun i => la a i ^^^ la b i)
  | .vsll _ d a b => some (d, 4, fun i => la a i * 2 ^ (la b i % 32) % 2 ^ 32)
  | .vsrl _ d a b => some (d, 4, fun i => la a i / 2 ^ (la b i % 32))
  | .vsra _ d a b => some (d, 4, fun i => ((BitVec.ofNat 32 (la a i)).sshiftRight (la b i % 32)).toNat)
  | .vmov _ d a => some (d, 4, fun i => la a i)
  | .vsplat _ d _ => some (d, 4, fun _ => ent.va.toNat % 2 ^ 32)
  | .vsel _ d a b => some (d, 4, fun i => if (v.mr b).getLsbD i then la a i else la d i)
  | .vidx _ d => some (d, 4, fun i => i)
  | .vbcast _ d a _ => some (d, 8, fun _ => la a (ent.vb.toNat % 1024))
  | .vperm _ d a b => some (d, 8, fun i => la a (la b i % 1024))
  | .vmax _ d a b e => if e = 2 then some (d, 4, fun i => if sg (la a i) < sg (la b i) then la b i else la a i) else none
  | .vmin _ d a b e => if e = 2 then some (d, 4, fun i => if sg (la b i) < sg (la a i) then la b i else la a i) else none
  | _ => none

end Sys2Proof.Machine
namespace Sys2Proof.Machine

/-- Word i of a line. -/
def laneOf' (l : Line) (i : Nat) : Nat := l.toNat / 2 ^ (32 * i) % 2 ^ 32

end Sys2Proof.Machine

namespace Sys2Proof.Machine

/-- The entry `e` of function `fn` has its answer: DONE, its SEQ, a STATUS and its CODE in dword 0, and no request waits there (R417). -/
def MbAnswered (s u : State) (fn e st : Nat) : Prop :=
  (u.func fn).mb e 0 = wnat (2 ^ 62 + wbits ((s.func fn).mb e 0) 32 16 * 2 ^ 32 + st * 2 ^ 24 + mbCode ((s.func fn).mb e 0)) ∧
  (fn, e) ∉ u.tack.mboxOrder

/-- A request of the physical function with this CODE, a LEN in range and an image in service is answered next (R417). -/
def Asked (s : State) (e code need : Nat) : Prop :=
  s.nextReq 0 e = true ∧ mbCode ((s.func 0).mb e 0) = code ∧ s.tack.noImage = false ∧
  need ≤ (s.func 0).mbLen e ∧ (s.func 0).mbLen e ≤ 240 ∧ e < 56

end Sys2Proof.Machine
open Sys2Proof Sys2Proof.Machine

/-! ### The step and the decoder -/

/-- A word of an encoding, written out from the spec's examples, decodes to the instruction that it stands for. -/
def Obligations.DecodeWords : Prop :=
  decode 0x00272981#32 = some (.sub Tk.none 7 5 6) ∧
  decode 0x01405803#32 = some (.lpset Tk.none 0 11 3) ∧
  decode 0x12250b00#32 = some (.sd ⟨false, false, false, true, false⟩ 5 1 0) ∧
  decode 0x03050018#32 = some (.csrr Tk.none 5 0x18) ∧
  decode 0x026531d2#32 = some (.amocas Tk.none 5 6 7 0) ∧
  decode 0x140110c0#32 = some (.vadd ⟨false, false, false, true, false⟩ 1 2 3 0) ∧
  decode 0x052002c0#32 = some (.mxmm Tk.none 0 0 11) ∧
  decode 0x07440380#32 = some (.pwait Tk.none 4 0x80) ∧
  decode 0x00000000#32 = none

/-- Decoding an encoded well-formed instruction gives it back, for every instruction word and every value of its fields. -/
def Obligations.DecodeEncode : Prop := ∀ i : Instr, i.isWord = true → i.wf = true → decode (encode i) = some i

/-- A turn of a context that can issue runs the instruction that its fetched word decodes to, at the state that the fetch leaves, with the
issue slot of its clock taken; without a free slot the context issues nothing in this clock (R102); a word that decodes to nothing raises ILL
with the word as its value (R49); an event of the agenda runs as itself (which context or event moves next is the model's choice, log 1). -/
def Obligations.StepRunsDecoded : Prop :=
  (∀ (s s' : State) (w : Code) (i : Instr), s.agenda = [] → s.ran = false → s.canIssue s.cur.1 s.cur.2 = true →
    s.now.stopReq = false → ¬ (s.takesPending s.cur.1 s.cur.2 = true ∧ s.pendingAt s.cur.1 s.cur.2 = true) →
    ({ s with ran := true } : State).fetchCode s.cur.1 s.cur.2 s.now.pc = some (s', w) → decode w = some i →
    (s'.hasSlot s.cur.1 s.cur.2 (engineWord w i) = true → step s = exec i (s'.takeSlot s.cur.1 s.cur.2 (engineWord w i))) ∧
    (s'.hasSlot s.cur.1 s.cur.2 (engineWord w i) = false → step s = .next { s with ran := true })) ∧
  (∀ (s s' : State) (w : Code), s.agenda = [] → s.ran = false → s.canIssue s.cur.1 s.cur.2 = true →
    s.now.stopReq = false → ¬ (s.takesPending s.cur.1 s.cur.2 = true ∧ s.pendingAt s.cur.1 s.cur.2 = true) →
    ({ s with ran := true } : State).fetchCode s.cur.1 s.cur.2 s.now.pc = some (s', w) → decode w = none →
    step s = .next (s'.raised Cause.ill (w.setWidth 64))) ∧
  (∀ (s : State) (i : Instr) (r : List Action), s.agenda = .event i :: r → step s = exec i { s with agenda := r })

/-- The word that is fetched: the little-endian word of memory at the translated pc, where the instruction cache holds none for it
and no copy of its line is nearer (R16, R17). -/
def Obligations.FetchReadsMemory : Prop :=
  ∀ (s : State) (c x : Nat) (pc : Word) (pa : Nat) (cls : BitVec 2) (ms : Bool),
    s.translate c pc .exec ((s.ctx c x).pl = 0) = .ok (.phys pa cls ms) →
    Map.get none (s.core c).icache (pa / 4) = none → (s.core c).line (pa / 128) = none →
    Map.get none (s.core c).pen (pa / 128) = none → (s.ctx c x).stores = [] → pa % 4 = 0 → s.linePoison (pa / 128) = 0 →
    ∃ s', s.fetchCode c x pc = some (s', BitVec.ofNat 32 (s.homeRead pa 4))

/-- Every step of the machine answers a next state: no instruction and no event is refused, and none stops the machine. -/
def Obligations.EveryStepGoesOn : Prop :=
  (∀ (i : Instr) (s : State), ∃ t, exec i s = .next t) ∧ (∀ s : State, ∃ t, step s = .next t)

/-! ### Reset and invariants -/

/-- What a reset leaves where the spec says so: level H, VB, SE, STIP and HTIP 0, and PC 0 in every context (R12), the default waits of
R34, the seed of R149, no token (R105), no unit ready (R422); and memory in its canonical form. -/
def Obligations.ResetLeavesItsValues : Prop :=
  (∀ c x : Nat,
     (State.reset.ctx c x).run = .stopped ∧ (State.reset.ctx c x).pl = 2 ∧ (State.reset.ctx c x).pc = 0 ∧
     (State.reset.ctx c x).vb = false ∧ (State.reset.ctx c x).se = false ∧ (State.reset.ctx c x).stip = false ∧
     (State.reset.ctx c x).htip = false ∧ (State.reset.ctx c x).fip = false ∧
     (State.reset.ctx c x).gwait = 0xffffff ∧ (State.reset.ctx c x).vseed = 0xace1 ∧ (State.reset.ctx c x).bz = false ∧
     (∀ n, ((State.reset.ctx c x).loopCtr n).act = false) ∧ (∀ f, (State.reset.core c).fifoCount f = 0) ∧
     State.reset.rdy0 = 0 ∧ State.reset.rdy1 = 0) ∧
  (Memory.wf State.reset.mem)
/-- Every step keeps the canonical form of memory: addresses rise, and no listed byte is the 0 that an unlisted address reads as (R8; that value is
the model's choice, log 2). -/
def Obligations.MemoryStaysCanonical : Prop :=
  ∀ s t : State, Memory.wf s.mem → step s = .next t → Memory.wf t.mem

/-- Bytes of memory: what `n` bytes read after they were written, little-endian (R8), and every other byte as before. -/
def Obligations.MemoryReadsAfterWrite : Prop :=
  ∀ (s : State) (pa n v : Nat),
    (s.homeWrite pa n v).homeRead pa n = v % 256 ^ n ∧
    (∀ a, a < pa ∨ pa + n ≤ a → (s.homeWrite pa n v).byteAt a = s.byteAt a) ∧
    ∀ i, i < n → ((s.homeWrite pa n v).byteAt (pa + i)).toNat = v / 256 ^ i % 256

/-! ### Scalar words -/

/-- An integer word that issues writes the result of its table to `x[d]` (nothing, where d is x0) and completes (R64, R66 to
R68). -/
def Obligations.IntegerResultsWritten : Prop :=
  ∀ (s : State) (i : Instr) (k : Tk) (d : Reg) (v : Word), intResult i s.now = some (k, d, v) → Issues 0 i k s →
    exec i s = .next (((s.issued k).put d v).finished k)

/-- A binary64 word that issues writes the result of its table to `x[d]` and completes, with no flag and no trap (R87 to R89), and so do the words that
read the context number, the clock, the frame, the task's number and a full slot (R131 to R133, R114). -/
def Obligations.ScalarAndReadResultsWritten : Prop :=
  (∀ (s : State) (i : Instr) (k : Tk) (d : Reg) (v : Word), fpResult i s.now = some (k, d, v) → Issues 0 i k s →
     exec i s = .next (((s.issued k).put d v).finished k)) ∧
  (∀ (s : State) (i : Instr) (k : Tk) (d : Reg) (v : Word), readResult i s = some (k, d, v) → Issues 0 i k s →
     (∀ a, i = .prd k d a → (s.core s.cur.1).pfull.getLsbD a.toNat = true) →
     exec i s = .next (((s.issued k).put d v).finished k))
/-- Whatever such a word's step does, it changes of the package only its own context: no byte of memory, no other context and no other
core, no register but `x[d]`, and of the special registers none unless it traps. -/
def Obligations.RegisterWordFrame : Prop :=
  ∀ (s t : State) (i : Instr) (k : Tk) (d : Reg) (v : Word),
    intResult i s.now = some (k, d, v) ∨ fpResult i s.now = some (k, d, v) ∨ readResult i s = some (k, d, v) →
    exec i s = .next t →
    CtxFrame s t s.cur.1 s.cur.2 ∧ (∀ a, t.byteAt a = s.byteAt a) ∧ (∀ r, r ≠ d → t.now.rd r = s.now.rd r) ∧
    ((Ctx.Moves { s.now with x := t.now.x } t.now) ∨ (t.now.x = s.now.x ∧ Ctx.Trapped s.now t.now))

/-- What completing a word does beside its result: it counts, every register and every special register stays, and the pc goes to the
next word, or where the kernel-boundary step of an active loop that ends here sends it (R11, R78). -/
def Obligations.CompletionAdvances : Prop :=
  ∀ (s : State) (k : Tk),
    CtxFrame s (s.finished k) s.cur.1 s.cur.2 ∧ Ctx.Moves s.now (s.finished k).now ∧
    (s.finished k).now.retired = s.now.retired + 1 ∧
    (s.now.loopAt s.now.pc = none → (s.finished k).now.pc = s.now.pc + 4 ∧ (s.finished k).now.lc = s.now.lc) ∧
    ∀ n, s.now.loopAt s.now.pc = some n →
      let l := s.now.loopCtr n
      let l' := (s.finished k).now.loopCtr n
      l'.iter = l.iter + 1 ∧
      (if l.iter + 1 < l.endAt ∧ l.pre = true ∧ s.preReq s.cur.1 = true then
        l'.clamp = true ∧ l'.act = false ∧ (s.finished k).now.pc = l.last + 4
      else if l.iter + 1 < l.endAt then l'.act = true ∧ (s.finished k).now.pc = l.start
      else l'.act = false ∧ (s.finished k).now.pc = l.last + 4)

/-- A branch that issues transfers control to `pc + 4 · sext(offset)` when its condition holds, and completes otherwise; neither
writes a register (R69, R71).
`jal` links and jumps; `jalr` reads its base before it links, and a target that is not word-aligned raises MISAL with the target and
no link (R73, R74).
A taken transfer clears ACT of each active loop of its level whose kernel does not hold the target, and of no other; it keeps
every other field of every loop (R81). -/
def Obligations.TransfersJumpLinkAndClearLoops : Prop :=
  (∀ (s : State) (i : Instr) (k : Tk) (slot : Option Nat) (taken : Bool) (a : Word),
     branchOf i s = some (k, slot, taken, a) → Issues 0 i k s →
     (∀ p, slot = some p → (s.core s.cur.1).pfull.getLsbD p = true) →
     exec i s = .next (if taken then (s.issued k).transferred k a else (s.issued k).finished k)) ∧
  (∀ (s : State) (k : Tk) (d a : Reg),
     (∀ o : BitVec 16, Issues 0 (.jal k d o) k s →
       exec (.jal k d o) s = .next (((s.issued k).put d (s.now.pc + 4)).transferred k (s.now.pc + 4 * o.signExtend 64))) ∧
     ∀ o : BitVec 11, Issues 0 (.jalr k d a o) k s →
       exec (.jalr k d a o) s =
         .next (if (s.now.rd a + o.signExtend 64).toNat % 4 = 0
           then ((s.issued k).put d (s.now.pc + 4)).transferred k (s.now.rd a + o.signExtend 64)
           else s.raised Cause.misal (s.now.rd a + o.signExtend 64))) ∧
  (∀ (s : State) (k : Tk) (a : Word) (n : Nat), n < 4 →
     let l := s.now.loopCtr n
     let l' := (s.transferred k a).now.loopCtr n
     (s.transferred k a).now.pc = a ∧
     l' = (if l.act = true ∧ l.pl = s.now.pl ∧ ¬ (l.start ≤ a ∧ a ≤ l.last) then { l with act := false } else l))
/-- `lpset` that passes its checks arms counter n from the word after it, or skips its kernel when no pass is left to run (R76).
`lpres`: the entry form hands over the first iteration to run; the exit form completes, or parks the context at this word when the
loop was clamped (R77, R80). -/
def Obligations.LoopWordsArmSkipAndPark : Prop :=
  (∀ (s : State) (k : Tk) (d a : Reg) (len : BitVec 8), Issues 0 (.lpset k d a len) k s →
     let l := s.now.loopCtr d.toNat
     let iter := if l.bp then l.iter else 0
     let c : LoopCtr := { l with
       iter := iter, pre := l.bp, bp := false, clamp := false, endAt := (s.now.rd a).setWidth 32, len := len
       start := s.now.pc + 4, pl := s.now.pl, act := decide (iter < (s.now.rd a).setWidth 32) }
     l.act = false → (s.now.rd a).toNat < 2 ^ 32 →
     (∀ m, m < 4 → (s.now.loopCtr m).act = true → (s.now.loopCtr m).pl = s.now.pl →
       (s.now.loopCtr m).start ≤ s.now.pc + 4 ∧ s.now.pc + 4 * len.setWidth 64 < (s.now.loopCtr m).last) →
     exec (.lpset k d a len) s = .next (((s.issued k).setNow (s.now.setLoop d.toNat c)).wentTo k
       (if c.act then s.now.pc + 4 else s.now.pc + 4 + 4 * len.setWidth 64))) ∧
  (∀ (s : State) (k : Tk) (d a : Reg),
     (Issues 0 (.lpresEntry k d a) k s → (s.now.loopCtr a.toNat).act = false →
       let l := s.now.loopCtr a.toNat
       let iter := if l.rsv then l.iter else 0
       exec (.lpresEntry k d a) s = .next (((s.issued k).setNow ((s.now.setLoop a.toNat
         { l with iter := iter, rsv := false, clamp := false, bp := true, head := s.now.pc }).wr d (iter.setWidth 64))).wentTo k
         (s.now.pc + 4))) ∧
     (Issues 0 (.lpresExit k a) k s → (s.now.loopCtr a.toNat).act = false →
       ((s.now.loopCtr a.toNat).clamp = false → exec (.lpresExit k a) s = .next ((s.issued k).wentTo k (s.now.pc + 4))) ∧
       ((s.now.loopCtr a.toNat).clamp = true → s.now.heldSig = [] →
         exec (.lpresExit k a) s = .next (s.setNow { s.now.unwait with run := .parked }))))
/-- `bkt` jumps to the smallest valid bucket that holds the count and writes its size, or to the overflow address with `bz` set (R84). -/
def Obligations.BucketRoundsUp : Prop :=
  ∀ (s : State) (k : Tk) (d a : Reg), Issues 0 (.bkt k d a) k s →
    let e (j : Nat) : Word := Map.get 0 s.now.bktBound j
    let fits (j : Nat) : Prop := j < 8 ∧ (e j).getLsbD 63 = true ∧ (s.now.rd a).toNat ≤ (e j).toNat % 2 ^ 32
    (∀ j, fits j → (∀ m, fits m → (e j).toNat % 2 ^ 32 ≤ (e m).toNat % 2 ^ 32) →
      (∀ m, fits m → m < j → (e j).toNat % 2 ^ 32 < (e m).toNat % 2 ^ 32) →
      exec (.bkt k d a) s = .next (((s.issued k).setNow { s.now.wr d (BitVec.ofNat 64 ((e j).toNat % 2 ^ 32)) with bz := false }).transferred k
        (Map.get 0 s.now.bktAddr j))) ∧
    ((∀ j, ¬ fits j) →
      exec (.bkt k d a) s = .next (((s.issued k).setNow { s.now.wr d (s.now.rd a) with bz := true }).transferred k s.now.bktOvf))

/-! ### Traps -/

/-- A word with a field out of range raises ILL with the word as its value, whatever the level, and does nothing else (R49).
`bpt` and `bpf` on an empty slot, and `prd` of one, raise FUT and change nothing else (R71, R114). The loop words raise NEST with
their word and the reason of R83, which changes no loop counter. -/
def Obligations.ScalarWordsRaiseTheirTraps : Prop :=
  (∀ (s : State) (i : Instr), i.wf = false → exec i s = .next (s.raised Cause.ill (wordVal i))) ∧
  ((∀ (s : State) (i : Instr) (k : Tk), Issues 0 i k s →
      (∀ p o, i = .bpt k p o → (s.core s.cur.1).pfull.getLsbD p.toNat = false → exec i s = .next (s.raised Cause.fut (wordVal i))) ∧
      (∀ p o, i = .bpf k p o → (s.core s.cur.1).pfull.getLsbD p.toNat = false → exec i s = .next (s.raised Cause.fut (wordVal i))) ∧
      (∀ d a, i = .prd k d a → (s.core s.cur.1).pfull.getLsbD a.toNat = false → exec i s = .next (s.raised Cause.fut (wordVal i)))) ∧
   (∀ (s : State) (k : Tk) (d a : Reg) (len : BitVec 8),
      (Issues 0 (.lpset k d a len) k s →
        ((s.now.loopCtr d.toNat).act = true →
          exec (.lpset k d a len) s = .next (s.raised Cause.nest (wordVal (.lpset k d a len)))) ∧
        ((s.now.loopCtr d.toNat).act = false → 2 ^ 32 ≤ (s.now.rd a).toNat →
          exec (.lpset k d a len) s = .next (s.raised Cause.nest (wordVal (.lpset k d a len) ||| 0x100000000)))) ∧
      (Issues 0 (.lpresEntry k d a) k s → (s.now.loopCtr a.toNat).act = true →
        exec (.lpresEntry k d a) s = .next (s.raised Cause.nest (wordVal (.lpresEntry k d a)))) ∧
      (Issues 0 (.lpresExit k a) k s → (s.now.loopCtr a.toNat).act = true →
        exec (.lpresExit k a) s = .next (s.raised Cause.nest (wordVal (.lpresExit k a) ||| 0x400000000)))))
/-- A word that needs level S raises PRIV at U with the word as its value (R19). -/
def Obligations.PrivilegeTraps : Prop :=
  ∀ (s : State) (i : Instr) (k : Tk), needsS i = some k → i.wf = true → s.now.pl = 0 →
    exec i s = .next (s.raised Cause.priv (wordVal i))

/-- A word that waits on an empty FIFO is held at its word with the bound GC, and none of its effect has happened (R106). -/
def Obligations.EmptyFifoHolds : Prop :=
  ∀ (s : State) (i : Instr) (k : Tk) (d : Reg) (v : Word) (f : Nat), intResult i s.now = some (k, d, v) → i.wf = true →
    emptyWait (s.core s.cur.1) (waitFifos k s.cur.2) = some f →
    exec i s = .next (s.waits k (.token f) s.now.gc) ∧
      (s.waits k (.token f) s.now.gc).now = { s.now with
        wait := some (.token f), waitTk := k, bound := s.now.gc, stall := 0, waitAt := s.cc
        popped := false }

/-- Taking a trap into a bank whose TIP bit is clear: the bank takes the pc, the cause and the value; the status takes the old level
and TIP; the level becomes that of R21; the pc is the handler's; no register changes (R23). A FUT at U outside a future handler stays
at U: `ctx.fepc` takes the pc, FIP is set, the pc is `ctx.fvec`; no bank changes (R115). A trap into a bank whose TIP bit is set stops the
context; the bank keeps the first trap, and the second one's cause, value and pc are noted for the halter (R25). -/
def Obligations.TrapEntrySavesAndGoesToHandler : Prop :=
  (∀ (s : State) (c x : Nat) (cz : BitVec 5) (v pc : Word),
     let t := s.ctx c x
     let t' := (takeTrap s c x cz v pc).ctx c x
     let lvl := levelOf cz t.pl
     t.pl ≤ 2 → pc.toNat % 4 = 0 → (cz ≠ 7 ∨ t.pl ≠ 0 ∨ t.fip = true) → (if lvl = 1 then t.stip else t.htip) = false →
     t'.pl = lvl ∧ t'.x = t.x ∧ t'.run = t.run ∧ t'.lc = t.lc ∧ t'.fepc = t.fepc ∧ t'.wait = none ∧
     (lvl = 1 → t'.sBank = { t.sBank with epc := pc, cause := cz, tval := v } ∧ t'.hBank = t.hBank ∧ t'.stip = true ∧
       t'.status.extractLsb' 2 2 = t.pl ∧ t'.htip = t.htip ∧ t'.status.extractLsb' 4 2 = t.status.extractLsb' 4 2) ∧
     (lvl = 2 → t'.hBank = { t.hBank with epc := pc, cause := cz, tval := v } ∧ t'.sBank = t.sBank ∧ t'.htip = true ∧
       t'.status.extractLsb' 4 2 = t.pl ∧ t'.stip = t.stip ∧ t'.status.extractLsb' 2 2 = t.status.extractLsb' 2 2) ∧
     (let tvec := (if lvl = 1 then t.sBank else t.hBank).tvec
      let base := (tvec >>> 8 <<< 8) &&& 0xffffffffffff
      t'.pc = if tvec.getLsbD 0 then base + 8 * cz.setWidth 64 else base)) ∧
  (∀ (s : State) (c x : Nat) (v pc : Word),
     let t := s.ctx c x
     let t' := (takeTrap s c x Cause.fut v pc).ctx c x
     t.pl = 0 → t.fip = false →
     t'.fepc = pc ∧ t'.fip = true ∧ t'.pc = t.fvec ∧ t'.pl = 0 ∧ t'.sBank = t.sBank ∧ t'.hBank = t.hBank ∧ t'.x = t.x) ∧
  (∀ (s : State) (c x : Nat) (cz : BitVec 5) (v pc : Word),
     let t := s.ctx c x
     let s' := takeTrap s c x cz v pc
     (cz ≠ 7 ∨ t.pl ≠ 0 ∨ t.fip = true) → t.pl ≤ 2 → (if levelOf cz t.pl = 1 then t.stip else t.htip) = true →
     (s'.ctx c x).run = .failed ∧ (s'.ctx c x).sBank = t.sBank ∧ (s'.ctx c x).hBank = t.hBank ∧ (s'.ctx c x).status = t.status ∧
     ∃ w ∈ s'.watches, w.kind = 3 ∧ w.core = c ∧ w.ctx = x ∧ w.cause = cz ∧ w.tval = v ∧ w.pc = pc)
/-- Whatever trap a context takes, it changes of the package its own context, its core's counters, its own request for a lot and what the halter
notes: no byte of memory, no other context, and no register (R20). -/
def Obligations.TrapsChangeOnlyTheirContext : Prop :=
  ∀ (s : State) (c x : Nat) (cz : BitVec 5) (v pc : Word),
    CtxFrame s (takeTrap s c x cz v pc) c x ∧ (∀ a, (takeTrap s c x cz v pc).byteAt a = s.byteAt a) ∧
    ((takeTrap s c x cz v pc).ctx c x).x = (s.ctx c x).x ∧ Ctx.Trapped (s.ctx c x) ((takeTrap s c x cz v pc).ctx c x)

/-- `sys`, `brk` and `trap` take the trap that they name, as their whole effect (R97, R98). -/
def Obligations.RequestedTrapsAreTaken : Prop :=
  ∀ (s : State) (i : Instr) (lvl : BitVec 2) (k : Tk) (cz : BitVec 5) (v : Word), ownTrap i s.now = some (lvl, k, cz, v) →
    Issues lvl i k s → (s.core s.cur.1).penned = false → exec i s = .next (s.raised cz v)

/-- `eret` restores the level from the bank of its level, clears that TIP bit and goes to the saved pc (R24). `halt` performs the
context's stores and stops the context at the next word (R99). -/
def Obligations.EretRestoresAndHaltStops : Prop :=
  (∀ (s : State) (k : Tk), Issues 1 (.eret k) k s → (s.core s.cur.1).holdFor ≠ some s.cur.2 → s.now.heldSig = [] →
     ∃ t, exec (.eret k) s = .next t ∧ t.now.x = s.now.x ∧ t.now.sBank = s.now.sBank ∧ t.now.hBank = s.now.hBank ∧
       (s.now.pl = 1 →
         t.now.pl = s.now.status.extractLsb' 2 2 ∧ t.now.stip = false ∧ t.now.htip = s.now.htip ∧
         ((∀ n, n < 4 → (s.now.loopCtr n).act = true → (s.now.loopCtr n).pl = t.now.pl → (s.now.loopCtr n).last ≠ s.now.sBank.epc - 4) →
           t.now.pc = s.now.sBank.epc)) ∧
       (s.now.pl = 2 →
         t.now.pl = s.now.status.extractLsb' 4 2 ∧ t.now.htip = false ∧ t.now.stip = s.now.stip ∧
         ((∀ n, n < 4 → (s.now.loopCtr n).act = true → (s.now.loopCtr n).pl = t.now.pl → (s.now.loopCtr n).last ≠ s.now.hBank.epc - 4) →
           t.now.pc = s.now.hBank.epc))) ∧
  (∀ (s : State) (k : Tk), Issues 1 (.halt k) k s → s.now.heldSig = [] → s.now.stores = [] →
     (∀ f ∈ signalFifos k s.cur.2, ((s.issued k).core s.cur.1).fifoRoom f = true) →
     exec (.halt k) s = .next (((s.issued k).setNow { s.now with run := .stopped, pc := s.now.pc + 4 }).stayed k (s.now.pl = 0)))
/-- `fret` in a future handler at U clears FIP and goes to `ctx.fepc`; a pc that is not word-aligned raises MISAL, and a `fret`
anywhere else ILL (R100). -/
def Obligations.FretReturns : Prop :=
  ∀ (s : State) (k : Tk), Issues 0 (.fret k) k s →
    exec (.fret k) s =
      .next (if s.now.pl ≠ 0 ∨ s.now.fip = false then s.raised Cause.ill (wordVal (.fret k))
        else if s.now.fepc.toNat % 4 ≠ 0 then s.raised Cause.misal s.now.fepc
        else ((s.issued k).setNow (s.now.setFip false)).returned k s.now.fepc)

/-! ### Control and status registers -/

/-- What each CSR word does at each level: a number that R52 does not list and a write form on a register that is read-only at the
level raise ILL, one above the level raises PRIV, each with the word as its value (R51, R53).
A CSR word that passes its checks: `csrr` reads into `x[d]`, and a write form writes the new value and gives the old one to
`x[d]` (R94). -/
def Obligations.CsrWordsReadWriteOrTrap : Prop :=
  (∀ (s : State) (i : Instr) (k : Tk) (n : BitVec 9) (wr : Bool), Issues 0 i k s → s.now.pl ≤ 2 →
     ((∃ d, i = .csrr k d n ∧ wr = false) ∨ (∃ d f, csrWriteForm i s.now = some (k, d, n, f) ∧ wr = true)) →
     (csrRow n.toNat = none → exec i s = .next (s.raised Cause.ill (wordVal i))) ∧
     (∀ lvl roU roS, csrRow n.toNat = some (lvl, roU, roS) →
       (s.now.pl < lvl → exec i s = .next (s.raised Cause.priv (wordVal i))) ∧
       (lvl ≤ s.now.pl → wr = true → (if s.now.pl = 0 then roU else roS) = true → exec i s = .next (s.raised Cause.ill (wordVal i))))) ∧
  (∀ (s : State) (k : Tk) (n : BitVec 9) (lvl : BitVec 2) (roU roS : Bool), csrRow n.toNat = some (lvl, roU, roS) → lvl ≤ s.now.pl →
     (∀ d, Issues 0 (.csrr k d n) k s →
       exec (.csrr k d n) s = .next (((csrReadEffect (s.issued k) s.cur.1 s.cur.2 n.toNat).put d
         (csrValue (s.issued k) s.cur.1 s.cur.2 n.toNat)).finished k)) ∧
     (∀ i d f, csrWriteForm i s.now = some (k, d, n, f) → Issues 0 i k s → (if s.now.pl = 0 then roU else roS) = false →
       (lvl = 0 ∨ (s.core s.cur.1).penned = false) →
       exec i s = .next (((csrWrite (s.issued k) s.cur.1 s.cur.2 n.toNat (f (csrValue (s.issued k) s.cur.1 s.cur.2 n.toNat))).put d
         (csrValue (s.issued k) s.cur.1 s.cur.2 n.toNat)).finished k)))
/-- A written register reads the written value in its RW bits and 0 in its reserved ones, and every other such register, every general
register and every byte of memory stays (R94). A write of `ctx.status` at S leaves VB, HTIP, HPL, PL and FIP; a value that SPL does not
accept leaves SPL, and the other fields are written (R26). The bank that the trap registers name: the H bank at H with VB = 0, the S bank
at S and at H with VB = 1 (R22). -/
def Obligations.CsrWritesKeepOtherRegisters : Prop :=
  (∀ (s : State) (c x n : Nat) (m v : Word), csrMask n = some m →
     csrValue (csrWrite s c x n v) c x n = v &&& m ∧
     (∀ n' m', csrMask n' = some m' → n' ≠ n → csrValue (csrWrite s c x n v) c x n' = csrValue s c x n') ∧
     ((csrWrite s c x n v).ctx c x).x = (s.ctx c x).x ∧ ((csrWrite s c x n v).ctx c x).status = (s.ctx c x).status ∧
     ∀ a, (csrWrite s c x n v).byteAt a = s.byteAt a) ∧
  (∀ (s : State) (c x : Nat) (v : Word), (s.ctx c x).pl = 1 →
     let t := s.ctx c x
     let t' := (csrWrite s c x 0x080 v).ctx c x
     t'.vb = t.vb ∧ t'.htip = t.htip ∧ t'.status.extractLsb' 4 2 = t.status.extractLsb' 4 2 ∧ t'.pl = t.pl ∧ t'.fip = t.fip ∧
     t'.sle = v.getLsbD 11 ∧ t'.se = v.getLsbD 9 ∧ t'.stip = v.getLsbD 6 ∧
     t'.status.extractLsb' 2 2 = if v.toNat / 4 % 4 ≤ 1 then v.extractLsb' 2 2 else t.status.extractLsb' 2 2) ∧
  (∀ (s : State) (c x : Nat) (v : Word),
     let t := s.ctx c x
     let h := t.pl = 2 ∧ t.vb = false
     csrValue s c x 0x082 = (if h then t.hBank.epc else t.sBank.epc) ∧
     csrValue s c x 0x084 = (if h then t.hBank.tval else t.sBank.tval) ∧
     (h → ((csrWrite s c x 0x084 v).ctx c x).hBank.tval = v ∧ ((csrWrite s c x 0x084 v).ctx c x).sBank = t.sBank) ∧
     (¬ h → ((csrWrite s c x 0x084 v).ctx c x).sBank.tval = v ∧ ((csrWrite s c x 0x084 v).ctx c x).hBank = t.hBank))
/-! ### Contexts, tasks and time -/

/-- `cstart` starts a stopped context at level S at x[a], leaves any other alone, and refuses a target that is not word-aligned; `cstop`
asks a running context to stop at its next word boundary; `cyield` makes the context issue nothing for the n + 1 cc after the present one, which counts too; `slk` writes the
default slack class (R131, R133). -/
def Obligations.ContextWordsStartStopAndYield : Prop :=
  ∀ (s : State) (k : Tk) (d a : Reg) (n : BitVec 8),
    (Issues 1 (.cstart k d a) k s →
      ((s.now.rd a).toNat % 4 ≠ 0 → exec (.cstart k d a) s = .next (s.raised Cause.misal (s.now.rd a))) ∧
      ((s.now.rd a).toNat % 4 = 0 → (s.ctx s.cur.1 d.toNat).run = .stopped →
        exec (.cstart k d a) s = .next (((s.issued k).setCtx s.cur.1 d.toNat
          { (s.ctx s.cur.1 d.toNat).setPl 1 with run := .running, pc := s.now.rd a, stopReq := false }).finished k)) ∧
      ((s.now.rd a).toNat % 4 = 0 → (s.ctx s.cur.1 d.toNat).run ≠ .stopped →
        exec (.cstart k d a) s = .next ((s.issued k).finished k))) ∧
    (Issues 1 (.cstop k d) k s →
      exec (.cstop k d) s = .next ((if (s.ctx s.cur.1 d.toNat).run = .running
        then (s.issued k).setCtx s.cur.1 d.toNat { s.ctx s.cur.1 d.toNat with stopReq := true } else s.issued k).finished k)) ∧
    (Issues 0 (.cyield k n) k s →
      exec (.cyield k n) s = .next (((s.issued k).setNow { s.now with yieldFor := n.toNat + 2 }).finished k)) ∧
    (Issues 0 (.slk k n) k s →
      exec (.slk k n) s = .next (((s.issued k).setNow { s.now with slk := n.setWidth 4 }).finished k))

/-- The words that wait for time, a frame, another context's end and a slot complete at once when it has come, and wait under their own
bound otherwise (R133, R131, R114). The bound of a wait field is (m + 16) · 2^e cc (R34). -/
def Obligations.WaitWordsCompleteOrWait : Prop :=
  (∀ (s : State) (i : Instr) (k : Tk) (w : Wait) (b : Nat) (ready : Bool), waitWord i s = some (k, w, b, ready) → Issues 0 i k s →
     (∀ d v, i = .cwait k d v → d.toNat ≠ s.cur.2) →
     exec i s = .next (if ready then (s.issued k).finished k else s.waits k w b)) ∧
  (∀ e m : Nat, e < 16 → m < 16 → waitBound (16 * e + m) = (m + 16) * 2 ^ e)

/-! ### Loads and stores -/

/-- A load that issues and whose words the core's L1 holds valid gives the bytes of the copy, little-endian and extended, to `x[d]` and
completes; no byte of memory changes, and no register but `x[d]` (R90, R240).
A load whose bytes are not at hand issues: its tokens are popped, its request leaves, and it waits for its reply (R106, R302); the reply from a memory-side home gives the
bytes of memory to `x[d]` and completes the word (R90, R245, R345). -/
def Obligations.LoadsReadCopyOrWaitForHome : Prop :=
  (∀ (s : State) (i : Instr) (k : Tk) (d : Reg) (ea : Word) (w : Nat) (sg : Bool) (pa : Nat) (cls : BitVec 2) (l : L1Line),
     loadOf i s.now = some (k, d, ea, w, sg) → Issues 0 i k s → ea.toNat % w = 0 → pa % w = 0 →
     s.translate s.cur.1 ea .read (s.now.pl = 0) = .ok (.phys pa cls false) → cls ≠ 3 →
     s.lotStep s.cur.1 ea cls false = .go → (s.core s.cur.1).line (pa / 128) = some l →
     (l.valid &&& wordMask pa w) = wordMask pa w → (l.cls ≠ 0 ∨ s.now.pts ≤ l.rts) → l.poison = 0 → s.linePoison (pa / 128) = 0 →
     Map.get none (s.core s.cur.1).pen (pa / 128) = none → s.now.stores = [] →
     ∃ t, exec i s = .next t ∧
       t.now.rd d = (if d = 0 then 0 else extended (l.data.toNat / 256 ^ (pa % 128) % 256 ^ w) w sg) ∧
       (∀ r, r ≠ d → t.now.rd r = s.now.rd r) ∧ (∀ a, t.byteAt a = s.byteAt a) ∧
       (s.now.loopAt s.now.pc = none → t.now.pc = s.now.pc + 4)) ∧
  ((∀ (s : State) (i : Instr) (k : Tk) (d : Reg) (ea : Word) (w : Nat) (sg : Bool) (pa : Nat) (cls : BitVec 2) (ms : Bool),
     loadOf i s.now = some (k, d, ea, w, sg) → Issues 0 i k s → ea.toNat % w = 0 →
     s.translate s.cur.1 ea .read (s.now.pl = 0) = .ok (.phys pa cls ms) → s.lotStep s.cur.1 ea cls ms = .go →
     s.ready s.cur.1 s.cur.2 pa w cls ms = false →
     let wt := Wait.load d.toNat ea w sg (.phys pa cls ms)
     exec i s = .next (((s.issued k).sendWait s.cur.1 s.cur.2 wt).holdIssued s.cur.1 s.cur.2 k wt)) ∧
   (∀ (s : State) (c x : Nat) (d : Reg) (ea : Word) (w : Nat) (sg : Bool) (pa : Nat),
     x < 4 → (s.ctx c x).wait = some (.load d.toNat ea w sg (.phys pa 1 true)) → (s.ctx c x).run = .running → 0 < w → pa % w = 0 → w ∣ 8 → s.linePoison (pa / 128) = 0 →
     Map.get none (s.core c).pen (pa / 128) = none → (s.ctx c x).stores = [] →
     ∃ t, exec (.loadReply c x .home) s = .next t ∧
       (t.ctx c x).rd d = (if d = 0 then 0 else extended (s.homeRead pa w) w sg) ∧
       (∀ r, r ≠ d → (t.ctx c x).rd r = (s.ctx c x).rd r) ∧ (∀ a, t.byteAt a = s.byteAt a)))
/-- A load or a store at an address that is not a multiple of its width raises MISAL with the address, and one whose translation fails
raises its cause with the address; neither changes a register or a byte (R14, R28, R29). -/
def Obligations.AccessTraps : Prop :=
  ∀ (s : State) (i : Instr) (k : Tk) (ea : Word) (w : Nat) (n : Need), Issues 0 i k s →
    ((∃ d sg, loadOf i s.now = some (k, d, ea, w, sg) ∧ n = .read) ∨ (∃ v, storeOf i s.now = some (k, v, ea, w) ∧ n = .write)) →
    (ea.toNat % w ≠ 0 → exec i s = .next (s.raised Cause.misal ea)) ∧
    (∀ cz, ea.toNat % w = 0 → s.translate s.cur.1 ea n (s.now.pl = 0) = .bad cz → exec i s = .next (s.raised cz ea))

/-- A store that issues is pending with its address, its width and its data, in program order; its signals wait for it, and no byte of
memory and no register changes (R91, R106, R345); one that is performed at its home forms its packet (R302). Whatever the step of a store word
does in a task that declares no sets, it changes of the package only its own context and the packets that leave: no byte of memory, and no
register; its bytes are written when it is performed. One for another package first performs the earlier stores of its context (R258).
A performed store writes its bytes at the home on a memory-side or HC page, and no other byte where no line must make room for it in the L1. On an SW or PV page
whose line the L1 holds it writes its bytes into the line, valid and dirty, and no byte of memory, unless the dirty-line FIFO is full
(R240, R246, R247). -/
def Obligations.StoresPendThenWriteTheirBytes : Prop :=
  ((∀ (s : State) (i : Instr) (k : Tk) (v ea : Word) (w pa : Nat) (cls : BitVec 2) (ms : Bool),
      storeOf i s.now = some (k, v, ea, w) → Issues 0 i k s → ea.toNat % w = 0 →
      s.translate s.cur.1 ea .write (s.now.pl = 0) = .ok (.phys pa cls ms) → s.lotStep s.cur.1 ea cls ms = .go →
      (s.core s.cur.1).penned = false → s.linePoison (pa / 128) = 0 →
      (pa < 2 ^ 47 ∨ (cls ≠ 0 ∧ cls ≠ 3 ∧ ms = false)) →
      exec i s = .next ((((s.issued k).storePkt s.cur.1 s.cur.2 ea w (.phys pa cls ms)).setNow { s.now with
        stores := s.now.stores ++ [⟨ea, w, v, .phys pa cls ms, k, s.now.slk.toNat, s.now.skEntry s.now.slk.toNat⟩] }).finished Tk.none)) ∧
   (∀ (s t : State) (i : Instr) (k : Tk) (v ea : Word) (w : Nat), storeOf i s.now = some (k, v, ea, w) →
      (s.core s.cur.1).penned = false → exec i s = .next t →
      (s.now.stores = [] ∨ (∀ pkg off, s.translate s.cur.1 ea .write (s.now.pl = 0) ≠ .ok (.remote pkg off)) →
        CtxFrame { s with points := t.points, outbox := t.outbox, farReqs := t.farReqs } t s.cur.1 s.cur.2 ∧ ∀ a, t.byteAt a = s.byteAt a) ∧
      t.now.x = s.now.x ∧ t.now.bz = s.now.bz ∧ t.now.slk = s.now.slk)) ∧
  ((∀ (s : State) (c x : Nat) (p : PStore) (r : List PStore) (pa : Nat) (cls : BitVec 2) (ms : Bool),
      (s.ctx c x).stores = p :: r → p.place = .phys pa cls ms → cls = 0 ∨ ms = true → pa % 128 + p.w ≤ 128 →
      ∃ t, exec (.storePerform c x) s = .next t ∧ (t.ctx c x).stores = r ∧ (t.ctx c x).x = (s.ctx c x).x ∧
        (∀ j, j < p.w → (t.byteAt (pa + j)).toNat = p.data.toNat / 256 ^ j % 256) ∧
        (ms = true ∨ ((s.core c).line (pa / 128) ≠ none ∧ 4 ≤ p.w) → ∀ a, a < pa ∨ pa + p.w ≤ a → t.byteAt a = s.byteAt a)) ∧
   (∀ (s : State) (c x : Nat) (p : PStore) (r : List PStore) (pa : Nat) (cls : BitVec 2) (l : L1Line),
      (s.ctx c x).stores = p :: r → p.place = .phys pa cls false → cls = 1 ∨ cls = 2 → p.w = 4 ∨ p.w = 8 → pa % p.w = 0 →
      (s.core c).direct = false → (s.core c).line (pa / 128) = some l → (s.core c).dfifo.length < 256 →
      ∃ t l', exec (.storePerform c x) s = .next t ∧ (t.ctx c x).stores = r ∧ (∀ a, t.byteAt a = s.byteAt a) ∧
        (t.core c).line (pa / 128) = some l' ∧
        l'.data.toNat / 256 ^ (pa % 128) % 256 ^ p.w = p.data.toNat % 256 ^ p.w ∧
        (∀ j, j < 128 → j < pa % 128 ∨ pa % 128 + p.w ≤ j → l'.data.toNat / 256 ^ j % 256 = l.data.toNat / 256 ^ j % 256) ∧
        l'.valid = l.valid ||| wordMask pa p.w ∧ l'.dirty = l.dirty ||| wordMask pa p.w ∧
        (cls = 1 → (t.core c).dfifo.contains (2 * (pa / 128)) = true)))
/-- An atomic operation on a memory-side or HC page of a task that declares no sets is performed at the home: `x[d]` gets the old value,
sign-extended from four bytes, the bytes get the new one, and no other byte and no other register changes (R247, R248). -/
def Obligations.AtomicsAtTheHome : Prop :=
  ∀ (s : State) (i : Instr) (k : Tk) (d : Reg) (ea : Word) (w : Nat) (new : Nat → Nat) (writes : Nat → Bool) (pa : Nat)
    (cls : BitVec 2) (ms : Bool),
    amoOf i s.now = some (k, d, ea, w, new, writes) → Issues 0 i k s → ea.toNat % w = 0 → pa % w = 0 →
    s.translate s.cur.1 ea .write (s.now.pl = 0) = .ok (.phys pa cls ms) → (cls = 0 ∨ (cls = 1 ∧ ms = true)) →
    s.lotStep s.cur.1 ea cls ms = .go → (s.core s.cur.1).penned = false → s.now.stores = [] → s.linePoison (pa / 128) = 0 →
    pa < 2 ^ 47 →
    let old := s.homeRead pa w
    ∃ t, exec i s = .next t ∧
      t.now.rd d = (if d = 0 then 0 else extended old w (w = 4)) ∧ (∀ r, r ≠ d → t.now.rd r = s.now.rd r) ∧
      t.homeRead pa w = (if writes old then new old else old) ∧ (∀ a, a < pa ∨ pa + w ≤ a → t.byteAt a = s.byteAt a)

/-- An access of a context to an HC line at its home moves the timestamps as R247 says: a store puts wts and rts at the larger of pts and
rts + 1, and a load raises rts by a lease of 8 to 255 units above pts and leaves wts. -/
def Obligations.HcAccessesMoveTimestamps : Prop :=
  ∀ (s : State) (line : Nat) (pts : Word), line < 2 ^ 40 →
    (∀ (wr : List (Nat × Byte)), wr ≠ [] → ∃ t, exec (.hcHomeAccess line wr pts) s = .next t ∧
      (t.hcLine line).wts = (if pts < (s.hcLine line).rts + 1 then (s.hcLine line).rts + 1 else pts) ∧
      (t.hcLine line).rts = (t.hcLine line).wts ∧
      (∀ a, a < 128 * line ∨ 128 * line + 128 ≤ a → t.byteAt a = s.byteAt a)) ∧
    (∃ t n, exec (.hcHomeAccess line [] pts) s = .next t ∧ 8 ≤ n ∧ n ≤ 255 ∧ (t.hcLine line).wts = (s.hcLine line).wts ∧
      (t.hcLine line).rts = (if (s.hcLine line).rts < pts + BitVec.ofNat 64 n then pts + BitVec.ofNat 64 n else (s.hcLine line).rts) ∧
      (∀ a, t.byteAt a = s.byteAt a))

/-! ### Translation -/

/-- What each access needs of its page: an address above 48 bits, or a walk that finds no valid leaf, is XLAT, or ECC where the walk meets an
uncorrectable entry (R244); a leaf that lacks the right, that is not for U, or that is private to another core is PROT (R13, R29, R250). -/
def Obligations.TranslationFaults : Prop :=
  ∀ (s : State) (c : Nat) (va : Word) (n : Need) (atU : Bool),
    (2 ^ 48 ≤ va.toNat → s.translate c va n atU = .bad Cause.xlat) ∧
    (va.toNat < 2 ^ 47 → s.leafOf c (s.coreVf c) va.toNat = none →
      s.translate c va n atU = .bad (if s.walkPoison 3 (s.rootOf (s.coreVf c)) va.toNat then Cause.ecc else Cause.xlat)) ∧
    (∀ pte lvl, va.toNat < 2 ^ 47 → s.leafOf c (s.coreVf c) va.toNat = some (pte, lvl) →
      ((n = .read ∧ pte.testBit 5 = false) ∨ (n = .write ∧ pte.testBit 6 = false) ∨ (n = .exec ∧ pte.testBit 7 = false) ∨
        (atU = true ∧ pte.testBit 8 = false) ∨ (pte / 4 % 4 = 2 ∧ pte / 2 ^ 14 % 32 ≠ c)) →
      s.translate c va n atU = .bad Cause.prot) ∧
    (∀ pa cls ms, va.toNat < 2 ^ 47 → s.translate c va n atU = .ok (.phys pa cls ms) → cls ≠ 3 → pa % 2 ^ 19 = va.toNat % 2 ^ 19)

/-! ### Blocks, ordering and stash windows -/

/-- `lblk`, `wblk`, `eblk` and `dblk` of an address behind the host port that the core holds no copy of first wait for its answer (R241, R416). `lblk`, `wblk`
and `eblk` empty their slot and are in progress until their completion event fills it: `lblk` on a memory-side page with
its number of lines, `wblk` and `eblk` of a line that the L1 does not hold with 0 lines; `dblk` of one does nothing (R241, R243, R245).
The end of a block operation fills its slot with its completion status, DONE in the low byte and the number of lines above (R113, R241). -/
def Obligations.BlockWordsFillTheirSlot : Prop :=
  (∀ (s : State) (k : Tk) (d a : Reg) (n : BitVec 8) (pa : Nat) (cls : BitVec 2) (ms : Bool),
     let b := s.now.rd a
     let begins (t : State) (info : Nat) (wb : Bool) : State :=
       t.updCore s.cur.1 (fun kc => { kc with
         pfull := kc.pfull &&& ~~~ (BitVec.ofNat 16 (2 ^ d.toNat)), blkOps := kc.blkOps ++ [⟨d.toNat, info, 1, wb⟩] })
     s.translate s.cur.1 b .read (s.now.pl = 0) = .ok (.phys pa cls ms) → s.now.stores = [] → s.lotStep s.cur.1 b cls ms ≠ .prot →
     (hostPlace pa cls = true → Map.get none s.now.gotten b.toNat = none → s.ready s.cur.1 s.cur.2 (pa / 8 * 8) 8 cls ms = false →
       ∀ i, ((i = .lblk k d a n ∧ b.toNat % 128 = 0 ∧ b.toNat / 2 ^ 19 = (b.toNat + 128 * n.toNat - 1) / 2 ^ 19) ∨ i = .wblk k d a ∨ i = .eblk k d a ∨
         i = .dblk k a) → Issues 0 i k s →
         ∃ t, exec i s = .next t ∧ t.now.wait = some (.block b (.phys (pa / 8 * 8) cls ms)) ∧ t.now.pc = s.now.pc) ∧
     ((hostPlace pa cls = false ∨ (Map.get none s.now.gotten b.toNat).isSome) →
     (Issues 0 (.lblk k d a n) k s → b.toNat % 128 = 0 → b.toNat / 2 ^ 19 = (b.toNat + 128 * n.toNat - 1) / 2 ^ 19 → ms = true →
       exec (.lblk k d a n) s = .next ((begins (s.issued k) n.toNat false).finished k)) ∧
     (Issues 0 (.wblk k d a) k s → (s.core s.cur.1).line (pa / 128) = none →
       exec (.wblk k d a) s = .next ((begins (s.issued k) 0 true).finished k)) ∧
     (Issues 0 (.eblk k d a) k s → (s.core s.cur.1).line (pa / 128) = none →
       exec (.eblk k d a) s = .next ((begins (s.issued k) 0 true).finished k)) ∧
     (Issues 0 (.dblk k a) k s → (s.core s.cur.1).line (pa / 128) = none →
       exec (.dblk k a) s = .next ((s.issued k).finished k)))) ∧
  (∀ (s : State) (c : Nat) (op : BlkOp) (r : List BlkOp), (s.core c).blkOps = op :: r →
     ∃ t, exec (if op.wb then .blockWritebackComplete c 0 else .blockFillComplete c 0) s = .next t ∧
       (t.core c).blkOps = r ∧ (t.core c).slotVal op.slot = BitVec.ofNat 64 (op.info % 2 ^ 32 * 2 ^ 32 + op.code) ∧
       (op.slot < 16 → (t.core c).slotFull op.slot = true) ∧ (∀ a, t.byteAt a = s.byteAt a) ∧
       ∀ m, m < 16 → m ≠ op.slot → (t.core c).slotFull m = (s.core c).slotFull m)
/-- The ordering words of a context with no store pending and a core with nothing to write back and nothing on its way: `rel` completes with no
effect; `acq` and `fence` leave of the SW lines whose home lies in the scope the dirty words alone, and every other line of the L1 as it was; `invi`
discards the instruction cache, and at dom scope waits for the other packages that it reaches (R261, R269 to R272).
An ordering word of scope pkg or dom in a function with LIM and STR raises SCOPE below H, with its word; with LIM alone it counts in
`scope.clamp` and acts at pdk scope (R256). -/
def Obligations.OrderingWordsClearTheirScope : Prop :=
  (∀ (s : State) (k : Tk) (sc : BitVec 3), (sc.toNat < 3 ∨ limited s s.cur.1 s.cur.2 = false) → s.now.stores = [] →
     (s.core s.cur.1).dfifo = [] → (s.core s.cur.1).swDirty = [] → (s.core s.cur.1).away = [] →
     (Issues 0 (.rel k sc) k s → exec (.rel k sc) s = .next ((s.issued k).finished k)) ∧
     (Issues 0 (.acq k sc) k s → ∃ t, exec (.acq k sc) s = .next t ∧ Acquires s t s.cur.1 sc.toNat ∧ ∀ a, t.byteAt a = s.byteAt a) ∧
     (Issues 0 (.fence k sc) k s → ∃ t, exec (.fence k sc) s = .next t ∧ Acquires s t s.cur.1 sc.toNat ∧ ∀ a, t.byteAt a = s.byteAt a) ∧
     (Issues 0 (.invi k sc) k s → s.cur.1 < 32 → (sc = 2 → s.cur.1 ∈ s.pdkCores (s.blkOf s.cur.1)) →
       ∃ t, exec (.invi k sc) s = .next t ∧ (t.core s.cur.1).icache = [] ∧ (∀ a, t.byteAt a = s.byteAt a) ∧
         (sc ≠ 4 ∨ s.farPkgs s.cur.1 = [] → t.now.retired = s.now.retired + 1) ∧
         (sc = 4 → s.farPkgs s.cur.1 ≠ [] → t.now.wait = some (.farInvi (s.farPkgs s.cur.1))))) ∧
  (∀ (s : State) (i : Instr) (k : Tk) (sc : Nat), orderingOf i = some (k, sc) → Issues 0 i k s → 3 ≤ sc → limited s s.cur.1 s.cur.2 = true →
     (((s.func (s.coreVf s.cur.1)).vfctl).getLsbD 49 = true → exec i s = .next (s.raised Cause.scope (wordVal i))) ∧
     (((s.func (s.coreVf s.cur.1)).vfctl).getLsbD 49 = false → s.now.stores = [] → (s.core s.cur.1).dfifo = [] →
       (s.core s.cur.1).swDirty = [] → (s.core s.cur.1).away = [] →
       ∃ t, exec i s = .next t ∧ (t.core s.cur.1).scopeClamp = (s.core s.cur.1).scopeClamp + 1))
/-- The stash words of a window without dirty lines: `smap` maps it with every line invalid, `sunmap` makes it invalid, `sflush` keeps it, and
`sstat` reads its status (R236, R237). -/
def Obligations.StashWordsMapAndUnmap : Prop :=
  ∀ (s : State) (k : Tk) (d a b : Reg),
    let old := (s.core s.cur.1).window d.toNat
    let v := s.now.rd a
    let len := v.toNat / 2 ^ 32 % 2 ^ 16
    let addr := v.toNat % 2 ^ 25
    ((∀ i l, (i, some l) ∈ old.lines → l.dirty = false) → (s.core s.cur.1).away = [] →
      (Issues 0 (.smap k d a b) k s → v.toNat / 2 ^ 25 % 2 ^ 7 = 0 → v.toNat / 2 ^ 50 = 0 → addr % 128 = 0 →
        addr + 128 * len ≤ 2 ^ 25 → (s.now.rd b).toNat % 128 = 0 → (s.now.rd b).toNat + 128 * len ≤ 2 ^ 48 → 0 < len →
        (s.core s.cur.1).meetsSet (s.now.rd b).toNat (128 * len) = false →
        ∃ t, exec (.smap k d a b) s = .next t ∧ (t.core s.cur.1).window d.toNat =
          { v := true, nf := v.getLsbD 48, ro := v.getLsbD 49, addr := addr, len := len, gb := s.now.rd b, lines := [] }) ∧
      (Issues 0 (.sunmap k d) k s →
        ∃ t, exec (.sunmap k d) s = .next t ∧ (t.core s.cur.1).window d.toNat = {} ∧ ∀ a, t.byteAt a = s.byteAt a) ∧
      (Issues 0 (.sflush k d) k s → exec (.sflush k d) s = .next ((s.issued k).finished k))) ∧
    (Issues 0 (.sstat k d a) k s → ((s.core s.cur.1).window a.toNat).v = true → ((s.core s.cur.1).window a.toNat).nf = false →
      let w := (s.core s.cur.1).window a.toNat
      exec (.sstat k d a) s = .next (((s.issued k).put d (BitVec.ofNat 64 (2 ^ 63 + (if w.ro then 2 ^ 61 else 0) +
        (w.lines.filter (fun e => match e.2 with | some l => l.dirty | none => false)).length * 2 ^ 32 +
        (w.lines.filter (fun e => e.2.isSome)).length))).finished k))

/-! ### Engine words -/

/-- A vector word whose VLS addresses are good enters the queue of the VXE with the X values of its context and the rounding of `vround`, and the
context goes on; the word's slot is emptied; no vector register changes before the engine starts the word. A bad address raises MISAL with the
value that failed, a queue with an `enote` ILL, and a full queue holds the word with the bound GQ (R108, R110, R170, R186). -/
def Obligations.VectorWordsEnterTheirQueue : Prop :=
  ∀ (s : State) (i : Instr) (k : Tk) (xa xb slot : Option Reg), vecRow i = some (k, xa, xb, slot) → Issues 0 i (onlyY k) s →
    let c := s.cur.1
    let q := (s.core c).vxe.q
    (q.enoted = true → exec i s = .next (s.raised Cause.ill (wordVal i))) ∧
    (∀ v, q.enoted = false → vlsTrap i s.now = some v → exec i s = .next (s.raised Cause.misal v)) ∧
    (q.enoted = false → vlsTrap i s.now = none → 64 ≤ q.q.length + q.fl.length →
      exec i s = .next (s.waits (onlyY k) (.queueFull 2) s.now.gq)) ∧
    (q.enoted = false → vlsTrap i s.now = none → q.q.length + q.fl.length < 64 → s.now.stores = [] →
      ∃ t e, exec i s = .next t ∧ Enqueued s t c 2 e ∧ WentOn s t ∧ e.ins = i ∧ e.ctx = s.cur.2 ∧ e.tk = k ∧ e.guard = none ∧
        e.va = (match xa with | some a => s.now.rd a | none => 0) ∧ e.vb = (match xb with | some b => s.now.rd b | none => 0) ∧
        e.rm = s.now.vround.setWidth 3 ∧ e.sat = s.now.vround.getLsbD 4 ∧ (t.core c).vxe.v = (s.core c).vxe.v ∧
        ∀ d, slot = some d → (t.core c).slotFull d.toNat = false)

/-- A matrix word with good operands enters the queue of the MXE with its operand values; `mxcfg` and `mxgo` take with them the block that they
read at issue; the word's slot is emptied; no tile changes before the engine starts it. A queue with an `enote` raises ILL, a full one holds
the word with the bound GQ (R108, R110, R203, R214 to R221). -/
def Obligations.MatrixWordsEnterTheirQueue : Prop :=
  (∀ (s : State) (i : Instr) (k : Tk) (slot xa xb : Option Reg) (ok : Prop), matRow i s.now = some (k, slot, xa, xb, ok) →
    Issues 0 i (onlyY k) s →
    let c := s.cur.1
    let q := (s.core c).mxe.q
    (q.enoted = true → exec i s = .next (s.raised Cause.ill (wordVal i))) ∧
    (q.enoted = false → ok → 64 ≤ q.q.length + q.fl.length → exec i s = .next (s.waits (onlyY k) (.queueFull 1) s.now.gq)) ∧
    (q.enoted = false → ok → q.q.length + q.fl.length < 64 → s.now.stores = [] →
      ∃ t e, exec i s = .next t ∧ Enqueued s t c 1 e ∧ WentOn s t ∧ e.ins = i ∧ e.ctx = s.cur.2 ∧ e.tk = k ∧
        e.va = (match xa with | some a => s.now.rd a | none => 0) ∧ e.vb = (match xb with | some b => s.now.rd b | none => 0) ∧
        (t.core c).mxe.t = (s.core c).mxe.t ∧ ∀ d, slot = some d → (t.core c).slotFull d.toNat = false)) ∧
  (∀ (s s' : State) (k : Tk) (d a : Reg) (ws : List Word),
    let c := s.cur.1
    let q := (s.core c).mxe.q
    q.enoted = false → ((s'.core c).q 1).q.length + ((s'.core c).q 1).fl.length < 64 → s'.now.stores = [] → s'.cur = s.cur →
    (Issues 0 (.mxcfg k a) (onlyY k) s → (s.now.rd a).toNat % 16 = 0 → s.readBlock c s.cur.2 (s.now.rd a) 12 = .ok s' ws →
      nestLevels ws ≠ none →
      ∃ t e, exec (.mxcfg k a) s = .next t ∧ Enqueued s' t c 1 e ∧ e.ins = .mxcfg k a ∧ e.tab = ws ∧ t.now.x = s'.now.x) ∧
    (Issues 0 (.mxgo k d a) (onlyY k) s → (s.now.rd a).toNat % 32 = 0 → s.readBlock c s.cur.2 (s.now.rd a) 4 = .ok s' ws →
      wbits (ws.getD 3 0) 8 56 = 0 → wbits (ws.getD 3 0) 2 2 ≠ 3 →
      operandOk (ws.getD 0 0) (if wbits (ws.getD 3 0) 2 2 = 2 then 1 else 0) true false →
      operandOk (ws.getD 1 0) (if wbits (ws.getD 3 0) 2 2 = 2 then 1 else 0) true false → operandOk (ws.getD 2 0) 0 false false →
      ∃ t e, exec (.mxgo k d a) s = .next t ∧ Enqueued s' t c 1 e ∧ e.ins = .mxgo k d a ∧ e.tab = ws ∧
        (t.core c).slotFull d.toNat = false ∧ t.now.x = s'.now.x))

/-- A copy word with good operands enters the queue of the CPE with its operand values and its slack class, and its slot is emptied; `cpred`
needs a launch with RC = 1 and, in a task that declares sets, the token; `cpss` with rows reads its descriptor at issue. A queue with an `enote`
raises ILL, a full one holds the word with the bound GQ (R108, R110, R302, R309 to R317). -/
def Obligations.CopyWordsEnterTheirQueue : Prop :=
  (∀ (s : State) (i : Instr) (k : Tk) (f p : BitVec 4) (a b : Reg) (ok : Prop), copyRow i s.now = some (k, f, p, a, b, ok) →
    Issues 0 i (onlyY k) s → ok →
    let c := s.cur.1
    let q := (s.core c).cpe.q
    (q.enoted = true → exec i s = .next (s.raised Cause.ill (wordVal i))) ∧
    (q.enoted = false → isCpred i = true → (∀ tk, (s.core c).task = some tk → tk.rc = false) →
      exec i s = .next (s.raised Cause.pred (wordVal i))) ∧
    (q.enoted = false → (isCpred i = true → (∃ tk, (s.core c).task = some tk ∧ tk.rc = true) ∧ (s.core c).penned = false) →
      (64 ≤ q.q.length + q.fl.length → exec i s = .next (s.waits (onlyY k) (.queueFull 0) s.now.gq)) ∧
      (q.q.length + q.fl.length < 64 → s.now.stores = [] →
        ∃ t e, exec i s = .next t ∧ Enqueued s t c 0 e ∧ WentOn s t ∧ e.ins = i ∧ e.ctx = s.cur.2 ∧ e.tk = k ∧
          e.va = s.now.rd a ∧ e.vb = s.now.rd b ∧ e.slk = (if f = 0 then s.now.slk.toNat else f.toNat) ∧
          (t.core c).slotFull p.toNat = false))) ∧
  (∀ (s s' : State) (k : Tk) (f p : BitVec 4) (a b : Reg) (ds : List Word), Issues 0 (.cpss k f p a b) (onlyY k) s →
    let c := s.cur.1
    let v := s.now.rd a
    (s.core c).cpe.q.enoted = false → ((s'.core c).q 0).q.length + ((s'.core c).q 0).fl.length < 64 → s'.now.stores = [] →
    s'.cur = s.cur → spadOk v 3 → wbits v 48 2 ≠ 3 → wbits v 32 16 ≠ 0 → (s.now.rd b).toNat % 32 = 0 →
    s.readBlock c s.cur.2 (s.now.rd b) 4 = .ok s' ds →
    rowCount ds * rowLen ds = wbits v 32 16 → wbits (ds.getD 1 0) 32 32 = 0 → (ds.getD 2 0).toNat % 128 = 0 →
    (ds.getD 3 0).toNat % 128 = 0 →
    (∀ r, r < rowCount ds → 0 ≤ rowSide (wbits v 0 25) r (ds.getD 2 0) ∧
      rowSide (wbits v 0 25) r (ds.getD 2 0) + 128 * rowLen ds ≤ 2 ^ 25 ∧
      (if wbits v 48 2 = 0 then 0 ≤ rowSide (ds.getD 0 0).toNat r (ds.getD 3 0) ∧
          rowSide (ds.getD 0 0).toNat r (ds.getD 3 0) + 128 * rowLen ds ≤ 2 ^ 25
        else globalOk (rowGlob ds r) (128 * rowLen ds))) →
    ∃ t e, exec (.cpss k f p a b) s = .next t ∧ Enqueued s' t c 0 e ∧ e.ins = .cpss k f p a b ∧ e.tab = ds ∧ e.va = v ∧
      (t.core c).slotFull p.toNat = false ∧ t.now.x = s'.now.x)

/-- `enote` closes its queue, `eqf` puts the same fence into each queue that it names, and `egrd` makes the next word, an engine's, a guarded
entry of its queue; a next word that is no engine's, and one whose own slot is the guard, raise ILL with the `egrd` (R45, R110, R111). -/
def Obligations.NotesFencesAndGuardsEnterQueues : Prop :=
  (∀ (s : State) (k : Tk) (d : Reg), Issues 0 (.enote k d) (onlyY k) s →
    let c := s.cur.1
    let q := (s.core c).q d.toNat
    (q.enoted = true → exec (.enote k d) s = .next (s.raised Cause.ill (wordVal (.enote k d)))) ∧
    (q.enoted = false → q.q.length + q.fl.length < 64 → s.now.stores = [] →
      ∃ t e, exec (.enote k d) s = .next t ∧ e.ins = .enote k d ∧ ((t.core c).q d.toNat).enoted = true ∧
        ((t.core c).q d.toNat).q = q.q ++ [e] ∧ WentOn s t)) ∧
  (∀ (s : State) (y : Bool) (m : BitVec 3),
    let k : Tk := { Tk.none with y := y }
    let c := s.cur.1
    Issues 0 (.eqf y m) k s → s.now.stores = [] →
    (∀ e, e < 3 → m.getLsbD e = true → ((s.core c).q e).enoted = false ∧ ((s.core c).q e).q.length + ((s.core c).q e).fl.length < 64) →
    ∃ t, exec (.eqf y m) s = .next t ∧ WentOn s t ∧ ∀ e, e < 3 →
      if m.getLsbD e then ∃ ent : Entry, ent.fence = some ((s.core c).fenceNo, m) ∧ ((t.core c).q e).q = ((s.core c).q e).q ++ [ent]
      else (t.core c).q e = (s.core c).q e) ∧
  (∀ (s s' : State) (d : Reg) (g : BitVec 1) (w : Code) (j : Instr) (k : Tk) (xa xb slot : Option Reg), d.toNat < 16 →
    let c := s.cur.1
    let q := (s'.core c).vxe.q
    s.fetchCode c s.cur.2 (s.now.pc + 4) = some (s', w) → s'.cur = s.cur →
    (engineOf w = none → exec (.egrd d g) s = .next (takeTrap s' c s.cur.2 Cause.ill (wordVal (.egrd d g)) s.now.pc)) ∧
    (engineOf w = some 2 → decode w = some j → tkOfWord w = k → vecRow j = some (k, xa, xb, slot) → Issues 0 j (onlyY k) s' →
      q.enoted = false → vlsTrap j s'.now = none →
      (∀ n, slot = some n → n = d → exec (.egrd d g) s = .next (s'.raised Cause.ill (wordVal (.egrd d g)))) ∧
      ((∀ n, slot = some n → n ≠ d) → q.q.length + q.fl.length < 64 → s'.now.stores = [] →
        ∃ t e, exec (.egrd d g) s = .next t ∧ Enqueued s' t c 2 e ∧ e.ins = j ∧ e.guard = some (d.toNat, decide (g = 1)) ∧
          t.now.x = s'.now.x ∧ (s'.now.loopAt (s'.now.pc + 4) = none → t.now.pc = s'.now.pc + 8))))

/-! ### Shared engines -/

/-- A request word whose operands are good sends its request to the engine that its route names and waits for the answer, or is answered with a
forced refusal where the route names none; with LEN = 0 the core admits it itself, with `bz` clear and DONE in its slot (R321, R322, R331 to
R334, R397 to R402). A loft word goes to the loft of its table. -/
def Obligations.SharedEngineWordsSendRequests : Prop :=
  (∀ (s : State) (i : Instr) (k : Tk) (cls : Nat) (f p : BitVec 4) (r : BitVec 2) (a b : Reg) (opts : Nat) (ok : Prop),
    reqRow i s = some (k, cls, f, r, p, a, b, opts, ok) → Issues 0 i k s → spadOk (s.now.rd a) opts → ok →
    (wbits (s.now.rd a) 32 16 = 0 → ∃ t, exec i s = .next t ∧ t.now.bz = false ∧ FilledIn s t s.cur.1 p.toNat 1 ∧
      t.reqs = s.reqs ∧ WentOn s t) ∧
    (wbits (s.now.rd a) 32 16 ≠ 0 → (outside i = true → (s.core s.cur.1).penned = false) → s.now.stores = [] → ∃ t, exec i s = .next t ∧
      Requested s t i cls f.toNat r.toNat p (s.now.rd a) (s.now.rd b) (s.routeTo s.cur.1 cls r.toNat none))) ∧
  (∀ (s : State) (i : Instr) (k : Tk) (f p : BitVec 4) (r : BitVec 2) (a b : Reg) (n : Nat) (ok : Prop),
    loftRow i s.now = some (k, f, r, p, a, b, n, ok) → Issues 0 i k s → spadOk (s.now.rd a) 0xffff → ok →
    (wbits (s.now.rd a) 32 16 = 0 → ∃ t, exec i s = .next t ∧ t.now.bz = false ∧ FilledIn s t s.cur.1 p.toNat 1 ∧
      t.reqs = s.reqs ∧ WentOn s t) ∧
    (∀ h, wbits (s.now.rd a) 32 16 ≠ 0 → s.now.stores = [] → globalOk (s.now.rd b) (128 * n) →
      (s.issued k).loftLines s.cur.1 (s.now.pl = 0) (s.now.rd b) n 0 none = .go (some h) →
      ∃ t, exec i s = .next t ∧ Requested s t i 2 f.toNat r.toNat p (s.now.rd a) (s.now.rd b)
        (if h < 8 ∧ ∀ tk, (s.core s.cur.1).task = some tk → tk.sets = [] then s.routeTo s.cur.1 2 r.toNat (some h) else none)))

/-- The ADM group: `admrt` reads a route entry or an engine's control register and, with W, writes it at S (a route) or H (an engine); `admctr`
reads a counter of the context's own, of its function's or of all and, with CLR, clears it; `admtk` reads the ticket word and, with `drop`,
clears the context's run (R335 to R338). -/
def Obligations.AdmissionWordsReadAndWriteTables : Prop :=
  (∀ (s : State) (k : Tk) (d a b : Reg), Issues 0 (.admrt k d a b) k s →
    let v := s.now.rd a
    let cls := wbits v 2 2
    let rt := wbits v 0 2
    let unit := wbits v 12 3
    let blk := s.coreBlk s.cur.1
    wbits v 16 48 = 0 → wbits v 10 2 = 0 → wbits v 4 4 = 0 →
    (wbits v 8 2 = 0 → unit = 0 →
      (v.getLsbD 15 = true → s.now.pl = 0 → exec (.admrt k d a b) s = .next (s.raised Cause.priv (wordVal (.admrt k d a b)))) ∧
      (v.getLsbD 15 = false → exec (.admrt k d a b) s = .next (((s.issued k).put d ((s.pdk blk).routeEntry cls rt)).finished k)) ∧
      (v.getLsbD 15 = true → 1 ≤ s.now.pl → ∃ t, exec (.admrt k d a b) s = .next t ∧
        (t.pdk blk).routeEntry cls rt = (if cls < 2 then s.now.rd b &&& 0x87 else (s.pdk blk).routeEntry cls rt) ∧
        t.now.rd d = (if d = 0 then 0 else (s.pdk blk).routeEntry cls rt) ∧ ∀ a, t.byteAt a = s.byteAt a)) ∧
    (wbits v 8 2 = 1 → rt = 0 → s.unitOutside s.cur.1 cls unit = false → cls < 3 →
      (v.getLsbD 15 = true → s.now.pl ≠ 2 → s.now.pl ≤ 2 →
        exec (.admrt k d a b) s = .next (s.raised Cause.priv (wordVal (.admrt k d a b)))) ∧
      (v.getLsbD 15 = false → exec (.admrt k d a b) s = .next (((s.issued k).put d ((s.eng cls unit).control cls)).finished k)) ∧
      (v.getLsbD 15 = true → s.now.pl = 2 → ∃ t, exec (.admrt k d a b) s = .next t ∧
        (t.eng cls unit).ntk = (if 2 ≤ wbits (s.now.rd b) 8 4 then (s.now.rd b).extractLsb' 8 4 else (s.eng cls unit).ntk) ∧
        (t.eng cls unit).rsv = (if wbits (s.now.rd b) 0 3 < bayCount cls then (s.now.rd b).extractLsb' 0 3 else (s.eng cls unit).rsv) ∧
        t.now.rd d = (if d = 0 then 0 else (s.eng cls unit).control cls)))) ∧
  (∀ (s : State) (k : Tk) (d a : Reg), Issues 0 (.admctr k d a) k s →
    let v := s.now.rd a
    let cls := wbits v 2 2
    let ctr := wbits v 4 4
    let unit := wbits v 12 3
    let key := 8 * (if wbits v 8 2 = 1 then s.coreVf s.cur.1 else 64) + ctr
    wbits v 16 48 = 0 → wbits v 10 2 = 0 → wbits v 0 2 = 0 →
    (wbits v 8 2 = 0 → unit = 0 → ctr ≤ 2 → ∃ t, exec (.admctr k d a) s = .next t ∧
      t.now.rd d = (if d = 0 then 0 else Map.get 0 s.now.admCnt (4 * cls + ctr)) ∧
      Map.get 0 t.now.admCnt (4 * cls + ctr) = (if v.getLsbD 15 then 0 else Map.get 0 s.now.admCnt (4 * cls + ctr))) ∧
    (wbits v 8 2 = 1 ∨ wbits v 8 2 = 2 → cls ≠ 3 → ctr ≤ 5 → s.unitOutside s.cur.1 cls unit = false →
      (wbits v 8 2 = 2 → s.now.pl = 2) → (wbits v 8 2 = 1 → v.getLsbD 15 = true → s.now.pl ≠ 0) →
      ∃ t, exec (.admctr k d a) s = .next t ∧
        t.now.rd d = (if d = 0 then 0 else Map.get 0 (s.eng cls unit).cnt key) ∧
        Map.get 0 (t.eng cls unit).cnt key = (if v.getLsbD 15 then 0 else Map.get 0 (s.eng cls unit).cnt key))) ∧
  (∀ (s : State) (k : Tk) (d a b : Reg), Issues 0 (.admtk k d a b) k s →
    let v := s.now.rd a
    let cls := wbits v 2 2
    let unit := wbits v 12 3
    wbits v 15 49 = 0 → wbits v 4 8 = 0 → wbits v 0 2 = 0 → cls ≠ 3 → s.unitOutside s.cur.1 cls unit = false →
    ∃ t, exec (.admtk k d a b) s = .next t ∧
      t.now.rd d = (if d = 0 then 0 else s.ticketWord s.cur.1 s.cur.2 cls unit) ∧
      (t.now.runOf cls).run = (if b = 0 then (s.now.runOf cls).run else 0) ∧
      (b = 0 → (t.eng cls unit).ticket = (s.eng cls unit).ticket) ∧
      (b ≠ 0 → ∀ tk, (s.eng cls unit).ticket = some tk →
        (t.eng cls unit).ticket = if tk.key = 4 * s.cur.1 + s.cur.2 then none else some tk))

/-! ### Tokens, slots, barriers and rings -/

/-- `tksnd` to a core of the paddock promises a place there and clears `bz`, or sets `bz` where the FIFO has no room; `tkrcv` and `tktry` pop a token
of an own FIFO, `tkrcv` waiting and `tktry` answering 0 where it is empty (R107).
`pwr` fills a slot with x[a] and `pclr` empties one (R114). `barinit` sets up a cell of the paddock with its GEN kept, `bararr` arrives at one with a
release and gives its ticket, and `barwait` waits until the ticket's generation has passed (R119). -/
def Obligations.TokenSlotAndBarrierWordsAct : Prop :=
  (∀ (s : State) (k : Tk) (d a : Reg) (w : BitVec 8),
     let c := s.cur.1
     (Issues 0 (.tksnd k a) k s →
       let v := s.now.rd a
       let tc := wbits v 8 5
       let f := tokenTarget v
       wbits v 13 51 = 0 → wbits v 6 2 = 0 → wbits v 4 2 ≠ 3 → wbits v 0 2 ≤ 1 → ¬ (wbits v 4 2 = 1 ∧ wbits v 2 2 = 3) →
       (wbits v 4 2 = 2 → wbits v 0 2 = 0) →
       ((tc ∉ s.pdkCores (s.coreBlk c) ∨ (wbits v 4 2 ≠ 2 ∧ tc ≠ c)) → exec (.tksnd k a) s = .next (s.raised Cause.prot v)) ∧
       (tc ∈ s.pdkCores (s.coreBlk c) → (wbits v 4 2 ≠ 2 → tc = c) → (s.core c).penned = false →
         ∃ t, exec (.tksnd k a) s = .next t ∧ t.now.bz = ! ((s.issued k).core tc).fifoRoom f ∧
           (if ((s.issued k).core tc).fifoRoom f then
             Map.get 0 (t.core tc).promised f = Map.get 0 (s.core tc).promised f + 1 ∧
             ∃ n, t.toks = s.toks ++ [⟨tc, f, n, s.cc⟩]
           else t.toks = s.toks ∧ Map.get 0 (t.core tc).promised f = Map.get 0 (s.core tc).promised f))) ∧
     (let n := ((s.issued k).core c).avail (ringFifo s.cur.2 a)
      (Issues 0 (.tkrcv k a w) k s →
       (n = 0 → exec (.tkrcv k a w) s = .next (s.waits k (.tkrcv (ringFifo s.cur.2 a)) (waitBound w.toNat))) ∧
       (n ≠ 0 → ∃ t, exec (.tkrcv k a w) s = .next t ∧
         (t.core c).avail (ringFifo s.cur.2 a) = n - 1 ∧ WentOn s t)) ∧
      (Issues 0 (.tktry k d a) k s →
       (n = 0 → exec (.tktry k d a) s = .next (((s.issued k).put d 0).finished k)) ∧
       (n ≠ 0 → ∃ t, exec (.tktry k d a) s = .next t ∧
         (t.core c).avail (ringFifo s.cur.2 a) = n - 1 ∧ t.now.rd d = (if d = 0 then 0 else 1))))) ∧
  (∀ (s : State) (k : Tk) (d a : Reg) (n w : BitVec 8),
     let c := s.cur.1
     let blk := s.coreBlk c
     let cell := (s.pdk blk).cell n.toNat
     (Issues 0 (.pwr k d a) k s → ∃ t, exec (.pwr k d a) s = .next t ∧ FilledIn s t c d.toNat (s.now.rd a) ∧ WentOn s t) ∧
     (Issues 0 (.pclr k d) k s → ∃ t, exec (.pclr k d) s = .next t ∧ (t.core c).slotFull d.toNat = false ∧
       (t.core c).slotVal d.toNat = (s.core c).slotVal d.toNat ∧ WentOn s t) ∧
     (Issues 0 (.barinit k a n) k s → ∃ t, exec (.barinit k a n) s = .next t ∧ WentOn s t ∧
       (t.pdk blk).cell n.toNat = { cell with arr := 0, exp := (if 1 ≤ (s.now.rd a).toNat ∧ (s.now.rd a).toNat ≤ 65535
         then (s.now.rd a).setWidth 16 else 0) } ∧ ∀ m, m ≠ n.toNat → (t.pdk blk).cell m = (s.pdk blk).cell m) ∧
     (Issues 0 (.bararr k d n) k s → (s.core c).penned = false → s.now.stores = [] → (s.core c).dfifo = [] →
       (s.core c).swDirty = [] → (s.core c).away = [] →
       ∃ t, exec (.bararr k d n) s = .next t ∧
         t.now.rd d = (if d = 0 then 0 else BitVec.ofNat 64 (n.toNat * 2 ^ 32 + cell.gen.toNat)) ∧
         (t.pdk blk).cell n.toNat =
           if cell.exp = 0 ∨ cell.exp.toNat ≤ cell.arr.toNat + 1 then { cell with arr := 0, gen := cell.gen + 1 }
           else { cell with arr := cell.arr + 1 }) ∧
     (Issues 0 (.barwait k a w) k s →
       let v := s.now.rd a
       let m := wbits v 32 8
       (wbits v 40 24 ≠ 0 ∨ wbits v 16 16 ≠ 0 → exec (.barwait k a w) s = .next (s.raised Cause.ill (wordVal (.barwait k a w)))) ∧
       (wbits v 40 24 = 0 → wbits v 16 16 = 0 → ((s.pdk blk).cell m).gen = v.setWidth 16 →
         exec (.barwait k a w) s = .next (s.waits k (.barrier m (v.setWidth 16)) (waitBound w.toNat))) ∧
       (wbits v 40 24 = 0 → wbits v 16 16 = 0 → ((s.pdk blk).cell m).gen ≠ v.setWidth 16 →
         ∃ t, exec (.barwait k a w) s = .next t ∧ WentOn s t ∧ Acquires s t c 2)))
/-- The ring words: a claim takes the slot at TAIL and waits where none is free, a fill makes a claimed slot filled, a wait takes the filled slot at
HEAD, a free gives a held one back; a fill without a claim and a free without a held slot set UND; `rgstat` reads the counts and clears UND and BAD; its
`set` form installs a descriptor of memory that passes the checks of R232, or leaves an invalid ring with BAD, UND and BAD staying set, and its `save` form answers a next state
that leaves the ring (R227 to R232). -/
def Obligations.RingWordsMoveTheirCounts : Prop :=
  ∀ (s : State) (k : Tk) (d a : Reg) (w : BitVec 8),
    let c := s.cur.1
    let q := (s.core c).ring a.toNat
    (Issues 0 (.rgclaim k d a w) k s → ¬ (q.expert = true ∧ ∃ m, (s.core c).ec = some (s.cur.2, m)) →
      (q.slots ≤ q.claimed + q.filled + q.held →
        exec (.rgclaim k d a w) s = .next (s.waits k (.ringClaim d.toNat a.toNat) (waitBound w.toNat))) ∧
      (q.claimed + q.filled + q.held < q.slots → (q.expert = true → (s.core c).ec = none) → (s.core c).ringFirst (2 * a.toNat) = none →
        ∃ t, exec (.rgclaim k d a w) s = .next t ∧
          t.now.rd d = (if d = 0 then 0 else BitVec.ofNat 64 (q.base + 128 * q.lines * q.tail)) ∧
          (t.core c).ring a.toNat = { q with tail := (q.tail + 1) % q.slots, claimed := q.claimed + 1 })) ∧
    (Issues 0 (.rgfill k a) k s → s.now.stores = [] → ∃ t, exec (.rgfill k a) s = .next t ∧ WentOn s t ∧
      (t.core c).ring a.toNat = if q.claimed = 0 then { q with und := true }
        else { q with claimed := q.claimed - 1, filled := q.filled + 1 }) ∧
    (Issues 0 (.rgwait k d a w) k s →
      (q.filled = 0 → exec (.rgwait k d a w) s = .next (s.waits k (.ringWait d.toNat a.toNat) (waitBound w.toNat))) ∧
      (0 < q.filled → (s.core c).ringFirst (2 * a.toNat + 1) = none → ∃ t, exec (.rgwait k d a w) s = .next t ∧
        t.now.rd d = (if d = 0 then 0 else BitVec.ofNat 64 (q.base + 128 * q.lines * q.head)) ∧
        (t.core c).ring a.toNat = { q with head := (q.head + 1) % q.slots, filled := q.filled - 1, held := q.held + 1 })) ∧
    (Issues 0 (.rgfree k a) k s → ∃ t, exec (.rgfree k a) s = .next t ∧ WentOn s t ∧
      (t.core c).ring a.toNat = if q.held = 0 then { q with und := true } else { q with held := q.held - 1 }) ∧
    (Issues 0 (.rgstat k d a) k s → ∃ t, exec (.rgstat k d a) s = .next t ∧
      t.now.rd d = (if d = 0 then 0 else BitVec.ofNat 64 (q.v.toNat * 2 ^ 63 + q.expert.toNat * 2 ^ 62 + q.und.toNat * 2 ^ 61 +
        q.bad.toNat * 2 ^ 60 + q.held * 2 ^ 32 + q.filled * 2 ^ 16 + q.claimed)) ∧
      (t.core c).ring a.toNat = { q with und := false, bad := false }) ∧
    (∀ s' d0 d1 d2 d3, Issues 0 (.rgstatSet k d a) k s → (s.now.rd a).toNat % 32 = 0 →
      (s.issued k).readBlock c s.cur.2 (s.now.rd a) 4 = .ok s' [d0, d1, d2, d3] → s'.cur = s.cur →
      ∃ t, exec (.rgstatSet k d a) s = .next t ∧
        (t.core c).ring d.toNat = match ringOf d0 d1 d2 d3 with
          | some r => { r with und := ((s'.core c).ring d.toNat).und, bad := ((s'.core c).ring d.toNat).bad }
          | none => { und := ((s'.core c).ring d.toNat).und, bad := true }) ∧
    (∀ s', Issues 0 (.rgstatSave k d a) k s → (s.now.rd a).toNat % 32 = 0 → s.now.stores = [] →
      (s.issued k).writeBlock c s.cur.2 (s.now.rd a) ((s.core c).ring d.toNat).words = .ok s' [] → s'.cur = s.cur →
      exec (.rgstatSave k d a) s = .next (s'.finished k))

/-! ### Tasks and atomic sets -/

/-- `tend` of a context with nothing outstanding takes it out of the running set, with its stores performed (R132); `tlnc` puts its packet at the end of
the launch queue and empties its slot, sets `bz` where the queue is full, and fills the slot with FAULT where the packet is rejected (R120, R132);
`aage` and `aheld` read the state of the task's sets, and `airrev` completes in a task that holds the token or declares no sets (R292 to R294). -/
def Obligations.TaskWordsEndLaunchAndReport : Prop :=
  ∀ (s : State) (k : Tk) (d a : Reg) (n : BitVec 8),
    let c := s.cur.1
    let blk := s.coreBlk c
    (Issues 0 (.tend k) k s → s.outstanding c s.cur.2 = none → s.now.heldSig = [] → s.now.stores = [] →
      (∀ f ∈ signalFifos k s.cur.2, ((s.issued k).core c).fifoRoom f = true) →
      ∃ t, exec (.tend k) s = .next t ∧ t.now.run = .ended ∧ t.now.x = s.now.x ∧ ∀ a, t.byteAt a = s.byteAt a) ∧
    (∀ s' pk, Issues 0 (.tlnc k d a n) k s → (s.now.rd a).toNat % 64 = 0 →
      (s.issued k).readBlock c s.cur.2 (s.now.rd a) 8 = .ok s' pk → s'.cur = s.cur → (s.core c).penned = false →
      (64 ≤ ((s'.pdk blk).queue n.toNat).length → ∃ t, exec (.tlnc k d a n) s = .next t ∧ t.now.bz = true ∧
        ∀ q, (t.pdk blk).queue q = (s'.pdk blk).queue q) ∧
      (((s'.pdk blk).queue n.toNat).length < 64 → ∀ info, pktCheck (s'.pdk blk) n.toNat pk = some info →
        wbits (s'.pdk blk).pctl 60 2 = 0 → s'.inReset (s'.coreVf c) = false →
        ∃ t, exec (.tlnc k d a n) s = .next t ∧ t.now.bz = false ∧ FilledIn s' t c d.toNat (completion codeFault info) ∧
          ∀ q, (t.pdk blk).queue q = (s'.pdk blk).queue q) ∧
      (((s'.pdk blk).queue n.toNat).length < 64 → pktCheck (s'.pdk blk) n.toNat pk = none → wbits (s'.pdk blk).pctl 60 2 = 0 → s'.inReset (s'.coreVf c) = false →
        pktNset pk = 0 → (s.now.pl ≠ 0 ∨ s'.taskPrio c ≥ pktEffPrio (s'.pdk blk) pk) →
        ∃ t p, exec (.tlnc k d a n) s = .next t ∧ t.now.bz = false ∧ (t.core c).slotFull d.toNat = false ∧
          (t.pdk blk).queue n.toNat = (s'.pdk blk).queue n.toNat ++ [p] ∧ p.d = pk)) ∧
    (Issues 0 (.aage k d) k s → ∃ t, exec (.aage k d) s = .next t ∧ (∀ r, r ≠ d → t.now.rd r = s.now.rd r) ∧ (∀ a, t.byteAt a = s.byteAt a) ∧
      ((s.core c).task = none → t.now.rd d = 0) ∧
      (∀ tk, (s.core c).task = some tk → d ≠ 0 → wbits (t.now.rd d) 8 56 = min tk.restarts 255 ∧
        (t.now.rd d).getLsbD 1 = tk.irrev ∧ (t.now.rd d).getLsbD 0 = decide (tk.sets ≠ []))) ∧
    (Issues 0 (.aheld k d a) k s →
      ((s.core c).task = none → exec (.aheld k d a) s = .next (((s.issued k).put d 0).finished k)) ∧
      (∀ tk, (s.core c).task = some tk → tk.setOf (s.now.rd a) = none →
        exec (.aheld k d a) s = .next (((s.issued k).put d 0).finished k)) ∧
      (∀ tk j st pa cls ms, (s.core c).task = some tk → tk.setOf (s.now.rd a) = some j → tk.sets[j]? = some st → d ≠ 0 → j < 8 →
        s.translate c (s.now.rd a) .read (s.now.pl = 0) = .ok (.phys pa cls ms) →
        (hostPlace pa cls = false ∨ (Map.get none s.now.gotten (s.now.rd a).toNat).isSome) →
        ∃ t, exec (.aheld k d a) s = .next t ∧ wbits (t.now.rd d) 0 3 = j ∧ (t.now.rd d).getLsbD 3 = true ∧
          wbits (t.now.rd d) 32 32 = ((s.now.rd a).toNat - st.base) / 2 ^ st.lotlog % 2 ^ 32)) ∧
    (Issues 0 (.airrev k) k s →
      ((s.core c).penned = false → exec (.airrev k) s = .next ((s.issued k).finished k)) ∧
      ((s.core c).penned = true → exec (.airrev k) s = .next (s.waits k .token286 s.now.gc)))

/-! ### Waits -/

/-- What ends and what bounds a wait: a context that takes pending events takes the trap of a bay first, then a slip, and at U a slack event,
at its word (R341); a wait that has lasted longer than its bound raises WAIT with its kind, name and place, and a shorter one goes on (R116, R118);
a wait ends when what it waits for is there (R116); a rendezvous releases all contexts that run, and their turns come next (R104); a held signal is pushed when there is room
(R106); a token on its way reaches the task that it was sent to, and no other (R105, R107). -/
def Obligations.WaitsEndTrapOrGoOn : Prop :=
  ∀ (s : State) (c x n : Nat),
    let t := s.ctx c x
    (s.takesPending c x = true →
      (∀ p r, t.bayPend = p :: r → exec (.pendingEventTake c x) s =
        .next (takeTrap (s.setCtx c x { t with bayPend := r }) c x p.cause p.tval t.pc)) ∧
      (t.bayPend = [] → (∀ h ∈ (s.core c).headTrap, h.ctx ≠ x) → t.haltPend = false →
        (∀ v, t.slipPend = some v → exec (.pendingEventTake c x) s =
          .next (takeTrap (s.setCtx c x { t with slipPend := none }) c x Cause.slip v t.pc)) ∧
        (∀ v, t.slipPend = none → t.slackPend = some v → t.pl = 0 → exec (.pendingEventTake c x) s =
          .next (takeTrap (s.setCtx c x { t with slackPend := none }) c x Cause.slack v t.pc)))) ∧
    (∀ w kind name, s.active c x → t.wait = some w → waitName w = some (kind, name) → name < 256 →
      (t.stall ≤ t.bound → exec (.waitBoundExpiry c x) s = .next s) ∧
      (t.bound < t.stall → ∃ v, exec (.waitBoundExpiry c x) s = .next ((takeTrap s c x Cause.wait v t.pc).updCtx c x
          (fun u => { u with waived := u.waived || u.heldSig ≠ [] })) ∧
        wbits v 56 8 = kind ∧ wbits v 48 8 = name ∧ wbits v 40 8 = x)) ∧
    (s.active c x →
      (∀ p, t.wait = some (.pslot p) → exec (.waitSatisfied c x) s =
        .next (if (s.core c).slotFull p then s.complete c x id else s)) ∧
      (∀ v, t.wait = some (.time v) → exec (.waitSatisfied c x) s =
        .next (if v.toNat ≤ s.time / 2 ^ 32 % 2 ^ 64 then s.complete c x id else s)) ∧
      (∀ f, t.wait = some (.token f) → exec (.waitSatisfied c x) s =
        .next (if 0 < (s.core c).avail f then s.setCtx c x { t with wait := none, stall := 0 } else s))) ∧
    ((s.core c).frozen = none → (s.core c).holdFor = none → (s.core c).filledAt ≠ some s.cc → ((s.core c).issued.1 ≠ s.cc ∨ (s.core c).issued.2.2 = 0) →
      (∀ y, y < 4 → (s.ctx c y).inSet = true → s.active c y ∧ (s.ctx c y).wait = some .rendezvous ∧ s.pendingAt c y = false ∧
        (s.ctx c y).stopReq = false) →
      x < 4 → t.inSet = true →
      ∃ u, exec (.yRendezvous c) s = .next u ∧
        u.agenda = ((List.range 4).filter (fun y => (s.ctx c y).inSet)).map (Action.turn c) ++ s.agenda ∧ ∀ y, y < 4 → (s.ctx c y).inSet = true →
        (u.ctx c y).wait = none ∧ (u.ctx c y).rendez = true ∧ (u.ctx c y).pc = (s.ctx c y).pc) ∧
    (∀ f r, x < 4 → t.heldSig = f :: r → (s.core c).fifoRoom f = true →
      ∃ u, exec (.heldSignalPush c x) s = .next u ∧ (u.ctx c x).heldSig = r ∧ (u.core c).fifoCount f = (s.core c).fifoCount f + 1) ∧
    (∀ tk, s.toks[n]? = some tk → tk.since < s.cc →
      ∃ u, exec (.tokenDelivery n) s = .next u ∧ u.toks = s.toks.eraseIdx n ∧
        (u.core tk.core).fifoCount tk.fifo = (s.core tk.core).fifoCount tk.fifo +
          (if (s.core tk.core).task ≠ none ∧ (s.core tk.core).starts = tk.start then 1 else 0))

/-! ### Engines -/

/-- A vector command starts with its operands read and its result due after its latency, and no register changes before that; at its clock the
result is written whole; the oldest command whose results are written retires, fills its slot and lets its queue go on. An entry whose guard says so
retires as a no-op with SKIPPED (R111, R113, R168, R171, R178, R195). -/
def Obligations.VectorCommandsStartWriteAndRetire : Prop :=
  (∀ (s : State) (c : Nat) (ent : Entry) (r : List Entry) (d : Reg) (lat : Nat) (g : Nat → Nat), AtHead s c 2 ent r →
    ent.seed = none → laneRow (s.core c).vxe ent = some (d, lat, g) →
    ∃ t f v, exec (.vxeCommandStart c) s = .next t ∧ Started s t c 2 r f ∧ f.ent = ent ∧ f.wclk = (s.core c).clk + lat ∧
      f.done = false ∧ f.writes = [.vreg d.toNat v 0] ∧ (∀ i, i < 1024 → laneOf v i = g i % 2 ^ 32) ∧ (t.core c).vxe.v = (s.core c).vxe.v) ∧
  (∀ (s : State) (c : Nat) (f : Flight) (d : Reg) (v : VReg), dueFlight (s.core c).vxe.q.fl (s.core c).clk = some f →
    f.writes = [.vreg d.toNat v 0] →
    ∃ t, exec (.vxeWriteback c) s = .next t ∧ (t.core c).vxe.vr d = v ∧ (∀ e, e ≠ d → (t.core c).vxe.vr e = (s.core c).vxe.vr e) ∧
      ∀ g ∈ (t.core c).vxe.q.fl, g.ent.seq = f.ent.seq → g.done = true) ∧
  (∀ (s : State) (c e : Nat) (f : Flight) (r : List Flight), e < 3 → ((s.core c).q e).fl = f :: r → f.done = true →
    f.rclk ≤ (s.core c).clk → (s.core c).frozen = none → f.cause = none → f.post = [] → (s.core c).hold = [] →
    (s.core c).signalFull e f.ent = none →
    ∃ t, exec (.engineCommandRetire c e) s = .next t ∧ ((t.core c).q e).fl = r ∧ ((t.core c).q e).last = some f.ent.seq ∧
      ∀ p v, f.fill = some (p, v) → p < 16 → FilledIn s t c p v) ∧
  (∀ (s : State) (c e : Nat) (ent : Entry) (r : List Entry) (i : Instr),
    (e = 0 ∧ i = .cpeCommandStart c) ∨ (e = 1 ∧ i = .mxeCommandStart c) ∨ (e = 2 ∧ i = .vxeCommandStart c) →
    ((s.core c).q e).q = ent :: r → (s.core c).mayStart e = true → ent.fence = none → ent.seed = none →
    (s.core c).headTokens e ent = true → (s.core c).guardOf ent = .skip →
    ∃ t f, exec i s = .next t ∧ Started s t c e r f ∧ f.ent = ent ∧ f.done = true ∧ f.writes = [] ∧
      ∀ p v, f.fill = some (p, v) → v = 2)

/-- Matrix commands: `mxzero` and `mxfmt` act at their start, the one with its rows due two clocks later; results are written at their clock, after
those of the VXE that are due by then; a step of a nest starts in its clock with its operands and goes on, and the
rows of its tile are made when the clock ends; a store of a nest leaves its buffer when it
has drained (R206, R207, R209, R212, R214, R216). -/
def Obligations.MatrixCommandsStartStepAndWrite : Prop :=
  (∀ (s : State) (c : Nat) (ent : Entry) (r : List Entry), AtHead s c 1 ent r → (s.core c).mxe.nest = none →
    (∀ f ∈ (s.core c).mxe.q.fl, f.done = true) →
    (∀ k d a, ent.ins = .mxfmt k d a → ∃ t f, exec (.mxeCommandStart c) s = .next t ∧ Started s t c 1 r f ∧ f.writes = [] ∧
      (t.core c).mxe.entry d.toNat = ent.va.toNat % 2 ^ 32 ∧
      ∀ n, n ≠ d.toNat → (t.core c).mxe.entry n = (s.core c).mxe.entry n) ∧
    (∀ k d, ent.ins = .mxzero k d → ∃ t f, exec (.mxeCommandStart c) s = .next t ∧ Started s t c 1 r f ∧
      f.wclk = (s.core c).clk + 2 ∧ (t.core c).mxe.t = (s.core c).mxe.t ∧
      ∀ i, i < 128 → RegWrite.tile (128 * d.toNat + i) 0 ∈ f.writes)) ∧
  (∀ (s : State) (c key : Nat) (f : Flight) (v : TileRow), dueFlight (s.core c).mxe.q.fl (s.core c).clk = some f →
    f.writes = [.tile key v] → (s.core c).mxe.nest = none → dueFlight (s.core c).vxe.q.fl (s.core c).clk = none →
    ∃ t, exec (.mxeWriteback c) s = .next t ∧ Map.get 0 (t.core c).mxe.t key = v ∧
      (∀ j, j ≠ key → Map.get 0 (t.core c).mxe.t j = Map.get 0 (s.core c).mxe.t j) ∧
      ∀ g ∈ (t.core c).mxe.q.fl, g.ent.seq = f.ent.seq → g.done = true) ∧
  (∀ (s : State) (c : Nat) (n : Nest) (p : StepIn) (k' : Core), (s.core c).mxe.nest = some n → n.held = false → n.step < n.total →
    n.nextClk ≤ (s.core c).clk → n.paused (s.core c).clk = false → (s.core c).frozen = none → s.capOk (s.core c) = true →
    (s.core c).stepAt false n.kind (opOpt n.aw % 2) ((s.core c).mxe.entry ((n.fb + n.indices.getD 5 0) % 16)) n.tile n.aw n.bw
      (nestAddr (opAddr n.aw) n.indices n.levels (·.sa)) (nestAddr (opAddr n.bw) n.indices n.levels (·.sb))
      ((n.levels.take (firstLevels n.indices)).any (·.zt)) = .ok (p, k') →
    ∃ t n', exec (.nestStep c) s = .next t ∧ (t.core c).mxe.nest = some n' ∧ n'.step = n.step + 1 ∧
      n'.nextClk = (s.core c).clk + 1 ∧ n'.pend = some p ∧ (t.core c).mxe.t = k'.mxe.t) ∧
  (∀ (k : Core) (n : Nest) (p : StepIn), k.mxe.nest = some n → n.pend = some p →
    ∃ n', (k.nestMade).mxe.nest = some n' ∧ n'.pend = none ∧ n'.step = n.step ∧
      ∀ i, i < 128 → Map.get 0 (k.nestMade).mxe.t (128 * n.tile + i) =
        ofRow (if n.void then [] else (k.stepOut p (k.tileNow n.tile)).rows.getD i [])) ∧
  (∀ (s : State) (c : Nat) (n : Nest) (st : NestStore) (r : List NestStore), (s.core c).mxe.nest = some n → n.held = false →
    n.stores = st :: r → st.ends ≤ (s.core c).clk → (s.core c).frozen = none →
    (s.core c).firstNeed (spadLines st.addr st.bytes) = none →
    ∃ t n', exec (.nestStoreDrainEnd c) s = .next t ∧ (t.core c).mxe.nest = some n' ∧ n'.stores = r ∧ n'.step = n.step)

/-- Copies: a copy of no lines retires with DONE; a command that waits for nothing and whose window lines are filled starts with every line to
form; a packet takes the next lines, one to eight, of the oldest command that has lines to form, at most one in a clock; a line of `cpin` puts the 128 bytes of its home into its scratchpad line, and one of `cpout` the
bytes of its scratchpad line into its home (R311, R312). -/
def Obligations.CopyLinesMoveBetweenHomeAndScratchpad : Prop :=
  (∀ (s : State) (c : Nat) (ent : Entry) (r : List Entry), AtHead s c 0 ent r →
    (copySlot ent.ins).isSome = true →
    (copyTotal ent = 0 → ∃ t f, exec (.cpeCommandStart c) s = .next t ∧ Started s t c 0 r f ∧ f.done = true ∧
      ∀ p v, f.fill = some (p, v) → v = 1) ∧
    (copyTotal ent ≠ 0 → (s.cpeNeed c ent).isNone = true → s.copyFault c ent = none → (s.core c).firstNeed (copySpads ent) = none →
      (s.core c).penned = false → (∀ k f p a b, ent.ins ≠ .cpoq k f p a b) →
      ∃ t f w, exec (.cpeCommandStart c) s = .next t ∧ Started s t c 0 r f ∧ f.done = false ∧
        (t.core c).cpe.work = (s.core c).cpe.work ++ [w] ∧ w.ent = ent ∧ w.total = copyTotal ent ∧ w.formed = 0 ∧ w.out = [])) ∧
  (∀ (s : State) (c : Nat) (w : Copy) (r : List Copy), (s.core c).cpe.work = w :: r → w.formed < w.total → isRowCopy w.ent = false →
    w.formAt ≠ some s.cc →
    ∃ t w', exec (.copyPacketForm c) s = .next t ∧ w' ∈ (t.core c).cpe.work ∧ w'.ent = w.ent ∧
      w.formed < w'.formed ∧ w'.formed ≤ w.formed + 8 ∧ w'.formed ≤ w.total ∧
      ∀ m, m ∈ w'.out ↔ (m ∈ w.out ∨ (w.formed ≤ m ∧ m < w'.formed))) ∧
  (∀ (s : State) (c n m : Nat) (w : Copy) (k : Tk) (f p : BitVec 4) (a b : Reg) (pa : Nat) (cls : BitVec 2) (ms : Bool),
    let ad := wbits w.ent.va 0 25 + 128 * m
    let va := w.ent.vb + BitVec.ofNat 64 (128 * m)
    pickLine (s.core c).cpe.work n = some (w, m) → ad % 128 = 0 → (s.core c).windowOf (ad / 128) = none →
    (s.core c).badLine (ad / 128) = false → s.linePoison (pa / 128) = 0 →
    (w.ent.ins = .cpin k f p a b → s.translate c va .read w.ent.atU = .ok (.phys pa cls ms) →
      ∃ t, exec (.copyLineComplete c n .home) s = .next t ∧ (t.core c).spadLine (ad / 128) = s.homeLine (pa / 128) ∧
        (∀ a, t.byteAt a = s.byteAt a)) ∧
    (w.ent.ins = .cpout k f p a b → w.held = [] → s.translate c va .write w.ent.atU = .ok (.phys pa cls ms) →
      ∃ t, exec (.copyLineComplete c n .home) s = .next t ∧ t.homeLine (pa / 128) = (s.core c).spadLine (ad / 128) ∧
        (∀ a, a < 128 * (pa / 128) ∨ 128 * (pa / 128) + 128 ≤ a → t.byteAt a = s.byteAt a)))

/-! ### Tasks and time -/

/-- A task starts on an idle core with every context running at level U at the packet's code address, x1 and x2 as the packet and the task's number give
them, every other register 0, no token and no full slot, and the scratchpad as it was (R122); the task of a core whose contexts have left and whose queues
have noted is complete and holds no lot any more (R112, R284); a queue's head is released, in order, only where the timetable lets it (R129); a frame
counter ticks when its formula says so and not otherwise (R408); a slip ends when its launches are complete, and its length is held (R130).
The clock goes on by one cc when nothing of the present one is left, and the time counter by INC, or by the step that was written (R406);
corrections come as steps, from a write of TMADJ and from the source that is selected alone, and 16 exchanges within 2 ns lock a follower (R407); the power
cap holds when the measured power passes it (R427). -/
def Obligations.TasksStartCompleteAndClockAdvances : Prop :=
  ((∀ (s s' : State) (c ln tk : Nat) (l : Launch), s.chooses c = true → s.choose c = (s', some (ln, l, tk, none)) →
     let kept := ∀ n li, (s'.core c).line n = some li → li.way < (if l.pkt.sets = [] then 12 else 10)
     ∃ u, exec (.taskStart c) s = .next u ∧ (∀ x, x < 4 →
       (u.ctx c x).run = .running ∧ (u.ctx c x).status = 0 ∧ (u.ctx c x).pc = pktWord l.pkt.d 0 ∧ (u.ctx c x).rd 1 = pktWord l.pkt.d 1 ∧
       (u.ctx c x).rd 2 = taskWid (s'.pdk l.blk) l.pkt.d tk ∧ (∀ r, r ≠ 1 → r ≠ 2 → (u.ctx c x).rd r = 0) ∧
       (u.ctx c x).sBank.tvec = (s'.func l.pkt.vf).vftvec ∧ (u.ctx c x).hBank.tvec = (s'.pdk l.blk).htvec) ∧
       (∀ f, (u.core c).fifoCount f = 0) ∧ (∀ p, (u.core c).slotFull p = false) ∧ (u.core c).spad = (s'.core c).spad ∧
       (∃ t, (u.core c).task = some t ∧ t.launch = ln ∧ t.idx = tk) ∧ (kept → ∀ a, u.byteAt a = s'.byteAt a)) ∧
   (∀ (s : State) (c : Nat) (t : Task), (s.core c).task = some t →
     ((∃ x, x < 4 ∧ (s.ctx c x).run = .running) → exec (.taskComplete c) s = .next s) ∧
     ((∀ x, x < 4 → (s.ctx c x).run = .ended ∨ (s.ctx c x).run = .stopped) → (s.core c).vxe.q.noted = true →
       (s.core c).mxe.q.noted = true → (s.core c).cpe.q.noted = true → (s.core c).penned = false →
       ∃ u, exec (.taskComplete c) s = .next u ∧ (u.core c).task = none ∧ ∀ h ∈ u.lots, h.core ≠ c)) ∧
   (∀ (s : State) (b q : Nat) (k : Packet) (r : List Packet), (s.pdk b).queue q = k :: r →
     ((s.pdk b).releasable k = false → exec (.launchRelease b q) s = .next s) ∧
     (wbits (s.pdk b).pctl 60 2 = 2 → exec (.launchRelease b q) s = .next s) ∧
     ((s.pdk b).valid = true → wbits (s.pdk b).pctl 60 2 ≠ 2 → (s.pdk b).releasable k = true → (k.src = none ∨ k.at_ < s.cc) → taskCount (s.pdk b) k.d ≠ 0 →
       ∃ u l, exec (.launchRelease b q) s = .next u ∧ (u.pdk b).queue q = r ∧ u.launch s.nextLaunch = some l ∧ l.pkt = k ∧
         l.queue = q ∧ l.total = taskCount (s.pdk b) k.d ∧ l.seq = (s.pdk b).seq ∧ (u.pdk b).seq = (s.pdk b).seq + 1 ∧ l.done = [])) ∧
   (∀ (s : State) (b : Nat),
     (s.tickDue b = false → exec (.frameTick b) s = .next s) ∧
     (s.tickDue b = true → ∃ u, exec (.frameTick b) s = .next u ∧ (u.pdk b).frame = (s.pdk b).frame + 1) ∧
     ∀ sl, (s.pdk b).slip = some sl → (∀ e ∈ sl.entries, s.entryVf b e.1 sl.cc = none) →
       ∃ u, exec (.slipEnd b) s = .next u ∧ (u.pdk b).slip = none ∧ (u.pdk b).frame = (s.pdk b).frame ∧
         (u.pdk b).heldNs = (s.pdk b).heldNs + (s.timeNs.toNat - sl.since))) ∧
  (∀ (s : State) (v : Word) (ofs : Int) (n : Nat),
     (s.clockBusy = true → exec .timeCounterStep s = .next s) ∧
     (s.clockBusy = false → 0 ≤ s.timeStep → s.timeHold = 0 → ∃ u, exec .timeCounterStep s = .next u ∧ u.cc = s.cc + 1 ∧
       u.time = (s.time + s.timeStep.toNat * 2 ^ 32 + s.tack.tminc.toNat) % 2 ^ 96 ∧ u.timeStep = 0 ∧ u.timeHold = 0 ∧
       ((∀ c f, f ∈ (s.core c).mxe.q.fl → f.post = []) → ∀ a, u.byteAt a = s.byteAt a)) ∧
     (∃ u, exec (.tmadjWrite v) s = .next u ∧ u.timeStep = s.timeStep + v.toInt ∧ u.time = s.time) ∧
     (s.tack.src ≠ 2 → exec (.timeSyncExchange ofs) s = .next s) ∧
     (s.routePort s.tack.mpkg.toNat 0 0 = none → exec (.timeSyncExchange ofs) s = .next s) ∧
     (s.tack.src = 2 → s.tack.mpkg ≠ s.pkg → (s.routePort s.tack.mpkg.toNat 0 0).isSome = true → ∃ u, exec (.timeSyncExchange ofs) s = .next u ∧ u.timeStep = s.timeStep + ofs ∧
       (s.tack.syncOk = 15 → -2 ≤ ofs → ofs ≤ 2 → u.tack.lock = true) ∧ (2 < ofs → u.tack.syncOk = 0 ∧ u.tack.lock = s.tack.lock)) ∧
     (exec (.ptpEventMessage n ofs) s = .next (if s.tack.src = 1 ∧ n < 4 ∧ (Map.get 0 s.tack.ptp 0).getLsbD n = true
       then { s with timeStep := s.timeStep + ofs } else s)) ∧
     (∃ u, exec (.powerCapCheck n) s = .next u ∧ (u.tack.capped = true ↔ (s.tack.pcap.getLsbD 63 = true ∧ wbits s.tack.pcap 0 16 < n % 2 ^ 16)) ∧
       wbits u.tack.pmeas 0 16 = n % 2 ^ 16))
/-! ### Memory -/

/-- The fill of an SW window line takes the bytes of its home and ends the freeze (R234, R345); the lines of an operand-queue entry arrive as copy lines do:
the bytes of the home take their place in the entry, and the line is no longer missing there (R316); an HC line whose lease has ended for all contexts leaves
the L1, but for its place in a block of several lines (R246, R238); a freeze ends at its clock, and at LIMIT with FRZ on its command (R345,
R347); the farrier logs a failure and poisons what a lasting one has lost (R348, R242), and counts an error that it corrects (R225); a core acknowledges a shootdown, and no translation of the range stays
in its TLB (R253); a walk puts its leaf into the TLB, and an absent leaf into none (R252). -/
def Obligations.FillsWalksAndShootdownsComplete : Prop :=
  ∀ (s : State) (c n : Nat),
    (∀ f pa, (s.core c).frozen = some f → f.kind = 0 →
      s.translate c (winVa ((s.core c).window f.win) f.idx) .read f.atU = .ok (.phys pa 1 false) → pa < 2 ^ 47 →
      (s.core c).winHas f.win f.idx = false →
      ∃ u, exec (.stashFill c) s = .next u ∧ (u.core c).frozen = none ∧ (u.core c).winHas f.win f.idx = true ∧
        Map.get 0 (u.core c).spad (((s.core c).window f.win).addr / 128 + f.idx) = s.homeLine (pa / 128) ∧
        ∀ a, u.byteAt a = s.byteAt a) ∧
    (∀ m, s.oqLines c n = [m] → exec (.oqEntryFill c n) s = exec (.copyLineComplete c m .home) s) ∧
    (s.oqLines c n = [] → exec (.oqEntryFill c n) s = .next s) ∧
    (∀ (m j : Nat) (w : Copy) (k : Tk) (f p : BitVec 4) (a b : Reg) (pa : Nat) (cls : BitVec 2) (ms : Bool),
      s.oqLines c n = [m] → pickLine (s.core c).cpe.work m = some (w, j) → w.ent.ins = .cpoq k f p a b → wbits w.ent.va 0 3 = n →
      s.translate c (w.ent.vb + wnat (128 * j)) .read w.ent.atU = .ok (.phys pa cls ms) → s.linePoison (pa / 128) = 0 →
      ∃ t, exec (.oqEntryFill c n) s = .next t ∧
        (∀ e ∈ (s.core c).queueOf n, e.seq = w.ent.seq → e.k = j / 8 →
          { e with data := putBits e.data (1024 * (j % 8)) 1024 (s.homeLine (pa / 128)).toNat, left := e.left.filter (· ≠ j % 8) }
            ∈ (t.core c).queueOf n) ∧
        ∀ a, t.byteAt a = s.byteAt a) ∧
    (∀ l, (s.core c).line n = some l → l.cls = 0 →
      ((∀ x, x < 4 → l.rts < (s.ctx c x).pts) → ∃ u, exec (.leaseExpiry c n) s = .next u ∧
        (u.core c).line n = if l.blk % 128 ≤ 1 then none else some { l with valid := 0, dirty := 0, poison := 0 }) ∧
      (∀ x, x < 4 → (s.ctx c x).pts ≤ l.rts → ∃ u, exec (.leaseExpiry c n) s = .next u ∧ (u.core c).line n = some l)) ∧
    (∀ f e, (s.core c).frozen = some f → f.ends = some e →
      exec (.freezeEnd c) s = .next (if e ≤ s.cc then s.setCore c { s.core c with frozen := none } else s)) ∧
    (∀ f, (s.core c).frozen = some f →
      (s.cc - f.since < (s.core c).frzMax.toNat → exec (.freezeLimit c) s = .next s) ∧
      (∀ ent r k d a, (s.core c).frzMax.toNat ≤ s.cc - f.since → f.ends = none → f.own = none → s.freezeOver c f = false → f.eng = 2 →
        (s.core c).vxe.q.q = ent :: r → ent.ins = .vld k d a →
        ∃ u g, exec (.freezeLimit c) s = .next u ∧ (u.core c).frozen = none ∧ Started s u c 2 r g ∧ g.ent = ent ∧
          g.cause = some (Cause.frz, wnat (f.kind * 2 ^ 60) ||| (f.loc &&& 0xffffffffffff)))) ∧
    (∀ (lasting : Bool) (synd : Word),
      (6 < n → exec (.farrierRetry n c 0 lasting synd) s = .next s) ∧
      (∀ a, n = 6 → exec (.farrierRetry n c a lasting synd) s = .next { s with corrected := s.corrected + 1 }) ∧
      (∀ a, n ≤ 5 → ∃ u e, exec (.farrierRetry n c a lasting synd) s = .next u ∧ u.farrier = s.farrier ++ [e] ∧
        (lasting = true → n = 0 → (u.core c).badSec.contains (a / 32) = true) ∧
        (lasting = true → n = 1 → u.linePoison (a / 128) = 0xffffffff))) ∧
    (∀ b, c < 32 → s.fuses.getLsbD c = true → s.sdBlock c = some b → (∀ x, (s.ctx c x).stores = []) → (s.core c).l1 = [] →
      (s.core c).wins = [] → (s.core c).pen = [] →
      (s.coreVf c ≠ wbits (s.pdk b).sdctl 48 6 ∨ s.usesRange c (s.pdk b).sdRange.1 (s.pdk b).sdRange.2 = false) →
      ∃ u, exec (.shootdown c) s = .next u ∧ (u.pdk b).sdack.getLsbD c = true ∧
        ∀ e ∈ (u.core c).tlb, e.vf = wbits (s.pdk b).sdctl 48 6 →
          (s.pdk b).sdRange.2 ≤ e.page * 2 ^ pageLog e.size ∨ (e.page + 1) * 2 ^ pageLog e.size ≤ (s.pdk b).sdRange.1) ∧
    (∀ v : Word, v.getLsbD 63 = true → ∃ u, exec (.sdctlGo c v) s = .next u ∧ (u.pdk (c % 8)).sdack = 0 ∧
      (u.pdk (c % 8)).sdctl = v &&& 0x803ffffffff80000) ∧
    (∀ va : Word, c < 32 → va.toNat < 2 ^ 47 →
      (s.leafOf c (s.coreVf c) va.toNat = none → exec (.pageWalk c n va) s = .next s) ∧
      ∀ pte lvl, s.leafOf c (s.coreVf c) va.toNat = some (pte, lvl) → ∃ u, exec (.pageWalk c n va) s = .next u ∧
        TlbEntry.mk (s.coreVf c) (va.toNat / 2 ^ pageLog lvl) lvl (BitVec.ofNat 64 pte) ∈ (u.core c).tlb)

/-- A free lot goes to the context that asks for it, and a freed one to the oldest request (R277, R279); a wound stops a task's queues, and its commands
and requests end before it starts again (R284); a task commits its pen: the words that it wrote stand at their homes (R283); the token of a paddock goes to the
oldest task that waits for it, which is irrevocable from then on (R286). -/
def Obligations.LotsAreGrantedWoundedAndCommitted : Prop :=
  ∀ (s : State) (c x : Nat),
    (∀ t va i key cls ms, (s.core c).task = some t → x < 4 → (s.ctx c x).wait = some (.lot va i false) →
      s.translate c (BitVec.ofNat 64 (t.lotOf i va).1) .read false = .ok (.phys key cls ms) → s.holdsLot c key (t.lotOf i va).2 = false →
      s.dirRoom c key = true → s.lotHolder key (t.lotOf i va).2 = none → s.lotReqs = [] →
      ∃ u, exec (.lotRequest c x) s = .next u ∧ u.holdsLot c key (t.lotOf i va).2 = true ∧ (u.ctx c x).wait = none ∧
        (u.ctx c x).pc = (s.ctx c x).pc ∧ ∀ a, u.byteAt a = s.byteAt a) ∧
    (∀ key r, s.oldestReq key = some r → ∃ u, exec (.lotGrant key) s = .next u ∧ r ∉ u.lotReqs ∧ u.holdsLot r.core r.key r.log = true) ∧
    ((s.core c).rolling = false → (s.core c).woundReady = true → (s.core c).task ≠ none → (s.core c).committing = false →
      ∃ u, exec (.rollback c) s = .next u ∧ (u.core c).rolling = true ∧ (∀ e, e < 3 → ((u.core c).q e).stopped (u.core c).clk = true) ∧
        ∀ r ∈ u.lotReqs, r.core ≠ c) ∧
    ((s.core c).rolling = true → s.baysOf c = true → exec (.rollback c) s = .next s) ∧
    (∀ ln p, (s.core c).commitPoint = true → (s.core c).pen = [(ln, some p)] → (s.core c).hold = [] →
      ∃ u, exec (.commit c) s = .next u ∧ (u.core c).pen = [] ∧ (u.core c).committing = true ∧
        ∀ j, j < 32 → u.homeRead (128 * ln + 4 * j) 4 =
          if p.valid.getLsbD j then p.data.toNat / 2 ^ (32 * j) % 2 ^ 32 else s.homeRead (128 * ln + 4 * j) 4) ∧
    ((s.core c).commitPoint = false → exec (.commit c) s = .next s) ∧
    (∀ b t, s.tokenNext b = some c → (s.core c).task = some t → (s.core c).pen = [] → (s.core c).hold = [] →
      ∃ u t', exec (.irrevocabilityGrant b) s = .next u ∧ (u.pdk b).token = some c ∧ (u.core c).task = some t' ∧ t'.irrev = true)

/-! ### Admission -/

/-- An engine decides a request alone: forced where it is not ready, admitted to its first free bay on route 0, refused where no bay is free; the answer comes
6 cc later, sets `bz` and completes the word; tickets are issued and lapse when due (R321, R323, R325); a bay does not end before its occupancy, and then fills
its slot and is free (R328); a bay notes the host port's failing answer (R404, R416); a proxy bay waits for its batch (R395); a loft folds a line at its home (R314); a request without an answer for 2^20 cc is
unreachable (R382); a sort keeps the records and puts their keys in order (R332). -/
def Obligations.RequestsAreDecidedServedAndAnswered : Prop :=
  (∀ (s : State) (r : Req) (u : Nat), s.reqs = [r] → r.unit = some u → r.answer = none → r.due ≤ s.cc →
    let e := s.eng r.cls u
    let said (a : Answer) (t : State) : Prop := t.reqs = [{ r with answer := some a, due := s.cc + 6 }]
    (s.engReady r.cls u = false → ∃ t, exec (.admissionDecision r.core r.ctx) s = .next t ∧ said .forced t) ∧
    (s.engReady r.cls u = true → s.xceFull r u = false → e.ticket = none → r.rt = 0 →
      (∀ n, (e.freeBays r.cls s.cc).head? = some n → ∃ t, exec (.admissionDecision r.core r.ctx) s = .next t ∧ said .admitted t ∧
        (∃ b, (t.eng r.cls u).bay n = some b ∧ b.req = (if r.cls = 2 then r else { r with trs := s.placesOf r }) ∧ b.since = s.cc) ∧ (r.slot < 16 → (t.core r.core).slotFull r.slot = false)) ∧
      ((e.freeBays r.cls s.cc) = [] → ∃ t, exec (.admissionDecision r.core r.ctx) s = .next t ∧ said .refused t ∧
        ∀ n, (t.eng r.cls u).bay n = e.bay n))) ∧
  (∀ (s : State) (r : Req) (a : Answer), s.reqs = [r] → r.answer = some a →
    (s.cc < r.due → exec (.admissionAnswer r.core r.ctx) s = .next s) ∧
    (r.due ≤ s.cc → ∃ t, exec (.admissionAnswer r.core r.ctx) s = .next t ∧ t.reqs = [] ∧
      (t.ctx r.core r.ctx).bz = decide (a ≠ .admitted) ∧ (t.ctx r.core r.ctx).x = (s.ctx r.core r.ctx).x ∧
      (t.ctx r.core r.ctx).retired = (s.ctx r.core r.ctx).retired + 1)) ∧
  (∀ (s : State) (cls u : Nat),
    (∀ key, s.ticketDue cls u = some key → ∃ t tk, exec (.ticketIssue cls u) s = .next t ∧ (t.eng cls u).ticket = some tk ∧
      tk.key = key ∧ tk.h = s.cc + 1 ∧ (t.eng cls u).prev = key) ∧
    (s.ticketDue cls u = none → exec (.ticketIssue cls u) s = .next s) ∧
    (s.lapseDue cls u = true → ∃ t, exec (.ticketLapse cls u) s = .next t ∧ (t.eng cls u).ticket = none) ∧
    (s.lapseDue cls u = false → exec (.ticketLapse cls u) s = .next s)) ∧
  (∀ (s : State) (cls u n : Nat) (b : Bay), (s.eng cls u).bay n = some b →
    (∀ line, s.cc < b.since + b.occ → exec (.bayComplete cls u n ⟨line, .home⟩) s = .next s) ∧
    (∀ k f r p x y code info, b.since + b.occ ≤ s.cc → s.remoteNeed b.req.core b.req.atU (reqLines b.req) = none →
      b.req.ins = .xput k f r p x y → (wbits b.req.va 48 16).testBit 4 = true → b.res = some (code, info, none) → s.reqLive b.req = true →
      b.asks = [] → b.req.trs = [] → ∀ line,
      ∃ t, exec (.bayComplete cls u n ⟨line, .home⟩) s = .next t ∧ (t.eng cls u).bay n = none ∧
        (b.req.slot < 16 → FilledIn s t b.req.core b.req.slot (completion code info))) ∧
    (∀ a p q, b.asks = [a] → a.rep = none → b.req.trs[a.line]? = some (.ok (.phys p q true)) →
      ∃ t, exec (.bayComplete cls u n ⟨a.line, .unreachable⟩) s = .next t ∧
        (t.eng cls u).bay n = some { b with asks := [{ a with rep := some .unreachable }] } ∧ t.cores = s.cores ∧ t.mem = s.mem)) ∧
  (∀ (s : State) (u n : Nat) (b : Bay) (k : Tk) (f p : BitVec 4) (r : BitVec 2) (x y : Reg), (s.eng 0 u).bay n = some b →
    b.req.ins = .xput k f r p x y → (wbits b.req.va 48 16).testBit 4 = true → b.res = none → b.taken = none → b.offer = false →
    let got := ((s.core b.req.core).ring (wbits b.req.va 48 16 % 16)).filled
    (got < wbits b.req.va 32 16 → s.cc < b.since + 4800 → ∀ ad, exec (.proxyOffer u n ad) s = .next s) ∧
    (got = 0 → b.since + 4800 ≤ s.cc → ∀ ad, ∃ t b', exec (.proxyOffer u n ad) s = .next t ∧ (t.eng 0 u).bay n = some b' ∧
      b'.taken = some 0 ∧ b'.res = some (codeDone, 0, none))) ∧
  (∀ (s : State) (ln op : Nat) (d : Line), op ≤ 2 → ln < 2 ^ 40 → s.linePoison ln = 0 →
    ∃ t, exec (.loftLineOperation ln op d) s = .next t ∧ (∀ i, i < 32 → laneOf' (t.homeLine ln) i =
        combOp op (laneOf' (s.homeLine ln) i) (laneOf' d i) % 2 ^ 32) ∧
      (∀ a, a < 128 * ln ∨ 128 * ln + 128 ≤ a → t.byteAt a = s.byteAt a)) ∧
  (∀ (s : State) (c x d w pkg off : Nat) (va : Word) (sg : Bool), s.active c x →
    (s.ctx c x).wait = some (.load d va w sg (.remote pkg off)) → (s.hintFor c pkg off).isNone = true →
    exec (.requestTimeout c x) s =
      .next (if (s.ctx c x).waitAt + 2 ^ 20 ≤ s.cc then takeTrap s c x Cause.fwdx va (s.ctx c x).pc else s)) ∧
  (∀ (ty : Nat) (desc : Bool) (l : List Nat), (sortRecs ty desc l).Perm l ∧
    (sortRecs ty desc l).Pairwise (fun a b => if desc then recKey ty b ≤ recKey ty a else recKey ty a ≤ recKey ty b))

/-! ### Pre-emption, the halter and resets -/

/-- A slice that is over makes a request with a save slot (R366). With every context parked, ended or stopped the core has reached its
pre-emption point, and without an `enote` what has not started of the CPE is abandoned (R355, R356); its save writes an image that holds the contexts'
pcs and registers, and a record with V, the core and the latency (R357, R360), and a restore takes the registers from it and clears V (R364). -/
def Obligations.PreemptedTasksAreSavedAndRestored : Prop :=
  (∀ (s : State) (c : Nat) (t : Task), (s.core c).task = some t →
    (s.cc < t.startClk + (s.pdk t.blk).sliceOf → exec (.sliceExpiry c) s = .next s) ∧
    ∀ n i, wbits (s.pdk t.blk).slice 0 32 ≠ 0 → t.pe = true → t.irrev = false → (s.core c).request = none →
      t.startClk + (s.pdk t.blk).sliceOf ≤ s.cc → s.sliceFor c t = some n → s.freeSlot t.blk = some i →
      ∃ u r, exec (.sliceExpiry c) s = .next u ∧ (u.core c).request = some r ∧ r.slot = i ∧ r.at_ = s.cc ∧ r.why = some n ∧
        i ∈ (u.pdk t.blk).reserved) ∧
  (∀ (s : State) (c : Nat) (r : Preempt), (s.core c).request = some r →
    ((s.core c).atPoint = false → exec (.preemptionPoint c) s = .next s) ∧
    (r.wound = false → (s.core c).point = false → (s.core c).atPoint = true → (s.core c).task ≠ none →
      ∃ u, exec (.preemptionPoint c) s = .next u ∧ (u.core c).point = true ∧
        ((s.core c).cpe.q.enoted = true → (u.core c).cpe = (s.core c).cpe) ∧
        ((s.core c).cpe.q.enoted = false → (u.core c).cpe.q.q = [] ∧ (u.core c).cpe.q.fl = (s.core c).cpe.q.fl ∧
          ∀ e ∈ (s.core c).cpe.q.q, ∀ p, copySlot e.ins = some p →
            (u.core c).slotFull p = true ∧ (u.core c).slotVal p = completion codeAbandoned 0))) ∧
  (∀ (s : State) (c : Nat) (r : Preempt) (t : Task), (s.core c).request = some r → (s.core c).task = some t →
    (s.drained c = false → exec (.saveSequence c) s = .next s) ∧
    ((s.core c).point = true → s.drained c = true → r.slot < 256 → (∀ y, y < 4 → (s.ctx c y).stores = []) → (s.core c).wins = [] →
      (s.core c).dfifo = [] → (s.core c).away = [] → ∃ u, exec (.saveSequence c) s = .next u ∧ (u.core c).task = none ∧ (u.core c).request = none ∧
        u.homeRead ((s.pdk t.blk).recordAt r.slot) 8 = 2 ^ 63 + c % 32 * 2 ^ 48 + (s.cc - r.at_) % 2 ^ 32 ∧
        ∀ x, x < 4 → u.homeRead ((s.pdk t.blk).imageAt r.slot + 8 * (54 * x)) 8 = (s.ctx c x).pc.toNat ∧
          ∀ d : Reg, d ≠ 0 → u.homeRead ((s.pdk t.blk).imageAt r.slot + 8 * (54 * x + d.toNat)) 8 = ((s.ctx c x).rd d).toNat)) ∧
  (∀ (s s' : State) (c ln tk slot : Nat) (l : Launch), s.chooses c = true → s.choose c = (s', some (ln, l, tk, some slot)) →
    let im := (s'.pdk l.blk).imageAt slot
    let rc := (s'.pdk l.blk).recordAt slot
    ∃ u t, exec (.restore c) s = .next u ∧ (u.core c).task = some t ∧ t.launch = ln ∧ t.idx = tk ∧
      ((∀ n li, (s'.core c).line n = some li → li.way < (if l.pkt.sets = [] then 12 else 10)) →
        u.homeRead rc 8 = s'.homeRead rc 8 % 2 ^ 63) ∧
      (∀ x, x < 4 → ∀ d : Reg, d ≠ 0 → ((u.ctx c x).rd d).toNat = s'.homeRead (im + 8 * (54 * x + d.toNat)) 8) ∧
      ∀ n, n < 16 → ((u.core c).slotVal n).toNat = s'.homeRead (im + 8 * (216 + n)) 8)

/-- The halter: a condition that its watch observes fires it at its first level (R350), one that has ended ends the watch, and one that outlasts its
level's timeout takes the next level (R351); level 1 is a trap of context 3, level 2 a core reset; a missed heartbeat restarts the tack processors.
A package reset leaves nothing of the units (R352), and memory and the firmware slots as they are (the model's choice, log 19); a function reset ends the function's tasks and, once no bay serves the function,
resets its interrupt log (R414). -/
def Obligations.HalterClimbsItsLadder : Prop :=
  ∀ (s : State) (c n : Nat),
    (s.watches = [] → c < 32 → s.noProgress c = true → ∃ u w, exec (.halterWatchFire 0 c 0) s = .next u ∧ u.watches = [w] ∧
      w.kind = 0 ∧ w.core = c ∧ w.level = 0 ∧ w.since = s.cc ∧ u.records.length = s.records.length + 1 ∧ u.core c = s.core c) ∧
    (s.watches = [] → c < 32 → s.noProgress c = false → exec (.halterWatchFire 0 c 0) s = .next s) ∧
    (∀ w, s.watches = [w] → w.kind = 2 → w.level = 15 → w.core = c → w.ctx = n → ∃ u w', exec (.halterWatchFire 2 c n) s = .next u ∧
      (u.ctx c 3).haltPend = true ∧ u.watches = [w'] ∧ w'.level = 1 ∧ w'.since = s.cc) ∧
    (∀ w, s.watches[n]? = some w →
      (s.watchOver w = true → ∃ u, exec (.halterLevelTimeout n) s = .next u ∧ u.watches = s.watches.eraseIdx n ∧ u.cores = s.cores) ∧
      (s.watchOver w = false → s.cc < w.since + s.timeout w.level * 2400 → exec (.halterLevelTimeout n) s = .next s) ∧
      (s.watchOver w = false → w.level ≠ 15 → w.since + s.timeout w.level * 2400 ≤ s.cc →
        (nextLevel w.kind w.level = none → exec (.halterLevelTimeout n) s = .next s) ∧
        (nextLevel w.kind w.level = some 1 → ∃ u, exec (.halterLevelTimeout n) s = .next u ∧ (u.ctx w.core 3).haltPend = true) ∧
        (nextLevel w.kind w.level = some 2 → ∃ u, exec (.halterLevelTimeout n) s = .next u ∧ (u.core w.core).task = none ∧
          ∀ x, x < 4 → (u.ctx w.core x).run = .stopped))) ∧
    (s.noHeartbeat = false → exec .heartbeatTimeout s = .next s) ∧
    (s.noHeartbeat = true → (∀ w ∈ s.watches, w.kind ≠ 6) → ∃ u, exec .heartbeatTimeout s = .next u ∧ u.tack = s.tack.restart s.cc ∧
      u.cores = s.cores ∧ u.records.length = s.records.length + 1) ∧
    (∃ u, exec .packageReset s = .next u ∧ (∀ d, u.core d = Core.reset) ∧ u.rdy0 = 0 ∧ u.rdy1 = 0 ∧ u.launches = [] ∧ u.mem = s.mem ∧
      u.tack.slotA = s.tack.slotA ∧ u.tack.slotB = s.tack.slotB ∧ u.tack.arc = s.tack.arc) ∧
    (0 < n → n < 64 →
      (s.inReset n = false → ∃ u, exec (.functionReset n) s = .next u ∧ u.inReset n = s.serves n ∧
        ∀ d t, d < 32 → (s.core d).task = some t → t.vf = n → (u.core d).task = none) ∧
      (s.serves n = false → (s.func n).rstBy = none → ∃ u, exec (.functionReset n) s = .next u ∧ u.inReset n = false ∧
        (u.func n).ilhead = 0 ∧ (u.func n).iltail = 0 ∧ (u.func n).ilpend = 0 ∧ (u.func n).ilsize = 4)) ∧
    (∀ v, 0 < n → n < 64 → ∃ u, exec (.ilheadWrite n v) s = .next u ∧ (u.func n).ilhead = v &&& 0xffff ∧
      ((s.func n).ilpend = 0 → u.mem = s.mem))

/-! ### Packets, the Yard and links -/

/-- A wait of 16 cc at a point lowers a packet's slack by 1, and sets E where none is left, but not of a control message, nor of a packet in service, nor of one of a save sequence (R303,
R299, R358); an arbiter grants the least key of R304; a stop's queue gives a request to its target, which forms its reply with the slack of R306 after the clocks
since it accepted the request; a port's queue lets a packet go on its link only with credit (R385); an event enters its log while there is room, and is lost otherwise (R307); a stop injects into an empty cell whose
slot allows it, and the packet is at its destination 2 cc for each stop later (R375, R376); a slot table takes effect as slot 0 passes stop 0 (R378). -/
def Obligations.PacketsWaitAndAreGranted : Prop :=
  ∀ (s : State) (c n : Nat),
    (∀ q, (s.point c).pkts[n]? = some q →
      (s.cc < q.since + 16 * (q.waited + 1) → exec (.packetWaitUnit c n) s = .next s) ∧
      (q.since + 16 * (q.waited + 1) ≤ s.cc → ∃ u q', exec (.packetWaitUnit c n) s = .next u ∧ (u.point c).pkts[n]? = some q' ∧
        q'.waited = q.waited + 1 ∧ q'.addr = q.addr ∧
        (q.vc ≠ 3 → q.acc = none → q.kind ≠ 13 → q'.slack = q.slack - 1 ∧ (q'.e = true ↔ q.e = true ∨ q.slack ≤ 1)) ∧
        (q.vc = 3 ∨ q.acc.isSome = true ∨ q.kind = 13 → q'.slack = q.slack ∧ q'.e = q.e))) ∧
    (∀ q r : PtPkt, c < 32 → (s.point (64 + c)).pkts = [q, r] → q.head ≠ none → r.head ≠ none → q.vc = 0 → r.vc = 0 →
      q.acc = none → r.acc = none → q.begun = r.begun → q.since ≤ s.cc → r.since ≤ s.cc →
      ∃ u, exec (.arbiterGrant (64 + c) 0) s = .next u ∧ (u.point (64 + c)).pkts = if r.key < q.key then [q] else [r]) ∧
    (∀ q : PtPkt, c < 32 → (s.point (64 + c)).pkts = [q] → q.head ≠ none → q.vc = 0 → q.acc = none → q.since ≤ s.cc →
      ∃ u q', exec (.arbiterGrant (64 + c) 0) s = .next u ∧ (u.point (64 + c)).pkts = [] ∧
        q' ∈ (u.point (if q.dst = q.src then q.queue else 128 + q.src)).pkts ∧ q'.addr = q.addr ∧ q'.slack = q.slack ∧ q'.since = s.cc) ∧
    (∀ q : PtPkt, c < 18 → (s.point (192 + c)).pkts = [q] → q.head ≠ none → q.vc = 0 → q.dst = c → q.since ≤ s.cc → q.ring = false →
      (q.acc = none → ∃ u q', exec (.arbiterGrant (192 + c) 0) s = .next u ∧ (u.point (192 + c)).pkts = [q'] ∧ q'.acc = some s.cc ∧
        q'.slack = q.slack ∧ q'.addr = q.addr) ∧
      ∀ a, q.acc = some a → ∃ u r, exec (.replyForm (192 + c) 0) s = .next u ∧
        r ∈ (u.point (if q.src = c then r.queue else 128 + c)).pkts ∧ r.vc = vcOf (replyTy q.ty) ∧ r.src = c ∧ r.dst = q.src ∧
        (q.e = true → r.slack = q.floor ∧ (q.kind ≠ 13 → r.e = true)) ∧
        (q.e = false → r.e = false ∧ r.slack = max q.floor (q.slack - (s.cc - a + 15) / 16))) ∧
    (∀ q : PtPkt, c < 18 → (s.point (210 + c)).pkts = [q] → q.head ≠ none → q.vc = 0 → q.dst = 18 + c → q.acc = none → q.since ≤ s.cc →
      q.ring = false → s.mcs = [] → q.len = 8 * q.data.length →
      (s.portCredit c 0 (flitsOf q.len) = false → exec (.arbiterGrant (210 + c) 0) s = .next s) ∧
      (s.portCredit c 0 (flitsOf q.len) = true → ∃ u, exec (.arbiterGrant (210 + c) 0) s = .next u ∧ (u.point (210 + c)).pkts = [] ∧
        (u.link c).sendSeq = (s.link c).sendSeq + BitVec.ofNat 12 (flitsOf q.len) ∧
        (u.link c).units.length = (s.link c).units.length + flitsOf q.len)) ∧
    (∀ x w, (s.point (256 + c)).pkts = [] →
      let e := wnat (2 ^ 63 + wbits w 53 9 * 2 ^ 53 + wbits w 0 48)
      ∃ u, exec (.eventLogWrite c x w) s = .next u ∧
        ((s.ctx c x).evlog.length < 32 → (u.ctx c x).evlog = (s.ctx c x).evlog ++ [e] ∧ (u.ctx c x).evLost = (s.ctx c x).evLost ∧
          ((s.ctx c x).se = true → (s.ctx c x).slackPend = none → (s.ctx c x).run ≠ .ended → (u.ctx c x).slackPend = some e)) ∧
        (32 ≤ (s.ctx c x).evlog.length → (u.ctx c x).evlog = (s.ctx c x).evlog ∧ (u.ctx c x).evLost = true)) ∧
    (∀ (q : PtPkt) (dir lane blk : Nat), c < 36 → (s.point (128 + c)).pkts = [q] → q.head ≠ none → q.vc < 4 → q.blk = blk →
      (yardPath q.src q.dst).1 = dir → (q.src + q.dst + q.vc) % 8 = lane → q.since ≤ s.cc → (q.begun = true ∨ s.exitCredit q = true) →
      (s.slotAllows (s.passClock c dir % 256) dir blk = false → exec (.cellInject c dir lane blk) s = .next s) ∧
      (s.slotAllows (s.passClock c dir % 256) dir blk = true →
        (∀ m, Map.get none s.cells ((8 * dir + lane) * 72 + s.passClock c dir % 72) = some m → m ≤ s.cc) →
        ∃ u, exec (.cellInject c dir lane blk) s = .next u ∧
          (1 < q.cells → (u.point (128 + c)).pkts = [{ q with cells := q.cells - 1, begun := true }]) ∧
          (q.cells ≤ 1 → (u.point (128 + c)).pkts = [] ∧ ∃ q' ∈ (u.point q.queue).pkts, q'.addr = q.addr ∧ q'.slack = q.slack ∧
            q'.since = s.cc + 2 * (yardPath q.src q.dst).2))) ∧
    (∃ u, exec .stgctlCommit s = .next u ∧ u.tack.stgPend = true ∧ u.slotAct = s.slotAct ∧ u.slotStg = s.slotStg) ∧
    (s.tack.stgPend = true → s.cc % 256 = 0 → ∃ u, exec .slotTableCommit s = .next u ∧ u.slotAct = s.slotStg ∧ u.tack.stgPend = false) ∧
    (s.cc % 256 ≠ 0 → exec .slotTableCommit s = .next s)

/-- A request that no job table admits is refused, a load is answered with the bytes of its home, and a store writes them, with the
timestamps of an HC line, and one that the host port cannot complete is unreachable (R379, R380, R258, R247, R416; where a reply holds its code is the model's choice, log 26); a unit whose CRC
fails asks once for the flit that is expected, and a flit in sequence is accepted (R386); a replay starts where the far end asks and sends each flit from there
once more; a retrained link is not ready, and is ready again after its training, or stays not ready and lets go of the replies and copies that it holds (R386, R426); a batch of
another package's proxy queue fills its slots, or is refused (R395); frames reach memory and leave it (R419). -/
def Obligations.LinksAndDomainRequestsAnswer : Prop :=
  ∀ (s : State) (n m : Nat) (v w : Word),
    (∀ h0 h1 t lk ok, let spkg := wbits h1 0 6
      let need := decide (wbits lk 42 2 = 0)
      let place (b : Nat) (r : Need) : Tr := s.domainPlace (3 - min (wbits lk 35 2) 2) b (wbits v 0 41) r need
      (s.takerOf spkg (wbits h1 35 6) = none → (s.routePort spkg 0 0).isSome = true → ∀ op, op ≠ .invi → (∀ a b l d, op ≠ .proxy a b l d) →
        ∃ u ws, exec (.domainRequest h0 h1 v t lk ok op) s = .next u ∧ u.outbox = s.outbox ++ [(spkg, ws)] ∧ ws.getD 5 0 = 2 ∧
          wbits (ws.getD 0 0) 48 16 = wbits h0 48 16 ∧ u.mem = s.mem) ∧
      (∀ b pa cls ms, s.takerOf spkg (wbits h1 35 6) = some b → v.getLsbD 63 = false → (s.routePort spkg (s.placeStop b pa cls) 0).isSome = true →
        (place b .read = .ok (.phys pa cls ms) → ∀ d,
          (hostPlace pa cls = true → ok = false → ∃ u ws, exec (.domainRequest h0 h1 v t lk ok (.load d)) s = .next u ∧
            u.outbox = s.outbox ++ [(spkg, ws)] ∧ ws.getD 5 0 = 3 ∧ u.mem = s.mem) ∧
          (hostPlace pa cls = false ∨ ok = true → s.anyPoison (pa / 4 * 4) d = false →
            ∃ u ws, exec (.domainRequest h0 h1 v t lk ok (.load d)) s = .next u ∧ u.outbox = s.outbox ++ [(spkg, ws)] ∧ ws.getD 5 0 = 0 ∧
              wbits (ws.getD 0 0) 48 16 = wbits h0 48 16 ∧ ws.getD 8 0 = wnat (s.homeRead pa d) ∧
              ws.getD 3 0 = (if cls = 0 then (s.hcLine (pa / 128)).wts else 0) ∧ u.mem = s.mem)) ∧
        (place b .write = .ok (.phys pa cls ms) → hostPlace pa cls = false ∨ ok = true → ∀ d, s.anyPoison (pa / 4 * 4) d = false →
          ∃ u ws, exec (.domainRequest h0 h1 v t lk ok (.store d w)) s = .next u ∧ u.outbox = s.outbox ++ [(spkg, ws)] ∧ ws.getD 5 0 = 0 ∧
            u.homeRead pa d = w.toNat % 256 ^ d ∧
            (cls = 0 → ws.getD 3 0 = maxW t ((s.hcLine (pa / 128)).rts + 1) ∧ u.hcLine (pa / 128) = ⟨ws.getD 3 0, ws.getD 3 0⟩) ∧
            ∀ a, a < pa ∨ pa + d ≤ a → u.byteAt a = s.byteAt a)) ∧
      (∀ d,
        let r := (s.core (m % 32)).ring 3
        d.length = 16 → r.v = true → r.lines = 1 → (∀ a, (s.core (m % 32)).windowOf a = none) → (s.routePort spkg (m % 32 / 4) 0).isSome = true →
        (r.takes 1 = true → ∃ u ws, exec (.domainRequest h0 h1 v t lk ok (.proxy (m % 32) 3 1 d)) s = .next u ∧
          u.outbox = s.outbox ++ [(spkg, ws)] ∧ ws.getD 8 0 = 1 ∧ ((u.core (m % 32)).ring 3).filled = r.filled + 1) ∧
        (r.takes 1 = false → ∃ u ws, exec (.domainRequest h0 h1 v t lk ok (.proxy (m % 32) 3 1 d)) s = .next u ∧
          u.outbox = s.outbox ++ [(spkg, ws)] ∧ ws.getD 8 0 = 0 ∧ u.cores = s.cores))) ∧
    (∀ fl, n < 18 → (s.link n).asked = false → ∃ u ws, exec (.linkUnitReceive n v fl false) s = .next u ∧
      u.outbox = s.outbox ++ [(64 + n, ws)] ∧ ws.getD 7 0 = (s.link n).expect.setWidth 64 ∧ (u.link n).asked = true ∧
      (u.link n).expect = (s.link n).expect) ∧
    (∀ fl, n < 18 → v.getLsbD 36 = false → BitVec.ofNat 12 (wbits v 52 12) = (s.link n).expect →
      ∃ u, exec (.linkUnitReceive n v fl true) s = .next u ∧ (u.link n).expect = (s.link n).expect + 1 ∧ (u.link n).asked = false) ∧
    (∀ a r, n < 18 → (s.link n).replay = a ++ r → r ≠ [] → (∀ q ∈ a, q.seq.toNat ≠ m) → (r.head?.map (fun q => q.seq.toNat) = some m) →
      ∃ u, exec (.replayRequest n m) s = .next u ∧ (u.link n).resend = r ∧ (u.link n).replay = (s.link n).replay ∧
        (s.linkReady n = true → (u.link n).units.length = (s.link n).units.length + r.length)) ∧
    (n < 18 → ∃ u, exec (.linkRetrain n) s = .next u ∧ u.rdy0.getLsbD (18 + n) = false ∧ u.link n = s.link n ∧
      ∀ i, i ≠ 18 + n → u.rdy0.getLsbD i = s.rdy0.getLsbD i) ∧
    (n < 18 → s.rdy0.getLsbD 16 = false → exec (.linkTrainingEnd n true) s = .next s) ∧
    (n < 18 → s.rdy0.getLsbD 16 = true → ∃ u, exec (.linkTrainingEnd n true) s = .next u ∧ u.rdy0.getLsbD (18 + n) = true ∧ (u.link n).resend = (s.link n).replay ∧
      u.records = s.records) ∧
    (n < 18 → (∀ q ∈ (s.point (210 + n)).pkts, q.vc ≠ 0 ∧ q.ring = false) →
      ∃ u, exec (.linkTrainingEnd n false) s = .next u ∧ u.rdy0.getLsbD (18 + n) = false ∧
        u.records.length = s.records.length + 1 ∧ (u.point (210 + n)).pkts = [] ∧ ∀ p ∈ u.mcs, p.mask.getLsbD (8 + n) = false) ∧
    (∀ data : List Byte, s.rdy0.getLsbD 17 = true → n < 4 → m + data.length ≤ 2 ^ 47 →
      (∃ u, exec (.ethernetFrame n true m data) s = .next u ∧ (∀ i, i < data.length → u.byteAt (m + i) = data.getD i 0) ∧
        ∀ a, a < m ∨ m + data.length ≤ a → u.byteAt a = s.byteAt a) ∧
      (∃ u fr, exec (.ethernetFrame n false m data) s = .next u ∧ u.ethOut = s.ethOut ++ [(n, fr)] ∧ u.mem = s.mem ∧
        fr.length = data.length ∧ ∀ i, i < data.length → fr.getD i 0 = s.byteAt (m + i)))

/-- The switch: a copy is placed at the cores of its branch, or leaves on a port with credit (R388); a delivery fills the next slot of its ring, or is
dropped and counted where the ring refuses it or after 4,096 cc (R389); a contribution waits at its place for the others, and one for no combining group of its function, or a result that PARENT has not sent, is
discarded (R388, R390, R392); a result that lands fills its slot, with ABANDONED for an abandoned instance (R392, R393, R400). -/
def Obligations.SwitchForwardsAndCombines : Prop :=
  (∀ (s : State) (p : McPkt) (b : Nat), s.mcs = [p] → p.mask.getLsbD b = true →
    (∀ d r, b < 8 → s.branchCores p b = d :: r → ∃ u q, exec (.multicastForward 0 b) s = .next u ∧ u.mcs = [q] ∧
      q.mask = clearBit p.mask b ∧ q.deliver = p.deliver ++ (s.branchCores p b).map (fun d => (d, s.cc))) ∧
    (8 ≤ b → (s.point (202 + b)).pkts = [] → (s.portCredit (b - 8) (if p.res.isSome then 2 else 0) p.flits = false → exec (.multicastForward 0 b) s = .next s) ∧
      (s.portCredit (b - 8) (if p.res.isSome then 2 else 0) p.flits = true →
        ∃ u ws, exec (.multicastForward 0 b) s = .next u ∧ u.outbox = s.outbox ++ [(64 + (b - 8), ws)] ∧
          ∀ q ∈ u.mcs, q.mask.getLsbD b = false))) ∧
  (∀ (s : State) (p : McPkt) (c t0 : Nat), s.mcs = [p] → p.deliver = [(c, t0)] → p.res = none →
    let r := (s.core c).ring p.ring
    (ringRefuses r p = true → ∃ u, exec (.multicastDelivery c 0) s = .next u ∧
      (u.shed (c / 4)).mcDrop = (s.shed (c / 4)).mcDrop + 1 ∧ u.cores = s.cores) ∧
    (ringRefuses r p = false → r.takes 1 = true → ∃ u, exec (.multicastDelivery c 0) s = .next u ∧
      (u.core c).ring p.ring = { r with tail := (r.tail + 1) % r.slots, filled := r.filled + 1 }) ∧
    (ringRefuses r p = false → r.takes 1 = false → exec (.multicastDelivery c 0) s = .next s) ∧
    (s.cc < t0 + 4096 → exec (.multicastDropTimeout c 0) s = .next s) ∧
    (r.takes 1 = true → exec (.multicastDropTimeout c 0) s = .next s) ∧
    (t0 + 4096 ≤ s.cc → r.takes 1 = false → ∃ u, exec (.multicastDropTimeout c 0) s = .next u ∧
      (u.shed (c / 4)).mcDrop = (s.shed (c / 4)).mcDrop + 1 ∧ u.cores = s.cores)) ∧
  (∀ (s : State) (stop g num : Nat) (v : Contrib) (res abn : Bool) (h : Word), stop < 36 → g < 65536 → num < 65536 →
    (((s.group g).ok g && (s.group g).cmb && (s.group g).vf == wbits h 41 6) = false ∨ (res = true ∧ stop ≠ (s.group g).parent) →
      ∃ u, exec (.combineContribution stop g num ⟨v, res, abn, h⟩) s = .next u ∧ u.discards = s.discards + 1 ∧ u.places = s.places) ∧
    ((s.group g).ok g = true → (s.group g).cmb = true → (s.group g).vf = wbits h 41 6 → res = false → s.abandoned = [] →
      (s.group g).inmask.testBit (stopCode stop) = true → s.place g num = none →
      (∃ b, b < 26 ∧ (s.group g).inmask.testBit b = true ∧ codeStop b ≠ stop) →
      ∃ u p, exec (.combineContribution stop g num ⟨v, res, abn, h⟩) s = .next u ∧ u.place g num = some p ∧ p.num = num ∧
        Map.get none p.recv stop = some (v, s.cc))) ∧
  (∀ (s : State) (p : McPkt) (q : CmbPend) (c t0 : Nat) (v : Contrib) (t : Task), s.mcs = [p] → p.deliver = [(c, t0)] → p.res = some v →
    s.cmbs = [q] → q.core = c → q.group = p.group → q.num = p.num → q.slot < 16 → (s.core c).task = some t → t.stamp = q.stamp →
    (p.abn = false → ∀ ln, (s.core c).windowOf ln = none) →
    ∃ u, exec (.combineResultLand c 0) s = .next u ∧ u.cmbs = [] ∧
      FilledIn s u c q.slot (if p.abn then completion codeAbandoned 0
        else completion (if v.mis then codeFault else codeDone) ((if v.nanm then 1 else 0) + (if v.mis then 2 else 0))))

/-! ### The host and the tack -/

/-- A packet that is written into a doorbell window is enqueued (R418, R120), and one of a function that is not enabled is discarded. Requests of the mailbox
are answered with the status and payload of R417: information, firmware (R424, R425), a merge (R412), a reset (R414), a diagnostic read (R423) and
configuration (R421, R407); DENIED and BADREQ where R417 says so. -/
def Obligations.MailboxRequestsAreAnswered : Prop :=
  ∀ (s : State) (e : Nat),
    let f := s.func 0
    (∀ fn b q pk, s.enabled fn = false → ∃ u, exec (.doorbellWrite fn b q pk) s = .next u ∧ u.pdks = s.pdks ∧ u.mem = s.mem) ∧
    (∀ b q pk, b < 8 → q < 16 → (s.pdk b).valid = true → wbits (s.pdk b).pctl 60 2 = 0 →
      let d := (List.range 8).map (pktWord pk)
      pktCheck (s.pdk b) q d = none → ((s.pdk b).queue q).length < 64 → pktNset d = 0 →
      ∃ u, exec (.doorbellWrite 0 b q pk) s = .next u ∧ (u.pdk b).queue q = (s.pdk b).queue q ++ [⟨d, 0, none, [], s.cc⟩]) ∧
    (Asked s e 0x01 0 → ∃ u, exec (.info 0 e) s = .next u ∧ MbAnswered s u 0 e 0 ∧
      (u.func 0).mb e 2 = wnat (imageVersion (s.tack.slot s.tack.act)) ∧ (u.func 0).mb e 3 = s.tack.fwstat ∧
      (u.func 0).mb e 4 = s.rdy1Word) ∧
    (Asked s e 0x10 8 → (f.mbWord e 0).toNat % 8 = 0 → f.mbLen e ≤ 232 → ∃ u m, exec (.fwchunk 0 e) s = .next u ∧ MbAnswered s u 0 e 0 ∧
      u.tack.stage = some m ∧ ∀ i, i < f.mbLen e - 8 → (Map.get 0 m ((f.mbWord e 0).toNat + i)).toNat = f.mbByte e (8 + i)) ∧
    (Asked s e 0x11 0 →
      (imageValid s.tack.staged s.tack.arc = true → ∃ u, exec (.fwverify 0 e) s = .next u ∧ MbAnswered s u 0 e 0 ∧
        u.tack.valid = true ∧ u.tack.slot (! s.tack.act) = s.tack.staged ∧ u.tack.slot s.tack.act = s.tack.slot s.tack.act) ∧
      (imageValid s.tack.staged s.tack.arc = false → ∃ u, exec (.fwverify 0 e) s = .next u ∧ MbAnswered s u 0 e 7 ∧
        u.tack.slotA = s.tack.slotA ∧ u.tack.slotB = s.tack.slotB)) ∧
    (Asked s e 0x12 0 →
      (s.tack.valid = false → ∃ u, exec (.fwswap 0 e) s = .next u ∧ MbAnswered s u 0 e 7) ∧
      (s.tack.valid = true → ∃ u, exec (.fwswap 0 e) s = .next u ∧ u.tack.swapReq = true ∧ u.tack.swapWait = some (0, e) ∧
        u.tack.act = s.tack.act)) ∧
    (Asked s e 0x20 40 → f.mbByte e 0 < 8 → f.mbByte e 1 < 8 → f.mbByte e 0 ≠ f.mbByte e 1 → f.mbByte e 2 < 64 →
      ((s.pdk (f.mbByte e 0)).valid = false → ∃ u, exec (.merge 0 e) s = .next u ∧ MbAnswered s u 0 e 6) ∧
      ((s.pdk (f.mbByte e 0)).valid = true → (s.pdk (f.mbByte e 1)).valid = true →
        (∀ d, d < 8 → d ≠ f.mbByte e 0 → d ≠ f.mbByte e 1 → (s.pdk d).valid = true → (s.pdk d).number ≠ f.mbByte e 2) →
        ∃ u g, exec (.merge 0 e) s = .next u ∧ u.tack.merging = some g ∧ g.steps = 1 ∧ g.since = s.cc ∧
          wbits (u.pdk (f.mbByte e 0)).pctl 60 2 = 1 ∧ wbits (u.pdk (f.mbByte e 1)).pctl 60 2 = 1)) ∧
    (∀ g, s.tack.merging = some g → g.fn = 0 → g.e = e → g.steps = 1 → s.serving = true →
      (s.cc < g.since + 4800 → exec (.merge 0 e) s = .next s) ∧
      (∀ w, g.since + 4800 ≤ s.cc → s.mergeBusy g.a g.b = some w → ∃ u, exec (.merge 0 e) s = .next u ∧ MbAnswered s u 0 e 1 ∧
        (u.func 0).mb e 2 = w ∧ u.tack.merging = none)) ∧
    (Asked s e 0x21 1 → 0 < f.mbByte e 0 → f.mbByte e 0 < 64 → s.inReset (f.mbByte e 0) = false → s.serves (f.mbByte e 0) = false →
      ∃ u, exec (.vfreset 0 e) s = .next u ∧ MbAnswered s u 0 e 0 ∧
      (u.func (f.mbByte e 0)).ilpend = 0 ∧ (u.func (f.mbByte e 0)).ilsize = 4) ∧
    (Asked s e 0x30 24 → wbits (f.mbWord e 2) 0 5 = 1 → f.mbByte e 0 = 0 → f.mbWord e 1 = 0 → ∃ u, exec (.diagread 0 e) s = .next u ∧
      MbAnswered s u 0 e 0 ∧ (u.func 0).mb e 2 = s.rdy0) ∧
    (Asked s e 0x40 16 →
      (tackAddr (f.mbWord e 0).toNat = false → ∃ u, exec (.cfgwrite 0 e) s = .next u ∧ MbAnswered s u 0 e 6) ∧
      (f.mbWord e 0 = 0x100000 → ∃ u, exec (.cfgwrite 0 e) s = .next u ∧ MbAnswered s u 0 e 0 ∧
        u.timeout 0 = wbits (f.mbWord e 1) 0 32)) ∧
    (Asked s e 0x41 8 →
      (tackAddr (f.mbWord e 0).toNat = false → ∃ u, exec (.cfgread 0 e) s = .next u ∧ MbAnswered s u 0 e 6) ∧
      (tackAddr (f.mbWord e 0).toNat = true → ∃ u, exec (.cfgread 0 e) s = .next u ∧ MbAnswered s u 0 e 0 ∧
        (u.func 0).mb e 2 = s.tackRead (f.mbWord e 0).toNat)) ∧
    (Asked s e 0x50 9 →
      (ptpOk (f.mbByte e) = false → ∃ u, exec (.ptpcfg 0 e) s = .next u ∧ MbAnswered s u 0 e 6 ∧ u.tack.ptp = s.tack.ptp) ∧
      (ptpOk (f.mbByte e) = true → ∃ u, exec (.ptpcfg 0 e) s = .next u ∧ MbAnswered s u 0 e 0 ∧
        ∀ i, i < 9 → Map.get 0 u.tack.ptp i = wnat (f.mbByte e i))) ∧
    (∀ fn, s.nextReq fn e = true → s.tack.noImage = false →
      (mbCode ((s.func fn).mb e 0) = 0x77 → ∃ u, exec (.unknownMailboxCode fn e) s = .next u ∧ MbAnswered s u fn e 6) ∧
      (mbCode ((s.func fn).mb e 0) = 0x12 → fn ≠ 0 → ∃ u, exec (.unknownMailboxCode fn e) s = .next u ∧ MbAnswered s u fn e 5)) ∧
    (∀ fn, s.enabled fn = true → e < mbEntries fn → mbGo ((s.func fn).mb e 0) = false → (s.func fn).notices = [] →
      ∃ u, exec (.mailboxDoneClear fn e) s = .next u ∧ (u.func fn).mb e 0 = (s.func fn).mb e 0 &&& ~~~ (wnat (2 ^ 62)))

/-- The tack processors: a write of the heartbeat register ends its watch (R420); a swap starts the other slot's image on trial at a quiesce point, a COMMIT
ends the trial and takes the image's counter, and a trial that runs out ends in the previous slot (R425); a read of `tack.dwdata` steps INDEX (R420); a
unit that is ready sets its bit, and a fused-off core never does (R422). A word that no encoding assigns raises ILL with the word (R49), and a fetch that
fails its translation's cause with the pc (R16). -/
def Obligations.FirmwareSwapsAndUnitsBecomeReady : Prop :=
  ∀ (s : State) (n : Nat) (v : Word) (w : Code),
    (∃ u, exec .tackHbeatWrite s = .next u ∧ u.tack.hbeatAt = s.cc ∧ (∀ h ∈ u.watches, h.kind ≠ 6) ∧
      ∀ h ∈ s.watches, h.kind ≠ 6 → h ∈ u.watches) ∧
    (∃ u, exec .fwctlSwap s = .next u ∧ u.tack.swapReq = (s.tack.swapReq || s.tack.valid) ∧ u.tack.act = s.tack.act) ∧
    (s.tack.swapReq = false → exec .firmwareHandover s = .next s) ∧
    (s.tack.swapReq = true → s.tack.merging = none → ∃ u, exec .firmwareHandover s = .next u ∧ u.tack.act = (! s.tack.act) ∧
      u.tack.trial = true ∧ u.tack.oldSlot = some s.tack.act ∧ u.tack.trialAt = s.cc ∧ u.tack.swapReq = false ∧
      ∀ fn e, s.tack.swapWait = some (fn, e) → MbAnswered s u fn e 0) ∧
    (s.tack.trial = false → exec .fwctlCommit s = .next s) ∧
    (s.tack.trialAt + 2400000000 ≤ s.cc → exec .fwctlCommit s = .next s) ∧
    (s.tack.trial = true → s.cc < s.tack.trialAt + 2400000000 → ∃ u, exec .fwctlCommit s = .next u ∧ u.tack.trial = false ∧
      u.tack.arc = imageArc (s.tack.slot s.tack.act) ∧ u.tack.act = s.tack.act) ∧
    (s.cc < s.tack.trialAt + 2400000000 → exec .trialTimeout s = .next s) ∧
    (∀ b, s.tack.trial = true → s.tack.oldSlot = some b → s.tack.trialAt + 2400000000 ≤ s.cc →
      ∃ u, exec .trialTimeout s = .next u ∧ u.tack.act = b ∧ u.tack.trial = false ∧ u.tack.arc = s.tack.arc) ∧
    (∀ b l, s.tack.dwKeep = some (b, l) → ∃ u, exec .dwdataRead s = .next u ∧ u.tack.dwOut = l.getD (s.tack.dwIndex.toNat - b) 0 ∧
      u.tack.dwIndex = s.tack.dwIndex + 1) ∧
    (∀ r, s.tack.dwKeep = none → s.window s.tack.dwUnit.toNat s.tack.dwIndex.toNat = some r → ∃ u, exec .dwdataRead s = .next u ∧ u.tack.dwOut = r ∧
      u.tack.dwIndex = s.tack.dwIndex + 1) ∧
    (∃ u, exec (.registerWrite 1 0x7c2 v) s = .next u ∧ u.tackCsrRead 0x7c2 = v ∧ u.tack.hbeatAt = s.cc) ∧
    (∃ u, exec (.registerWrite 1 0x7c5 v) s = .next u ∧ u.tack.tminc = v.setWidth 48 ∧ u.time = s.time) ∧
    (tackAddr n = false → exec (.registerWrite 0 n v) s = .next s) ∧
    (∃ u, exec (.registerWrite 0 0x100000 v) s = .next u ∧ u.timeout 0 = wbits v 0 32) ∧
    (n ≠ 16 → s.rdy0.getLsbD 16 = false → exec (.unitReady n) s = .next s) ∧
    (n < 36 → (n = 16 ∨ s.rdy0.getLsbD 16 = true) → ∃ u, exec (.unitReady n) s = .next u ∧ u.rdy0.getLsbD n = true ∧
      ∀ i, i ≠ n → u.rdy0.getLsbD i = s.rdy0.getLsbD i) ∧
    (64 ≤ n → n < 96 → s.rdy0.getLsbD 16 = true → ∃ u, exec (.unitReady n) s = .next u ∧
      u.rdy1 = s.rdy1 ||| (BitVec.ofNat 32 (2 ^ (n - 64)) &&& s.fuses)) ∧
    exec (.illegalWord w) s = .next (s.raised Cause.ill (w.setWidth 64)) ∧
    (∀ cz, s.translate s.cur.1 s.now.pc .exec (s.now.pl = 0) = .bad cz → exec .fetchFault s = .next (s.raised cz s.now.pc)) ∧
    (∀ pa cls, s.translate s.cur.1 s.now.pc .exec (s.now.pl = 0) = .ok (.phys pa cls true) →
      exec .fetchFault s = .next (if (s.readView s.cur.1 s.cur.2 pa 4 false).2 then s.raised Cause.ecc s.now.pc else s))
end

