-- ==== Sys2Proof/Laws/Maps.lean ====
section
/-!
SUPPORT. Indexed data: what a written index reads, what a write leaves alone, and that a write keeps the canonical form.
-/
namespace Sys2Proof.Machine

variable {α : Type}

@[simp] theorem Map.get_nil (d : α) (k : Nat) : Map.get d [] k = d := rfl

theorem Map.get_cons (d : α) (j : Nat) (v : α) (r : Map α) (k : Nat) :
    Map.get d ((j, v) :: r) k = if j = k then v else Map.get d r k := rfl

@[simp] theorem Map.get_erase_self (d : α) (m : Map α) (k : Nat) : Map.get d (Map.erase m k) k = d := by
  induction m with
  | nil => rfl
  | cons p r ih =>
    obtain ⟨j, v⟩ := p
    by_cases h : j = k
    · simp [Map.erase, h, ih]
    · simp [Map.erase, h, Map.get_cons, ih]

theorem Map.get_erase_ne (d : α) (m : Map α) {k a : Nat} (h : a ≠ k) : Map.get d (Map.erase m k) a = Map.get d m a := by
  induction m with
  | nil => rfl
  | cons p r ih =>
    obtain ⟨j, v⟩ := p
    by_cases hj : j = k
    · subst hj; simp [Map.erase, Map.get_cons, ih, Ne.symm h]
    · simp [Map.erase, hj, Map.get_cons, ih]

@[simp] theorem Map.get_insert_self (d : α) (m : Map α) (k : Nat) (v : α) :
    Map.get d (Map.insert (Map.erase m k) k v) k = v := by
  induction m with
  | nil => simp [Map.erase, Map.insert, Map.get_cons]
  | cons p r ih =>
    obtain ⟨j, u⟩ := p
    by_cases hj : j = k
    · simpa [Map.erase, hj] using ih
    · by_cases hlt : k < j
      · simp [Map.erase, hj, Map.insert, hlt, Map.get_cons]
      · simp [Map.erase, hj, Map.insert, hlt, Map.get_cons, ih]

theorem Map.get_insert_ne (d : α) (m : Map α) {k a : Nat} (v : α) (h : a ≠ k) :
    Map.get d (Map.insert m k v) a = Map.get d m a := by
  induction m with
  | nil => simp [Map.insert, Map.get_cons, Ne.symm h]
  | cons p r ih =>
    obtain ⟨j, u⟩ := p
    by_cases hlt : k < j
    · simp [Map.insert, hlt, Map.get_cons, Ne.symm h]
    · simp [Map.insert, hlt, Map.get_cons, ih]

variable [DecidableEq α]

/-- An index that is written reads what was written. -/
@[simp] theorem Map.get_set_self (d : α) (m : Map α) (k : Nat) (v : α) : Map.get d (Map.set d m k v) k = v := by
  unfold Map.set
  by_cases h : v = d
  · simp [h]
  · simp [h]

/-- A write leaves every other index alone. -/
theorem Map.get_set_ne (d : α) (m : Map α) {k a : Nat} (v : α) (h : a ≠ k) :
    Map.get d (Map.set d m k v) a = Map.get d m a := by
  unfold Map.set
  by_cases hv : v = d
  · simp [hv, Map.get_erase_ne d m h]
  · simp [hv, Map.get_insert_ne d _ v h, Map.get_erase_ne d m h]

theorem Map.get_set (d : α) (m : Map α) (k a : Nat) (v : α) :
    Map.get d (Map.set d m k v) a = if a = k then v else Map.get d m a := by
  by_cases h : a = k
  · subst h; simp
  · simp [h, Map.get_set_ne d m v h]

@[simp] theorem Map.get_upd_self (d : α) (m : Map α) (k : Nat) (f : α → α) :
    Map.get d (Map.upd d m k f) k = f (Map.get d m k) := by simp [Map.upd]

theorem Map.get_upd_ne (d : α) (m : Map α) {k a : Nat} (f : α → α) (h : a ≠ k) :
    Map.get d (Map.upd d m k f) a = Map.get d m a := by simp [Map.upd, Map.get_set_ne d m _ h]

omit [DecidableEq α] in
theorem Map.mem_erase {m : Map α} {k : Nat} {p : Nat × α} (h : p ∈ Map.erase m k) : p ∈ m ∧ p.1 ≠ k := by
  induction m with
  | nil => simp [Map.erase] at h
  | cons q r ih =>
    obtain ⟨j, v⟩ := q
    by_cases hj : j = k
    · simp only [Map.erase, hj, if_true] at h
      exact ⟨List.mem_cons_of_mem _ (ih h).1, (ih h).2⟩
    · simp only [Map.erase, hj, if_false, List.mem_cons] at h
      rcases h with rfl | h
      · exact ⟨by simp, hj⟩
      · exact ⟨List.mem_cons_of_mem _ (ih h).1, (ih h).2⟩

omit [DecidableEq α] in
theorem Map.mem_insert {m : Map α} {k : Nat} {v : α} {p : Nat × α} (h : p ∈ Map.insert m k v) : p ∈ m ∨ p = (k, v) := by
  induction m with
  | nil => simp [Map.insert] at h; exact .inr h
  | cons q r ih =>
    obtain ⟨j, u⟩ := q
    by_cases hj : k < j
    · simp only [Map.insert, hj, if_true, List.mem_cons] at h
      rcases h with rfl | rfl | h
      · exact .inr rfl
      · exact .inl (by simp)
      · exact .inl (List.mem_cons_of_mem _ h)
    · simp only [Map.insert, hj, if_false, List.mem_cons] at h
      rcases h with rfl | h
      · exact .inl (by simp)
      · exact (ih h).imp (List.mem_cons_of_mem _) id

omit [DecidableEq α] in
theorem Map.erase_wf (d : α) {m : Map α} (h : Map.wf d m) (k : Nat) : Map.wf d (Map.erase m k) := by
  refine ⟨?_, fun p hp => h.2 p (Map.mem_erase hp).1⟩
  replace h := h.1
  induction m with
  | nil => simp [Map.erase]
  | cons q r ih =>
    obtain ⟨j, v⟩ := q
    rw [List.pairwise_cons] at h
    by_cases hj : j = k
    · simpa [Map.erase, hj] using ih h.2
    · simp only [Map.erase, hj, if_false, List.pairwise_cons]
      exact ⟨fun p hp => h.1 p (Map.mem_erase hp).1, ih h.2⟩

omit [DecidableEq α] in
theorem Map.insert_wf (d : α) {m : Map α} (h : Map.wf d m) {k : Nat} {v : α} (hv : v ≠ d) (hk : ∀ p ∈ m, p.1 ≠ k) :
    Map.wf d (Map.insert m k v) := by
  refine ⟨?_, fun p hp => ?_⟩
  · replace h := h.1
    induction m with
    | nil => simp [Map.insert]
    | cons q r ih =>
      obtain ⟨j, u⟩ := q
      rw [List.pairwise_cons] at h
      by_cases hj : k < j
      · simp only [Map.insert, hj, if_true, List.pairwise_cons]
        refine ⟨fun p hp => ?_, fun p hp => h.1 p hp, h.2⟩
        rcases List.mem_cons.1 hp with rfl | hp
        · exact hj
        · exact Nat.lt_trans hj (h.1 p hp)
      · simp only [Map.insert, hj, if_false, List.pairwise_cons]
        have hjk : j ≠ k := hk (j, u) (by simp)
        refine ⟨fun p hp => ?_, ih (fun p hp => hk p (List.mem_cons_of_mem _ hp)) h.2⟩
        rcases Map.mem_insert hp with hp | rfl
        · exact h.1 p hp
        · show j < k; omega
  · rcases Map.mem_insert hp with hp | rfl
    · exact h.2 p hp
    · exact hv

/-- A write keeps the canonical form. -/
theorem Map.set_wf (d : α) {m : Map α} (h : Map.wf d m) (k : Nat) (v : α) : Map.wf d (Map.set d m k v) := by
  unfold Map.set
  by_cases hv : v = d
  · simpa [hv] using Map.erase_wf d h k
  · simpa only [hv, if_false] using Map.insert_wf d (Map.erase_wf d h k) hv (fun p hp => (Map.mem_erase hp).2)

theorem Map.upd_wf (d : α) {m : Map α} (h : Map.wf d m) (k : Nat) (f : α → α) : Map.wf d (Map.upd d m k f) :=
  Map.set_wf d h k _

omit [DecidableEq α] in
theorem Map.nil_wf (d : α) : Map.wf d ([] : Map α) := by simp [Map.wf]

end Sys2Proof.Machine
end

