-- ==== Sys2Proof/Laws/State.lean ====
section
/-!
SUPPORT. What each update of the state leaves: one lemma per field and update, and what the units that were written read.
-/
namespace Sys2Proof.Machine

variable (s : State) (k : Core) (t : Ctx)

/-! `State.setCore` -/
@[simp] theorem State.setCore_agenda (c : Nat) (k : Core) : (s.setCore c k).agenda = s.agenda := rfl
@[simp] theorem State.setCore_cur (c : Nat) (k : Core) : (s.setCore c k).cur = s.cur := rfl
@[simp] theorem State.setCore_ran (c : Nat) (k : Core) : (s.setCore c k).ran = s.ran := rfl
@[simp] theorem State.setCore_free (c : Nat) (k : Core) : (s.setCore c k).free = s.free := rfl
@[simp] theorem State.setCore_cc (c : Nat) (k : Core) : (s.setCore c k).cc = s.cc := rfl
@[simp] theorem State.setCore_time (c : Nat) (k : Core) : (s.setCore c k).time = s.time := rfl
@[simp] theorem State.setCore_timeHold (c : Nat) (k : Core) : (s.setCore c k).timeHold = s.timeHold := rfl
@[simp] theorem State.setCore_timeStep (c : Nat) (k : Core) : (s.setCore c k).timeStep = s.timeStep := rfl
@[simp] theorem State.setCore_pkg (c : Nat) (k : Core) : (s.setCore c k).pkg = s.pkg := rfl
@[simp] theorem State.setCore_mem (c : Nat) (k : Core) : (s.setCore c k).mem = s.mem := rfl
@[simp] theorem State.setCore_poison (c : Nat) (k : Core) : (s.setCore c k).poison = s.poison := rfl
@[simp] theorem State.setCore_hc (c : Nat) (k : Core) : (s.setCore c k).hc = s.hc := rfl
@[simp] theorem State.setCore_hostHc (c : Nat) (k : Core) : (s.setCore c k).hostHc = s.hostHc := rfl
@[simp] theorem State.setCore_hostFloor (c : Nat) (k : Core) : (s.setCore c k).hostFloor = s.hostFloor := rfl
@[simp] theorem State.setCore_lots (c : Nat) (k : Core) : (s.setCore c k).lots = s.lots := rfl
@[simp] theorem State.setCore_lotReqs (c : Nat) (k : Core) : (s.setCore c k).lotReqs = s.lotReqs := rfl
@[simp] theorem State.setCore_lotTs (c : Nat) (k : Core) : (s.setCore c k).lotTs = s.lotTs := rfl
@[simp] theorem State.setCore_engs (c : Nat) (k : Core) : (s.setCore c k).engs = s.engs := rfl
@[simp] theorem State.setCore_reqs (c : Nat) (k : Core) : (s.setCore c k).reqs = s.reqs := rfl
@[simp] theorem State.setCore_toks (c : Nat) (k : Core) : (s.setCore c k).toks = s.toks := rfl
@[simp] theorem State.setCore_cmbs (c : Nat) (k : Core) : (s.setCore c k).cmbs = s.cmbs := rfl
@[simp] theorem State.setCore_pdks (c : Nat) (k : Core) : (s.setCore c k).pdks = s.pdks := rfl
@[simp] theorem State.setCore_launches (c : Nat) (k : Core) : (s.setCore c k).launches = s.launches := rfl
@[simp] theorem State.setCore_nextLaunch (c : Nat) (k : Core) : (s.setCore c k).nextLaunch = s.nextLaunch := rfl
@[simp] theorem State.setCore_funcs (c : Nat) (k : Core) : (s.setCore c k).funcs = s.funcs := rfl
@[simp] theorem State.setCore_sheds (c : Nat) (k : Core) : (s.setCore c k).sheds = s.sheds := rfl
@[simp] theorem State.setCore_mcs (c : Nat) (k : Core) : (s.setCore c k).mcs = s.mcs := rfl
@[simp] theorem State.setCore_places (c : Nat) (k : Core) : (s.setCore c k).places = s.places := rfl
@[simp] theorem State.setCore_abandoned (c : Nat) (k : Core) : (s.setCore c k).abandoned = s.abandoned := rfl
@[simp] theorem State.setCore_discards (c : Nat) (k : Core) : (s.setCore c k).discards = s.discards := rfl
@[simp] theorem State.setCore_points (c : Nat) (k : Core) : (s.setCore c k).points = s.points := rfl
@[simp] theorem State.setCore_exitUse (c : Nat) (k : Core) : (s.setCore c k).exitUse = s.exitUse := rfl
@[simp] theorem State.setCore_farReqs (c : Nat) (k : Core) : (s.setCore c k).farReqs = s.farReqs := rfl
@[simp] theorem State.setCore_cause (c : Nat) (k : Core) : (s.setCore c k).cause = s.cause := rfl
@[simp] theorem State.setCore_links (c : Nat) (k : Core) : (s.setCore c k).links = s.links := rfl
@[simp] theorem State.setCore_groups (c : Nat) (k : Core) : (s.setCore c k).groups = s.groups := rfl
@[simp] theorem State.setCore_routes (c : Nat) (k : Core) : (s.setCore c k).routes = s.routes := rfl
@[simp] theorem State.setCore_slotAct (c : Nat) (k : Core) : (s.setCore c k).slotAct = s.slotAct := rfl
@[simp] theorem State.setCore_slotStg (c : Nat) (k : Core) : (s.setCore c k).slotStg = s.slotStg := rfl
@[simp] theorem State.setCore_cells (c : Nat) (k : Core) : (s.setCore c k).cells = s.cells := rfl
@[simp] theorem State.setCore_fuses (c : Nat) (k : Core) : (s.setCore c k).fuses = s.fuses := rfl
@[simp] theorem State.setCore_rdy0 (c : Nat) (k : Core) : (s.setCore c k).rdy0 = s.rdy0 := rfl
@[simp] theorem State.setCore_rdy1 (c : Nat) (k : Core) : (s.setCore c k).rdy1 = s.rdy1 := rfl
@[simp] theorem State.setCore_watches (c : Nat) (k : Core) : (s.setCore c k).watches = s.watches := rfl
@[simp] theorem State.setCore_records (c : Nat) (k : Core) : (s.setCore c k).records = s.records := rfl
@[simp] theorem State.setCore_farrier (c : Nat) (k : Core) : (s.setCore c k).farrier = s.farrier := rfl
@[simp] theorem State.setCore_farCnt (c : Nat) (k : Core) : (s.setCore c k).farCnt = s.farCnt := rfl
@[simp] theorem State.setCore_corrected (c : Nat) (k : Core) : (s.setCore c k).corrected = s.corrected := rfl
@[simp] theorem State.setCore_tack (c : Nat) (k : Core) : (s.setCore c k).tack = s.tack := rfl
@[simp] theorem State.setCore_outbox (c : Nat) (k : Core) : (s.setCore c k).outbox = s.outbox := rfl
@[simp] theorem State.setCore_ethOut (c : Nat) (k : Core) : (s.setCore c k).ethOut = s.ethOut := rfl

/-! `State.updCore` -/
@[simp] theorem State.updCore_agenda (c : Nat) (f : Core → Core) : (s.updCore c f).agenda = s.agenda := rfl
@[simp] theorem State.updCore_cur (c : Nat) (f : Core → Core) : (s.updCore c f).cur = s.cur := rfl
@[simp] theorem State.updCore_ran (c : Nat) (f : Core → Core) : (s.updCore c f).ran = s.ran := rfl
@[simp] theorem State.updCore_free (c : Nat) (f : Core → Core) : (s.updCore c f).free = s.free := rfl
@[simp] theorem State.updCore_cc (c : Nat) (f : Core → Core) : (s.updCore c f).cc = s.cc := rfl
@[simp] theorem State.updCore_time (c : Nat) (f : Core → Core) : (s.updCore c f).time = s.time := rfl
@[simp] theorem State.updCore_timeHold (c : Nat) (f : Core → Core) : (s.updCore c f).timeHold = s.timeHold := rfl
@[simp] theorem State.updCore_timeStep (c : Nat) (f : Core → Core) : (s.updCore c f).timeStep = s.timeStep := rfl
@[simp] theorem State.updCore_pkg (c : Nat) (f : Core → Core) : (s.updCore c f).pkg = s.pkg := rfl
@[simp] theorem State.updCore_mem (c : Nat) (f : Core → Core) : (s.updCore c f).mem = s.mem := rfl
@[simp] theorem State.updCore_poison (c : Nat) (f : Core → Core) : (s.updCore c f).poison = s.poison := rfl
@[simp] theorem State.updCore_hc (c : Nat) (f : Core → Core) : (s.updCore c f).hc = s.hc := rfl
@[simp] theorem State.updCore_hostHc (c : Nat) (f : Core → Core) : (s.updCore c f).hostHc = s.hostHc := rfl
@[simp] theorem State.updCore_hostFloor (c : Nat) (f : Core → Core) : (s.updCore c f).hostFloor = s.hostFloor := rfl
@[simp] theorem State.updCore_lots (c : Nat) (f : Core → Core) : (s.updCore c f).lots = s.lots := rfl
@[simp] theorem State.updCore_lotReqs (c : Nat) (f : Core → Core) : (s.updCore c f).lotReqs = s.lotReqs := rfl
@[simp] theorem State.updCore_lotTs (c : Nat) (f : Core → Core) : (s.updCore c f).lotTs = s.lotTs := rfl
@[simp] theorem State.updCore_engs (c : Nat) (f : Core → Core) : (s.updCore c f).engs = s.engs := rfl
@[simp] theorem State.updCore_reqs (c : Nat) (f : Core → Core) : (s.updCore c f).reqs = s.reqs := rfl
@[simp] theorem State.updCore_toks (c : Nat) (f : Core → Core) : (s.updCore c f).toks = s.toks := rfl
@[simp] theorem State.updCore_cmbs (c : Nat) (f : Core → Core) : (s.updCore c f).cmbs = s.cmbs := rfl
@[simp] theorem State.updCore_pdks (c : Nat) (f : Core → Core) : (s.updCore c f).pdks = s.pdks := rfl
@[simp] theorem State.updCore_launches (c : Nat) (f : Core → Core) : (s.updCore c f).launches = s.launches := rfl
@[simp] theorem State.updCore_nextLaunch (c : Nat) (f : Core → Core) : (s.updCore c f).nextLaunch = s.nextLaunch := rfl
@[simp] theorem State.updCore_funcs (c : Nat) (f : Core → Core) : (s.updCore c f).funcs = s.funcs := rfl
@[simp] theorem State.updCore_sheds (c : Nat) (f : Core → Core) : (s.updCore c f).sheds = s.sheds := rfl
@[simp] theorem State.updCore_mcs (c : Nat) (f : Core → Core) : (s.updCore c f).mcs = s.mcs := rfl
@[simp] theorem State.updCore_places (c : Nat) (f : Core → Core) : (s.updCore c f).places = s.places := rfl
@[simp] theorem State.updCore_abandoned (c : Nat) (f : Core → Core) : (s.updCore c f).abandoned = s.abandoned := rfl
@[simp] theorem State.updCore_discards (c : Nat) (f : Core → Core) : (s.updCore c f).discards = s.discards := rfl
@[simp] theorem State.updCore_points (c : Nat) (f : Core → Core) : (s.updCore c f).points = s.points := rfl
@[simp] theorem State.updCore_exitUse (c : Nat) (f : Core → Core) : (s.updCore c f).exitUse = s.exitUse := rfl
@[simp] theorem State.updCore_farReqs (c : Nat) (f : Core → Core) : (s.updCore c f).farReqs = s.farReqs := rfl
@[simp] theorem State.updCore_cause (c : Nat) (f : Core → Core) : (s.updCore c f).cause = s.cause := rfl
@[simp] theorem State.updCore_links (c : Nat) (f : Core → Core) : (s.updCore c f).links = s.links := rfl
@[simp] theorem State.updCore_groups (c : Nat) (f : Core → Core) : (s.updCore c f).groups = s.groups := rfl
@[simp] theorem State.updCore_routes (c : Nat) (f : Core → Core) : (s.updCore c f).routes = s.routes := rfl
@[simp] theorem State.updCore_slotAct (c : Nat) (f : Core → Core) : (s.updCore c f).slotAct = s.slotAct := rfl
@[simp] theorem State.updCore_slotStg (c : Nat) (f : Core → Core) : (s.updCore c f).slotStg = s.slotStg := rfl
@[simp] theorem State.updCore_cells (c : Nat) (f : Core → Core) : (s.updCore c f).cells = s.cells := rfl
@[simp] theorem State.updCore_fuses (c : Nat) (f : Core → Core) : (s.updCore c f).fuses = s.fuses := rfl
@[simp] theorem State.updCore_rdy0 (c : Nat) (f : Core → Core) : (s.updCore c f).rdy0 = s.rdy0 := rfl
@[simp] theorem State.updCore_rdy1 (c : Nat) (f : Core → Core) : (s.updCore c f).rdy1 = s.rdy1 := rfl
@[simp] theorem State.updCore_watches (c : Nat) (f : Core → Core) : (s.updCore c f).watches = s.watches := rfl
@[simp] theorem State.updCore_records (c : Nat) (f : Core → Core) : (s.updCore c f).records = s.records := rfl
@[simp] theorem State.updCore_farrier (c : Nat) (f : Core → Core) : (s.updCore c f).farrier = s.farrier := rfl
@[simp] theorem State.updCore_farCnt (c : Nat) (f : Core → Core) : (s.updCore c f).farCnt = s.farCnt := rfl
@[simp] theorem State.updCore_corrected (c : Nat) (f : Core → Core) : (s.updCore c f).corrected = s.corrected := rfl
@[simp] theorem State.updCore_tack (c : Nat) (f : Core → Core) : (s.updCore c f).tack = s.tack := rfl
@[simp] theorem State.updCore_outbox (c : Nat) (f : Core → Core) : (s.updCore c f).outbox = s.outbox := rfl
@[simp] theorem State.updCore_ethOut (c : Nat) (f : Core → Core) : (s.updCore c f).ethOut = s.ethOut := rfl

/-! `State.setCtx` -/
@[simp] theorem State.setCtx_agenda (c x : Nat) (t : Ctx) : (s.setCtx c x t).agenda = s.agenda := rfl
@[simp] theorem State.setCtx_cur (c x : Nat) (t : Ctx) : (s.setCtx c x t).cur = s.cur := rfl
@[simp] theorem State.setCtx_ran (c x : Nat) (t : Ctx) : (s.setCtx c x t).ran = s.ran := rfl
@[simp] theorem State.setCtx_free (c x : Nat) (t : Ctx) : (s.setCtx c x t).free = s.free := rfl
@[simp] theorem State.setCtx_cc (c x : Nat) (t : Ctx) : (s.setCtx c x t).cc = s.cc := rfl
@[simp] theorem State.setCtx_time (c x : Nat) (t : Ctx) : (s.setCtx c x t).time = s.time := rfl
@[simp] theorem State.setCtx_timeHold (c x : Nat) (t : Ctx) : (s.setCtx c x t).timeHold = s.timeHold := rfl
@[simp] theorem State.setCtx_timeStep (c x : Nat) (t : Ctx) : (s.setCtx c x t).timeStep = s.timeStep := rfl
@[simp] theorem State.setCtx_pkg (c x : Nat) (t : Ctx) : (s.setCtx c x t).pkg = s.pkg := rfl
@[simp] theorem State.setCtx_mem (c x : Nat) (t : Ctx) : (s.setCtx c x t).mem = s.mem := rfl
@[simp] theorem State.setCtx_poison (c x : Nat) (t : Ctx) : (s.setCtx c x t).poison = s.poison := rfl
@[simp] theorem State.setCtx_hc (c x : Nat) (t : Ctx) : (s.setCtx c x t).hc = s.hc := rfl
@[simp] theorem State.setCtx_hostHc (c x : Nat) (t : Ctx) : (s.setCtx c x t).hostHc = s.hostHc := rfl
@[simp] theorem State.setCtx_hostFloor (c x : Nat) (t : Ctx) : (s.setCtx c x t).hostFloor = s.hostFloor := rfl
@[simp] theorem State.setCtx_lots (c x : Nat) (t : Ctx) : (s.setCtx c x t).lots = s.lots := rfl
@[simp] theorem State.setCtx_lotReqs (c x : Nat) (t : Ctx) : (s.setCtx c x t).lotReqs = s.lotReqs := rfl
@[simp] theorem State.setCtx_lotTs (c x : Nat) (t : Ctx) : (s.setCtx c x t).lotTs = s.lotTs := rfl
@[simp] theorem State.setCtx_engs (c x : Nat) (t : Ctx) : (s.setCtx c x t).engs = s.engs := rfl
@[simp] theorem State.setCtx_reqs (c x : Nat) (t : Ctx) : (s.setCtx c x t).reqs = s.reqs := rfl
@[simp] theorem State.setCtx_toks (c x : Nat) (t : Ctx) : (s.setCtx c x t).toks = s.toks := rfl
@[simp] theorem State.setCtx_cmbs (c x : Nat) (t : Ctx) : (s.setCtx c x t).cmbs = s.cmbs := rfl
@[simp] theorem State.setCtx_pdks (c x : Nat) (t : Ctx) : (s.setCtx c x t).pdks = s.pdks := rfl
@[simp] theorem State.setCtx_launches (c x : Nat) (t : Ctx) : (s.setCtx c x t).launches = s.launches := rfl
@[simp] theorem State.setCtx_nextLaunch (c x : Nat) (t : Ctx) : (s.setCtx c x t).nextLaunch = s.nextLaunch := rfl
@[simp] theorem State.setCtx_funcs (c x : Nat) (t : Ctx) : (s.setCtx c x t).funcs = s.funcs := rfl
@[simp] theorem State.setCtx_sheds (c x : Nat) (t : Ctx) : (s.setCtx c x t).sheds = s.sheds := rfl
@[simp] theorem State.setCtx_mcs (c x : Nat) (t : Ctx) : (s.setCtx c x t).mcs = s.mcs := rfl
@[simp] theorem State.setCtx_places (c x : Nat) (t : Ctx) : (s.setCtx c x t).places = s.places := rfl
@[simp] theorem State.setCtx_abandoned (c x : Nat) (t : Ctx) : (s.setCtx c x t).abandoned = s.abandoned := rfl
@[simp] theorem State.setCtx_discards (c x : Nat) (t : Ctx) : (s.setCtx c x t).discards = s.discards := rfl
@[simp] theorem State.setCtx_points (c x : Nat) (t : Ctx) : (s.setCtx c x t).points = s.points := rfl
@[simp] theorem State.setCtx_exitUse (c x : Nat) (t : Ctx) : (s.setCtx c x t).exitUse = s.exitUse := rfl
@[simp] theorem State.setCtx_farReqs (c x : Nat) (t : Ctx) : (s.setCtx c x t).farReqs = s.farReqs := rfl
@[simp] theorem State.setCtx_cause (c x : Nat) (t : Ctx) : (s.setCtx c x t).cause = s.cause := rfl
@[simp] theorem State.setCtx_links (c x : Nat) (t : Ctx) : (s.setCtx c x t).links = s.links := rfl
@[simp] theorem State.setCtx_groups (c x : Nat) (t : Ctx) : (s.setCtx c x t).groups = s.groups := rfl
@[simp] theorem State.setCtx_routes (c x : Nat) (t : Ctx) : (s.setCtx c x t).routes = s.routes := rfl
@[simp] theorem State.setCtx_slotAct (c x : Nat) (t : Ctx) : (s.setCtx c x t).slotAct = s.slotAct := rfl
@[simp] theorem State.setCtx_slotStg (c x : Nat) (t : Ctx) : (s.setCtx c x t).slotStg = s.slotStg := rfl
@[simp] theorem State.setCtx_cells (c x : Nat) (t : Ctx) : (s.setCtx c x t).cells = s.cells := rfl
@[simp] theorem State.setCtx_fuses (c x : Nat) (t : Ctx) : (s.setCtx c x t).fuses = s.fuses := rfl
@[simp] theorem State.setCtx_rdy0 (c x : Nat) (t : Ctx) : (s.setCtx c x t).rdy0 = s.rdy0 := rfl
@[simp] theorem State.setCtx_rdy1 (c x : Nat) (t : Ctx) : (s.setCtx c x t).rdy1 = s.rdy1 := rfl
@[simp] theorem State.setCtx_watches (c x : Nat) (t : Ctx) : (s.setCtx c x t).watches = s.watches := rfl
@[simp] theorem State.setCtx_records (c x : Nat) (t : Ctx) : (s.setCtx c x t).records = s.records := rfl
@[simp] theorem State.setCtx_farrier (c x : Nat) (t : Ctx) : (s.setCtx c x t).farrier = s.farrier := rfl
@[simp] theorem State.setCtx_farCnt (c x : Nat) (t : Ctx) : (s.setCtx c x t).farCnt = s.farCnt := rfl
@[simp] theorem State.setCtx_corrected (c x : Nat) (t : Ctx) : (s.setCtx c x t).corrected = s.corrected := rfl
@[simp] theorem State.setCtx_tack (c x : Nat) (t : Ctx) : (s.setCtx c x t).tack = s.tack := rfl
@[simp] theorem State.setCtx_outbox (c x : Nat) (t : Ctx) : (s.setCtx c x t).outbox = s.outbox := rfl
@[simp] theorem State.setCtx_ethOut (c x : Nat) (t : Ctx) : (s.setCtx c x t).ethOut = s.ethOut := rfl

/-! `State.updCtx` -/
@[simp] theorem State.updCtx_agenda (c x : Nat) (f : Ctx → Ctx) : (s.updCtx c x f).agenda = s.agenda := rfl
@[simp] theorem State.updCtx_cur (c x : Nat) (f : Ctx → Ctx) : (s.updCtx c x f).cur = s.cur := rfl
@[simp] theorem State.updCtx_ran (c x : Nat) (f : Ctx → Ctx) : (s.updCtx c x f).ran = s.ran := rfl
@[simp] theorem State.updCtx_free (c x : Nat) (f : Ctx → Ctx) : (s.updCtx c x f).free = s.free := rfl
@[simp] theorem State.updCtx_cc (c x : Nat) (f : Ctx → Ctx) : (s.updCtx c x f).cc = s.cc := rfl
@[simp] theorem State.updCtx_time (c x : Nat) (f : Ctx → Ctx) : (s.updCtx c x f).time = s.time := rfl
@[simp] theorem State.updCtx_timeHold (c x : Nat) (f : Ctx → Ctx) : (s.updCtx c x f).timeHold = s.timeHold := rfl
@[simp] theorem State.updCtx_timeStep (c x : Nat) (f : Ctx → Ctx) : (s.updCtx c x f).timeStep = s.timeStep := rfl
@[simp] theorem State.updCtx_pkg (c x : Nat) (f : Ctx → Ctx) : (s.updCtx c x f).pkg = s.pkg := rfl
@[simp] theorem State.updCtx_mem (c x : Nat) (f : Ctx → Ctx) : (s.updCtx c x f).mem = s.mem := rfl
@[simp] theorem State.updCtx_poison (c x : Nat) (f : Ctx → Ctx) : (s.updCtx c x f).poison = s.poison := rfl
@[simp] theorem State.updCtx_hc (c x : Nat) (f : Ctx → Ctx) : (s.updCtx c x f).hc = s.hc := rfl
@[simp] theorem State.updCtx_hostHc (c x : Nat) (f : Ctx → Ctx) : (s.updCtx c x f).hostHc = s.hostHc := rfl
@[simp] theorem State.updCtx_hostFloor (c x : Nat) (f : Ctx → Ctx) : (s.updCtx c x f).hostFloor = s.hostFloor := rfl
@[simp] theorem State.updCtx_lots (c x : Nat) (f : Ctx → Ctx) : (s.updCtx c x f).lots = s.lots := rfl
@[simp] theorem State.updCtx_lotReqs (c x : Nat) (f : Ctx → Ctx) : (s.updCtx c x f).lotReqs = s.lotReqs := rfl
@[simp] theorem State.updCtx_lotTs (c x : Nat) (f : Ctx → Ctx) : (s.updCtx c x f).lotTs = s.lotTs := rfl
@[simp] theorem State.updCtx_engs (c x : Nat) (f : Ctx → Ctx) : (s.updCtx c x f).engs = s.engs := rfl
@[simp] theorem State.updCtx_reqs (c x : Nat) (f : Ctx → Ctx) : (s.updCtx c x f).reqs = s.reqs := rfl
@[simp] theorem State.updCtx_toks (c x : Nat) (f : Ctx → Ctx) : (s.updCtx c x f).toks = s.toks := rfl
@[simp] theorem State.updCtx_cmbs (c x : Nat) (f : Ctx → Ctx) : (s.updCtx c x f).cmbs = s.cmbs := rfl
@[simp] theorem State.updCtx_pdks (c x : Nat) (f : Ctx → Ctx) : (s.updCtx c x f).pdks = s.pdks := rfl
@[simp] theorem State.updCtx_launches (c x : Nat) (f : Ctx → Ctx) : (s.updCtx c x f).launches = s.launches := rfl
@[simp] theorem State.updCtx_nextLaunch (c x : Nat) (f : Ctx → Ctx) : (s.updCtx c x f).nextLaunch = s.nextLaunch := rfl
@[simp] theorem State.updCtx_funcs (c x : Nat) (f : Ctx → Ctx) : (s.updCtx c x f).funcs = s.funcs := rfl
@[simp] theorem State.updCtx_sheds (c x : Nat) (f : Ctx → Ctx) : (s.updCtx c x f).sheds = s.sheds := rfl
@[simp] theorem State.updCtx_mcs (c x : Nat) (f : Ctx → Ctx) : (s.updCtx c x f).mcs = s.mcs := rfl
@[simp] theorem State.updCtx_places (c x : Nat) (f : Ctx → Ctx) : (s.updCtx c x f).places = s.places := rfl
@[simp] theorem State.updCtx_abandoned (c x : Nat) (f : Ctx → Ctx) : (s.updCtx c x f).abandoned = s.abandoned := rfl
@[simp] theorem State.updCtx_discards (c x : Nat) (f : Ctx → Ctx) : (s.updCtx c x f).discards = s.discards := rfl
@[simp] theorem State.updCtx_points (c x : Nat) (f : Ctx → Ctx) : (s.updCtx c x f).points = s.points := rfl
@[simp] theorem State.updCtx_exitUse (c x : Nat) (f : Ctx → Ctx) : (s.updCtx c x f).exitUse = s.exitUse := rfl
@[simp] theorem State.updCtx_farReqs (c x : Nat) (f : Ctx → Ctx) : (s.updCtx c x f).farReqs = s.farReqs := rfl
@[simp] theorem State.updCtx_cause (c x : Nat) (f : Ctx → Ctx) : (s.updCtx c x f).cause = s.cause := rfl
@[simp] theorem State.updCtx_links (c x : Nat) (f : Ctx → Ctx) : (s.updCtx c x f).links = s.links := rfl
@[simp] theorem State.updCtx_groups (c x : Nat) (f : Ctx → Ctx) : (s.updCtx c x f).groups = s.groups := rfl
@[simp] theorem State.updCtx_routes (c x : Nat) (f : Ctx → Ctx) : (s.updCtx c x f).routes = s.routes := rfl
@[simp] theorem State.updCtx_slotAct (c x : Nat) (f : Ctx → Ctx) : (s.updCtx c x f).slotAct = s.slotAct := rfl
@[simp] theorem State.updCtx_slotStg (c x : Nat) (f : Ctx → Ctx) : (s.updCtx c x f).slotStg = s.slotStg := rfl
@[simp] theorem State.updCtx_cells (c x : Nat) (f : Ctx → Ctx) : (s.updCtx c x f).cells = s.cells := rfl
@[simp] theorem State.updCtx_fuses (c x : Nat) (f : Ctx → Ctx) : (s.updCtx c x f).fuses = s.fuses := rfl
@[simp] theorem State.updCtx_rdy0 (c x : Nat) (f : Ctx → Ctx) : (s.updCtx c x f).rdy0 = s.rdy0 := rfl
@[simp] theorem State.updCtx_rdy1 (c x : Nat) (f : Ctx → Ctx) : (s.updCtx c x f).rdy1 = s.rdy1 := rfl
@[simp] theorem State.updCtx_watches (c x : Nat) (f : Ctx → Ctx) : (s.updCtx c x f).watches = s.watches := rfl
@[simp] theorem State.updCtx_records (c x : Nat) (f : Ctx → Ctx) : (s.updCtx c x f).records = s.records := rfl
@[simp] theorem State.updCtx_farrier (c x : Nat) (f : Ctx → Ctx) : (s.updCtx c x f).farrier = s.farrier := rfl
@[simp] theorem State.updCtx_farCnt (c x : Nat) (f : Ctx → Ctx) : (s.updCtx c x f).farCnt = s.farCnt := rfl
@[simp] theorem State.updCtx_corrected (c x : Nat) (f : Ctx → Ctx) : (s.updCtx c x f).corrected = s.corrected := rfl
@[simp] theorem State.updCtx_tack (c x : Nat) (f : Ctx → Ctx) : (s.updCtx c x f).tack = s.tack := rfl
@[simp] theorem State.updCtx_outbox (c x : Nat) (f : Ctx → Ctx) : (s.updCtx c x f).outbox = s.outbox := rfl
@[simp] theorem State.updCtx_ethOut (c x : Nat) (f : Ctx → Ctx) : (s.updCtx c x f).ethOut = s.ethOut := rfl

/-! `State.setPdk` -/
@[simp] theorem State.setPdk_agenda (b : Nat) (p : Paddock) : (s.setPdk b p).agenda = s.agenda := rfl
@[simp] theorem State.setPdk_cur (b : Nat) (p : Paddock) : (s.setPdk b p).cur = s.cur := rfl
@[simp] theorem State.setPdk_ran (b : Nat) (p : Paddock) : (s.setPdk b p).ran = s.ran := rfl
@[simp] theorem State.setPdk_free (b : Nat) (p : Paddock) : (s.setPdk b p).free = s.free := rfl
@[simp] theorem State.setPdk_cc (b : Nat) (p : Paddock) : (s.setPdk b p).cc = s.cc := rfl
@[simp] theorem State.setPdk_time (b : Nat) (p : Paddock) : (s.setPdk b p).time = s.time := rfl
@[simp] theorem State.setPdk_timeHold (b : Nat) (p : Paddock) : (s.setPdk b p).timeHold = s.timeHold := rfl
@[simp] theorem State.setPdk_timeStep (b : Nat) (p : Paddock) : (s.setPdk b p).timeStep = s.timeStep := rfl
@[simp] theorem State.setPdk_pkg (b : Nat) (p : Paddock) : (s.setPdk b p).pkg = s.pkg := rfl
@[simp] theorem State.setPdk_cores (b : Nat) (p : Paddock) : (s.setPdk b p).cores = s.cores := rfl
@[simp] theorem State.setPdk_mem (b : Nat) (p : Paddock) : (s.setPdk b p).mem = s.mem := rfl
@[simp] theorem State.setPdk_poison (b : Nat) (p : Paddock) : (s.setPdk b p).poison = s.poison := rfl
@[simp] theorem State.setPdk_hc (b : Nat) (p : Paddock) : (s.setPdk b p).hc = s.hc := rfl
@[simp] theorem State.setPdk_hostHc (b : Nat) (p : Paddock) : (s.setPdk b p).hostHc = s.hostHc := rfl
@[simp] theorem State.setPdk_hostFloor (b : Nat) (p : Paddock) : (s.setPdk b p).hostFloor = s.hostFloor := rfl
@[simp] theorem State.setPdk_lots (b : Nat) (p : Paddock) : (s.setPdk b p).lots = s.lots := rfl
@[simp] theorem State.setPdk_lotReqs (b : Nat) (p : Paddock) : (s.setPdk b p).lotReqs = s.lotReqs := rfl
@[simp] theorem State.setPdk_lotTs (b : Nat) (p : Paddock) : (s.setPdk b p).lotTs = s.lotTs := rfl
@[simp] theorem State.setPdk_engs (b : Nat) (p : Paddock) : (s.setPdk b p).engs = s.engs := rfl
@[simp] theorem State.setPdk_reqs (b : Nat) (p : Paddock) : (s.setPdk b p).reqs = s.reqs := rfl
@[simp] theorem State.setPdk_toks (b : Nat) (p : Paddock) : (s.setPdk b p).toks = s.toks := rfl
@[simp] theorem State.setPdk_cmbs (b : Nat) (p : Paddock) : (s.setPdk b p).cmbs = s.cmbs := rfl
@[simp] theorem State.setPdk_launches (b : Nat) (p : Paddock) : (s.setPdk b p).launches = s.launches := rfl
@[simp] theorem State.setPdk_nextLaunch (b : Nat) (p : Paddock) : (s.setPdk b p).nextLaunch = s.nextLaunch := rfl
@[simp] theorem State.setPdk_funcs (b : Nat) (p : Paddock) : (s.setPdk b p).funcs = s.funcs := rfl
@[simp] theorem State.setPdk_sheds (b : Nat) (p : Paddock) : (s.setPdk b p).sheds = s.sheds := rfl
@[simp] theorem State.setPdk_mcs (b : Nat) (p : Paddock) : (s.setPdk b p).mcs = s.mcs := rfl
@[simp] theorem State.setPdk_places (b : Nat) (p : Paddock) : (s.setPdk b p).places = s.places := rfl
@[simp] theorem State.setPdk_abandoned (b : Nat) (p : Paddock) : (s.setPdk b p).abandoned = s.abandoned := rfl
@[simp] theorem State.setPdk_discards (b : Nat) (p : Paddock) : (s.setPdk b p).discards = s.discards := rfl
@[simp] theorem State.setPdk_points (b : Nat) (p : Paddock) : (s.setPdk b p).points = s.points := rfl
@[simp] theorem State.setPdk_exitUse (b : Nat) (p : Paddock) : (s.setPdk b p).exitUse = s.exitUse := rfl
@[simp] theorem State.setPdk_farReqs (b : Nat) (p : Paddock) : (s.setPdk b p).farReqs = s.farReqs := rfl
@[simp] theorem State.setPdk_cause (b : Nat) (p : Paddock) : (s.setPdk b p).cause = s.cause := rfl
@[simp] theorem State.setPdk_links (b : Nat) (p : Paddock) : (s.setPdk b p).links = s.links := rfl
@[simp] theorem State.setPdk_groups (b : Nat) (p : Paddock) : (s.setPdk b p).groups = s.groups := rfl
@[simp] theorem State.setPdk_routes (b : Nat) (p : Paddock) : (s.setPdk b p).routes = s.routes := rfl
@[simp] theorem State.setPdk_slotAct (b : Nat) (p : Paddock) : (s.setPdk b p).slotAct = s.slotAct := rfl
@[simp] theorem State.setPdk_slotStg (b : Nat) (p : Paddock) : (s.setPdk b p).slotStg = s.slotStg := rfl
@[simp] theorem State.setPdk_cells (b : Nat) (p : Paddock) : (s.setPdk b p).cells = s.cells := rfl
@[simp] theorem State.setPdk_fuses (b : Nat) (p : Paddock) : (s.setPdk b p).fuses = s.fuses := rfl
@[simp] theorem State.setPdk_rdy0 (b : Nat) (p : Paddock) : (s.setPdk b p).rdy0 = s.rdy0 := rfl
@[simp] theorem State.setPdk_rdy1 (b : Nat) (p : Paddock) : (s.setPdk b p).rdy1 = s.rdy1 := rfl
@[simp] theorem State.setPdk_watches (b : Nat) (p : Paddock) : (s.setPdk b p).watches = s.watches := rfl
@[simp] theorem State.setPdk_records (b : Nat) (p : Paddock) : (s.setPdk b p).records = s.records := rfl
@[simp] theorem State.setPdk_farrier (b : Nat) (p : Paddock) : (s.setPdk b p).farrier = s.farrier := rfl
@[simp] theorem State.setPdk_farCnt (b : Nat) (p : Paddock) : (s.setPdk b p).farCnt = s.farCnt := rfl
@[simp] theorem State.setPdk_corrected (b : Nat) (p : Paddock) : (s.setPdk b p).corrected = s.corrected := rfl
@[simp] theorem State.setPdk_tack (b : Nat) (p : Paddock) : (s.setPdk b p).tack = s.tack := rfl
@[simp] theorem State.setPdk_outbox (b : Nat) (p : Paddock) : (s.setPdk b p).outbox = s.outbox := rfl
@[simp] theorem State.setPdk_ethOut (b : Nat) (p : Paddock) : (s.setPdk b p).ethOut = s.ethOut := rfl

/-! `State.updPdk` -/
@[simp] theorem State.updPdk_agenda (b : Nat) (f : Paddock → Paddock) : (s.updPdk b f).agenda = s.agenda := rfl
@[simp] theorem State.updPdk_cur (b : Nat) (f : Paddock → Paddock) : (s.updPdk b f).cur = s.cur := rfl
@[simp] theorem State.updPdk_ran (b : Nat) (f : Paddock → Paddock) : (s.updPdk b f).ran = s.ran := rfl
@[simp] theorem State.updPdk_free (b : Nat) (f : Paddock → Paddock) : (s.updPdk b f).free = s.free := rfl
@[simp] theorem State.updPdk_cc (b : Nat) (f : Paddock → Paddock) : (s.updPdk b f).cc = s.cc := rfl
@[simp] theorem State.updPdk_time (b : Nat) (f : Paddock → Paddock) : (s.updPdk b f).time = s.time := rfl
@[simp] theorem State.updPdk_timeHold (b : Nat) (f : Paddock → Paddock) : (s.updPdk b f).timeHold = s.timeHold := rfl
@[simp] theorem State.updPdk_timeStep (b : Nat) (f : Paddock → Paddock) : (s.updPdk b f).timeStep = s.timeStep := rfl
@[simp] theorem State.updPdk_pkg (b : Nat) (f : Paddock → Paddock) : (s.updPdk b f).pkg = s.pkg := rfl
@[simp] theorem State.updPdk_cores (b : Nat) (f : Paddock → Paddock) : (s.updPdk b f).cores = s.cores := rfl
@[simp] theorem State.updPdk_mem (b : Nat) (f : Paddock → Paddock) : (s.updPdk b f).mem = s.mem := rfl
@[simp] theorem State.updPdk_poison (b : Nat) (f : Paddock → Paddock) : (s.updPdk b f).poison = s.poison := rfl
@[simp] theorem State.updPdk_hc (b : Nat) (f : Paddock → Paddock) : (s.updPdk b f).hc = s.hc := rfl
@[simp] theorem State.updPdk_hostHc (b : Nat) (f : Paddock → Paddock) : (s.updPdk b f).hostHc = s.hostHc := rfl
@[simp] theorem State.updPdk_hostFloor (b : Nat) (f : Paddock → Paddock) : (s.updPdk b f).hostFloor = s.hostFloor := rfl
@[simp] theorem State.updPdk_lots (b : Nat) (f : Paddock → Paddock) : (s.updPdk b f).lots = s.lots := rfl
@[simp] theorem State.updPdk_lotReqs (b : Nat) (f : Paddock → Paddock) : (s.updPdk b f).lotReqs = s.lotReqs := rfl
@[simp] theorem State.updPdk_lotTs (b : Nat) (f : Paddock → Paddock) : (s.updPdk b f).lotTs = s.lotTs := rfl
@[simp] theorem State.updPdk_engs (b : Nat) (f : Paddock → Paddock) : (s.updPdk b f).engs = s.engs := rfl
@[simp] theorem State.updPdk_reqs (b : Nat) (f : Paddock → Paddock) : (s.updPdk b f).reqs = s.reqs := rfl
@[simp] theorem State.updPdk_toks (b : Nat) (f : Paddock → Paddock) : (s.updPdk b f).toks = s.toks := rfl
@[simp] theorem State.updPdk_cmbs (b : Nat) (f : Paddock → Paddock) : (s.updPdk b f).cmbs = s.cmbs := rfl
@[simp] theorem State.updPdk_launches (b : Nat) (f : Paddock → Paddock) : (s.updPdk b f).launches = s.launches := rfl
@[simp] theorem State.updPdk_nextLaunch (b : Nat) (f : Paddock → Paddock) : (s.updPdk b f).nextLaunch = s.nextLaunch := rfl
@[simp] theorem State.updPdk_funcs (b : Nat) (f : Paddock → Paddock) : (s.updPdk b f).funcs = s.funcs := rfl
@[simp] theorem State.updPdk_sheds (b : Nat) (f : Paddock → Paddock) : (s.updPdk b f).sheds = s.sheds := rfl
@[simp] theorem State.updPdk_mcs (b : Nat) (f : Paddock → Paddock) : (s.updPdk b f).mcs = s.mcs := rfl
@[simp] theorem State.updPdk_places (b : Nat) (f : Paddock → Paddock) : (s.updPdk b f).places = s.places := rfl
@[simp] theorem State.updPdk_abandoned (b : Nat) (f : Paddock → Paddock) : (s.updPdk b f).abandoned = s.abandoned := rfl
@[simp] theorem State.updPdk_discards (b : Nat) (f : Paddock → Paddock) : (s.updPdk b f).discards = s.discards := rfl
@[simp] theorem State.updPdk_points (b : Nat) (f : Paddock → Paddock) : (s.updPdk b f).points = s.points := rfl
@[simp] theorem State.updPdk_exitUse (b : Nat) (f : Paddock → Paddock) : (s.updPdk b f).exitUse = s.exitUse := rfl
@[simp] theorem State.updPdk_farReqs (b : Nat) (f : Paddock → Paddock) : (s.updPdk b f).farReqs = s.farReqs := rfl
@[simp] theorem State.updPdk_cause (b : Nat) (f : Paddock → Paddock) : (s.updPdk b f).cause = s.cause := rfl
@[simp] theorem State.updPdk_links (b : Nat) (f : Paddock → Paddock) : (s.updPdk b f).links = s.links := rfl
@[simp] theorem State.updPdk_groups (b : Nat) (f : Paddock → Paddock) : (s.updPdk b f).groups = s.groups := rfl
@[simp] theorem State.updPdk_routes (b : Nat) (f : Paddock → Paddock) : (s.updPdk b f).routes = s.routes := rfl
@[simp] theorem State.updPdk_slotAct (b : Nat) (f : Paddock → Paddock) : (s.updPdk b f).slotAct = s.slotAct := rfl
@[simp] theorem State.updPdk_slotStg (b : Nat) (f : Paddock → Paddock) : (s.updPdk b f).slotStg = s.slotStg := rfl
@[simp] theorem State.updPdk_cells (b : Nat) (f : Paddock → Paddock) : (s.updPdk b f).cells = s.cells := rfl
@[simp] theorem State.updPdk_fuses (b : Nat) (f : Paddock → Paddock) : (s.updPdk b f).fuses = s.fuses := rfl
@[simp] theorem State.updPdk_rdy0 (b : Nat) (f : Paddock → Paddock) : (s.updPdk b f).rdy0 = s.rdy0 := rfl
@[simp] theorem State.updPdk_rdy1 (b : Nat) (f : Paddock → Paddock) : (s.updPdk b f).rdy1 = s.rdy1 := rfl
@[simp] theorem State.updPdk_watches (b : Nat) (f : Paddock → Paddock) : (s.updPdk b f).watches = s.watches := rfl
@[simp] theorem State.updPdk_records (b : Nat) (f : Paddock → Paddock) : (s.updPdk b f).records = s.records := rfl
@[simp] theorem State.updPdk_farrier (b : Nat) (f : Paddock → Paddock) : (s.updPdk b f).farrier = s.farrier := rfl
@[simp] theorem State.updPdk_farCnt (b : Nat) (f : Paddock → Paddock) : (s.updPdk b f).farCnt = s.farCnt := rfl
@[simp] theorem State.updPdk_corrected (b : Nat) (f : Paddock → Paddock) : (s.updPdk b f).corrected = s.corrected := rfl
@[simp] theorem State.updPdk_tack (b : Nat) (f : Paddock → Paddock) : (s.updPdk b f).tack = s.tack := rfl
@[simp] theorem State.updPdk_outbox (b : Nat) (f : Paddock → Paddock) : (s.updPdk b f).outbox = s.outbox := rfl
@[simp] theorem State.updPdk_ethOut (b : Nat) (f : Paddock → Paddock) : (s.updPdk b f).ethOut = s.ethOut := rfl

/-! `State.updFunc` -/
@[simp] theorem State.updFunc_agenda (n : Nat) (f : Func → Func) : (s.updFunc n f).agenda = s.agenda := rfl
@[simp] theorem State.updFunc_cur (n : Nat) (f : Func → Func) : (s.updFunc n f).cur = s.cur := rfl
@[simp] theorem State.updFunc_ran (n : Nat) (f : Func → Func) : (s.updFunc n f).ran = s.ran := rfl
@[simp] theorem State.updFunc_free (n : Nat) (f : Func → Func) : (s.updFunc n f).free = s.free := rfl
@[simp] theorem State.updFunc_cc (n : Nat) (f : Func → Func) : (s.updFunc n f).cc = s.cc := rfl
@[simp] theorem State.updFunc_time (n : Nat) (f : Func → Func) : (s.updFunc n f).time = s.time := rfl
@[simp] theorem State.updFunc_timeHold (n : Nat) (f : Func → Func) : (s.updFunc n f).timeHold = s.timeHold := rfl
@[simp] theorem State.updFunc_timeStep (n : Nat) (f : Func → Func) : (s.updFunc n f).timeStep = s.timeStep := rfl
@[simp] theorem State.updFunc_pkg (n : Nat) (f : Func → Func) : (s.updFunc n f).pkg = s.pkg := rfl
@[simp] theorem State.updFunc_cores (n : Nat) (f : Func → Func) : (s.updFunc n f).cores = s.cores := rfl
@[simp] theorem State.updFunc_mem (n : Nat) (f : Func → Func) : (s.updFunc n f).mem = s.mem := rfl
@[simp] theorem State.updFunc_poison (n : Nat) (f : Func → Func) : (s.updFunc n f).poison = s.poison := rfl
@[simp] theorem State.updFunc_hc (n : Nat) (f : Func → Func) : (s.updFunc n f).hc = s.hc := rfl
@[simp] theorem State.updFunc_hostHc (n : Nat) (f : Func → Func) : (s.updFunc n f).hostHc = s.hostHc := rfl
@[simp] theorem State.updFunc_hostFloor (n : Nat) (f : Func → Func) : (s.updFunc n f).hostFloor = s.hostFloor := rfl
@[simp] theorem State.updFunc_lots (n : Nat) (f : Func → Func) : (s.updFunc n f).lots = s.lots := rfl
@[simp] theorem State.updFunc_lotReqs (n : Nat) (f : Func → Func) : (s.updFunc n f).lotReqs = s.lotReqs := rfl
@[simp] theorem State.updFunc_lotTs (n : Nat) (f : Func → Func) : (s.updFunc n f).lotTs = s.lotTs := rfl
@[simp] theorem State.updFunc_engs (n : Nat) (f : Func → Func) : (s.updFunc n f).engs = s.engs := rfl
@[simp] theorem State.updFunc_reqs (n : Nat) (f : Func → Func) : (s.updFunc n f).reqs = s.reqs := rfl
@[simp] theorem State.updFunc_toks (n : Nat) (f : Func → Func) : (s.updFunc n f).toks = s.toks := rfl
@[simp] theorem State.updFunc_cmbs (n : Nat) (f : Func → Func) : (s.updFunc n f).cmbs = s.cmbs := rfl
@[simp] theorem State.updFunc_pdks (n : Nat) (f : Func → Func) : (s.updFunc n f).pdks = s.pdks := rfl
@[simp] theorem State.updFunc_launches (n : Nat) (f : Func → Func) : (s.updFunc n f).launches = s.launches := rfl
@[simp] theorem State.updFunc_nextLaunch (n : Nat) (f : Func → Func) : (s.updFunc n f).nextLaunch = s.nextLaunch := rfl
@[simp] theorem State.updFunc_sheds (n : Nat) (f : Func → Func) : (s.updFunc n f).sheds = s.sheds := rfl
@[simp] theorem State.updFunc_mcs (n : Nat) (f : Func → Func) : (s.updFunc n f).mcs = s.mcs := rfl
@[simp] theorem State.updFunc_places (n : Nat) (f : Func → Func) : (s.updFunc n f).places = s.places := rfl
@[simp] theorem State.updFunc_abandoned (n : Nat) (f : Func → Func) : (s.updFunc n f).abandoned = s.abandoned := rfl
@[simp] theorem State.updFunc_discards (n : Nat) (f : Func → Func) : (s.updFunc n f).discards = s.discards := rfl
@[simp] theorem State.updFunc_points (n : Nat) (f : Func → Func) : (s.updFunc n f).points = s.points := rfl
@[simp] theorem State.updFunc_exitUse (n : Nat) (f : Func → Func) : (s.updFunc n f).exitUse = s.exitUse := rfl
@[simp] theorem State.updFunc_farReqs (n : Nat) (f : Func → Func) : (s.updFunc n f).farReqs = s.farReqs := rfl
@[simp] theorem State.updFunc_cause (n : Nat) (f : Func → Func) : (s.updFunc n f).cause = s.cause := rfl
@[simp] theorem State.updFunc_links (n : Nat) (f : Func → Func) : (s.updFunc n f).links = s.links := rfl
@[simp] theorem State.updFunc_groups (n : Nat) (f : Func → Func) : (s.updFunc n f).groups = s.groups := rfl
@[simp] theorem State.updFunc_routes (n : Nat) (f : Func → Func) : (s.updFunc n f).routes = s.routes := rfl
@[simp] theorem State.updFunc_slotAct (n : Nat) (f : Func → Func) : (s.updFunc n f).slotAct = s.slotAct := rfl
@[simp] theorem State.updFunc_slotStg (n : Nat) (f : Func → Func) : (s.updFunc n f).slotStg = s.slotStg := rfl
@[simp] theorem State.updFunc_cells (n : Nat) (f : Func → Func) : (s.updFunc n f).cells = s.cells := rfl
@[simp] theorem State.updFunc_fuses (n : Nat) (f : Func → Func) : (s.updFunc n f).fuses = s.fuses := rfl
@[simp] theorem State.updFunc_rdy0 (n : Nat) (f : Func → Func) : (s.updFunc n f).rdy0 = s.rdy0 := rfl
@[simp] theorem State.updFunc_rdy1 (n : Nat) (f : Func → Func) : (s.updFunc n f).rdy1 = s.rdy1 := rfl
@[simp] theorem State.updFunc_watches (n : Nat) (f : Func → Func) : (s.updFunc n f).watches = s.watches := rfl
@[simp] theorem State.updFunc_records (n : Nat) (f : Func → Func) : (s.updFunc n f).records = s.records := rfl
@[simp] theorem State.updFunc_farrier (n : Nat) (f : Func → Func) : (s.updFunc n f).farrier = s.farrier := rfl
@[simp] theorem State.updFunc_farCnt (n : Nat) (f : Func → Func) : (s.updFunc n f).farCnt = s.farCnt := rfl
@[simp] theorem State.updFunc_corrected (n : Nat) (f : Func → Func) : (s.updFunc n f).corrected = s.corrected := rfl
@[simp] theorem State.updFunc_tack (n : Nat) (f : Func → Func) : (s.updFunc n f).tack = s.tack := rfl
@[simp] theorem State.updFunc_outbox (n : Nat) (f : Func → Func) : (s.updFunc n f).outbox = s.outbox := rfl
@[simp] theorem State.updFunc_ethOut (n : Nat) (f : Func → Func) : (s.updFunc n f).ethOut = s.ethOut := rfl

/-! `Core.setCtx`, `Core.updCtx`, `Core.push` and `Core.pop` -/
@[simp] theorem Core.setCtx_task (x : Nat) (t : Ctx) : (k.setCtx x t).task = k.task := rfl
@[simp] theorem Core.setCtx_pval (x : Nat) (t : Ctx) : (k.setCtx x t).pval = k.pval := rfl
@[simp] theorem Core.setCtx_pfull (x : Nat) (t : Ctx) : (k.setCtx x t).pfull = k.pfull := rfl
@[simp] theorem Core.setCtx_fifo (x : Nat) (t : Ctx) : (k.setCtx x t).fifo = k.fifo := rfl
@[simp] theorem Core.setCtx_fresh (x : Nat) (t : Ctx) : (k.setCtx x t).fresh = k.fresh := rfl
@[simp] theorem Core.setCtx_promised (x : Nat) (t : Ctx) : (k.setCtx x t).promised = k.promised := rfl
@[simp] theorem Core.setCtx_vxe (x : Nat) (t : Ctx) : (k.setCtx x t).vxe = k.vxe := rfl
@[simp] theorem Core.setCtx_mxe (x : Nat) (t : Ctx) : (k.setCtx x t).mxe = k.mxe := rfl
@[simp] theorem Core.setCtx_cpe (x : Nat) (t : Ctx) : (k.setCtx x t).cpe = k.cpe := rfl
@[simp] theorem Core.setCtx_fences (x : Nat) (t : Ctx) : (k.setCtx x t).fences = k.fences := rfl
@[simp] theorem Core.setCtx_fenceNo (x : Nat) (t : Ctx) : (k.setCtx x t).fenceNo = k.fenceNo := rfl
@[simp] theorem Core.setCtx_spad (x : Nat) (t : Ctx) : (k.setCtx x t).spad = k.spad := rfl
@[simp] theorem Core.setCtx_rings (x : Nat) (t : Ctx) : (k.setCtx x t).rings = k.rings := rfl
@[simp] theorem Core.setCtx_ec (x : Nat) (t : Ctx) : (k.setCtx x t).ec = k.ec := rfl
@[simp] theorem Core.setCtx_ringWait (x : Nat) (t : Ctx) : (k.setCtx x t).ringWait = k.ringWait := rfl
@[simp] theorem Core.setCtx_wins (x : Nat) (t : Ctx) : (k.setCtx x t).wins = k.wins := rfl
@[simp] theorem Core.setCtx_away (x : Nat) (t : Ctx) : (k.setCtx x t).away = k.away := rfl
@[simp] theorem Core.setCtx_oq (x : Nat) (t : Ctx) : (k.setCtx x t).oq = k.oq := rfl
@[simp] theorem Core.setCtx_l1 (x : Nat) (t : Ctx) : (k.setCtx x t).l1 = k.l1 := rfl
@[simp] theorem Core.setCtx_dfifo (x : Nat) (t : Ctx) : (k.setCtx x t).dfifo = k.dfifo := rfl
@[simp] theorem Core.setCtx_blkUse (x : Nat) (t : Ctx) : (k.setCtx x t).blkUse = k.blkUse := rfl
@[simp] theorem Core.setCtx_icache (x : Nat) (t : Ctx) : (k.setCtx x t).icache = k.icache := rfl
@[simp] theorem Core.setCtx_pen (x : Nat) (t : Ctx) : (k.setCtx x t).pen = k.pen := rfl
@[simp] theorem Core.setCtx_hold (x : Nat) (t : Ctx) : (k.setCtx x t).hold = k.hold := rfl
@[simp] theorem Core.setCtx_blkOps (x : Nat) (t : Ctx) : (k.setCtx x t).blkOps = k.blkOps := rfl
@[simp] theorem Core.setCtx_tlb (x : Nat) (t : Ctx) : (k.setCtx x t).tlb = k.tlb := rfl
@[simp] theorem Core.setCtx_frozen (x : Nat) (t : Ctx) : (k.setCtx x t).frozen = k.frozen := rfl
@[simp] theorem Core.setCtx_frzMax (x : Nat) (t : Ctx) : (k.setCtx x t).frzMax = k.frzMax := rfl
@[simp] theorem Core.setCtx_scopeClamp (x : Nat) (t : Ctx) : (k.setCtx x t).scopeClamp = k.scopeClamp := rfl
@[simp] theorem Core.setCtx_sliceClamp (x : Nat) (t : Ctx) : (k.setCtx x t).sliceClamp = k.sliceClamp := rfl
@[simp] theorem Core.setCtx_perf (x : Nat) (t : Ctx) : (k.setCtx x t).perf = k.perf := rfl
@[simp] theorem Core.setCtx_perfBind (x : Nat) (t : Ctx) : (k.setCtx x t).perfBind = k.perfBind := rfl
@[simp] theorem Core.setCtx_hypPerf (x : Nat) (t : Ctx) : (k.setCtx x t).hypPerf = k.hypPerf := rfl
@[simp] theorem Core.setCtx_request (x : Nat) (t : Ctx) : (k.setCtx x t).request = k.request := rfl
@[simp] theorem Core.setCtx_point (x : Nat) (t : Ctx) : (k.setCtx x t).point = k.point := rfl
@[simp] theorem Core.setCtx_resuming (x : Nat) (t : Ctx) : (k.setCtx x t).resuming = k.resuming := rfl
@[simp] theorem Core.setCtx_cut (x : Nat) (t : Ctx) : (k.setCtx x t).cut = k.cut := rfl
@[simp] theorem Core.setCtx_headTrap (x : Nat) (t : Ctx) : (k.setCtx x t).headTrap = k.headTrap := rfl
@[simp] theorem Core.setCtx_holdFor (x : Nat) (t : Ctx) : (k.setCtx x t).holdFor = k.holdFor := rfl
@[simp] theorem Core.setCtx_issued (x : Nat) (t : Ctx) : (k.setCtx x t).issued = k.issued := rfl
@[simp] theorem Core.setCtx_filledAt (x : Nat) (t : Ctx) : (k.setCtx x t).filledAt = k.filledAt := rfl
@[simp] theorem Core.setCtx_clk (x : Nat) (t : Ctx) : (k.setCtx x t).clk = k.clk := rfl
@[simp] theorem Core.setCtx_wounded (x : Nat) (t : Ctx) : (k.setCtx x t).wounded = k.wounded := rfl
@[simp] theorem Core.setCtx_rolling (x : Nat) (t : Ctx) : (k.setCtx x t).rolling = k.rolling := rfl
@[simp] theorem Core.setCtx_committing (x : Nat) (t : Ctx) : (k.setCtx x t).committing = k.committing := rfl
@[simp] theorem Core.setCtx_starts (x : Nat) (t : Ctx) : (k.setCtx x t).starts = k.starts := rfl
@[simp] theorem Core.setCtx_enqNo (x : Nat) (t : Ctx) : (k.setCtx x t).enqNo = k.enqNo := rfl
@[simp] theorem Core.setCtx_badSec (x : Nat) (t : Ctx) : (k.setCtx x t).badSec = k.badSec := rfl
@[simp] theorem Core.setCtx_progN (x : Nat) (t : Ctx) : (k.setCtx x t).progN = k.progN := rfl
@[simp] theorem Core.setCtx_progAt (x : Nat) (t : Ctx) : (k.setCtx x t).progAt = k.progAt := rfl

@[simp] theorem Core.updCtx_task (x : Nat) (f : Ctx → Ctx) : (k.updCtx x f).task = k.task := rfl
@[simp] theorem Core.updCtx_pval (x : Nat) (f : Ctx → Ctx) : (k.updCtx x f).pval = k.pval := rfl
@[simp] theorem Core.updCtx_pfull (x : Nat) (f : Ctx → Ctx) : (k.updCtx x f).pfull = k.pfull := rfl
@[simp] theorem Core.updCtx_fifo (x : Nat) (f : Ctx → Ctx) : (k.updCtx x f).fifo = k.fifo := rfl
@[simp] theorem Core.updCtx_fresh (x : Nat) (f : Ctx → Ctx) : (k.updCtx x f).fresh = k.fresh := rfl
@[simp] theorem Core.updCtx_promised (x : Nat) (f : Ctx → Ctx) : (k.updCtx x f).promised = k.promised := rfl
@[simp] theorem Core.updCtx_vxe (x : Nat) (f : Ctx → Ctx) : (k.updCtx x f).vxe = k.vxe := rfl
@[simp] theorem Core.updCtx_mxe (x : Nat) (f : Ctx → Ctx) : (k.updCtx x f).mxe = k.mxe := rfl
@[simp] theorem Core.updCtx_cpe (x : Nat) (f : Ctx → Ctx) : (k.updCtx x f).cpe = k.cpe := rfl
@[simp] theorem Core.updCtx_fences (x : Nat) (f : Ctx → Ctx) : (k.updCtx x f).fences = k.fences := rfl
@[simp] theorem Core.updCtx_fenceNo (x : Nat) (f : Ctx → Ctx) : (k.updCtx x f).fenceNo = k.fenceNo := rfl
@[simp] theorem Core.updCtx_spad (x : Nat) (f : Ctx → Ctx) : (k.updCtx x f).spad = k.spad := rfl
@[simp] theorem Core.updCtx_rings (x : Nat) (f : Ctx → Ctx) : (k.updCtx x f).rings = k.rings := rfl
@[simp] theorem Core.updCtx_ec (x : Nat) (f : Ctx → Ctx) : (k.updCtx x f).ec = k.ec := rfl
@[simp] theorem Core.updCtx_ringWait (x : Nat) (f : Ctx → Ctx) : (k.updCtx x f).ringWait = k.ringWait := rfl
@[simp] theorem Core.updCtx_wins (x : Nat) (f : Ctx → Ctx) : (k.updCtx x f).wins = k.wins := rfl
@[simp] theorem Core.updCtx_away (x : Nat) (f : Ctx → Ctx) : (k.updCtx x f).away = k.away := rfl
@[simp] theorem Core.updCtx_oq (x : Nat) (f : Ctx → Ctx) : (k.updCtx x f).oq = k.oq := rfl
@[simp] theorem Core.updCtx_l1 (x : Nat) (f : Ctx → Ctx) : (k.updCtx x f).l1 = k.l1 := rfl
@[simp] theorem Core.updCtx_dfifo (x : Nat) (f : Ctx → Ctx) : (k.updCtx x f).dfifo = k.dfifo := rfl
@[simp] theorem Core.updCtx_blkUse (x : Nat) (f : Ctx → Ctx) : (k.updCtx x f).blkUse = k.blkUse := rfl
@[simp] theorem Core.updCtx_icache (x : Nat) (f : Ctx → Ctx) : (k.updCtx x f).icache = k.icache := rfl
@[simp] theorem Core.updCtx_pen (x : Nat) (f : Ctx → Ctx) : (k.updCtx x f).pen = k.pen := rfl
@[simp] theorem Core.updCtx_hold (x : Nat) (f : Ctx → Ctx) : (k.updCtx x f).hold = k.hold := rfl
@[simp] theorem Core.updCtx_blkOps (x : Nat) (f : Ctx → Ctx) : (k.updCtx x f).blkOps = k.blkOps := rfl
@[simp] theorem Core.updCtx_tlb (x : Nat) (f : Ctx → Ctx) : (k.updCtx x f).tlb = k.tlb := rfl
@[simp] theorem Core.updCtx_frozen (x : Nat) (f : Ctx → Ctx) : (k.updCtx x f).frozen = k.frozen := rfl
@[simp] theorem Core.updCtx_frzMax (x : Nat) (f : Ctx → Ctx) : (k.updCtx x f).frzMax = k.frzMax := rfl
@[simp] theorem Core.updCtx_scopeClamp (x : Nat) (f : Ctx → Ctx) : (k.updCtx x f).scopeClamp = k.scopeClamp := rfl
@[simp] theorem Core.updCtx_sliceClamp (x : Nat) (f : Ctx → Ctx) : (k.updCtx x f).sliceClamp = k.sliceClamp := rfl
@[simp] theorem Core.updCtx_perf (x : Nat) (f : Ctx → Ctx) : (k.updCtx x f).perf = k.perf := rfl
@[simp] theorem Core.updCtx_perfBind (x : Nat) (f : Ctx → Ctx) : (k.updCtx x f).perfBind = k.perfBind := rfl
@[simp] theorem Core.updCtx_hypPerf (x : Nat) (f : Ctx → Ctx) : (k.updCtx x f).hypPerf = k.hypPerf := rfl
@[simp] theorem Core.updCtx_request (x : Nat) (f : Ctx → Ctx) : (k.updCtx x f).request = k.request := rfl
@[simp] theorem Core.updCtx_point (x : Nat) (f : Ctx → Ctx) : (k.updCtx x f).point = k.point := rfl
@[simp] theorem Core.updCtx_resuming (x : Nat) (f : Ctx → Ctx) : (k.updCtx x f).resuming = k.resuming := rfl
@[simp] theorem Core.updCtx_cut (x : Nat) (f : Ctx → Ctx) : (k.updCtx x f).cut = k.cut := rfl
@[simp] theorem Core.updCtx_headTrap (x : Nat) (f : Ctx → Ctx) : (k.updCtx x f).headTrap = k.headTrap := rfl
@[simp] theorem Core.updCtx_holdFor (x : Nat) (f : Ctx → Ctx) : (k.updCtx x f).holdFor = k.holdFor := rfl
@[simp] theorem Core.updCtx_issued (x : Nat) (f : Ctx → Ctx) : (k.updCtx x f).issued = k.issued := rfl
@[simp] theorem Core.updCtx_filledAt (x : Nat) (f : Ctx → Ctx) : (k.updCtx x f).filledAt = k.filledAt := rfl
@[simp] theorem Core.updCtx_clk (x : Nat) (f : Ctx → Ctx) : (k.updCtx x f).clk = k.clk := rfl
@[simp] theorem Core.updCtx_wounded (x : Nat) (f : Ctx → Ctx) : (k.updCtx x f).wounded = k.wounded := rfl
@[simp] theorem Core.updCtx_rolling (x : Nat) (f : Ctx → Ctx) : (k.updCtx x f).rolling = k.rolling := rfl
@[simp] theorem Core.updCtx_committing (x : Nat) (f : Ctx → Ctx) : (k.updCtx x f).committing = k.committing := rfl
@[simp] theorem Core.updCtx_starts (x : Nat) (f : Ctx → Ctx) : (k.updCtx x f).starts = k.starts := rfl
@[simp] theorem Core.updCtx_enqNo (x : Nat) (f : Ctx → Ctx) : (k.updCtx x f).enqNo = k.enqNo := rfl
@[simp] theorem Core.updCtx_badSec (x : Nat) (f : Ctx → Ctx) : (k.updCtx x f).badSec = k.badSec := rfl
@[simp] theorem Core.updCtx_progN (x : Nat) (f : Ctx → Ctx) : (k.updCtx x f).progN = k.progN := rfl
@[simp] theorem Core.updCtx_progAt (x : Nat) (f : Ctx → Ctx) : (k.updCtx x f).progAt = k.progAt := rfl

@[simp] theorem Core.push_ctx (f : Nat) : (k.push f).ctx = k.ctx := rfl
@[simp] theorem Core.push_task (f : Nat) : (k.push f).task = k.task := rfl
@[simp] theorem Core.push_pval (f : Nat) : (k.push f).pval = k.pval := rfl
@[simp] theorem Core.push_pfull (f : Nat) : (k.push f).pfull = k.pfull := rfl
@[simp] theorem Core.push_promised (f : Nat) : (k.push f).promised = k.promised := rfl
@[simp] theorem Core.push_vxe (f : Nat) : (k.push f).vxe = k.vxe := rfl
@[simp] theorem Core.push_mxe (f : Nat) : (k.push f).mxe = k.mxe := rfl
@[simp] theorem Core.push_cpe (f : Nat) : (k.push f).cpe = k.cpe := rfl
@[simp] theorem Core.push_fences (f : Nat) : (k.push f).fences = k.fences := rfl
@[simp] theorem Core.push_fenceNo (f : Nat) : (k.push f).fenceNo = k.fenceNo := rfl
@[simp] theorem Core.push_spad (f : Nat) : (k.push f).spad = k.spad := rfl
@[simp] theorem Core.push_rings (f : Nat) : (k.push f).rings = k.rings := rfl
@[simp] theorem Core.push_ec (f : Nat) : (k.push f).ec = k.ec := rfl
@[simp] theorem Core.push_ringWait (f : Nat) : (k.push f).ringWait = k.ringWait := rfl
@[simp] theorem Core.push_wins (f : Nat) : (k.push f).wins = k.wins := rfl
@[simp] theorem Core.push_away (f : Nat) : (k.push f).away = k.away := rfl
@[simp] theorem Core.push_oq (f : Nat) : (k.push f).oq = k.oq := rfl
@[simp] theorem Core.push_l1 (f : Nat) : (k.push f).l1 = k.l1 := rfl
@[simp] theorem Core.push_dfifo (f : Nat) : (k.push f).dfifo = k.dfifo := rfl
@[simp] theorem Core.push_blkUse (f : Nat) : (k.push f).blkUse = k.blkUse := rfl
@[simp] theorem Core.push_icache (f : Nat) : (k.push f).icache = k.icache := rfl
@[simp] theorem Core.push_pen (f : Nat) : (k.push f).pen = k.pen := rfl
@[simp] theorem Core.push_hold (f : Nat) : (k.push f).hold = k.hold := rfl
@[simp] theorem Core.push_blkOps (f : Nat) : (k.push f).blkOps = k.blkOps := rfl
@[simp] theorem Core.push_tlb (f : Nat) : (k.push f).tlb = k.tlb := rfl
@[simp] theorem Core.push_frozen (f : Nat) : (k.push f).frozen = k.frozen := rfl
@[simp] theorem Core.push_frzMax (f : Nat) : (k.push f).frzMax = k.frzMax := rfl
@[simp] theorem Core.push_scopeClamp (f : Nat) : (k.push f).scopeClamp = k.scopeClamp := rfl
@[simp] theorem Core.push_sliceClamp (f : Nat) : (k.push f).sliceClamp = k.sliceClamp := rfl
@[simp] theorem Core.push_perf (f : Nat) : (k.push f).perf = k.perf := rfl
@[simp] theorem Core.push_perfBind (f : Nat) : (k.push f).perfBind = k.perfBind := rfl
@[simp] theorem Core.push_hypPerf (f : Nat) : (k.push f).hypPerf = k.hypPerf := rfl
@[simp] theorem Core.push_request (f : Nat) : (k.push f).request = k.request := rfl
@[simp] theorem Core.push_point (f : Nat) : (k.push f).point = k.point := rfl
@[simp] theorem Core.push_resuming (f : Nat) : (k.push f).resuming = k.resuming := rfl
@[simp] theorem Core.push_cut (f : Nat) : (k.push f).cut = k.cut := rfl
@[simp] theorem Core.push_headTrap (f : Nat) : (k.push f).headTrap = k.headTrap := rfl
@[simp] theorem Core.push_holdFor (f : Nat) : (k.push f).holdFor = k.holdFor := rfl
@[simp] theorem Core.push_issued (f : Nat) : (k.push f).issued = k.issued := rfl
@[simp] theorem Core.push_filledAt (f : Nat) : (k.push f).filledAt = k.filledAt := rfl
@[simp] theorem Core.push_clk (f : Nat) : (k.push f).clk = k.clk := rfl
@[simp] theorem Core.push_wounded (f : Nat) : (k.push f).wounded = k.wounded := rfl
@[simp] theorem Core.push_rolling (f : Nat) : (k.push f).rolling = k.rolling := rfl
@[simp] theorem Core.push_committing (f : Nat) : (k.push f).committing = k.committing := rfl
@[simp] theorem Core.push_starts (f : Nat) : (k.push f).starts = k.starts := rfl
@[simp] theorem Core.push_enqNo (f : Nat) : (k.push f).enqNo = k.enqNo := rfl
@[simp] theorem Core.push_badSec (f : Nat) : (k.push f).badSec = k.badSec := rfl
@[simp] theorem Core.push_progN (f : Nat) : (k.push f).progN = k.progN := rfl
@[simp] theorem Core.push_progAt (f : Nat) : (k.push f).progAt = k.progAt := rfl

@[simp] theorem Core.pop_ctx (f : Nat) : (k.pop f).ctx = k.ctx := rfl
@[simp] theorem Core.pop_task (f : Nat) : (k.pop f).task = k.task := rfl
@[simp] theorem Core.pop_pval (f : Nat) : (k.pop f).pval = k.pval := rfl
@[simp] theorem Core.pop_pfull (f : Nat) : (k.pop f).pfull = k.pfull := rfl
@[simp] theorem Core.pop_fresh (f : Nat) : (k.pop f).fresh = k.fresh := rfl
@[simp] theorem Core.pop_promised (f : Nat) : (k.pop f).promised = k.promised := rfl
@[simp] theorem Core.pop_vxe (f : Nat) : (k.pop f).vxe = k.vxe := rfl
@[simp] theorem Core.pop_mxe (f : Nat) : (k.pop f).mxe = k.mxe := rfl
@[simp] theorem Core.pop_cpe (f : Nat) : (k.pop f).cpe = k.cpe := rfl
@[simp] theorem Core.pop_fences (f : Nat) : (k.pop f).fences = k.fences := rfl
@[simp] theorem Core.pop_fenceNo (f : Nat) : (k.pop f).fenceNo = k.fenceNo := rfl
@[simp] theorem Core.pop_spad (f : Nat) : (k.pop f).spad = k.spad := rfl
@[simp] theorem Core.pop_rings (f : Nat) : (k.pop f).rings = k.rings := rfl
@[simp] theorem Core.pop_ec (f : Nat) : (k.pop f).ec = k.ec := rfl
@[simp] theorem Core.pop_ringWait (f : Nat) : (k.pop f).ringWait = k.ringWait := rfl
@[simp] theorem Core.pop_wins (f : Nat) : (k.pop f).wins = k.wins := rfl
@[simp] theorem Core.pop_away (f : Nat) : (k.pop f).away = k.away := rfl
@[simp] theorem Core.pop_oq (f : Nat) : (k.pop f).oq = k.oq := rfl
@[simp] theorem Core.pop_l1 (f : Nat) : (k.pop f).l1 = k.l1 := rfl
@[simp] theorem Core.pop_dfifo (f : Nat) : (k.pop f).dfifo = k.dfifo := rfl
@[simp] theorem Core.pop_blkUse (f : Nat) : (k.pop f).blkUse = k.blkUse := rfl
@[simp] theorem Core.pop_icache (f : Nat) : (k.pop f).icache = k.icache := rfl
@[simp] theorem Core.pop_pen (f : Nat) : (k.pop f).pen = k.pen := rfl
@[simp] theorem Core.pop_hold (f : Nat) : (k.pop f).hold = k.hold := rfl
@[simp] theorem Core.pop_blkOps (f : Nat) : (k.pop f).blkOps = k.blkOps := rfl
@[simp] theorem Core.pop_tlb (f : Nat) : (k.pop f).tlb = k.tlb := rfl
@[simp] theorem Core.pop_frozen (f : Nat) : (k.pop f).frozen = k.frozen := rfl
@[simp] theorem Core.pop_frzMax (f : Nat) : (k.pop f).frzMax = k.frzMax := rfl
@[simp] theorem Core.pop_scopeClamp (f : Nat) : (k.pop f).scopeClamp = k.scopeClamp := rfl
@[simp] theorem Core.pop_sliceClamp (f : Nat) : (k.pop f).sliceClamp = k.sliceClamp := rfl
@[simp] theorem Core.pop_perf (f : Nat) : (k.pop f).perf = k.perf := rfl
@[simp] theorem Core.pop_perfBind (f : Nat) : (k.pop f).perfBind = k.perfBind := rfl
@[simp] theorem Core.pop_hypPerf (f : Nat) : (k.pop f).hypPerf = k.hypPerf := rfl
@[simp] theorem Core.pop_request (f : Nat) : (k.pop f).request = k.request := rfl
@[simp] theorem Core.pop_point (f : Nat) : (k.pop f).point = k.point := rfl
@[simp] theorem Core.pop_resuming (f : Nat) : (k.pop f).resuming = k.resuming := rfl
@[simp] theorem Core.pop_cut (f : Nat) : (k.pop f).cut = k.cut := rfl
@[simp] theorem Core.pop_headTrap (f : Nat) : (k.pop f).headTrap = k.headTrap := rfl
@[simp] theorem Core.pop_holdFor (f : Nat) : (k.pop f).holdFor = k.holdFor := rfl
@[simp] theorem Core.pop_issued (f : Nat) : (k.pop f).issued = k.issued := rfl
@[simp] theorem Core.pop_filledAt (f : Nat) : (k.pop f).filledAt = k.filledAt := rfl
@[simp] theorem Core.pop_clk (f : Nat) : (k.pop f).clk = k.clk := rfl
@[simp] theorem Core.pop_wounded (f : Nat) : (k.pop f).wounded = k.wounded := rfl
@[simp] theorem Core.pop_rolling (f : Nat) : (k.pop f).rolling = k.rolling := rfl
@[simp] theorem Core.pop_committing (f : Nat) : (k.pop f).committing = k.committing := rfl
@[simp] theorem Core.pop_starts (f : Nat) : (k.pop f).starts = k.starts := rfl
@[simp] theorem Core.pop_enqNo (f : Nat) : (k.pop f).enqNo = k.enqNo := rfl
@[simp] theorem Core.pop_badSec (f : Nat) : (k.pop f).badSec = k.badSec := rfl
@[simp] theorem Core.pop_progN (f : Nat) : (k.pop f).progN = k.progN := rfl
@[simp] theorem Core.pop_progAt (f : Nat) : (k.pop f).progAt = k.progAt := rfl

/-! `Ctx.wr`: the register file alone -/
@[simp] theorem Ctx.wr_run (r : Reg) (v : Word) : (t.wr r v).run = t.run := by unfold Ctx.wr; split <;> rfl
@[simp] theorem Ctx.wr_pc (r : Reg) (v : Word) : (t.wr r v).pc = t.pc := by unfold Ctx.wr; split <;> rfl
@[simp] theorem Ctx.wr_bz (r : Reg) (v : Word) : (t.wr r v).bz = t.bz := by unfold Ctx.wr; split <;> rfl
@[simp] theorem Ctx.wr_status (r : Reg) (v : Word) : (t.wr r v).status = t.status := by unfold Ctx.wr; split <;> rfl
@[simp] theorem Ctx.wr_sBank (r : Reg) (v : Word) : (t.wr r v).sBank = t.sBank := by unfold Ctx.wr; split <;> rfl
@[simp] theorem Ctx.wr_hBank (r : Reg) (v : Word) : (t.wr r v).hBank = t.hBank := by unfold Ctx.wr; split <;> rfl
@[simp] theorem Ctx.wr_lc (r : Reg) (v : Word) : (t.wr r v).lc = t.lc := by unfold Ctx.wr; split <;> rfl
@[simp] theorem Ctx.wr_fvec (r : Reg) (v : Word) : (t.wr r v).fvec = t.fvec := by unfold Ctx.wr; split <;> rfl
@[simp] theorem Ctx.wr_fepc (r : Reg) (v : Word) : (t.wr r v).fepc = t.fepc := by unfold Ctx.wr; split <;> rfl
@[simp] theorem Ctx.wr_slk (r : Reg) (v : Word) : (t.wr r v).slk = t.slk := by unfold Ctx.wr; split <;> rfl
@[simp] theorem Ctx.wr_gwait (r : Reg) (v : Word) : (t.wr r v).gwait = t.gwait := by unfold Ctx.wr; split <;> rfl
@[simp] theorem Ctx.wr_vround (r : Reg) (v : Word) : (t.wr r v).vround = t.vround := by unfold Ctx.wr; split <;> rfl
@[simp] theorem Ctx.wr_vseed (r : Reg) (v : Word) : (t.wr r v).vseed = t.vseed := by unfold Ctx.wr; split <;> rfl
@[simp] theorem Ctx.wr_seedSet (r : Reg) (v : Word) : (t.wr r v).seedSet = t.seedSet := by unfold Ctx.wr; split <;> rfl
@[simp] theorem Ctx.wr_sk (r : Reg) (v : Word) : (t.wr r v).sk = t.sk := by unfold Ctx.wr; split <;> rfl
@[simp] theorem Ctx.wr_bktBound (r : Reg) (v : Word) : (t.wr r v).bktBound = t.bktBound := by unfold Ctx.wr; split <;> rfl
@[simp] theorem Ctx.wr_bktAddr (r : Reg) (v : Word) : (t.wr r v).bktAddr = t.bktAddr := by unfold Ctx.wr; split <;> rfl
@[simp] theorem Ctx.wr_bktOvf (r : Reg) (v : Word) : (t.wr r v).bktOvf = t.bktOvf := by unfold Ctx.wr; split <;> rfl
@[simp] theorem Ctx.wr_perfCtl (r : Reg) (v : Word) : (t.wr r v).perfCtl = t.perfCtl := by unfold Ctx.wr; split <;> rfl
@[simp] theorem Ctx.wr_evlog (r : Reg) (v : Word) : (t.wr r v).evlog = t.evlog := by unfold Ctx.wr; split <;> rfl
@[simp] theorem Ctx.wr_evLost (r : Reg) (v : Word) : (t.wr r v).evLost = t.evLost := by unfold Ctx.wr; split <;> rfl
@[simp] theorem Ctx.wr_slackPend (r : Reg) (v : Word) : (t.wr r v).slackPend = t.slackPend := by unfold Ctx.wr; split <;> rfl
@[simp] theorem Ctx.wr_runs (r : Reg) (v : Word) : (t.wr r v).runs = t.runs := by unfold Ctx.wr; split <;> rfl
@[simp] theorem Ctx.wr_admCnt (r : Reg) (v : Word) : (t.wr r v).admCnt = t.admCnt := by unfold Ctx.wr; split <;> rfl
@[simp] theorem Ctx.wr_pts (r : Reg) (v : Word) : (t.wr r v).pts = t.pts := by unfold Ctx.wr; split <;> rfl
@[simp] theorem Ctx.wr_stores (r : Reg) (v : Word) : (t.wr r v).stores = t.stores := by unfold Ctx.wr; split <;> rfl
@[simp] theorem Ctx.wr_wait (r : Reg) (v : Word) : (t.wr r v).wait = t.wait := by unfold Ctx.wr; split <;> rfl
@[simp] theorem Ctx.wr_waitTk (r : Reg) (v : Word) : (t.wr r v).waitTk = t.waitTk := by unfold Ctx.wr; split <;> rfl
@[simp] theorem Ctx.wr_popped (r : Reg) (v : Word) : (t.wr r v).popped = t.popped := by unfold Ctx.wr; split <;> rfl
@[simp] theorem Ctx.wr_bound (r : Reg) (v : Word) : (t.wr r v).bound = t.bound := by unfold Ctx.wr; split <;> rfl
@[simp] theorem Ctx.wr_stall (r : Reg) (v : Word) : (t.wr r v).stall = t.stall := by unfold Ctx.wr; split <;> rfl
@[simp] theorem Ctx.wr_waitAt (r : Reg) (v : Word) : (t.wr r v).waitAt = t.waitAt := by unfold Ctx.wr; split <;> rfl
@[simp] theorem Ctx.wr_reached (r : Reg) (v : Word) : (t.wr r v).reached = t.reached := by unfold Ctx.wr; split <;> rfl
@[simp] theorem Ctx.wr_rendez (r : Reg) (v : Word) : (t.wr r v).rendez = t.rendez := by unfold Ctx.wr; split <;> rfl
@[simp] theorem Ctx.wr_heldSig (r : Reg) (v : Word) : (t.wr r v).heldSig = t.heldSig := by unfold Ctx.wr; split <;> rfl
@[simp] theorem Ctx.wr_waived (r : Reg) (v : Word) : (t.wr r v).waived = t.waived := by unfold Ctx.wr; split <;> rfl
@[simp] theorem Ctx.wr_endTo (r : Reg) (v : Word) : (t.wr r v).endTo = t.endTo := by unfold Ctx.wr; split <;> rfl
@[simp] theorem Ctx.wr_tendPc (r : Reg) (v : Word) : (t.wr r v).tendPc = t.tendPc := by unfold Ctx.wr; split <;> rfl
@[simp] theorem Ctx.wr_tendTk (r : Reg) (v : Word) : (t.wr r v).tendTk = t.tendTk := by unfold Ctx.wr; split <;> rfl
@[simp] theorem Ctx.wr_paid (r : Reg) (v : Word) : (t.wr r v).paid = t.paid := by unfold Ctx.wr; split <;> rfl
@[simp] theorem Ctx.wr_gotten (r : Reg) (v : Word) : (t.wr r v).gotten = t.gotten := by unfold Ctx.wr; split <;> rfl
@[simp] theorem Ctx.wr_yieldFor (r : Reg) (v : Word) : (t.wr r v).yieldFor = t.yieldFor := by unfold Ctx.wr; split <;> rfl
@[simp] theorem Ctx.wr_retired (r : Reg) (v : Word) : (t.wr r v).retired = t.retired := by unfold Ctx.wr; split <;> rfl
@[simp] theorem Ctx.wr_retiredU (r : Reg) (v : Word) : (t.wr r v).retiredU = t.retiredU := by unfold Ctx.wr; split <;> rfl
@[simp] theorem Ctx.wr_bayPend (r : Reg) (v : Word) : (t.wr r v).bayPend = t.bayPend := by unfold Ctx.wr; split <;> rfl
@[simp] theorem Ctx.wr_haltPend (r : Reg) (v : Word) : (t.wr r v).haltPend = t.haltPend := by unfold Ctx.wr; split <;> rfl
@[simp] theorem Ctx.wr_slipPend (r : Reg) (v : Word) : (t.wr r v).slipPend = t.slipPend := by unfold Ctx.wr; split <;> rfl
@[simp] theorem Ctx.wr_stopReq (r : Reg) (v : Word) : (t.wr r v).stopReq = t.stopReq := by unfold Ctx.wr; split <;> rfl

/-! `Ctx.setPl` and `Ctx.setFip`: the status alone -/
@[simp] theorem Ctx.setPl_run (l : BitVec 2) : (t.setPl l).run = t.run := rfl
@[simp] theorem Ctx.setPl_x (l : BitVec 2) : (t.setPl l).x = t.x := rfl
@[simp] theorem Ctx.setPl_pc (l : BitVec 2) : (t.setPl l).pc = t.pc := rfl
@[simp] theorem Ctx.setPl_bz (l : BitVec 2) : (t.setPl l).bz = t.bz := rfl
@[simp] theorem Ctx.setPl_sBank (l : BitVec 2) : (t.setPl l).sBank = t.sBank := rfl
@[simp] theorem Ctx.setPl_hBank (l : BitVec 2) : (t.setPl l).hBank = t.hBank := rfl
@[simp] theorem Ctx.setPl_lc (l : BitVec 2) : (t.setPl l).lc = t.lc := rfl
@[simp] theorem Ctx.setPl_fvec (l : BitVec 2) : (t.setPl l).fvec = t.fvec := rfl
@[simp] theorem Ctx.setPl_fepc (l : BitVec 2) : (t.setPl l).fepc = t.fepc := rfl
@[simp] theorem Ctx.setPl_slk (l : BitVec 2) : (t.setPl l).slk = t.slk := rfl
@[simp] theorem Ctx.setPl_gwait (l : BitVec 2) : (t.setPl l).gwait = t.gwait := rfl
@[simp] theorem Ctx.setPl_vround (l : BitVec 2) : (t.setPl l).vround = t.vround := rfl
@[simp] theorem Ctx.setPl_vseed (l : BitVec 2) : (t.setPl l).vseed = t.vseed := rfl
@[simp] theorem Ctx.setPl_seedSet (l : BitVec 2) : (t.setPl l).seedSet = t.seedSet := rfl
@[simp] theorem Ctx.setPl_sk (l : BitVec 2) : (t.setPl l).sk = t.sk := rfl
@[simp] theorem Ctx.setPl_bktBound (l : BitVec 2) : (t.setPl l).bktBound = t.bktBound := rfl
@[simp] theorem Ctx.setPl_bktAddr (l : BitVec 2) : (t.setPl l).bktAddr = t.bktAddr := rfl
@[simp] theorem Ctx.setPl_bktOvf (l : BitVec 2) : (t.setPl l).bktOvf = t.bktOvf := rfl
@[simp] theorem Ctx.setPl_perfCtl (l : BitVec 2) : (t.setPl l).perfCtl = t.perfCtl := rfl
@[simp] theorem Ctx.setPl_evlog (l : BitVec 2) : (t.setPl l).evlog = t.evlog := rfl
@[simp] theorem Ctx.setPl_evLost (l : BitVec 2) : (t.setPl l).evLost = t.evLost := rfl
@[simp] theorem Ctx.setPl_slackPend (l : BitVec 2) : (t.setPl l).slackPend = t.slackPend := rfl
@[simp] theorem Ctx.setPl_runs (l : BitVec 2) : (t.setPl l).runs = t.runs := rfl
@[simp] theorem Ctx.setPl_admCnt (l : BitVec 2) : (t.setPl l).admCnt = t.admCnt := rfl
@[simp] theorem Ctx.setPl_pts (l : BitVec 2) : (t.setPl l).pts = t.pts := rfl
@[simp] theorem Ctx.setPl_stores (l : BitVec 2) : (t.setPl l).stores = t.stores := rfl
@[simp] theorem Ctx.setPl_wait (l : BitVec 2) : (t.setPl l).wait = t.wait := rfl
@[simp] theorem Ctx.setPl_waitTk (l : BitVec 2) : (t.setPl l).waitTk = t.waitTk := rfl
@[simp] theorem Ctx.setPl_popped (l : BitVec 2) : (t.setPl l).popped = t.popped := rfl
@[simp] theorem Ctx.setPl_bound (l : BitVec 2) : (t.setPl l).bound = t.bound := rfl
@[simp] theorem Ctx.setPl_stall (l : BitVec 2) : (t.setPl l).stall = t.stall := rfl
@[simp] theorem Ctx.setPl_waitAt (l : BitVec 2) : (t.setPl l).waitAt = t.waitAt := rfl
@[simp] theorem Ctx.setPl_reached (l : BitVec 2) : (t.setPl l).reached = t.reached := rfl
@[simp] theorem Ctx.setPl_rendez (l : BitVec 2) : (t.setPl l).rendez = t.rendez := rfl
@[simp] theorem Ctx.setPl_heldSig (l : BitVec 2) : (t.setPl l).heldSig = t.heldSig := rfl
@[simp] theorem Ctx.setPl_waived (l : BitVec 2) : (t.setPl l).waived = t.waived := rfl
@[simp] theorem Ctx.setPl_endTo (l : BitVec 2) : (t.setPl l).endTo = t.endTo := rfl
@[simp] theorem Ctx.setPl_tendPc (l : BitVec 2) : (t.setPl l).tendPc = t.tendPc := rfl
@[simp] theorem Ctx.setPl_tendTk (l : BitVec 2) : (t.setPl l).tendTk = t.tendTk := rfl
@[simp] theorem Ctx.setPl_paid (l : BitVec 2) : (t.setPl l).paid = t.paid := rfl
@[simp] theorem Ctx.setPl_gotten (l : BitVec 2) : (t.setPl l).gotten = t.gotten := rfl
@[simp] theorem Ctx.setPl_yieldFor (l : BitVec 2) : (t.setPl l).yieldFor = t.yieldFor := rfl
@[simp] theorem Ctx.setPl_retired (l : BitVec 2) : (t.setPl l).retired = t.retired := rfl
@[simp] theorem Ctx.setPl_retiredU (l : BitVec 2) : (t.setPl l).retiredU = t.retiredU := rfl
@[simp] theorem Ctx.setPl_bayPend (l : BitVec 2) : (t.setPl l).bayPend = t.bayPend := rfl
@[simp] theorem Ctx.setPl_haltPend (l : BitVec 2) : (t.setPl l).haltPend = t.haltPend := rfl
@[simp] theorem Ctx.setPl_slipPend (l : BitVec 2) : (t.setPl l).slipPend = t.slipPend := rfl
@[simp] theorem Ctx.setPl_stopReq (l : BitVec 2) : (t.setPl l).stopReq = t.stopReq := rfl
@[simp] theorem Ctx.setFip_run (l : Bool) : (t.setFip l).run = t.run := rfl
@[simp] theorem Ctx.setFip_x (l : Bool) : (t.setFip l).x = t.x := rfl
@[simp] theorem Ctx.setFip_pc (l : Bool) : (t.setFip l).pc = t.pc := rfl
@[simp] theorem Ctx.setFip_bz (l : Bool) : (t.setFip l).bz = t.bz := rfl
@[simp] theorem Ctx.setFip_sBank (l : Bool) : (t.setFip l).sBank = t.sBank := rfl
@[simp] theorem Ctx.setFip_hBank (l : Bool) : (t.setFip l).hBank = t.hBank := rfl
@[simp] theorem Ctx.setFip_lc (l : Bool) : (t.setFip l).lc = t.lc := rfl
@[simp] theorem Ctx.setFip_fvec (l : Bool) : (t.setFip l).fvec = t.fvec := rfl
@[simp] theorem Ctx.setFip_fepc (l : Bool) : (t.setFip l).fepc = t.fepc := rfl
@[simp] theorem Ctx.setFip_slk (l : Bool) : (t.setFip l).slk = t.slk := rfl
@[simp] theorem Ctx.setFip_gwait (l : Bool) : (t.setFip l).gwait = t.gwait := rfl
@[simp] theorem Ctx.setFip_vround (l : Bool) : (t.setFip l).vround = t.vround := rfl
@[simp] theorem Ctx.setFip_vseed (l : Bool) : (t.setFip l).vseed = t.vseed := rfl
@[simp] theorem Ctx.setFip_seedSet (l : Bool) : (t.setFip l).seedSet = t.seedSet := rfl
@[simp] theorem Ctx.setFip_sk (l : Bool) : (t.setFip l).sk = t.sk := rfl
@[simp] theorem Ctx.setFip_bktBound (l : Bool) : (t.setFip l).bktBound = t.bktBound := rfl
@[simp] theorem Ctx.setFip_bktAddr (l : Bool) : (t.setFip l).bktAddr = t.bktAddr := rfl
@[simp] theorem Ctx.setFip_bktOvf (l : Bool) : (t.setFip l).bktOvf = t.bktOvf := rfl
@[simp] theorem Ctx.setFip_perfCtl (l : Bool) : (t.setFip l).perfCtl = t.perfCtl := rfl
@[simp] theorem Ctx.setFip_evlog (l : Bool) : (t.setFip l).evlog = t.evlog := rfl
@[simp] theorem Ctx.setFip_evLost (l : Bool) : (t.setFip l).evLost = t.evLost := rfl
@[simp] theorem Ctx.setFip_slackPend (l : Bool) : (t.setFip l).slackPend = t.slackPend := rfl
@[simp] theorem Ctx.setFip_runs (l : Bool) : (t.setFip l).runs = t.runs := rfl
@[simp] theorem Ctx.setFip_admCnt (l : Bool) : (t.setFip l).admCnt = t.admCnt := rfl
@[simp] theorem Ctx.setFip_pts (l : Bool) : (t.setFip l).pts = t.pts := rfl
@[simp] theorem Ctx.setFip_stores (l : Bool) : (t.setFip l).stores = t.stores := rfl
@[simp] theorem Ctx.setFip_wait (l : Bool) : (t.setFip l).wait = t.wait := rfl
@[simp] theorem Ctx.setFip_waitTk (l : Bool) : (t.setFip l).waitTk = t.waitTk := rfl
@[simp] theorem Ctx.setFip_popped (l : Bool) : (t.setFip l).popped = t.popped := rfl
@[simp] theorem Ctx.setFip_bound (l : Bool) : (t.setFip l).bound = t.bound := rfl
@[simp] theorem Ctx.setFip_stall (l : Bool) : (t.setFip l).stall = t.stall := rfl
@[simp] theorem Ctx.setFip_waitAt (l : Bool) : (t.setFip l).waitAt = t.waitAt := rfl
@[simp] theorem Ctx.setFip_reached (l : Bool) : (t.setFip l).reached = t.reached := rfl
@[simp] theorem Ctx.setFip_rendez (l : Bool) : (t.setFip l).rendez = t.rendez := rfl
@[simp] theorem Ctx.setFip_heldSig (l : Bool) : (t.setFip l).heldSig = t.heldSig := rfl
@[simp] theorem Ctx.setFip_waived (l : Bool) : (t.setFip l).waived = t.waived := rfl
@[simp] theorem Ctx.setFip_endTo (l : Bool) : (t.setFip l).endTo = t.endTo := rfl
@[simp] theorem Ctx.setFip_tendPc (l : Bool) : (t.setFip l).tendPc = t.tendPc := rfl
@[simp] theorem Ctx.setFip_tendTk (l : Bool) : (t.setFip l).tendTk = t.tendTk := rfl
@[simp] theorem Ctx.setFip_paid (l : Bool) : (t.setFip l).paid = t.paid := rfl
@[simp] theorem Ctx.setFip_gotten (l : Bool) : (t.setFip l).gotten = t.gotten := rfl
@[simp] theorem Ctx.setFip_yieldFor (l : Bool) : (t.setFip l).yieldFor = t.yieldFor := rfl
@[simp] theorem Ctx.setFip_retired (l : Bool) : (t.setFip l).retired = t.retired := rfl
@[simp] theorem Ctx.setFip_retiredU (l : Bool) : (t.setFip l).retiredU = t.retiredU := rfl
@[simp] theorem Ctx.setFip_bayPend (l : Bool) : (t.setFip l).bayPend = t.bayPend := rfl
@[simp] theorem Ctx.setFip_haltPend (l : Bool) : (t.setFip l).haltPend = t.haltPend := rfl
@[simp] theorem Ctx.setFip_slipPend (l : Bool) : (t.setFip l).slipPend = t.slipPend := rfl
@[simp] theorem Ctx.setFip_stopReq (l : Bool) : (t.setFip l).stopReq = t.stopReq := rfl

/-! ### Units that were written -/

@[simp] theorem State.core_setCore_self (c : Nat) (k : Core) : (s.setCore c k).core c = k := by
  simp [State.core, State.setCore]

theorem State.core_setCore_ne {c d : Nat} (k : Core) (h : d ≠ c) : (s.setCore c k).core d = s.core d := by
  simp [State.core, State.setCore, Map.get_set_ne _ _ _ h]

@[simp] theorem State.core_updCore_self (c : Nat) (f : Core → Core) : (s.updCore c f).core c = f (s.core c) := by
  simp [State.updCore]

theorem State.core_updCore_ne {c d : Nat} (f : Core → Core) (h : d ≠ c) : (s.updCore c f).core d = s.core d :=
  State.core_setCore_ne s _ h

@[simp] theorem Core.getCtx_setCtx_self (x : Nat) (t : Ctx) : (k.setCtx x t).getCtx x = t := by
  simp [Core.getCtx, Core.setCtx]

theorem Core.getCtx_setCtx_ne {x y : Nat} (t : Ctx) (h : y ≠ x) : (k.setCtx x t).getCtx y = k.getCtx y := by
  simp [Core.getCtx, Core.setCtx, Map.get_set_ne _ _ _ h]

@[simp] theorem Core.getCtx_updCtx_self (x : Nat) (f : Ctx → Ctx) : (k.updCtx x f).getCtx x = f (k.getCtx x) := by
  simp [Core.updCtx]

theorem Core.getCtx_updCtx_ne {x y : Nat} (f : Ctx → Ctx) (h : y ≠ x) : (k.updCtx x f).getCtx y = k.getCtx y :=
  Core.getCtx_setCtx_ne k _ h

@[simp] theorem State.ctx_setCtx_self (c x : Nat) (t : Ctx) : (s.setCtx c x t).ctx c x = t := by
  simp [State.ctx, State.setCtx]

@[simp] theorem State.core_setCtx_self (c x : Nat) (t : Ctx) : (s.setCtx c x t).core c = (s.core c).setCtx x t := by
  simp [State.setCtx]

theorem State.core_setCtx_ne {c d : Nat} (x : Nat) (t : Ctx) (h : d ≠ c) : (s.setCtx c x t).core d = s.core d :=
  State.core_setCore_ne s _ h

theorem State.ctx_setCtx_ne {c x d y : Nat} (t : Ctx) (h : d ≠ c ∨ y ≠ x) : (s.setCtx c x t).ctx d y = s.ctx d y := by
  by_cases hd : d = c
  · subst hd
    simp [State.ctx, Core.getCtx_setCtx_ne (s.core d) t (h.resolve_left (fun h => h rfl))]
  · simp [State.ctx, State.core_setCtx_ne s x t hd]

@[simp] theorem State.ctx_updCtx_self (c x : Nat) (f : Ctx → Ctx) : (s.updCtx c x f).ctx c x = f (s.ctx c x) := by
  simp [State.updCtx]

@[simp] theorem State.core_updCtx_self (c x : Nat) (f : Ctx → Ctx) :
    (s.updCtx c x f).core c = (s.core c).setCtx x (f (s.ctx c x)) := by
  simp [State.updCtx]

theorem State.core_updCtx_ne {c d : Nat} (x : Nat) (f : Ctx → Ctx) (h : d ≠ c) : (s.updCtx c x f).core d = s.core d :=
  State.core_setCtx_ne s x _ h

theorem State.ctx_updCtx_ne {c x d y : Nat} (f : Ctx → Ctx) (h : d ≠ c ∨ y ≠ x) : (s.updCtx c x f).ctx d y = s.ctx d y :=
  State.ctx_setCtx_ne s _ h

@[simp] theorem State.pdk_setPdk_self (b : Nat) (p : Paddock) : (s.setPdk b p).pdk b = p := by
  simp [State.pdk, State.setPdk]

theorem State.pdk_setPdk_ne {b d : Nat} (p : Paddock) (h : d ≠ b) : (s.setPdk b p).pdk d = s.pdk d := by
  simp [State.pdk, State.setPdk, Map.get_set_ne _ _ _ h]

@[simp] theorem State.pdk_updPdk_self (b : Nat) (f : Paddock → Paddock) : (s.updPdk b f).pdk b = f (s.pdk b) := by
  simp [State.updPdk]

@[simp] theorem State.func_updFunc_self (n : Nat) (f : Func → Func) : (s.updFunc n f).func n = f (s.func n) := by
  simp [State.func, State.updFunc]

theorem State.func_updFunc_ne {n m : Nat} (f : Func → Func) (h : m ≠ n) : (s.updFunc n f).func m = s.func m := by
  simp [State.func, State.updFunc, Map.get_set_ne _ _ _ h]

/-! ### The general registers (R10) -/

@[simp] theorem Ctx.rd_zero : t.rd 0#5 = 0 := rfl
@[simp] theorem Ctx.wr_zero (v : Word) : t.wr 0#5 v = t := rfl

/-- A register that is written reads the value, and x0 reads 0. -/
theorem Ctx.rd_wr_self (r : Reg) (v : Word) : (t.wr r v).rd r = if r = 0#5 then 0 else v := by
  by_cases h : r = 0#5
  · subst h; rfl
  · show (if r = 0#5 then (0 : Word) else Map.get 0 (if r = 0#5 then t else { t with x := Map.set 0 t.x r.toNat v }).x r.toNat) =
      if r = 0#5 then 0 else v
    rw [if_neg h, if_neg h, if_neg h]
    exact Map.get_set_self 0 t.x r.toNat v

/-- A register write leaves every other register alone. -/
theorem Ctx.rd_wr_ne {r q : Reg} (v : Word) (h : q ≠ r) : (t.wr r v).rd q = t.rd q := by
  by_cases hr : r = 0#5
  · subst hr; rfl
  · by_cases hq : q = 0#5
    · subst hq; rfl
    · have : q.toNat ≠ r.toNat := fun e => h (BitVec.eq_of_toNat_eq e)
      show (if q = 0#5 then (0 : Word) else Map.get 0 (if r = 0#5 then t else { t with x := Map.set 0 t.x r.toNat v }).x q.toNat) =
        if q = 0#5 then 0 else Map.get 0 t.x q.toNat
      rw [if_neg hr, if_neg hq, if_neg hq]
      exact Map.get_set_ne 0 t.x v this

end Sys2Proof.Machine
end

