-- ==== Sys2Proof/Laws/Memory.lean ====
section
/-!
SUPPORT. The bytes at their homes: a read after a write, what a write leaves alone, and that every memory operation keeps the
canonical form.
-/
namespace Sys2Proof.Machine

variable (s : State)

@[simp] theorem State.byteAt_setByte_self (pa : Nat) (v : Byte) : (s.setByte pa v).byteAt pa = v := by
  simp [State.byteAt, State.setByte]

theorem State.byteAt_setByte_ne {pa a : Nat} (v : Byte) (h : a ≠ pa) : (s.setByte pa v).byteAt a = s.byteAt a := by
  simp [State.byteAt, State.setByte, Map.get_set_ne _ _ _ h]

theorem State.setByte_rest (pa : Nat) (v : Byte) : s.setByte pa v = { s with mem := (s.setByte pa v).mem } := rfl

theorem State.homeWrite_rest (pa n v : Nat) : s.homeWrite pa n v = { s with mem := (s.homeWrite pa n v).mem } := by
  induction n generalizing s pa v with
  | zero => rfl
  | succ m ih =>
    show (s.setByte pa (BitVec.ofNat 8 v)).homeWrite (pa + 1) m (v / 256) = _
    rw [ih]; rfl

/-- A store of `n` bytes changes no byte outside them. -/
theorem State.byteAt_homeWrite_ne {pa n v a : Nat} (h : a < pa ∨ pa + n ≤ a) :
    (s.homeWrite pa n v).byteAt a = s.byteAt a := by
  induction n generalizing s pa v with
  | zero => rfl
  | succ m ih =>
    show ((s.setByte pa (BitVec.ofNat 8 v)).homeWrite (pa + 1) m (v / 256)).byteAt a = _
    rw [ih _ (by omega), State.byteAt_setByte_ne _ _ (by omega)]

/-- A store of `n` bytes writes them little-endian (R8). -/
theorem State.byteAt_homeWrite {pa n v i : Nat} (h : i < n) :
    (s.homeWrite pa n v).byteAt (pa + i) = BitVec.ofNat 8 (v / 256 ^ i) := by
  induction n generalizing s pa v i with
  | zero => omega
  | succ m ih =>
    show ((s.setByte pa (BitVec.ofNat 8 v)).homeWrite (pa + 1) m (v / 256)).byteAt (pa + i) = _
    cases i with
    | zero => rw [State.byteAt_homeWrite_ne _ (by omega)]; simp
    | succ j =>
      rw [show pa + (j + 1) = pa + 1 + j by omega, ih _ (by omega), Nat.div_div_eq_div_mul, Nat.pow_succ, Nat.mul_comm 256]

theorem State.homeRead_congr {t : State} {pa n : Nat} (h : ∀ i, i < n → t.byteAt (pa + i) = s.byteAt (pa + i)) :
    t.homeRead pa n = s.homeRead pa n := by
  induction n generalizing pa with
  | zero => rfl
  | succ m ih =>
    have h0 := h 0 (by omega)
    simp only [Nat.add_zero] at h0
    simp only [State.homeRead, h0]
    rw [ih (fun i hi => by have := h (i + 1) (by omega); rwa [show pa + (i + 1) = pa + 1 + i by omega] at this)]

/-- A read of what a store has written gives the stored number. -/
theorem State.homeRead_homeWrite (pa n v : Nat) : (s.homeWrite pa n v).homeRead pa n = v % 256 ^ n := by
  induction n generalizing s pa v with
  | zero => simp [State.homeRead, Nat.mod_one]
  | succ m ih =>
    have h0 := State.byteAt_homeWrite s (pa := pa) (n := m + 1) (v := v) (i := 0) (by omega)
    simp only [Nat.add_zero, Nat.pow_zero, Nat.div_one] at h0
    show ((s.homeWrite pa (m + 1) v).byteAt pa).toNat + 256 * (s.homeWrite pa (m + 1) v).homeRead (pa + 1) m = _
    rw [h0]
    show _ + 256 * ((s.setByte pa (BitVec.ofNat 8 v)).homeWrite (pa + 1) m (v / 256)).homeRead (pa + 1) m = _
    rw [ih, BitVec.toNat_ofNat, show 256 ^ (m + 1) = 256 * 256 ^ m from by rw [Nat.pow_succ, Nat.mul_comm], Nat.mod_mul]

/-- A read of bytes that a store does not touch gives what it gave. -/
theorem State.homeRead_homeWrite_ne {pa n v a m : Nat} (h : a + m ≤ pa ∨ pa + n ≤ a) :
    (s.homeWrite pa n v).homeRead a m = s.homeRead a m :=
  State.homeRead_congr s (fun i hi => State.byteAt_homeWrite_ne s (by omega))

/-! ### The canonical form (log 2) -/

theorem Memory.reset_wf : Memory.wf State.reset.mem := Map.nil_wf 0

theorem State.setByte_wf (h : Memory.wf s.mem) (pa : Nat) (v : Byte) : Memory.wf (s.setByte pa v).mem := Map.set_wf 0 h pa v

theorem State.homeWrite_wf (h : Memory.wf s.mem) (pa n v : Nat) : Memory.wf (s.homeWrite pa n v).mem := by
  induction n generalizing s pa v with
  | zero => exact h
  | succ m ih => exact ih _ (State.setByte_wf s h pa _) _ _

/-- Data that follows its storage to other addresses is in canonical form (R410). -/
theorem rekey_wf {α : Type} [DecidableEq α] (d : α) (u : Nat) (old new : List Ilv) (m : Map α) : Map.wf d (rekey d u old new m) := by
  have h : ∀ (l a : Map α), Map.wf d a →
      Map.wf d (l.foldl (fun a e => Map.set d a (keyPlace new (storeKey old (u * e.1)) / u) e.2) a) := by
    intro l
    induction l with
    | nil => exact fun a ha => ha
    | cons e r ih => exact fun a ha => ih _ (Map.set_wf d ha _ _)
  exact h _ _ (Map.nil_wf d)

theorem State.remapped_wf (t : State) (h : Memory.wf t.mem) : Memory.wf (s.remapped t).mem := by
  unfold State.remapped
  by_cases hr : s.ranges = t.ranges
  · simpa [hr] using h
  · simpa only [hr, if_false] using rekey_wf 0 1 s.ranges t.ranges t.mem

theorem State.homeWords_wf (h : Memory.wf s.mem) (ln : Nat) (l : Line) (mask : BitVec 32) :
    Memory.wf (s.homeWords ln l mask).mem := by
  unfold State.homeWords
  generalize List.range 32 = js
  induction js generalizing s with
  | nil => exact h
  | cons j r ih =>
    refine ih _ ?_
    dsimp only
    split
    · exact State.homeWrite_wf s h _ _ _
    · exact h

end Sys2Proof.Machine
end

