-- ==== Sys2Proof/Laws/Spad.lean ====
section
/-!
SUPPORT. What a scratchpad line with an uncorrectable sector reads as, and which sectors a write mends (R189, R225).
-/
namespace Sys2Proof.Machine
variable (k : Core)
@[simp] theorem Core.mendSec_spad (ln : Nat) (keep : Line) : (k.mendSec ln keep).spad = k.spad := rfl
@[simp] theorem Core.mendSec_wins (ln : Nat) (keep : Line) : (k.mendSec ln keep).wins = k.wins := rfl

/-- A core without a mapped window has no line in one. -/
theorem Core.windowOf_of_none (h : k.wins = []) (ln : Nat) : k.windowOf ln = none := by
  simp [Core.windowOf, Core.window, h, Map.get]

/-- A line without an uncorrectable sector reads as what it holds. -/
theorem Core.spadLine_of_good (ln : Nat) (h : k.badLine ln = false) : k.spadLine ln = k.heldLine ln := by
  simp [Core.spadLine, h]

/-- A line with an uncorrectable sector reads as zero (R189). -/
theorem Core.spadLine_of_bad (ln : Nat) (h : k.badLine ln = true) : k.spadLine ln = 0 := by
  simp [Core.spadLine, h]

/-- A write of a whole line leaves no uncorrectable sector in it (R225). -/
theorem Core.mendSec_whole (ln : Nat) : (k.mendSec ln 0).badLine ln = false := by
  simp [Core.mendSec, Core.badLine]

/-- A write of a line leaves the sectors of other lines as they are. -/
theorem Core.mendSec_other (ln m : Nat) (keep : Line) (h : m ≠ ln) : (k.mendSec ln keep).badLine m = k.badLine m := by
  simp only [Core.mendSec, Core.badLine, List.any_filter]
  congr 1
  funext x
  by_cases hx : x / 4 = m <;> simp [hx, h]
end Sys2Proof.Machine
end

