-- ==== Sys2Proof/Laws/Words.lean ====
section
/-!
SUPPORT. The path of a word from issue to completion: what each shared operation can change, and what `control` answers when
the word issues.
-/
namespace Sys2Proof.Machine

/-! ### Frames compose -/

theorem CoreFrame.refl (s : State) (c : Nat) : CoreFrame s s c := ⟨rfl, ⟨.refl _, fun _ h _ => h⟩, fun _ _ => rfl⟩

theorem CoreFrame.trans {s t u : State} {c : Nat} (h : CoreFrame s t c) (g : CoreFrame t u c) : CoreFrame s u c where
  rest := by
    obtain ⟨h, -⟩ := h
    obtain ⟨g, -⟩ := g
    rw [g, h]
  asks := ⟨g.asks.1.trans h.asks.1, fun r hr hc => g.asks.2 r (h.asks.2 r hr hc) hc⟩
  others d hd := (g.others d hd).trans (h.others d hd)

theorem CtxFrame.refl (s : State) (c x : Nat) : CtxFrame s s c x := ⟨CoreFrame.refl s c, rfl, fun _ _ => rfl⟩

theorem CtxFrame.trans {s t u : State} {c x : Nat} (h : CtxFrame s t c x) (g : CtxFrame t u c x) : CtxFrame s u c x where
  toCoreFrame := h.toCoreFrame.trans g.toCoreFrame
  unit := by rw [g.unit, h.unit]
  ctxs y hy := (g.ctxs y hy).trans (h.ctxs y hy)

theorem CtxFrame.cur_eq {s t : State} {c x : Nat} (h : CtxFrame s t c x) : t.cur = s.cur := by rw [h.rest]
theorem CtxFrame.mem_eq {s t : State} {c x : Nat} (h : CtxFrame s t c x) : t.mem = s.mem := by rw [h.rest]

/-! ### The shared operations keep the frame -/

theorem CtxFrame.updCore {s : State} {c x : Nat} {f : Core → Core}
    (h : f (s.core c) = { s.core c with fifo := (f (s.core c)).fifo, fresh := (f (s.core c)).fresh, perf := (f (s.core c)).perf, hypPerf := (f (s.core c)).hypPerf, ringWait := (f (s.core c)).ringWait }) :
    CtxFrame s (s.updCore c f) c x where
  rest := rfl
  asks := ⟨.refl _, fun _ h _ => h⟩
  others d hd := State.core_updCore_ne s f hd
  unit := by
    rw [State.core_updCore_self]
    exact h.trans (by rw [h])
  ctxs y _ := by
    show ((s.updCore c f).core c).getCtx y = (s.core c).getCtx y
    rw [State.core_updCore_self, h]; rfl

theorem CtxFrame.setCtx (s : State) (c x : Nat) (t : Ctx) : CtxFrame s (s.setCtx c x t) c x where
  rest := rfl
  asks := ⟨.refl _, fun _ h _ => h⟩
  others d hd := State.core_setCtx_ne s x t hd
  unit := by rw [State.core_setCtx_self]; rfl
  ctxs y hy := State.ctx_setCtx_ne s t (.inr hy)

theorem CtxFrame.updCtx (s : State) (c x : Nat) (f : Ctx → Ctx) : CtxFrame s (s.updCtx c x f) c x := CtxFrame.setCtx s c x _

theorem CtxFrame.count (s : State) (c x y ev n : Nat) : CtxFrame s (s.count c y ev n) c x := by
  unfold State.count
  split
  · exact CtxFrame.refl s c x
  · refine CtxFrame.updCore ?_
    unfold Core.count
    split
    · rfl
    · split <;> rfl

theorem foldl_pop (fs : List Nat) (k : Core) : fs.foldl Core.pop k = { k with fifo := (fs.foldl Core.pop k).fifo } := by
  induction fs generalizing k with
  | nil => rfl
  | cons f r ih =>
    show r.foldl Core.pop (k.pop f) = { k with fifo := (r.foldl Core.pop (k.pop f)).fifo }
    rw [ih]; rfl

theorem CtxFrame.popAll (s : State) (c x y : Nat) (fs : List Nat) : CtxFrame s (s.popAll c y fs) c x := by
  unfold State.popAll
  split
  · exact CtxFrame.refl s c x
  · refine CtxFrame.trans (CtxFrame.updCore ?_) (CtxFrame.count _ c x y 13 _)
    rw [foldl_pop]

theorem CtxFrame.signal (s : State) (c x f : Nat) : CtxFrame s (s.signal c x f) c x := by
  unfold State.signal
  dsimp only
  split
  · exact CtxFrame.updCore rfl
  · exact CtxFrame.setCtx s c x _

theorem CtxFrame.holdSignals (s : State) (c x : Nat) : CtxFrame s (s.holdSignals c x) c x := by
  unfold State.holdSignals
  dsimp only
  split
  · split
    · exact CtxFrame.setCtx s c x _
    · exact CtxFrame.refl s c x
  · exact CtxFrame.refl s c x

theorem CtxFrame.signals (s : State) (c x : Nat) (fs : List Nat) : CtxFrame s (s.signals c x fs) c x := by
  unfold State.signals
  refine CtxFrame.trans ?_ (CtxFrame.holdSignals _ c x)
  induction fs generalizing s with
  | nil => exact CtxFrame.refl s c x
  | cons f r ih => exact (CtxFrame.signal s c x f).trans (ih _)

theorem CtxFrame.retireAt (s : State) (c x : Nat) (b : Bool) : CtxFrame s (s.retireAt c x b) c x :=
  (CtxFrame.updCtx s c x _).trans (CtxFrame.count _ c x x 1 1)

theorem CtxFrame.finishWord (s : State) (c x : Nat) (k : Tk) : CtxFrame s (finishWord s c x k) c x :=
  ((CtxFrame.retireAt s c x _).trans (CtxFrame.updCtx _ c x _)).trans (CtxFrame.signals _ c x _)

theorem CtxFrame.holdAt (s : State) (c x : Nat) (k : Tk) (w : Wait) (b : Nat) : CtxFrame s (s.holdAt c x k w b) c x := by
  unfold State.holdAt
  refine CtxFrame.trans ?_ (CtxFrame.updCtx _ c x _)
  split
  · exact CtxFrame.updCore rfl
  · exact CtxFrame.refl s c x

theorem CtxFrame.arise (s : State) (c x kind : Nat) (cz : BitVec 5) (v pc : Word) :
    CtxFrame s (s.arise kind c x cz v pc) c x := by
  unfold State.arise
  dsimp only
  split
  · exact CtxFrame.refl s c x
  · exact ⟨⟨rfl, ⟨.refl _, fun _ h _ => h⟩, fun _ _ => rfl⟩, rfl, fun _ _ => rfl⟩

theorem Core.unpop_frame (k : Core) (f : Nat) : k.unpop f = { k with fifo := (k.unpop f).fifo, fresh := (k.unpop f).fresh } := by
  unfold Core.unpop; first | rfl | (split <;> rfl)

theorem foldl_unpop (fs : List Nat) (k : Core) :
    fs.foldl Core.unpop k = { k with fifo := (fs.foldl Core.unpop k).fifo, fresh := (fs.foldl Core.unpop k).fresh } := by
  induction fs generalizing k with
  | nil => rfl
  | cons f r ih =>
    show r.foldl Core.unpop (k.unpop f) =
      { k with fifo := (r.foldl Core.unpop (k.unpop f)).fifo, fresh := (r.foldl Core.unpop (k.unpop f)).fresh }
    rw [ih, Core.unpop_frame]

theorem CtxFrame.unpop (s : State) (c x y : Nat) (fs : List Nat) : CtxFrame s (s.unpop c y fs) c x := by
  unfold State.unpop
  split
  · exact CtxFrame.refl s c x
  · refine CtxFrame.trans (CtxFrame.updCore ?_) (CtxFrame.count _ c x y 13 _)
    rw [foldl_unpop]

theorem CtxFrame.giveBack (s : State) (c x : Nat) : CtxFrame s (s.giveBack c x) c x := by
  unfold State.giveBack
  exact CtxFrame.unpop s c x x _

/-- A trap withdraws the request for a lot that its context waits for (R280). -/
theorem CtxFrame.withdraw (s : State) (c x : Nat) : CtxFrame s (s.withdraw c x) c x := by
  unfold State.withdraw
  split
  · refine ⟨⟨rfl, ⟨List.filter_sublist, fun r h hc => ?_⟩, fun _ _ => rfl⟩, rfl, fun _ _ => rfl⟩
    simp [h, hc]
  · exact CtxFrame.refl s c x

/-- Taking a trap changes the context alone, its counters, and what the halter notes (R23, R25, R350). -/
theorem CtxFrame.takeTrap (s : State) (c x : Nat) (cz : BitVec 5) (v pc : Word) : CtxFrame s (takeTrap s c x cz v pc) c x := by
  unfold Sys2Proof.Machine.takeTrap
  refine ((CtxFrame.giveBack s c x).trans (CtxFrame.withdraw _ c x)).trans ?_
  generalize (s.giveBack c x).withdraw c x = s
  dsimp only
  split
  · exact (CtxFrame.setCtx s c x _).trans (CtxFrame.count _ c x x 7 1)
  · have h1 : CtxFrame s (if cz = Cause.fut then s.count c x 7 1 else s) c x := by
      split
      · exact CtxFrame.count s c x x 7 1
      · exact CtxFrame.refl s c x
    refine h1.trans ?_
    generalize (if cz = Cause.fut then s.count c x 7 1 else s) = s1
    generalize (if trapLevel cz (s.ctx c x).unwait.pl = 1#2 then (s.ctx c x).unwait.stip else (s.ctx c x).unwait.htip) = tip
    have h2 (u r : Ctx) : CtxFrame s1 (if tip then (s1.setCtx c x u).arise 3 c x cz v pc else s1.setCtx c x r) c x := by
      split
      · exact (CtxFrame.setCtx s1 c x _).trans (CtxFrame.arise _ c x 3 cz v pc)
      · exact CtxFrame.setCtx s1 c x _
    split
    · exact (h2 _ _).trans (CtxFrame.arise _ c x 2 cz v pc)
    · split
      · exact (h2 _ _).trans (CtxFrame.arise _ c x 1 cz v pc)
      · exact h2 _ _

/-! ### What a word's answer changes -/

/-- The answers of a body that changes its own context alone. -/
def Res.Frame (s : State) (c x : Nat) (r : Res) : Prop :=
  match r with
  | .done t | .stored t | .goto t _ | .jump t _ | .ret t _ | .stay t | .trapIn t _ _ | .holdIn t _ _ | .sent t _ | .again t _ =>
    CtxFrame s t c x
  | .park | .trap _ _ | .own _ _ | .hold _ _ => True

theorem CtxFrame.settle {s s1 : State} {c x : Nat} (i : Instr) (k : Tk) {r : Res} (h0 : CtxFrame s s1 c x)
    (h : r.Frame s1 c x) : CtxFrame s (settle s c x i k r) c x := by
  unfold Sys2Proof.Machine.settle
  dsimp only
  split
  · split <;> exact CtxFrame.takeTrap s c x _ _ _
  · exact CtxFrame.takeTrap s c x _ _ _
  · exact CtxFrame.takeTrap s c x _ _ _
  · exact CtxFrame.takeTrap s c x _ _ _
  · exact ((h0.trans h).trans (CtxFrame.unpop _ c x x _)).trans (CtxFrame.takeTrap _ c x _ _ _)
  · exact (h0.trans h).trans (CtxFrame.finishWord _ c x k)
  · exact (h0.trans h).trans (CtxFrame.finishWord _ c x Tk.none)
  · exact (h0.trans h).trans (((CtxFrame.retireAt _ c x _).trans (CtxFrame.updCtx _ c x _)).trans (CtxFrame.signals _ c x _))
  · exact (h0.trans h).trans (((CtxFrame.retireAt _ c x _).trans (CtxFrame.updCtx _ c x _)).trans (CtxFrame.signals _ c x _))
  · exact (h0.trans h).trans (((CtxFrame.retireAt _ c x _).trans (CtxFrame.updCtx _ c x _)).trans (CtxFrame.signals _ c x _))
  · exact (h0.trans h).trans ((CtxFrame.retireAt _ c x _).trans (CtxFrame.signals _ c x _))
  · exact CtxFrame.updCtx s c x _
  · exact CtxFrame.holdAt s c x k _ _
  · exact (h0.trans h).trans ((CtxFrame.holdAt _ c x _ _ _).trans (CtxFrame.updCtx _ c x _))
  · exact (h0.trans h).trans (CtxFrame.holdAt _ c x _ _ _)
  · exact ((h0.trans h).trans (CtxFrame.unpop _ c x x _)).trans (CtxFrame.holdAt _ c x _ _ _)

/-- A control word whose body changes its own context alone changes that context alone. -/
theorem controlAt_frame {lvl : BitVec 2} {i : Instr} {k : Tk} {s t : State} {body : Nat → Nat → State → Res}
    (hb : ∀ s', (body s.cur.1 s.cur.2 s').Frame s' s.cur.1 s.cur.2) (h : controlAt lvl i k s body = .next t) :
    CtxFrame s t s.cur.1 s.cur.2 := by
  unfold controlAt at h
  dsimp only at h
  split at h
  · cases h; exact CtxFrame.settle (r := .trap _ _) i k (CtxFrame.refl s _ _) trivial
  · split at h
    · cases h; exact CtxFrame.settle (r := .trap _ _) i k (CtxFrame.refl s _ _) trivial
    · split at h
      · cases h
        split
        · exact CtxFrame.settle i k (CtxFrame.refl s _ _) (hb _)
        · exact CtxFrame.holdAt s _ _ k _ _
      · split at h
        · split at h
          · cases h; exact CtxFrame.settle i k (CtxFrame.refl s _ _) (hb _)
          · cases h; exact (CtxFrame.updCtx s _ _ _).trans (CtxFrame.holdAt _ _ _ k _ _)
        · cases h; exact CtxFrame.settle i k (CtxFrame.popAll s _ _ _ _) (hb _)

/-- A word whose effect is a register write changes its own context alone. -/
theorem regWord_frame {i : Instr} {k : Tk} {d : Reg} {s t : State} {f : Ctx → Word} (h : regWord i k d s f = .next t) :
    CtxFrame s t s.cur.1 s.cur.2 := by
  unfold regWord control at h
  exact controlAt_frame (fun s' => by exact CtxFrame.updCtx s' s.cur.1 s.cur.2 _) h

/-! ### A word that issues -/

theorem controlAt_issues {lvl : BitVec 2} {i : Instr} {k : Tk} {s : State} {body : Nat → Nat → State → Res}
    (h : Issues lvl i k s) :
    controlAt lvl i k s body = .next (settle s s.cur.1 s.cur.2 i k (body s.cur.1 s.cur.2 (s.issued k))) := by
  have hl : ¬ (s.ctx s.cur.1 s.cur.2).pl < lvl := by
    have := h.level
    simp only [State.now] at this
    exact BitVec.not_lt.2 this
  have hm : ¬ (k.y = true ∧ (s.ctx s.cur.1 s.cur.2).rendez = false ∧ (s.core s.cur.1).othersRun s.cur.2 = true) := by
    rintro ⟨a, b, c⟩
    rcases h.meets with m | m | m
    · simp [a] at m
    · simp only [State.now] at m; simp [m] at b
    · simp [c] at m
  unfold controlAt
  simp only [h.fields, Bool.true_eq_false, if_false, hl, h.tokens, hm]
  rfl

theorem popAll_cur (s : State) (c x : Nat) (fs : List Nat) : (s.popAll c x fs).cur = s.cur :=
  (CtxFrame.popAll s c x x fs).cur_eq

@[simp] theorem issued_cur (s : State) (k : Tk) : (s.issued k).cur = s.cur := popAll_cur s _ _ _

/-- The answer of a body that completes is the completed word. -/
theorem settle_done {s t : State} {i : Instr} {k : Tk} {c x : Nat}
    (h : isTransfer i = false ∨ (s.ctx c x).loopAt (s.ctx c x).pc = none) :
    settle s c x i k (.done t) = finishWord t c x k := by
  have : (isTransfer i && ((s.ctx c x).loopAt (s.ctx c x).pc).isSome) = false := by
    rcases h with h | h <;> simp [h]
  unfold settle
  simp only [this]

theorem control_done {lvl : BitVec 2} {i : Instr} {k : Tk} {s t : State} {body : Nat → Nat → State → Res}
    (h : Issues lvl i k s) (hb : body s.cur.1 s.cur.2 (s.issued k) = .done t) :
    controlAt lvl i k s body = .next (finishWord t s.cur.1 s.cur.2 k) := by
  rw [controlAt_issues h, hb, settle_done h.noNest]

/-- A register word that issues writes its register and completes. -/
theorem regWord_done {i : Instr} {k : Tk} {d : Reg} {s : State} {f : Ctx → Word} (h : Issues 0 i k s) :
    regWord i k d s f =
      .next (finishWord ((s.issued k).updCtx s.cur.1 s.cur.2 (fun t => t.wr d (f t))) s.cur.1 s.cur.2 k) := by
  unfold regWord control
  exact control_done h rfl

end Sys2Proof.Machine
end

