-- ==== Sys2Proof/Tests/Slice0.lean ====
section
/-!
SUPPORT. Tests: words written out from the encodings of the spec, ill-formed terms, single steps, and for every statement with
hypotheses a state that meets them.
-/
namespace Sys2Proof.Tests
open Sys2Proof Sys2Proof.Machine
set_option Elab.async false

/-! ### Words of the spec's encodings (R36 to R47, and each family's own tables) -/

theorem test_decode_alu : decode 0x00272981#32 = some (.sub Tk.none 7 5 6) := by decide +kernel
theorem test_decode_bne : decode 0x00c460fd#32 = some (.bne Tk.none 3 0 0xfd) := by decide +kernel
theorem test_decode_loop : decode 0x01405803#32 = some (.lpset Tk.none 0 11 3) ∧
    decode 0x01470100#32 = some (.lpresEntry Tk.none 7 0) := by decide +kernel
theorem test_decode_wait : decode 0x07440380#32 = some (.pwait Tk.none 4 0x80) := by decide +kernel
theorem test_decode_csr : decode 0x03050018#32 = some (.csrr Tk.none 5 0x18) ∧
    decode 0x03002a02#32 = some (.csrw Tk.none 0 5 2) := by decide +kernel
theorem test_decode_trap : decode 0x03200200#32 = some (.eret Tk.none) ∧ decode 0x03400000#32 = some (.tend Tk.none) := by
  decide +kernel
theorem test_decode_memory : decode 0x12250b00#32 = some (.sd ⟨false, false, false, true, false⟩ 5 1 0) ∧
    decode 0x82060b00#32 = some (.ld ⟨true, false, false, false, false⟩ 6 1 0) := by decide +kernel
theorem test_decode_amo : decode 0x026531c1#32 = some (.amoadd Tk.none 5 6 7 1) ∧
    decode 0x026531d2#32 = some (.amocas Tk.none 5 6 7 0) := by decide +kernel
theorem test_decode_order : decode 0x02a00002#32 = some (.fence Tk.none 2) ∧ decode 0x02a00300#32 = some (.invi Tk.none 0) := by
  decide +kernel
theorem test_decode_block : decode 0x02835004#32 = some (.lblk Tk.none 3 10 4) ∧
    decode 0x02c12140#32 = some (.smap Tk.none 1 4 5) := by decide +kernel
theorem test_decode_sets : decode 0x02e50000#32 = some (.aage Tk.none 5) ∧ decode 0x02e63900#32 = some (.aheld Tk.none 6 7) := by
  decide +kernel
theorem test_decode_vector : decode 0x140110c0#32 = some (.vadd ⟨false, false, false, true, false⟩ 1 2 3 0) ∧
    decode 0x04805000#32 = some (.vld Tk.none 0 10) ∧ decode 0x04fff800#32 = some (.vmov Tk.none 31 31) := by decide +kernel
theorem test_decode_queue : decode 0x05630201#32 = some (.egrd 3 1) ∧ decode 0x05600106#32 = some (.eqf false 6) := by
  decide +kernel
theorem test_decode_matrix : decode 0x052002c0#32 = some (.mxmm Tk.none 0 0 11) ∧
    decode 0x05000300#32 = some (.mxzero Tk.none 0) ∧ decode 0x05210002#32 = some (.mxrank Tk.none 1 0 0) := by decide +kernel
theorem test_decode_copy : decode 0x0580090a#32 = some (.cpin Tk.none 0 1 4 5) ∧
    decode 0x0606118e#32 = some (.cpoq Tk.none 3 2 6 7) := by decide +kernel
theorem test_decode_admission : decode 0x07ca5842#32 = some (.admtk Tk.none 10 11 1) ∧
    decode 0x07c84801#32 = some (.admctr Tk.none 8 9) := by decide +kernel
theorem test_decode_ring : decode 0x07251080#32 = some (.rgclaim Tk.none 5 2 0x80) ∧
    decode 0x07222401#32 = some (.rgstatSet Tk.none 2 4) := by decide +kernel
theorem test_decode_scalar_fp : decode 0x01872981#32 = some (.fsubD Tk.none 7 5 6) ∧ decode 0x01650300#32 = some (.cid Tk.none 5) := by
  decide +kernel
theorem test_decode_shared : decode 0x0620090a#32 = some (.xput Tk.none 0 0 1 4 5) := by decide +kernel
theorem test_decode_illegal : decode 0x00000000#32 = none ∧ decode 0xffffffff#32 = none ∧ decode 0x03e00000#32 = none := by
  decide +kernel

/-! ### Terms that no word stands for, one for each check of WellFormed -/

theorem test_ill_formed_scalar : ∀ i ∈ [Instr.lpset Tk.none 4 0 1, .lpset Tk.none 0 0 0, .lpresEntry Tk.none 0 4, .lpresExit Tk.none 4,
    .cstart Tk.none 4 0, .cstop Tk.none 4, .cwait Tk.none 4 0, .lblk Tk.none 16 0 1, .lblk Tk.none 0 0 0, .lblk Tk.none 0 0 65,
    .wblk Tk.none 16 0, .eblk Tk.none 16 0, .fence Tk.none 5, .acq Tk.none 5, .rel Tk.none 5, .invi Tk.none 5, .smap Tk.none 16 0 0,
    .sunmap Tk.none 16, .sflush Tk.none 16, .sstat Tk.none 0 16, .trap Tk.none 0 18, .tlnc Tk.none 16 0 0, .tlnc Tk.none 0 0 16,
    .twid Tk.none 0 7, .slk Tk.none 16], i.wf = false := by decide +kernel
theorem test_ill_formed_vector : ∀ i ∈ [Instr.vadd Tk.none 0 0 0 3, .vsub Tk.none 0 0 0 3, .vmul Tk.none 0 0 0 3, .vfma Tk.none 0 0 0 3,
    .vmax Tk.none 0 0 0 3, .vmin Tk.none 0 0 0 3, .vabs Tk.none 0 0 3, .vneg Tk.none 0 0 3, .vcmplt Tk.none 0 0 0 3, .vcmplt Tk.none 8 0 0 0,
    .vcmpeq Tk.none 0 0 0 3, .vcmpeq Tk.none 8 0 0 0, .vcvt Tk.none 0 0 28 0, .vcvt Tk.none 0 0 0 5, .vbmax Tk.none 0 0 0, .vq Tk.none 0 0 16 0,
    .vq Tk.none 0 0 0 5, .vdq Tk.none 0 0 16 0, .vdq Tk.none 0 0 0 5, .vredmax Tk.none 0 0 3 0, .vredsum Tk.none 0 0 3 0,
    .vredmin Tk.none 0 0 3 0, .vpushc Tk.none 0 8, .vpopc Tk.none 0 8], i.wf = false := by decide +kernel
theorem test_ill_formed_select : ∀ i ∈ [Instr.vbal Tk.none 16 0, .vbal Tk.none 0 2, .vsoftk Tk.none 0 0 0, .vsoftk Tk.none 0 0 9,
    .vsoftk Tk.none 31 0 1, .vhist Tk.none 0 0 8, .vsel Tk.none 0 0 8, .vlane Tk.none 16 0 0, .vmset Tk.none 8 0 0, .vmset Tk.none 0 0 4,
    .vmset Tk.none 0 1 3], i.wf = false := by decide +kernel
theorem test_ill_formed_matrix : ∀ i ∈ [Instr.mxfmt Tk.none 16 0, .mxgo Tk.none 16 0, .mxstat Tk.none 16 0, .mxzero Tk.none 4,
    .mxmm Tk.none 4 0 0, .mxbin Tk.none 4 0 0, .mxsp Tk.none 4 0 0, .mxrank Tk.none 4 0 0, .mxrank Tk.none 0 4 0, .mxrank Tk.none 0 1 16,
    .mxrank Tk.none 1 1 0, .mxst Tk.none 4 0 0, .mxst Tk.none 0 0 16, .mxld Tk.none 4 0 0, .mxld Tk.none 0 0 16, .mxtov Tk.none 0 4 0,
    .mxtov Tk.none 0 0 16, .mxfromv Tk.none 4 0 0, .mxfromv Tk.none 0 0 16], i.wf = false := by decide +kernel
theorem test_ill_formed_queue : ∀ i ∈ [Instr.enote Tk.none 3, .eqf false 1, .eqf false 0, .egrd 16 0, .tkrcv Tk.none 3 0, .tktry Tk.none 0 3,
    .rgclaim Tk.none 0 16 0, .rgfill Tk.none 16, .rgwait Tk.none 0 16 0, .rgfree Tk.none 16, .rgstat Tk.none 0 16,
    .rgstatSet Tk.none 16 0, .rgstatSave Tk.none 16 0, .pwr Tk.none 16 0, .pclr Tk.none 16, .pwait Tk.none 16 0, .prd Tk.none 0 16,
    .admtk Tk.none 0 0 2], i.wf = false := by decide +kernel

/-- A word of an ill-formed term decodes to nothing (R40, R49). -/
theorem test_ill_formed_words : decode (encode (.trap Tk.none 0 18)) = none ∧ decode (encode (.vadd Tk.none 0 0 0 3)) = none ∧
    decode (encode (.prd Tk.none 0 16)) = none := by decide +kernel

/-! ### One step of the matrix engine -/

/-- A step of `mxmm` that is still to read its operands adds to what its tile holds (R202: `t[i][j] + …`), not to its own rows. -/
theorem test_step_reads_its_tile :
    let p : StepIn := { kind := 0, mode := 0, e := 0, tile := 3, zero := false, a := .spad 0, b := .popped 0 0 }
    let f : Flight := { ent := { ins := .mxmm Tk.none 3 0 0 }, wclk := 8, rclk := 8, writes := tileWrites 3 [], step := some p }
    let k : Core := { Core.reset with mxe := { Core.reset.mxe with t := [(384, 7)], q := { Core.reset.mxe.q with fl := [f] } } }
    ((k.tileNow 3).headD []).headD 0 = 7 := by decide +kernel

/-! ### States for the witnesses -/

/-- What Issues asks, as a test. -/
def issuesB (lvl : BitVec 2) (i : Instr) (k : Tk) (s : State) : Bool :=
  i.wf && decide (lvl ≤ s.now.pl) && (emptyWait (s.core s.cur.1) (waitFifos k s.cur.2)).isNone &&
    (! k.y || s.now.rendez || ! (s.core s.cur.1).othersRun s.cur.2) && (! isTransfer i || (s.now.loopAt s.now.pc).isNone)
theorem issues_iff (lvl : BitVec 2) (i : Instr) (k : Tk) (s : State) : Issues lvl i k s ↔ issuesB lvl i k s = true := by
  constructor
  · rintro ⟨h1, h2, h3, h4, h5⟩
    rcases h4 with h4 | h4 | h4 <;> rcases h5 with h5 | h5 <;> simp [issuesB, h1, h2, h3, h4, h5]
  · intro h
    simp only [issuesB, Bool.and_eq_true, Bool.or_eq_true, Bool.not_eq_true', decide_eq_true_eq, Option.isNone_iff_eq_none] at h
    obtain ⟨⟨⟨⟨h1, h2⟩, h3⟩, h4⟩, h5⟩ := h
    exact ⟨h1, h2, h3, by rcases h4 with (h | h) | h <;> simp [h], h5⟩

/-- Registers, and core 0's context 0 running with them at a level, its code page an SW page of physical address 0. Page 1 is memory-side,
page 2 is HC, page 3 is private to core 0, page 4 to core 1, page 5 is read-only, and page 6 is not for U. -/
def xs (l : List (Nat × Nat)) : Map Word := l.map (fun p => (p.1, BitVec.ofNat 64 p.2))
def pages : List TlbEntry := [⟨0, 1, 0, 0x803e7⟩, ⟨0, 2, 0, 0x1001e3⟩, ⟨0, 3, 0, 0x1801eb⟩, ⟨0, 4, 0, 0x2041eb⟩, ⟨0, 5, 0, 0x280127⟩,
  ⟨0, 6, 0, 0x3000e7⟩]
def st (pl : BitVec 2) (l : List (Nat × Nat)) : State :=
  ((State.reset.placeWord 32 0).updCtx 0 0 (fun t => { t.setPl pl with x := xs l })).updCore 0 (fun k => { k with tlb := pages })
def cr (s : State) (f : Core → Core) : State := s.updCore 0 f
def cx (s : State) (f : Ctx → Ctx) : State := s.updCtx 0 0 f

/-! ### Witnesses: steps, memory, scalar words -/

theorem wit_DecodeEncode : (Instr.vsoftk Tk.none 30 0 8).isWord = true ∧ (Instr.vsoftk Tk.none 30 0 8).wf = true ∧
    (Instr.lblk Tk.none 15 31 64).wf = true := by decide +kernel
theorem wit_StepRunsDecoded : let s := State.reset.placeWord 32 0x00272981
    s.agenda = [] ∧ s.ran = false ∧ s.canIssue s.cur.1 s.cur.2 = true ∧ s.now.stopReq = false ∧
    ¬ (s.takesPending s.cur.1 s.cur.2 = true ∧ s.pendingAt s.cur.1 s.cur.2 = true) ∧
    (({ s with ran := true } : State).fetchCode 0 0 s.now.pc).map
      (fun r => (r.2, r.1.hasSlot 0 0 (engineWord r.2 (.sub Tk.none 7 5 6)))) = some (0x00272981#32, true) := by decide +kernel
theorem wit_StepRunsDecoded_full : let s := (State.reset.placeWord 32 0x00272981).updCore 0 (fun k => { k with issued := (0, 0, 1) })
    s.agenda = [] ∧ s.ran = false ∧ s.canIssue s.cur.1 s.cur.2 = true ∧ s.now.stopReq = false ∧
    ¬ (s.takesPending s.cur.1 s.cur.2 = true ∧ s.pendingAt s.cur.1 s.cur.2 = true) ∧
    (({ s with ran := true } : State).fetchCode 0 0 s.now.pc).map
      (fun r => (r.2, r.1.hasSlot 0 0 (engineWord r.2 (.sub Tk.none 7 5 6)))) = some (0x00272981#32, false) := by decide +kernel
theorem wit_StepRunsDecoded_illegal : let s := State.reset.placeWord 32 0
    s.canIssue s.cur.1 s.cur.2 = true ∧ (({ s with ran := true } : State).fetchCode 0 0 s.now.pc).map (·.2) = some 0#32 ∧
    decode 0#32 = none := by decide +kernel
theorem wit_StepRunsDecoded_event : ({ State.reset with agenda := [.event .packageReset] } : State).agenda = .event .packageReset :: [] := by
  decide +kernel
theorem wit_FetchReadsMemory : let s := st 0 []
    s.translate 0 0 .exec ((s.ctx 0 0).pl = 0) = .ok (.phys 0 1 false) ∧ Map.get none (s.core 0).icache 0 = none ∧
    (s.core 0).line 0 = none ∧ Map.get none (s.core 0).pen 0 = none ∧ (s.ctx 0 0).stores = [] ∧ s.linePoison 0 = 0 := by decide +kernel
theorem wit_MemoryStaysCanonical : Memory.wf State.reset.mem ∧ (match step (State.reset.placeWord 32 0x00272981) with | .next _ => true | _ => false) = true :=
  ⟨Memory.reset_wf, by decide +kernel⟩
theorem wit_IntegerResults : let s := st 0 [(5, 2 ^ 64 - 1), (6, 0)]
    intResult (.sub Tk.none 7 5 6) s.now = some (Tk.none, 7, BitVec.ofNat 64 (2 ^ 64 - 1)) ∧
    intResult (.div Tk.none 0 5 6) s.now = some (Tk.none, 0, BitVec.ofNat 64 (2 ^ 64 - 1)) ∧
    Issues 0 (.sub Tk.none 7 5 6) Tk.none s ∧ Issues 0 (.div Tk.none 0 5 6) Tk.none s := by
  simp only [issues_iff]; decide +kernel
theorem wit_ScalarReadResults : let s := cr (st 0 [(5, 0x3ff0000000000000)]) (fun k => { k with pfull := 0x8000, pval := [(15, 7)] })
    (fpResult (.faddD Tk.none 7 5 5) s.now).isSome = true ∧ Issues 0 (.faddD Tk.none 7 5 5) Tk.none s ∧
    readResult (.prd Tk.none 6 15) s = some (Tk.none, 6, 7) ∧ Issues 0 (.prd Tk.none 6 15) Tk.none s ∧
    (s.core s.cur.1).pfull.getLsbD 15 = true ∧ (readResult (.twid Tk.none 6 6) s).isSome = true ∧
    Issues 0 (.twid Tk.none 6 6) Tk.none s := by simp only [issues_iff]; decide +kernel
theorem wit_RegisterWordFrame : let s := st 0 [(5, 1)]
    (intResult (.add Tk.none 7 5 5) s.now).isSome = true ∧ (fpResult (.fsqrtD Tk.none 7 5) s.now).isSome = true ∧
    (readResult (.cid Tk.none 5) s).isSome = true ∧ (match exec (.add Tk.none 7 5 5) s with | .next _ => true | _ => false) = true := by
  decide +kernel
/-- A loop of two words at 0 and 4 that stands at its last word, with a pass left or none, and with a pre-empting request. -/
def looped (iter n : BitVec 32) (pre : Bool) : State :=
  cr (cx (st 0 []) (fun t => { t with pc := 4, lc := [(1, { act := true, iter := iter, endAt := n, len := 2, pre := pre })] }))
    (fun k => { k with request := some ⟨0, 0, false, none⟩ })
theorem wit_CompletionAdvances : (st 0 []).now.loopAt (st 0 []).now.pc = none ∧
    (looped 0 2 false).now.loopAt (looped 0 2 false).now.pc = some 1 ∧ (looped 0 2 true).preReq 0 = true ∧
    (looped 1 2 false).now.loopAt (looped 1 2 false).now.pc = some 1 := by decide +kernel
theorem wit_ControlTransfers : let s := cr (st 0 [(3, 5)]) (fun k => { k with pfull := 1, pval := [(0, 7)] })
    branchOf (.bne Tk.none 3 0 0xfd) s = some (Tk.none, none, true, BitVec.ofNat 64 (2 ^ 64 - 12)) ∧
    (branchOf (.bpt Tk.none 0 1) s).map (·.2.1) = some (some 0) ∧ (s.core s.cur.1).pfull.getLsbD 0 = true ∧
    Issues 0 (.bne Tk.none 3 0 0xfd) Tk.none s ∧ Issues 0 (.bpt Tk.none 0 1) Tk.none s ∧ Issues 0 (.jal Tk.none 1 0x8000) Tk.none s ∧
    Issues 0 (.jalr Tk.none 1 3 0x7ff) Tk.none s := by simp only [issues_iff]; decide +kernel
theorem wit_LoopWords_lpset : let s := st 0 [(11, 3)]
    Issues 0 (.lpset Tk.none 3 11 255) Tk.none s ∧ (s.now.loopCtr 3).act = false ∧ (s.now.rd 11).toNat < 2 ^ 32 ∧
    (∀ m, m < 4 → (s.now.loopCtr m).act = true → (s.now.loopCtr m).pl = s.now.pl →
      (s.now.loopCtr m).start ≤ s.now.pc + 4 ∧ s.now.pc + 4 * (255 : BitVec 8).setWidth 64 < (s.now.loopCtr m).last) := by
  simp only [issues_iff]; decide +kernel
theorem wit_LoopWords_lpres : let s := st 0 []
    let s' := cx s (fun t => { t with lc := [(3, { clamp := true })] })
    Issues 0 (.lpresEntry Tk.none 7 3) Tk.none s ∧ Issues 0 (.lpresExit Tk.none 3) Tk.none s ∧ (s.now.loopCtr 3).act = false ∧
    (s.now.loopCtr 3).clamp = false ∧ Issues 0 (.lpresExit Tk.none 3) Tk.none s' ∧ (s'.now.loopCtr 3).act = false ∧
    (s'.now.loopCtr 3).clamp = true ∧ s'.now.heldSig = [] := by simp only [issues_iff]; decide +kernel
/-- The buckets of R84's example. -/
def buckets (n : Nat) : State := cx (st 0 [(4, n)]) (fun t => { t with
  bktBound := [(0, 0x8000000000000080), (1, 0x8000000000000100), (2, 0x8000000000000200), (3, 0x8000000000000400)]
  bktAddr := [(0, 0x100), (1, 0x200), (2, 0x300), (3, 0x400)], bktOvf := 0x500 })
theorem wit_BucketRoundsUp : Issues 0 (.bkt Tk.none 5 4) Tk.none (buckets 300) ∧ Issues 0 (.bkt Tk.none 5 4) Tk.none (buckets 2000) ∧
    (∀ m, m < 8 → (300 ≤ (Map.get 0 (buckets 300).now.bktBound m).toNat % 2 ^ 32 ↔ m = 2 ∨ m = 3)) ∧
    ∀ m, m < 8 → (Map.get 0 (buckets 2000).now.bktBound m).toNat % 2 ^ 32 < 2000 := by simp only [issues_iff]; decide +kernel
theorem wit_WordTraps : let s := st 0 [(11, 2 ^ 32)]
    let a := cx s (fun t => { t with pc := 64, lc := [(3, { act := true })] })
    (Instr.prd Tk.none 0 16).wf = false ∧ Issues 0 (.bpt Tk.none 15 1) Tk.none s ∧ Issues 0 (.bpf Tk.none 15 1) Tk.none s ∧
    Issues 0 (.prd Tk.none 1 15) Tk.none s ∧ (s.core s.cur.1).pfull.getLsbD 15 = false ∧ Issues 0 (.lpset Tk.none 3 11 1) Tk.none s ∧
    (s.now.loopCtr 3).act = false ∧ 2 ^ 32 ≤ (s.now.rd 11).toNat ∧ Issues 0 (.lpset Tk.none 3 11 1) Tk.none a ∧
    Issues 0 (.lpresEntry Tk.none 1 3) Tk.none a ∧ Issues 0 (.lpresExit Tk.none 3) Tk.none a ∧ (a.now.loopCtr 3).act = true := by
  simp only [issues_iff]; decide +kernel
theorem wit_PrivilegeTraps : needsS (.eret Tk.none) = some Tk.none ∧ (Instr.eret Tk.none).wf = true ∧ (st 0 []).now.pl = 0 := by decide +kernel
theorem wit_EmptyFifoHolds : let k : Tk := ⟨true, false, false, false, false⟩
    (intResult (.add k 1 2 3) (st 0 []).now).isSome = true ∧ (Instr.add k 1 2 3).wf = true ∧
    (emptyWait ((st 0 []).core 0) (waitFifos k 0)).isSome = true := by decide +kernel
theorem wit_TrapEntry : let u := (st 0 []).ctx 0 0
    let s := (cx (st 1 []) (fun t => { t with status := 0x041 })).ctx 0 0
    let h := (cx (st 2 []) (fun t => { t with status := 0x082 })).ctx 0 0
    u.pl ≤ 2 ∧ levelOf 10 u.pl = 1 ∧ u.stip = false ∧ levelOf 15 u.pl = 2 ∧ u.htip = false ∧ u.fip = false ∧
    s.pl = 1 ∧ levelOf 3 s.pl = 1 ∧ s.stip = true ∧ levelOf 3 h.pl = 2 ∧ h.htip = true ∧ (st 0 []).watches = [] := by decide +kernel
theorem wit_RequestedTraps : let s := st 1 [(5, 9)]
    ownTrap (.sys Tk.none 255) s.now = some (0, Tk.none, 10, wordVal (.sys Tk.none 255)) ∧ Issues 0 (.sys Tk.none 255) Tk.none s ∧
    ownTrap (.trap Tk.none 5 17) s.now = some (1, Tk.none, 17, 9) ∧ Issues 1 (.trap Tk.none 5 17) Tk.none s ∧
    (s.core s.cur.1).penned = false := by simp only [issues_iff]; decide +kernel
theorem wit_EretAndHalt : let s := cx (st 1 []) (fun t => { t with sBank := { t.sBank with epc := 64 } })
    let h := cx (st 2 []) (fun t => { t with hBank := { t.hBank with epc := 64 } })
    Issues 1 (.eret Tk.none) Tk.none s ∧ (s.core s.cur.1).holdFor ≠ some s.cur.2 ∧ s.now.heldSig = [] ∧ s.now.pl = 1 ∧
    Issues 1 (.eret Tk.none) Tk.none h ∧ h.now.pl = 2 ∧ (∀ n, n < 4 → (h.now.loopCtr n).act = false) ∧
    Issues 1 (.halt Tk.none) Tk.none s ∧ s.now.stores = [] ∧ signalFifos Tk.none 0 = [] := by simp only [issues_iff]; decide +kernel
theorem wit_FretReturns : let s := cx (st 0 []) (fun t => { t.setFip true with fepc := 64 })
    Issues 0 (.fret Tk.none) Tk.none s ∧ s.now.pl = 0 ∧ s.now.fip = true ∧ s.now.fepc.toNat % 4 = 0 ∧
    Issues 0 (.fret Tk.none) Tk.none (st 1 []) := by simp only [issues_iff]; decide +kernel
theorem wit_CsrWords : let s := st 0 [(5, 9)]
    Issues 0 (.csrr Tk.none 1 0x1ff) Tk.none s ∧ csrRow 0x1ff = none ∧ csrRow 0x102 = some (2, false, false) ∧
    Issues 0 (.csrr Tk.none 1 0x102) Tk.none s ∧ s.now.pl < 2 ∧
    (csrWriteForm (.csrw Tk.none 1 5 0x07f) s.now).isSome = true ∧ csrRow 0x07f = some (0, true, false) ∧
    Issues 0 (.csrw Tk.none 1 5 0x07f) Tk.none s ∧ Issues 0 (.csrs Tk.none 1 5 0x002) Tk.none s ∧ csrRow 0x002 = some (0, false, false) ∧
    Issues 0 (.csrr Tk.none 1 0x080) Tk.none (st 1 []) ∧ csrRow 0x080 = some (1, false, false) := by simp only [issues_iff]; decide +kernel
theorem wit_CsrEffects : csrMask 0x05f = some 0x0000fffffffffffc ∧ csrMask 0x000 ≠ none ∧ ((st 1 []).ctx 0 0).pl = 1 ∧
    ((st 2 []).ctx 0 0).pl = 2 ∧ ((st 2 []).ctx 0 0).vb = false := by decide +kernel
theorem wit_ContextWords : let s := st 1 [(5, 64), (6, 66)]
    Issues 1 (.cstart Tk.none 3 5) Tk.none s ∧ (s.now.rd 5).toNat % 4 = 0 ∧ (s.now.rd 6).toNat % 4 ≠ 0 ∧ (s.ctx 0 3).run = .stopped ∧
    (s.ctx 0 0).run ≠ .stopped ∧ Issues 1 (.cstart Tk.none 0 5) Tk.none s ∧ Issues 1 (.cstop Tk.none 0) Tk.none s ∧
    Issues 0 (.cyield Tk.none 255) Tk.none s ∧ Issues 0 (.slk Tk.none 15) Tk.none s := by simp only [issues_iff]; decide +kernel
theorem wit_WaitWords : let s := st 0 [(5, 1)]
    (waitWord (.wtime Tk.none 0 0xff) s).map (·.2.2.2) = some true ∧ (waitWord (.wframe Tk.none 5 0) s).map (·.2.2.2) = some false ∧
    (waitWord (.cwait Tk.none 1 0) s).map (·.2.2.2) = some true ∧ (waitWord (.pwait Tk.none 15 0) s).map (·.2.2.2) = some false ∧
    Issues 0 (.wtime Tk.none 0 0xff) Tk.none s ∧ Issues 0 (.wframe Tk.none 5 0) Tk.none s ∧ Issues 0 (.cwait Tk.none 1 0) Tk.none s ∧
    Issues 0 (.pwait Tk.none 15 0) Tk.none s ∧ (1 : Reg).toNat ≠ s.cur.2 := by simp only [issues_iff]; decide +kernel

/-! ### Witnesses: memory -/

/-- Line 0 valid and clean in the L1, and a context at U. -/
def cached (l : List (Nat × Nat)) : State :=
  cr (st 0 l) (fun k => { k with l1 := [(0, some { data := 0x8899aabbccddeeff, valid := 0xffffffff, cls := 1, blk := 1 })] })
theorem wit_LoadWords_hit : let s := cached [(1, 4)]
    loadOf (.lb Tk.none 6 1 0xff) s.now = some (Tk.none, 6, 3, 1, true) ∧ Issues 0 (.lb Tk.none 6 1 0xff) Tk.none s ∧
    s.translate s.cur.1 3 .read (s.now.pl = 0) = .ok (.phys 3 1 false) ∧ s.lotStep s.cur.1 3 1 false = .go ∧
    (s.core s.cur.1).line 0 = some { data := 0x8899aabbccddeeff, valid := 0xffffffff, cls := 1, blk := 1 } ∧
    ((0xffffffff : BitVec 32) &&& wordMask 3 1) = wordMask 3 1 ∧ s.linePoison 0 = 0 ∧ Map.get none (s.core s.cur.1).pen 0 = none ∧
    s.now.stores = [] := by simp only [issues_iff]; decide +kernel
theorem wit_LoadWords_miss : let s := st 0 [(1, 0x80000)]
    loadOf (.ld Tk.none 6 1 0) s.now = some (Tk.none, 6, 0x80000, 8, false) ∧ Issues 0 (.ld Tk.none 6 1 0) Tk.none s ∧
    s.translate s.cur.1 0x80000 .read (s.now.pl = 0) = .ok (.phys 0x80000 1 true) ∧ s.lotStep s.cur.1 0x80000 1 true = .go ∧
    s.ready s.cur.1 s.cur.2 0x80000 8 1 true = false := by simp only [issues_iff]; decide +kernel
theorem wit_LoadWords_reply : let s := cx (st 0 []) (fun t => { t with wait := some (.load 6 0x80000 8 false (.phys 0x80000 1 true)) })
    (s.ctx 0 0).run = .running ∧ s.linePoison (0x80000 / 128) = 0 ∧
    Map.get none (s.core 0).pen (0x80000 / 128) = none ∧ (s.ctx 0 0).stores = [] := by decide +kernel
theorem wit_AccessTraps : let s := st 0 [(1, 1), (2, 2 ^ 47), (3, 0x280000)]
    (loadOf (.ld Tk.none 6 1 0) s.now).isSome = true ∧ Issues 0 (.ld Tk.none 6 1 0) Tk.none s ∧ (1 : Word).toNat % 8 ≠ 0 ∧
    (storeOf (.sd Tk.none 6 3 0) s.now).map (·.2.2.1) = some 0x280000 ∧ Issues 0 (.sd Tk.none 6 3 0) Tk.none s ∧
    s.translate s.cur.1 0x280000 .write (s.now.pl = 0) = .bad Cause.prot := by simp only [issues_iff]; decide +kernel
theorem wit_StoreWords_issue : let s := st 0 [(1, 0x80000), (5, 7)]
    storeOf (.sd Tk.none 5 1 0) s.now = some (Tk.none, 7, 0x80000, 8) ∧ Issues 0 (.sd Tk.none 5 1 0) Tk.none s ∧
    s.translate s.cur.1 0x80000 .write (s.now.pl = 0) = .ok (.phys 0x80000 1 true) ∧ s.lotStep s.cur.1 0x80000 1 true = .go ∧
    (s.core s.cur.1).penned = false ∧ s.linePoison (0x80000 / 128) = 0 ∧
    (match exec (.sd Tk.none 5 1 0) s with | .next _ => true | _ => false) = true := by simp only [issues_iff]; decide +kernel
theorem wit_StoreWords_perform :
    let p : PStore := { va := 0x80000, w := 8, data := 7, place := .phys 0x80000 1 true, tk := Tk.none, slk := 0 }
    let q : PStore := { va := 4, w := 4, data := 7, place := .phys 4 1 false, tk := Tk.none, slk := 0 }
    ((cx (st 0 []) (fun t => { t with stores := [p] })).ctx 0 0).stores = [p] ∧
    ((cx (cached []) (fun t => { t with stores := [q] })).ctx 0 0).stores = [q] ∧ ((cached []).core 0).direct = false ∧
    ((cached []).core 0).line 0 ≠ none ∧ ((cached []).core 0).dfifo.length < 256 := by decide +kernel
theorem wit_AtomicsAtTheHome : let s := st 0 [(6, 0x80000), (7, 9)]
    (amoOf (.amoadd Tk.none 5 6 7 1) s.now).map (fun r => (r.2.1, r.2.2.1, r.2.2.2.1, r.2.2.2.2.1 5)) = some (5, 0x80000, 8, 14) ∧
    (amoOf (.amocas Tk.none 5 6 7 0) s.now).map (fun r => (r.2.2.2.1, r.2.2.2.2.1 0, r.2.2.2.2.1 1)) = some (4, 9, 1) ∧
    Issues 0 (.amoadd Tk.none 5 6 7 1) Tk.none s ∧ Issues 0 (.amocas Tk.none 5 6 7 0) Tk.none s ∧
    s.translate s.cur.1 0x80000 .write (s.now.pl = 0) = .ok (.phys 0x80000 1 true) ∧ s.lotStep s.cur.1 0x80000 1 true = .go ∧
    s.translate s.cur.1 0x100000 .write (s.now.pl = 0) = .ok (.phys 0x100000 0 false) ∧ s.lotStep s.cur.1 0x100000 0 false = .go ∧
    (s.core s.cur.1).penned = false ∧ s.now.stores = [] ∧ s.linePoison (0x80000 / 128) = 0 := by simp only [issues_iff]; decide +kernel
theorem wit_HcTimestamps : (0x2000 : Nat) < 2 ^ 40 ∧ ([(0, 1)] : List (Nat × Byte)) ≠ [] := by decide +kernel
theorem wit_TranslationFaults : let s := st 0 []
    2 ^ 48 ≤ (0x1000000000000 : Word).toNat ∧ s.leafOf 0 (s.coreVf 0) 0x7fffffffffff = none ∧
    s.leafOf 0 (s.coreVf 0) 0x200000 = some (0x2041eb, 0) ∧ (0x2041eb / 4 % 4 = 2 ∧ 0x2041eb / 2 ^ 14 % 32 ≠ 0) ∧
    s.leafOf 0 (s.coreVf 0) 0x280000 = some (0x280127, 0) ∧ (0x280127 : Nat).testBit 6 = false ∧ (0x280127 : Nat).testBit 7 = false ∧
    s.leafOf 0 (s.coreVf 0) 0x300000 = some (0x3000e7, 0) ∧ (0x3000e7 : Nat).testBit 8 = false ∧
    s.translate 0 0x180008 .read true = .ok (.phys 0x180008 2 false) := by decide +kernel
theorem wit_BlockHost : let s := cr (st 0 [(10, 0x400000)]) (fun k => { k with tlb := [⟨0, 8, 0, 0x8000000001e7⟩] })
    s.translate s.cur.1 0x400000 .read (s.now.pl = 0) = .ok (.phys (2 ^ 47) 1 false) ∧ s.now.stores = [] ∧ s.lotStep s.cur.1 0x400000 1 false ≠ .prot ∧
    hostPlace (2 ^ 47) 1 = true ∧ Map.get none s.now.gotten 0x400000 = none ∧ s.ready s.cur.1 s.cur.2 (2 ^ 47) 8 1 false = false ∧
    Issues 0 (.lblk Tk.none 15 10 64) Tk.none s ∧ Issues 0 (.wblk Tk.none 15 10) Tk.none s := by simp only [issues_iff]; decide +kernel
theorem wit_BlockWords : let s := st 0 [(10, 0x80000), (11, 0)]
    s.translate s.cur.1 0x80000 .read (s.now.pl = 0) = .ok (.phys 0x80000 1 true) ∧ s.now.stores = [] ∧
    s.lotStep s.cur.1 0x80000 1 true ≠ .prot ∧ hostPlace 0x80000 1 = false ∧ hostPlace 0 1 = false ∧ Issues 0 (.lblk Tk.none 15 10 64) Tk.none s ∧ (0x80000 : Nat) % 128 = 0 ∧ 0x80000 / 2 ^ 19 = (0x80000 + 128 * 64 - 1) / 2 ^ 19 ∧
    Issues 0 (.wblk Tk.none 15 11) Tk.none s ∧ Issues 0 (.eblk Tk.none 0 11) Tk.none s ∧ Issues 0 (.dblk Tk.none 11) Tk.none s ∧
    (s.core s.cur.1).line 0 = none ∧ s.translate s.cur.1 0 .read (s.now.pl = 0) = .ok (.phys 0 1 false) ∧
    ((cr s (fun k => { k with blkOps := [⟨15, 4, 1, true⟩] })).core 0).blkOps = [⟨15, 4, 1, true⟩] := by
  simp only [issues_iff]; decide +kernel
theorem wit_OrderingWords : let s := cached []
    let l (v : Word) : State := s.updFunc 0 (fun f => { f with vfctl := v })
    limited s 0 0 = false ∧ s.now.stores = [] ∧ (s.core s.cur.1).dfifo = [] ∧ Issues 0 (.rel Tk.none 4) Tk.none s ∧
    Issues 0 (.acq Tk.none 1) Tk.none s ∧ Issues 0 (.fence Tk.none 0) Tk.none s ∧ Issues 0 (.invi Tk.none 2) Tk.none s ∧
    s.cur.1 ∈ s.pdkCores (s.blkOf s.cur.1) ∧ (s.core 0).l1 ≠ [] ∧ limited (l 0x1000000000000) 0 0 = true ∧
    limited (l 0x3000000000000) 0 0 = true ∧ Issues 0 (.fence Tk.none 3) Tk.none (l 0x3000000000000) ∧
    orderingOf (.fence Tk.none 3) = some (Tk.none, 3) ∧ Issues 0 (.invi Tk.none 4) Tk.none (l 0x1000000000000) ∧
    ((l 0x1000000000000).core 0).dfifo = [] ∧ (s.core 0).swDirty = [] ∧ (s.core 0).away = [] ∧ Issues 0 (.invi Tk.none 4) Tk.none s ∧
    ((l 0x1000000000000).core 0).swDirty = [] ∧ ((l 0x1000000000000).core 0).away = [] ∧ s.farPkgs 0 = [] ∧
    (let r : State := { s with routes := [(63, 0x8000000000000000)], rdy0 := 2 ^ 18 }
     r.farPkgs 0 = [63] ∧ limited r 0 0 = false ∧ Issues 0 (.invi Tk.none 4) Tk.none r) := by simp only [issues_iff]; decide +kernel
theorem wit_StashWords : let s := st 0 [(4, 0x1ffff80 + 2 ^ 32), (5, 0xffffffffff80)]
    let w := cr s (fun k => { k with wins := [(15, { v := true, len := 1 })] })
    Issues 0 (.smap Tk.none 1 4 5) Tk.none s ∧ (s.now.rd 4).toNat / 2 ^ 32 % 2 ^ 16 = 1 ∧ (s.now.rd 4).toNat % 2 ^ 25 + 128 ≤ 2 ^ 25 ∧
    (s.now.rd 5).toNat + 128 ≤ 2 ^ 48 ∧ (s.core s.cur.1).meetsSet (s.now.rd 5).toNat 128 = false ∧
    ((s.core s.cur.1).window 1).lines = [] ∧ (s.core s.cur.1).away = [] ∧ Issues 0 (.sunmap Tk.none 1) Tk.none s ∧ Issues 0 (.sflush Tk.none 1) Tk.none s ∧
    Issues 0 (.sstat Tk.none 1 15) Tk.none w ∧ ((w.core 0).window 15).v = true ∧ ((w.core 0).window 15).nf = false := by
  simp only [issues_iff]; decide +kernel

/-! ### Witnesses: engine words, shared engines, tokens, rings and tasks -/

def readOk (s : State) (va : Word) (n : Nat) (p : State → List Word → Bool) : Bool :=
  match s.readBlock s.cur.1 s.cur.2 va n with
  | .ok s' ws => p s' ws
  | _ => false
def noted (q : EngQ) : EngQ := { q with enoted := true }
def full (q : EngQ) : EngQ := { q with q := List.replicate 64 { ins := .enote Tk.none 0 } }
theorem wit_VectorWords : let s := st 0 [(10, 0x1fff000), (11, 0x1fff080)]
    let u : State := cr s (fun k => { k with vxe := { k.vxe with q := noted k.vxe.q } })
    let v : State := cr s (fun k => { k with vxe := { k.vxe with q := full k.vxe.q } })
    vecRow (.vld Tk.none 0 10) = some (Tk.none, some 10, none, none) ∧ Issues 0 (.vld Tk.none 0 10) (onlyY Tk.none) s ∧
    (s.core 0).vxe.q.enoted = false ∧ vlsTrap (.vld Tk.none 0 10) s.now = none ∧ vlsTrap (.vld Tk.none 0 11) s.now = some 0x1fff080 ∧
    Issues 0 (.vld Tk.none 0 11) (onlyY Tk.none) s ∧ s.now.stores = [] ∧
    Issues 0 (.vld Tk.none 0 10) (onlyY Tk.none) u ∧ (u.core 0).vxe.q.enoted = true ∧
    Issues 0 (.vld Tk.none 0 10) (onlyY Tk.none) v ∧ 64 ≤ (v.core 0).vxe.q.q.length ∧
    vecRow (.vlane Tk.none 15 3 4) = some (Tk.none, none, some 4, some 15) := by simp only [issues_iff]; decide +kernel
theorem wit_MatrixWords : let s := st 0 [(11, 0x80), (12, 0x1fff000), (13, 0x10000)]
    let u : State := cr s (fun k => { k with mxe := { k.mxe with q := noted k.mxe.q } })
    let v : State := cr s (fun k => { k with mxe := { k.mxe with q := full k.mxe.q } })
    (matRow (.mxmm Tk.none 3 11 11) s.now).isSome = true ∧ operandOk (s.now.rd 11) 0 true false ∧
    Issues 0 (.mxmm Tk.none 3 11 11) (onlyY Tk.none) s ∧ Issues 0 (.mxld Tk.none 0 12 15) (onlyY Tk.none) s ∧
    operandOk (s.now.rd 12) 0 false false ∧ wbits (s.now.rd 12) 0 25 + 4096 ≤ 2 ^ 25 ∧ (s.core 0).mxe.q.enoted = false ∧
    Issues 0 (.mxzero Tk.none 3) (onlyY Tk.none) u ∧ (u.core 0).mxe.q.enoted = true ∧ Issues 0 (.mxzero Tk.none 3) (onlyY Tk.none) v ∧
    64 ≤ (v.core 0).mxe.q.q.length ∧ Issues 0 (.mxcfg Tk.none 13) (onlyY Tk.none) s ∧ (s.now.rd 13).toNat % 32 = 0 ∧
    readOk s (s.now.rd 13) 12 (fun s' ws => ((s'.core 0).q 1).q.length = 0 && s'.now.stores.isEmpty && decide (s'.cur = s.cur) &&
      (nestLevels ws).isSome) = true ∧ Issues 0 (.mxgo Tk.none 15 13) (onlyY Tk.none) s ∧
    readOk s (s.now.rd 13) 4 (fun s' ws => decide (s'.cur = s.cur) && wbits (ws.getD 3 0) 8 56 = 0 && wbits (ws.getD 3 0) 2 2 ≠ 3) = true ∧
    operandOk 0 0 true false := by
  simp only [issues_iff, operandOk]; decide +kernel
theorem wit_CopyWords : let t : Task := { launch := 0, idx := 0, wid := 0, stamp := 0, vf := 0, blk := 0, prio := 0 }
    let s := cr (st 0 [(4, 0x1ffff80 + 2 ^ 32), (5, 0xffffffffff80), (6, 3 * 2 ^ 32), (7, 0x10000), (8, 16 * 2 ^ 16)])
      (fun k => { k with task := some t })
    let u : State := cr s (fun k => { k with cpe := { k.cpe with q := noted k.cpe.q } })
    let v : State := cr s (fun k => { k with cpe := { k.cpe with q := full k.cpe.q } })
    let r : State := cr s (fun k => { k with task := some { t with rc := true } })
    (copyRow (.cpin Tk.none 15 15 4 5) s.now).isSome = true ∧ spadOk (s.now.rd 4) 0 ∧ globalOk (s.now.rd 5) 128 ∧
    Issues 0 (.cpin Tk.none 15 15 4 5) (onlyY Tk.none) s ∧ (s.core 0).cpe.q.enoted = false ∧ isCpred (.cpred Tk.none 0 1 4 5) = true ∧
    Issues 0 (.cpred Tk.none 0 1 4 5) (onlyY Tk.none) s ∧ Issues 0 (.cpred Tk.none 0 1 4 5) (onlyY Tk.none) r ∧ (r.core 0).penned = false ∧
    Issues 0 (.cpin Tk.none 0 1 4 5) (onlyY Tk.none) u ∧ (u.core 0).cpe.q.enoted = true ∧ Issues 0 (.cpin Tk.none 0 1 4 5) (onlyY Tk.none) v ∧
    64 ≤ (v.core 0).cpe.q.q.length ∧ s.now.stores = [] ∧ (copyRow (.cpoq Tk.none 3 2 8 5) s.now).isSome = true := by
  simp only [issues_iff, spadOk, globalOk]; decide +kernel
/-- A descriptor of three rows of one line at 0x10000, row pitch 128 on both sides (R309, R313). -/
def rows : State := (st 0 [(6, 3 * 2 ^ 32), (7, 0x10000)]).putWords 0x10000 [0x20000, 0x10003, 128, 128]
theorem wit_CopyWords_rows : Issues 0 (.cpss Tk.none 0 1 6 7) (onlyY Tk.none) rows ∧ spadOk (rows.now.rd 6) 3 ∧
    wbits (rows.now.rd 6) 32 16 ≠ 0 ∧ (rows.now.rd 7).toNat % 32 = 0 ∧
    readOk rows (rows.now.rd 7) 4 (fun s' ds => decide (s'.cur = rows.cur) && s'.now.stores.isEmpty && ((s'.core 0).q 0).q.length = 0 &&
      rowCount ds * rowLen ds = 3 && wbits (ds.getD 1 0) 32 32 = 0 && (ds.getD 2 0).toNat % 128 = 0 && (ds.getD 3 0).toNat % 128 = 0 &&
      decide (rowSide 0 2 (ds.getD 2 0) + 128 ≤ 2 ^ 25) && decide (rowSide (ds.getD 0 0).toNat 2 (ds.getD 3 0) + 128 ≤ 2 ^ 25)) = true := by
  simp only [issues_iff, spadOk]; decide +kernel
/-- A word of a fetch at the next pc. -/
def after (w : Nat) : State := ((State.reset.placeWord 64 (w * 2 ^ 32)).updCtx 0 0 (fun t => { t.setPl 0 with x := [(1, 1)] }))
theorem wit_NotesFences : let s := st 0 []
    let u : State := cr s (fun k => { k with cpe := { k.cpe with q := noted k.cpe.q } })
    Issues 0 (.enote Tk.none 2) (onlyY Tk.none) s ∧ (s.core 0).vxe.q.enoted = false ∧ Issues 0 (.enote Tk.none 0) (onlyY Tk.none) u ∧
    ((u.core 0).q 0).enoted = true ∧ Issues 0 (.eqf true 7) ⟨false, false, false, false, true⟩ s ∧ s.now.stores = [] ∧
    (∀ e ∈ [0, 1, 2], ((s.core 0).q e).enoted = false ∧ ((s.core 0).q e).q.length < 64) := by
  simp only [issues_iff]; decide +kernel
theorem wit_Guards : let a := after 0x04fff800
    (a.fetchCode 0 0 (a.now.pc + 4)).map (·.2) = some 0x04fff800#32 ∧ engineOf 0x04fff800#32 = some 2 ∧
    vecRow (.vmov Tk.none 31 31) = some (Tk.none, none, none, none) ∧
    ((a.fetchCode 0 0 (a.now.pc + 4)).map (fun r => decide (r.1.cur = (0, 0)) && issuesB 0 (.vmov Tk.none 31 31) (onlyY Tk.none) r.1 &&
      (! (r.1.core 0).vxe.q.enoted) && r.1.now.stores.isEmpty)) = some true ∧
    ((after 0x00272981).fetchCode 0 0 4).map (·.2) = some 0x00272981#32 ∧ engineOf 0x00272981#32 = none ∧
    engineOf (encode (.vlane Tk.none 3 0 0)) = some 2 ∧ vecRow (.vlane Tk.none 3 0 0) = some (Tk.none, none, some 0, some 3) := by
  decide +kernel
theorem wit_Guards_address : ∀ t : Ctx, vlsTrap (.vmov Tk.none 31 31) t = none := fun _ => rfl
theorem wit_SharedEngineWords : let s := st 0 [(4, 0x1ffff80 + 2 ^ 32), (5, 0x80000), (6, 0), (9, 3 * 2 ^ 48 + 2 ^ 32)]
    (reqRow (.xget Tk.none 15 3 15 4 5) s).isSome = true ∧ Issues 0 (.xget Tk.none 15 3 15 4 5) Tk.none s ∧ spadOk (s.now.rd 4) 0 ∧
    globalOk (s.now.rd 5) 128 ∧ s.lateGet s.cur.1 (s.now.rd 5) 1 = false ∧
    (s.issued Tk.none).badSet s.cur.1 (s.now.rd 5) 1 (s.now.pl = 0) = none ∧ (s.issued Tk.none).lotsFor s.cur.1 (s.now.rd 5) 1 = none ∧ s.now.stores = [] ∧
    Issues 0 (.xput Tk.none 0 0 1 6 5) Tk.none s ∧ spadOk (s.now.rd 6) 31 ∧ wbits (s.now.rd 6) 32 16 = 0 ∧ (s.core 0).penned = false ∧
    outside (.xput Tk.none 0 0 1 6 5) = true ∧ (loftRow (.lftopRed Tk.none 0 0 1 4 5) s.now).isSome = true ∧
    Issues 0 (.lftopRed Tk.none 0 0 1 4 5) Tk.none s ∧ (s.now.rd 5).toNat % 128 = 0 ∧
    (match (s.issued Tk.none).loftLines 0 true (s.now.rd 5) 1 0 none with | .go (some _) => true | _ => false) = true := by
  simp only [issues_iff, spadOk, globalOk]; decide +kernel
theorem wit_AdmissionWords_route : let s := st 1 [(11, 0x8000), (12, 0x87), (13, 0x100), (14, 0x8100), (15, 0xf07)]
    Issues 0 (.admrt Tk.none 5 11 12) Tk.none s ∧ (s.now.rd 11).getLsbD 15 = true ∧ 1 ≤ s.now.pl ∧
    Issues 0 (.admrt Tk.none 5 0 12) Tk.none s ∧ Issues 0 (.admrt Tk.none 5 13 15) Tk.none s ∧ wbits (s.now.rd 13) 8 2 = 1 ∧
    s.unitOutside 0 0 0 = false ∧ Issues 0 (.admrt Tk.none 5 14 15) Tk.none (st 2 [(14, 0x8100), (15, 0xf07)]) ∧
    (st 2 []).now.pl = 2 ∧ Issues 0 (.admrt Tk.none 5 11 12) Tk.none (st 0 [(11, 0x8000)]) := by simp only [issues_iff]; decide +kernel
theorem wit_AdmissionWords_count : let s := st 2 [(9, 0x8020), (10, 0x8150), (11, 0x8200)]
    Issues 0 (.admctr Tk.none 8 9) Tk.none s ∧ wbits (s.now.rd 9) 4 4 ≤ 2 ∧ Issues 0 (.admctr Tk.none 8 10) Tk.none s ∧
    wbits (s.now.rd 10) 4 4 = 5 ∧ s.unitOutside 0 0 0 = false ∧ s.now.pl = 2 ∧ Issues 0 (.admctr Tk.none 8 11) Tk.none s ∧
    Issues 0 (.admtk Tk.none 10 0 1) Tk.none s ∧ Issues 0 (.admtk Tk.none 10 0 0) Tk.none s := by simp only [issues_iff]; decide +kernel
theorem wit_TokenWords : let s := st 0 [(4, 0x21), (5, 0x900), (6, 0x1f20)]
    let f := cr s (fun k => { k with fifo := [(0, 1)] })
    Issues 0 (.tksnd Tk.none 6) Tk.none s ∧ wbits (s.now.rd 6) 8 5 = 31 ∧ wbits (s.now.rd 6) 4 2 = 2 ∧
    31 ∈ s.pdkCores (s.coreBlk 0) ∧ Issues 0 (.tksnd Tk.none 5) Tk.none s ∧ wbits (s.now.rd 5) 8 5 ≠ 0 ∧ wbits (s.now.rd 5) 4 2 = 0 ∧
    (s.core 0).penned = false ∧ Issues 0 (.tkrcv Tk.none 2 0) Tk.none s ∧ ((s.issued Tk.none).core 0).avail (ringFifo 0 2) = 0 ∧
    Issues 0 (.tktry Tk.none 1 0) Tk.none f ∧ ((f.issued Tk.none).core 0).avail (ringFifo 0 0) = 1 ∧
    Issues 0 (.tkrcv Tk.none 0 0) Tk.none f ∧ Issues 0 (.tktry Tk.none 1 2) Tk.none s := by simp only [issues_iff]; decide +kernel
theorem wit_SlotAndBarrierWords : let s := st 0 [(4, 65535), (5, 0x100000000), (6, 0x100000001), (7, 0x100010000)]
    Issues 0 (.pwr Tk.none 15 4) Tk.none s ∧ Issues 0 (.pclr Tk.none 15) Tk.none s ∧ Issues 0 (.barinit Tk.none 4 255) Tk.none s ∧
    Issues 0 (.bararr Tk.none 1 255) Tk.none s ∧ (s.core 0).penned = false ∧ s.now.stores = [] ∧ (s.core 0).dfifo = [] ∧ (s.core 0).swDirty = [] ∧ (s.core 0).away = [] ∧
    Issues 0 (.barwait Tk.none 5 0) Tk.none s ∧ Issues 0 (.barwait Tk.none 6 0) Tk.none s ∧ Issues 0 (.barwait Tk.none 7 0) Tk.none s ∧
    wbits (s.now.rd 7) 16 16 ≠ 0 ∧ ((s.pdk (s.coreBlk 0)).cell 1).gen = (s.now.rd 5).setWidth 16 ∧
    ((s.pdk (s.coreBlk 0)).cell 1).gen ≠ (s.now.rd 6).setWidth 16 := by simp only [issues_iff]; decide +kernel
/-- A ring of two slots of one line. -/
def ringed (claimed filled held : Nat) : State :=
  cr (st 0 [(4, 0x10000)]) (fun k => { k with rings := [(15, { v := true, slots := 2, lines := 1, claimed := claimed, filled := filled, held := held })] })
theorem wit_RingWords_claim : Issues 0 (.rgclaim Tk.none 5 15 0x80) Tk.none (ringed 0 1 0) ∧
    Issues 0 (.rgclaim Tk.none 5 15 0x80) Tk.none (ringed 1 1 0) ∧ (((ringed 0 1 0).core 0).ring 15).expert = false ∧
    ((ringed 0 1 0).core 0).ringFirst 30 = none ∧ Issues 0 (.rgfill Tk.none 15) Tk.none (ringed 1 0 0) ∧ (ringed 1 0 0).now.stores = [] ∧
    Issues 0 (.rgfill Tk.none 15) Tk.none (ringed 0 0 0) := by simp only [issues_iff]; decide +kernel
theorem wit_RingWords_wait : Issues 0 (.rgwait Tk.none 5 15 0) Tk.none (ringed 0 1 0) ∧ ((ringed 0 1 0).core 0).ringFirst 31 = none ∧
    Issues 0 (.rgwait Tk.none 5 15 0) Tk.none (ringed 0 0 0) ∧ Issues 0 (.rgfree Tk.none 15) Tk.none (ringed 0 0 1) ∧
    Issues 0 (.rgstat Tk.none 5 15) Tk.none (ringed 0 0 1) := by simp only [issues_iff]; decide +kernel
theorem wit_RingWords_set : Issues 0 (.rgstatSet Tk.none 15 4) Tk.none (ringed 0 0 0) ∧
    readOk ((ringed 0 0 0).issued Tk.none) 0x10000 4 (fun s' ws => decide (s'.cur = (0, 0)) && ws.length = 4) = true := by
  simp only [issues_iff]; decide +kernel
theorem wit_RingWords_save : Issues 0 (.rgstatSave Tk.none 15 4) Tk.none (ringed 0 0 0) ∧
    (match ((ringed 0 0 0).issued Tk.none).writeBlock 0 0 0x10000 (((ringed 0 0 0).core 0).ring 15).words with
      | .ok s' [] => decide (s'.cur = (0, 0)) | _ => false) = true := by simp only [issues_iff]; decide +kernel
/-- A task with one set of 0x1000 bytes at 0x4000 and lots of 128 bytes. -/
def setTask : Task := { launch := 0, idx := 0, wid := 0, stamp := 5, vf := 0, blk := 0, prio := 0, sets := [⟨0x4000, 0x1000, 7⟩], restarts := 300 }
theorem wit_TaskWords_tend : let s := st 0 []
    Issues 0 (.tend Tk.none) Tk.none s ∧ s.outstanding 0 0 = none ∧ s.now.heldSig = [] ∧ s.now.stores = [] := by
  simp only [issues_iff]; decide +kernel
/-- A packet that passes the checks of R120 at 0x10000, and at 0x10040 one that names a timetable entry that is not valid. -/
def packets : State := (st 0 [(4, 0x10000), (5, 0x10040)]).putWords 0x10000 [0, 0, 0, 0xffff0000]
theorem wit_TaskWords_tlnc : Issues 0 (.tlnc Tk.none 15 4 15) Tk.none packets ∧ (packets.now.rd 5).toNat % 64 = 0 ∧
    (packets.core 0).penned = false ∧
    readOk (packets.issued Tk.none) 0x10000 8 (fun s' pk => decide (s'.cur = (0, 0)) && ((s'.pdk 0).queue 15).isEmpty &&
      wbits (s'.pdk 0).pctl 60 2 = 0 && ! s'.inReset (s'.coreVf 0) && (pktCheck (s'.pdk 0) 15 pk).isNone && pktNset pk = 0 &&
      decide (pktEffPrio (s'.pdk 0) pk ≤ s'.taskPrio 0)) = true ∧
    readOk (packets.issued Tk.none) 0x10040 8 (fun s' pk => (pktCheck (s'.pdk 0) 15 pk).isSome) = true := by
  simp only [issues_iff]; decide +kernel
theorem wit_TaskWords_sets : let s := st 0 [(4, 0x10000), (5, 0x4080)]
    let a := cr s (fun k => { k with task := some setTask })
    Issues 0 (.aage Tk.none 5) Tk.none a ∧ (s.core 0).task = none ∧ Issues 0 (.aage Tk.none 5) Tk.none s ∧
    Issues 0 (.aheld Tk.none 6 5) Tk.none a ∧ setTask.setOf (s.now.rd 5) = some 0 ∧ setTask.setOf (s.now.rd 4) = none ∧
    a.translate 0 (s.now.rd 5) .read true = .ok (.phys 0x4080 1 false) ∧ hostPlace 0x4080 1 = false ∧ Issues 0 (.aheld Tk.none 6 4) Tk.none a ∧
    Issues 0 (.airrev Tk.none) Tk.none s ∧ Issues 0 (.airrev Tk.none) Tk.none a ∧ (a.core 0).penned = true := by
  simp only [issues_iff]; decide +kernel

/-! ### Witnesses: waits, engines, tasks, memory and sets -/

theorem wit_WaitEvents_pending : let s := cx (st 0 []) (fun t => { t with bayPend := [⟨5, 1⟩] })
    let u := cx (st 0 []) (fun t => { t with slipPend := some 1 })
    let v := cx (st 0 []) (fun t => { t with slackPend := some 1 })
    s.takesPending 0 0 = true ∧ u.takesPending 0 0 = true ∧ (u.core 0).headTrap = [] ∧ (u.ctx 0 0).haltPend = false ∧
    v.takesPending 0 0 = true ∧ (v.ctx 0 0).slipPend = none ∧ (v.ctx 0 0).pl = 0 := by decide +kernel
/-- A context that waits, for `n` stalled cycles under a bound of 16. -/
def waiting (w : Wait) (n : Nat) : State := cx (st 0 []) (fun t => { t with wait := some w, stall := n, bound := 16 })
theorem wit_WaitEvents_bound : (waiting (.token 31) 17).active 0 0 ∧ waitName (.token 31) = some (0, 8) ∧
    ((waiting (.token 31) 17).ctx 0 0).bound < ((waiting (.token 31) 17).ctx 0 0).stall ∧
    ((waiting (.token 31) 16).ctx 0 0).stall ≤ ((waiting (.token 31) 16).ctx 0 0).bound := by
  simp only [State.active]; decide +kernel
theorem wit_WaitEvents_end : (waiting (.pslot 15) 0).active 0 0 ∧ (waiting (.time 0) 0).active 0 0 ∧ (waiting (.token 0) 0).active 0 0 ∧
    (waiting (.time 0) 0).time / 2 ^ 32 % 2 ^ 64 = 0 := by simp only [State.active]; decide +kernel
theorem wit_WaitEvents_meet : let s := waiting .rendezvous 0
    (s.core 0).frozen = none ∧ (s.core 0).holdFor = none ∧ (s.core 0).filledAt ≠ some s.cc ∧ (s.ctx 0 0).inSet = true ∧ s.active 0 0 ∧
    ((s.core 0).issued.1 ≠ s.cc ∨ (s.core 0).issued.2.2 = 0) ∧
    (∀ y, y < 4 → (s.ctx 0 y).inSet = true → (s.ctx 0 y).wait = some .rendezvous ∧ s.pendingAt 0 y = false ∧
      (s.ctx 0 y).stopReq = false) := by simp only [State.active]; decide +kernel
theorem wit_WaitEvents_tokens : let s := cx (st 0 []) (fun t => { t with heldSig := [5] })
    let f : State := { st 0 [] with cc := 9, toks := [⟨3, 8, 0, 8⟩] }
    (s.ctx 0 0).heldSig = [5] ∧ (s.core 0).fifoRoom 5 = true ∧ f.toks[0]? = some ⟨3, 8, 0, 8⟩ ∧ (8 : Nat) < f.cc := by decide +kernel

/-- Core 0 with one waiting entry at the head of each queue. -/
def heads (v m c : Instr) : State := cr (st 0 []) (fun k => { k with
  vxe := { k.vxe with q := { k.vxe.q with q := [{ ins := v }] } }, mxe := { k.mxe with q := { k.mxe.q with q := [{ ins := m }] } }
  cpe := { k.cpe with q := { k.cpe.q with q := [{ ins := c }] } } })
def flights (e : Nat) (f : Flight) (k : Core) : Core := k.updQ e (fun q => { q with fl := [f] })
theorem wit_VectorEvents : let h := heads (.vadd Tk.none 31 0 1 2) (.mxzero Tk.none 3) (.cpin Tk.none 0 1 4 5)
    let w : Flight := { ent := { ins := .vmov Tk.none 31 0 }, wclk := 0, rclk := 0, writes := [.vreg 31 7 0] }
    let d : Flight := { ent := { ins := .vmov Tk.none 31 0 }, wclk := 0, rclk := 0, done := true, fill := some (15, 1) }
    let g := cr h (fun k => k.updQ 2 (fun q => { q with q := [{ ins := .vmov Tk.none 31 0, guard := some (0, true) }] }))
    AtHead h 0 2 { ins := .vadd Tk.none 31 0 1 2 } [] ∧ (laneRow (h.core 0).vxe { ins := .vadd Tk.none 31 0 1 2 }).isSome = true ∧
    dueFlight ((cr h (flights 2 w)).core 0).vxe.q.fl ((cr h (flights 2 w)).core 0).clk = some w ∧
    (((cr h (flights 2 d)).core 0).q 2).fl = [d] ∧ ((cr h (flights 2 d)).core 0).frozen = none ∧
    ((cr h (flights 2 d)).core 0).hold = [] ∧ ((cr h (flights 2 d)).core 0).signalFull 2 d.ent = none ∧
    ((cr g (fun k => k.fillSlot 0 0)).core 0).guardOf { ins := .vmov Tk.none 31 0, guard := some (0, true) } = .skip ∧
    ((cr g (fun k => k.fillSlot 0 0)).core 0).mayStart 2 = true ∧
    ((cr g (fun k => k.fillSlot 0 0)).core 0).headTokens 2 { ins := .vmov Tk.none 31 0 } = true := by
  simp only [AtHead]; decide +kernel
def nest0 : Nest := { ent := { ins := .mxgo Tk.none 0 0 }, aw := 0, bw := 0x1000, cw := 0, tile := 0, kind := 0, fb := 0, levels := [],
                      total := 1, nextClk := 0 }
theorem wit_MatrixEvents : let h := heads (.vadd Tk.none 31 0 1 2) (.mxzero Tk.none 3) (.cpin Tk.none 0 1 4 5)
    let f := heads (.vadd Tk.none 31 0 1 2) (.mxfmt Tk.none 15 0) (.cpin Tk.none 0 1 4 5)
    let w : Flight := { ent := { ins := .mxzero Tk.none 0 }, wclk := 0, rclk := 0, writes := [.tile 511 7] }
    AtHead h 0 1 { ins := .mxzero Tk.none 3 } [] ∧ AtHead f 0 1 { ins := .mxfmt Tk.none 15 0 } [] ∧ (h.core 0).mxe.nest = none ∧
    (h.core 0).mxe.q.fl = [] ∧ dueFlight ((cr h (flights 1 w)).core 0).mxe.q.fl ((cr h (flights 1 w)).core 0).clk = some w ∧
    dueFlight ((cr h (flights 1 w)).core 0).vxe.q.fl ((cr h (flights 1 w)).core 0).clk = none := by
  simp only [AtHead]; decide +kernel
theorem wit_MatrixEvents_step : let s := cr (st 0 []) (fun k => { k with mxe := { k.mxe with nest := some nest0 } })
    let n := nest0
    let p : StepIn := { kind := 0, mode := 0, e := 0, tile := 0, zero := true, a := .spad 0, b := .popped 0 0 }
    (s.core 0).mxe.nest = some n ∧ n.held = false ∧ n.step < n.total ∧ n.nextClk ≤ (s.core 0).clk ∧ n.paused (s.core 0).clk = false ∧
    (s.core 0).frozen = none ∧ s.capOk (s.core 0) = true ∧
    (match (s.core 0).stepAt false n.kind (opOpt n.aw % 2) ((s.core 0).mxe.entry ((n.fb + n.indices.getD 5 0) % 16)) n.tile n.aw n.bw
      (nestAddr (opAddr n.aw) n.indices n.levels (·.sa)) (nestAddr (opAddr n.bw) n.indices n.levels (·.sb))
      ((n.levels.take (firstLevels n.indices)).any (·.zt)) with | .ok _ => true | _ => false) = true ∧
    ({ nest0 with pend := some p } : Nest).pend = some p := by decide +kernel
theorem wit_MatrixEvents_store : let st0 : NestStore := { addr := 0x1fff000, due := 0, start := 0, ends := 0, bytes := 4096, data := 0 }
    let b := cr (st 0 []) (fun k => { k with mxe := { k.mxe with nest := some { nest0 with stores := [st0] } } })
    (b.core 0).mxe.nest = some { nest0 with stores := [st0] } ∧ (b.core 0).frozen = none ∧
    (b.core 0).firstNeed (spadLines 0x1fff000 4096) = none := by decide +kernel
theorem wit_CopyEvents_start : let e0 : Entry := { ins := .cpin Tk.none 0 1 4 5 }
    let e1 : Entry := { ins := .cpin Tk.none 0 1 4 5, va := 0x100000000, vb := 0x80000 }
    let h := heads (.vadd Tk.none 31 0 1 2) (.mxzero Tk.none 3) (.cpin Tk.none 0 1 4 5)
    let g := cr h (fun k => k.updQ 0 (fun q => { q with q := [e1] }))
    AtHead h 0 0 e0 [] ∧ (copySlot e0.ins).isSome = true ∧ copyTotal e0 = 0 ∧ AtHead g 0 0 e1 [] ∧ copyTotal e1 = 1 ∧
    (g.cpeNeed 0 e1).isNone = true ∧ g.copyFault 0 e1 = none ∧ (g.core 0).firstNeed (copySpads e1) = none ∧
    (g.core 0).penned = false := by simp only [AtHead]; decide +kernel
theorem wit_CopyEvents_lines : let e1 : Entry := { ins := .cpin Tk.none 0 1 4 5, va := 0x100000000, vb := 0x80000 }
    let e2 : Entry := { ins := .cpout Tk.none 0 1 4 5, va := 0x100000000, vb := 0x80000 }
    let w (e : Entry) (f : Nat) (o : List Nat) : State := cr (st 0 []) (fun k => { k with cpe := { k.cpe with work := [{ ent := e, total := 1, formed := f, out := o }] } })
    isRowCopy e1 = false ∧ ((w e1 0 []).core 0).cpe.work = [{ ent := e1, total := 1 }] ∧
    ({ ent := e1, total := 1 } : Copy).formAt ≠ some (w e1 0 []).cc ∧ ({ ent := e2, total := 1, formed := 1, out := [0] } : Copy).held = [] ∧
    pickLine ((w e1 1 [0]).core 0).cpe.work 0 = some ({ ent := e1, total := 1, formed := 1, out := [0] }, 0) ∧
    ((w e1 1 [0]).core 0).windowOf 0 = none ∧ ((w e1 1 [0]).core 0).badSec = [] ∧ (w e1 1 [0]).linePoison (0x80000 / 128) = 0 ∧
    (w e1 1 [0]).translate 0 0x80000 .read false = .ok (.phys 0x80000 1 true) ∧
    pickLine ((w e2 1 [0]).core 0).cpe.work 0 = some ({ ent := e2, total := 1, formed := 1, out := [0] }, 0) ∧
    (w e2 1 [0]).translate 0 0x80000 .write false = .ok (.phys 0x80000 1 true) := by decide +kernel

/-- A package with nothing placed but the paddock: core 0 is stopped and idle. -/
def idle0 : State := { State.reset.setPdk 0 placePaddock with rdy0 := 0xff, rdy1 := 0xffffffff }
def launch0 : Launch := { pkt := ⟨[0x100, 7, 0, 0xffff0000], 0, none, [], 0⟩, blk := 0, queue := 0, tick := 0, seq := 0, prio := 0, total := 1 }
theorem wit_TaskEvents_start : let s := idle0.setLaunch 5 (some launch0)
    s.chooses 0 = true ∧ (s.choose 0).2 = some (5, launch0, 0, none) ∧ ((s.choose 0).1.core 0).l1 = [] := by decide +kernel
theorem wit_TaskEvents_complete : let q (k : EngQ) : EngQ := { k with noted := true }
    let t : Task := { launch := 0, idx := 0, wid := 0, stamp := 0, vf := 0, blk := 0, prio := 0 }
    let s := idle0.updCore 0 (fun k => { k with task := some t, vxe := { k.vxe with q := q k.vxe.q }, mxe := { k.mxe with q := q k.mxe.q }
                                                cpe := { k.cpe with q := q k.cpe.q } })
    (s.core 0).task = some t ∧ (∀ x, x < 4 → (s.ctx 0 x).run = .ended ∨ (s.ctx 0 x).run = .stopped) ∧ (s.core 0).vxe.q.noted = true ∧
    (s.core 0).mxe.q.noted = true ∧ (s.core 0).cpe.q.noted = true ∧ (s.core 0).penned = false ∧
    ((cr (st 0 []) (fun k => { k with task := some t })).ctx 0 0).run = .running := by decide +kernel
theorem wit_TaskEvents_release : let s := idle0.updPdk 0 (fun p => { p with queues := [(15, [launch0.pkt])] })
    let n : Packet := ⟨[0, 0, 0, 0], 0, none, [], 0⟩
    let t := idle0.updPdk 0 (fun p => { p with queues := [(15, [n])], tt := [(0, { d0 := 0x8000000000000009, d1 := 0x900000009, armed := true })] })
    (s.pdk 0).queue 15 = [launch0.pkt] ∧ (s.pdk 0).valid = true ∧ (s.pdk 0).releasable launch0.pkt = true ∧ wbits (s.pdk 0).pctl 60 2 ≠ 2 ∧
    wbits ((s.updPdk 0 (fun p => { p with pctl := p.pctl ||| 0x2000000000000000 })).pdk 0).pctl 60 2 = 2 ∧
    launch0.pkt.src = none ∧ taskCount (s.pdk 0) launch0.pkt.d ≠ 0 ∧ (t.pdk 0).queue 15 = [n] ∧ (t.pdk 0).releasable n = false := by decide +kernel
theorem wit_TaskEvents_frame : idle0.tickDue 0 = false ∧ ({ idle0 with time := 1024 * 2 ^ 32 } : State).tickDue 0 = true ∧
    ((idle0.updPdk 0 (fun p => { p with slip := some ⟨[(0, 1)], 0, 0, 5⟩ })).pdk 0).slip = some ⟨[(0, 1)], 0, 0, 5⟩ ∧
    idle0.entryVf 0 0 5 = none := by decide +kernel
theorem wit_TimeEvents : idle0.clockBusy = false ∧ ({ idle0 with time := 1024 * 2 ^ 32 } : State).clockBusy = true ∧ 0 ≤ idle0.timeStep ∧
    idle0.timeHold = 0 ∧ idle0.tack.src ≠ 2 ∧ (let s : State := { idle0 with pkg := 1, rdy0 := 2 ^ 18, routes := [(0, 2 ^ 63)], tack := { idle0.tack with src := 2, syncOk := 15 } }
      s.tack.src = 2 ∧ s.tack.mpkg ≠ s.pkg ∧ s.tack.syncOk = 15 ∧ (s.routePort s.tack.mpkg.toNat 0 0).isSome = true ∧
      idle0.routePort idle0.tack.mpkg.toNat 0 0 = none) := by decide +kernel

theorem wit_MemoryEvents_fill : let f : Freeze := { kind := 0, loc := 0, since := 0, ctx := 0 }
    let s := cr (st 0 []) (fun k => { k with frozen := some f, wins := [(0, { v := true, len := 1 })] })
    (s.core 0).frozen = some f ∧ s.translate 0 (winVa ((s.core 0).window 0) 0) .read f.atU = .ok (.phys 0 1 false) ∧
    (s.core 0).winHas 0 0 = false := by decide +kernel
theorem wit_MemoryEvents_lease : let s := cr (st 0 []) (fun k => { k with l1 := [(0x2000, some { rts := 5 }), (0x2001, some { cls := 1 })] })
    let t := (List.range 4).foldl (fun (s : State) x => s.updCtx 0 x (fun t => { t with pts := 6 })) s
    (s.core 0).line 0x2000 = some { rts := 5 } ∧ (∀ x, x < 4 → (s.ctx 0 x).pts ≤ 5) ∧ (t.core 0).line 0x2000 = some { rts := 5 } ∧
    (∀ x, x < 4 → (5 : Word) < (t.ctx 0 x).pts) := by decide +kernel
theorem wit_MemoryEvents_freeze : let f : Freeze := { kind := 0, loc := 0, since := 0, ctx := 0 }
    let e : Entry := { ins := .vld Tk.none 0 10 }
    let s : State := { cr (st 0 []) (fun k => { k with frozen := some f, vxe := { k.vxe with q := { k.vxe.q with q := [e] } } }) with cc := 0x3a980 }
    (s.core 0).frozen = some f ∧ (s.core 0).frzMax.toNat ≤ s.cc - f.since ∧ s.freezeOver 0 f = false ∧ (s.core 0).vxe.q.q = [e] ∧
    ((cr s (fun k => { k with frozen := some { f with ends := some 3 } })).core 0).frozen = some { f with ends := some 3 } := by decide +kernel
theorem wit_MemoryEvents_oq : (cr (st 0 []) (fun k => { k with
    oq := [(0, [⟨0, 0, 0, [0]⟩])]
    cpe := { k.cpe with work := [{ ent := { ins := .cpoq Tk.none 0 1 4 5, va := 0x10000 }, total := 8, formed := 1, out := [0] }] } })).oqLines 0 0 = [0] := by
  decide +kernel
theorem wit_MemoryEvents_oq_line : let e : Entry := { ins := .cpoq Tk.none 0 1 4 5, va := 0x10007, vb := 0x80000 }
    let w : Copy := { ent := e, total := 8, formed := 8, out := [7] }
    let s := cr (st 0 []) (fun k => { k with oq := [(7, [⟨0, 0, 0, [7]⟩])], cpe := { k.cpe with work := [w] } })
    s.oqLines 0 7 = [0] ∧ s.oqLines 0 6 = [] ∧ pickLine (s.core 0).cpe.work 0 = some (w, 7) ∧ wbits e.va 0 3 = 7 ∧
    s.translate 0 (e.vb + wnat (128 * 7)) .read e.atU = .ok (.phys 0x80380 1 true) ∧ s.linePoison (0x80380 / 128) = 0 ∧
    (s.core 0).queueOf 7 = [⟨0, 0, 0, [7]⟩] := by decide +kernel
theorem wit_MemoryEvents_shootdown : let s := idle0.updPdk 0 (fun p => { p with sdctl := 0x8000000000000000, sdlen := 1 })
    s.fuses.getLsbD 31 = true ∧ s.sdBlock 31 = some 0 ∧ (s.core 31).l1 = [] ∧ (s.core 31).wins = [] ∧ (s.core 31).pen = [] ∧
    s.usesRange 31 (s.pdk 0).sdRange.1 (s.pdk 0).sdRange.2 = false ∧ (0x8000000000000000 : Word).getLsbD 63 = true ∧ (st 0 []).leafOf 0 ((st 0 []).coreVf 0) 0x80000 = some (0x803e7, 0) ∧
    (st 0 []).leafOf 0 ((st 0 []).coreVf 0) 0x7fffffffffff = none := by decide +kernel
theorem wit_MemoryEvents_stores : ∀ x, (idle0.ctx 31 x).stores = [] := fun _ => rfl

/-- Core 0 with the task of `setTask`, and its context 0 waiting for the lot of 0x4080. -/
def lotWait : State := cx (cr (st 0 []) (fun k => { k with task := some setTask })) (fun t => { t with wait := some (.lot 0x4080 0 false) })
theorem wit_SetEvents_lots : (lotWait.core 0).task = some setTask ∧
    lotWait.translate 0 (BitVec.ofNat 64 (setTask.lotOf 0 0x4080).1) .read false = .ok (.phys 0x4080 1 false) ∧
    lotWait.holdsLot 0 0x4080 (setTask.lotOf 0 0x4080).2 = false ∧ lotWait.dirRoom 0 0x4080 = true ∧
    lotWait.lotHolder 0x4080 (setTask.lotOf 0 0x4080).2 = none ∧ lotWait.lotReqs = [] ∧
    (({ lotWait with lotReqs := [⟨0x4080, 7, 0, 0, 5, 0x4080⟩] } : State).oldestReq 0x4080) = some ⟨0x4080, 7, 0, 0, 5, 0x4080⟩ := by decide +kernel
theorem wit_SetEvents_wound : let w := cr lotWait (fun k => { k with wounded := true })
    (w.core 0).rolling = false ∧ (w.core 0).woundReady = true ∧ (w.core 0).task ≠ none ∧ (w.core 0).committing = false ∧
    ((cr w (fun k => { k with rolling := true })).core 0).rolling = true := by decide +kernel
theorem wit_SetEvents_commit : let p : PenLine := { data := 7, valid := 1, cls := 1 }
    let q (k : EngQ) : EngQ := { k with noted := true }
    let s := cr (cx lotWait (fun t => { t with run := .ended, wait := none })) (fun k => { k with
                                                pen := [(0x81, some p)]
                                                vxe := { k.vxe with q := q k.vxe.q }, mxe := { k.mxe with q := q k.mxe.q }
                                                cpe := { k.cpe with q := q k.cpe.q } })
    (s.core 0).commitPoint = true ∧ (s.core 0).pen = [(0x81, some p)] ∧ (s.core 0).hold = [] ∧ (lotWait.core 0).commitPoint = false ∧
    (cx lotWait (fun t => { t with wait := some .token286 })).tokenNext 0 = some 0 ∧ (lotWait.core 0).pen = [] := by decide +kernel

/-! ### Witnesses: admission -/

/-- A proxy `xput` of core 31 into slot 15, and a state in which it waits for the engine that decides it. -/
def req0 : Req := { core := 31, ctx := 3, ins := .xput Tk.none 0 0 15 4 5, cls := 0, unit := some 7, rt := 0, slot := 15,
                    va := 0x10000200000000, vb := 0, slk := 0, vf := 0, stamp := none }
def asking (r : Req) : State := { st 0 [] with rdy0 := 2 ^ 55, reqs := [r] }
theorem wit_Admission_decided : let s := asking req0
    let u := s.updEng 0 7 (fun e => { e with ends := (List.range 8).map (fun n => (n, 1)) })
    s.reqs = [req0] ∧ req0.unit = some 7 ∧ req0.answer = none ∧ req0.due ≤ s.cc ∧ ({ s with rdy0 := 0 } : State).engReady 0 7 = false ∧ s.engReady 0 7 = true ∧
    s.xceFull req0 7 = false ∧ (s.eng 0 7).ticket = none ∧ req0.rt = 0 ∧ ((s.eng 0 7).freeBays 0 s.cc).head? = some 0 ∧
    u.engReady 0 7 = true ∧ (u.eng 0 7).ticket = none ∧ ((u.eng 0 7).freeBays 0 u.cc) = [] ∧ req0.slot < 16 := by decide +kernel
theorem wit_Admission_answered : let r := { req0 with answer := some .refused, due := 6 }
    let s : State := { asking r with cc := 6 }
    s.reqs = [r] ∧ r.answer = some .refused ∧ (asking r).cc < r.due ∧ r.due ≤ s.cc := by decide +kernel
theorem wit_Admission_tickets : let c := cx (cr (st 0 []) (fun k => { k with task := some setTask })) (fun t => { t with runs := [(0, { run := 4, eng := some 7 })] })
    let h (cc : Nat) : State := { c.updEng 0 7 (fun e => { e with ticket := some { key := 0, bay := some 3, h := 1 } }) with cc := cc }
    c.ticketDue 0 7 = some 0 ∧ (st 0 []).ticketDue 0 7 = none ∧ (h 256).lapseDue 0 7 = true ∧ (h 255).lapseDue 0 7 = false := by decide +kernel
/-- The bay of the request, and one whose batch is ready. -/
def bay0 : Bay := { req := req0, since := 0, occ := 16 }
def served (b : Bay) (cc : Nat) : State := { (st 0 []).updEng 0 7 (fun e => e.setBay 3 (some b)) with cc := cc }
theorem wit_Admission_bays : let b := { bay0 with res := some (codeDone, 2, none) }
    let s := served b 16
    (s.eng 0 7).bay 3 = some b ∧ (served b 15).cc < b.since + b.occ ∧ b.since + b.occ ≤ s.cc ∧
    s.remoteNeed b.req.core b.req.atU (reqLines b.req) = none ∧ (wbits b.req.va 48 16).testBit 4 = true ∧ s.reqLive b.req = true ∧
    ((served bay0 4799).eng 0 7).bay 3 = some bay0 ∧ bay0.res = none ∧ bay0.taken = none ∧ bay0.offer = false ∧
    (((served bay0 4799).core 31).ring (wbits bay0.req.va 48 16 % 16)).filled < wbits bay0.req.va 32 16 ∧
    (served bay0 4799).cc < bay0.since + 4800 ∧ bay0.since + 4800 ≤ (served bay0 4800).cc ∧
    (((served bay0 4800).core 31).ring (wbits bay0.req.va 48 16 % 16)).filled = 0 ∧ b.asks = [] ∧ b.req.trs = [] := by decide +kernel
theorem wit_Admission_asks : let a : BayAsk := { line := 1, len := 1, at_ := 3 }
    let b := { bay0 with req := { req0 with trs := [.bad 0, .ok (.phys 0x80 3 true)] }, asks := [a] }
    ((served b 9).eng 0 7).bay 3 = some b ∧ b.asks = [a] ∧ a.rep = none ∧ b.req.trs[a.line]? = some (.ok (.phys 0x80 3 true)) := by decide +kernel
theorem wit_Admission_homes : let s := waiting (.load 5 0x80000 8 false (.remote 63 0x80000)) 0
    let u := cx s (fun t => { t with waitAt := 0 })
    (st 0 []).linePoison (2 ^ 40 - 1) = 0 ∧ s.active 0 0 ∧ (s.ctx 0 0).wait = some (.load 5 0x80000 8 false (.remote 63 0x80000)) ∧
    (s.hintFor 0 63 0x80000).isNone = true ∧ ({ u with cc := 2 ^ 20 } : State).active 0 0 ∧
    (({ u with cc := 2 ^ 20 } : State).ctx 0 0).waitAt + 2 ^ 20 ≤ ({ u with cc := 2 ^ 20 } : State).cc := by
  simp only [State.active]; decide +kernel

/-! ### Witnesses: pre-emption -/

/-- Every core holds a pre-emptible task of function 1 in a paddock with slices, and a launch of function 0 waits. -/
def taskVf1 : Task := { launch := 0, idx := 0, wid := 0, stamp := 0, vf := 1, blk := 0, prio := 0, pe := true }
def sliced (cc : Nat) : State :=
  { (((List.range 32).foldl (fun (s : State) c => s.updCore c (fun k => { k with task := some taskVf1 })) idle0).updPdk 0
    (fun p => { p with slice := 1, saveb := 0x100000 })).setLaunch 5 (some launch0) with cc := cc }
theorem wit_Preempted_slice : let s := sliced 6240
    (s.core 31).task = some taskVf1 ∧ (sliced 6239).cc < taskVf1.startClk + ((sliced 6239).pdk 0).sliceOf ∧
    wbits (s.pdk 0).slice 0 32 ≠ 0 ∧ taskVf1.pe = true ∧ taskVf1.irrev = false ∧ (s.core 31).request = none ∧
    taskVf1.startClk + (s.pdk 0).sliceOf ≤ s.cc ∧ s.sliceFor 31 taskVf1 = some 5 ∧ s.freeSlot 0 = some 0 := by decide +kernel
/-- Core 0 with a request for save slot 255, its context 0 in a given state and a copy command in its CPE queue. -/
def asked (r : RunState) (q : List Entry) : State := (idle0.updCore 0 (fun k => { k with task := some taskVf1, request := some ⟨255, 0, false, none⟩
                                                                                         cpe := { k.cpe with q := { k.cpe.q with q := q } } })).updCtx 0 0
  (fun t => { t with run := r, x := xs [(31, 7)] })
theorem wit_Preempted_point : let e : Entry := { ins := .cpin Tk.none 0 15 4 5 }
    let s := asked .parked [e]
    let t := cr s (fun k => { k with cpe := { k.cpe with q := { k.cpe.q with enoted := true } } })
    (s.core 0).request = some ⟨255, 0, false, none⟩ ∧ ((asked .running []).core 0).atPoint = false ∧ (s.core 0).point = false ∧
    (s.core 0).atPoint = true ∧ (s.core 0).task ≠ none ∧ (s.core 0).cpe.q.enoted = false ∧ (t.core 0).atPoint = true ∧
    (t.core 0).cpe.q.enoted = true ∧ s.drained 0 = false := by decide +kernel
theorem wit_Preempted_save : let s := cr (asked .parked []) (fun k => { k with point := true })
    (s.core 0).request = some ⟨255, 0, false, none⟩ ∧ (s.core 0).task = some taskVf1 ∧ (s.core 0).point = true ∧ s.drained 0 = true ∧
    (s.core 0).wins = [] ∧ (s.core 0).dfifo = [] ∧ (s.core 0).away = [] := by decide +kernel
theorem wit_Preempted_stores : let s := cr (asked .parked []) (fun k => { k with point := true })
    ∀ y, y < 4 → (s.ctx 0 y).stores = [] := by decide +kernel
/-- A launch whose task 0 is saved in slot 255. -/
def restorable : State := idle0.setLaunch 5 (some { launch0 with started := [0], saved := [(0, 255)] })
theorem wit_Preempted_restore : restorable.chooses 0 = true ∧
    (restorable.choose 0).2 = some (5, { launch0 with started := [0], saved := [(0, 255)] }, 0, some 255) ∧
    ((restorable.choose 0).1.core 0).l1 = [] := by decide +kernel

/-! ### Witnesses: the halter -/

/-- Core 31 runs a task and has retired nothing since clock 0. -/
def stuck (cc : Nat) : State := { ((idle0.updCore 31 (fun k => { k with task := some taskVf1 })).updCtx 31 0 (fun t => { t with run := .running })) with cc := cc }
def watched (w : Watch) (cc : Nat) : State := { stuck cc with watches := [w] }
theorem wit_Halter_fire : (stuck 2400000).watches = [] ∧ (stuck 2400000).noProgress 31 = true ∧ (stuck 2399999).noProgress 31 = false ∧
    (watched ⟨2, 31, 3, 15, 0, 24, 8, 12, 0⟩ 5).watches = [⟨2, 31, 3, 15, 0, 24, 8, 12, 0⟩] := by decide +kernel
theorem wit_Halter_ladder : let w (kind level : Nat) : Watch := ⟨kind, 31, 0, level, 0, 0, 0, 0, 0⟩
    let s := watched (w 0 1) 2400000
    s.watches[0]? = some (w 0 1) ∧ s.watchOver (w 0 1) = false ∧ (w 0 1).level ≠ 15 ∧ (w 0 1).since + s.timeout 1 * 2400 ≤ s.cc ∧
    nextLevel 0 1 = some 2 ∧ nextLevel 0 0 = some 1 ∧ nextLevel 4 0 = none ∧ nextLevel 3 0 = some 2 ∧
    (watched (w 0 0) 2400000).watchOver (w 0 0) = false ∧ (watched (w 3 0) 240000).watchOver (w 3 0) = false ∧
    (watched (w 3 0) 0).cc < (w 3 0).since + (watched (w 3 0) 0).timeout 0 * 2400 ∧ (watched (w 0 1) 9).watchOver (w 0 1) = true ∧
    ((watched (w 4 0) 2400000).updCore 31 (fun k => { k with request := some ⟨0, 0, false, none⟩ })).watchOver (w 4 0) = false := by decide +kernel
theorem wit_Halter_heartbeat : idle0.noHeartbeat = false ∧ (stuck 24000000).noHeartbeat = true ∧ (∀ w ∈ (stuck 24000000).watches, w.kind ≠ 6) ∧
    ((stuck 0).core 31).task = some taskVf1 ∧ taskVf1.vf = 1 ∧ (idle0.func 63).ilpend = 0 ∧
    idle0.inReset 63 = false ∧ idle0.serves 63 = false ∧ (idle0.func 63).rstBy = none ∧ (stuck 0).inReset 1 = false := by decide +kernel

/-! ### Witnesses: packets and links -/

/-- A packet at the head of its input, from stop 7 to stop 35, and one like it with another slack. -/
def pkt0 : PtPkt := { vc := 0, input := 3, src := 7, dst := 35, blk := 0, slack := 2, floor := 1, cls := 0, core := 31, ctx := 3, kind := 0
                      head := some 0, since := 0 }
def queued (n : Nat) (l : List PtPkt) : State := idle0.updPoint n (fun t => { t with pkts := l })
theorem wit_Packets_wait : let s := queued 128 [pkt0]
    (s.point 128).pkts[0]? = some pkt0 ∧ s.cc < pkt0.since + 16 * (pkt0.waited + 1) ∧ pkt0.since + 16 * (pkt0.waited + 1) ≤ 16 ∧
    (({ s with cc := 16 } : State).point 128).pkts[0]? = some pkt0 ∧ pkt0.vc ≠ 3 ∧ pkt0.acc = none ∧
    pkt0.kind ≠ 13 ∧ ((queued 128 [{ pkt0 with vc := 3 }]).point 128).pkts[0]? = some { pkt0 with vc := 3 } := by decide +kernel
theorem wit_Packets_grant : let s := queued 95 [pkt0, { pkt0 with input := 0, slack := 1 }]
    let u := queued 95 [pkt0]
    (s.point 95).pkts = [pkt0, { pkt0 with input := 0, slack := 1 }] ∧ pkt0.head ≠ none ∧ pkt0.vc = 0 ∧ pkt0.acc = none ∧
    pkt0.begun = false ∧ (u.point 95).pkts = [pkt0] ∧ pkt0.since ≤ s.cc ∧ pkt0.ring = false := by decide +kernel
theorem wit_Packets_reply : let q := { pkt0 with dst := 17, acc := some 3 }
    ((queued 209 [{ pkt0 with dst := 17 }]).point 209).pkts = [{ pkt0 with dst := 17 }] ∧ ({ pkt0 with dst := 17 } : PtPkt).acc = none ∧
    ((queued 209 [q]).point 209).pkts = [q] ∧ q.dst = 17 ∧ q.head ≠ none ∧ q.vc = 0 ∧ q.e = false ∧ q.acc = some 3 ∧
    ((queued 209 [{ q with e := true }]).point 209).pkts = [{ q with e := true }] := by decide +kernel
theorem wit_Packets_event : let f (n : Nat) (se : Bool) : State := idle0.updCtx 31 3 (fun t => { t with evlog := List.replicate n 0, status := if se then 0xfff else 0 })
    ((f 31 true).point 287).pkts = [] ∧ ((f 31 true).ctx 31 3).evlog.length < 32 ∧ ((f 31 true).ctx 31 3).se = true ∧
    ((f 31 true).ctx 31 3).slackPend = none ∧ ((f 31 true).ctx 31 3).run ≠ .ended ∧ ((f 32 true).point 287).pkts = [] ∧
    32 ≤ ((f 32 true).ctx 31 3).evlog.length := by decide +kernel
theorem wit_Packets_inject : let s := queued 135 [{ pkt0 with cells := 2 }]
    let u := queued 135 [pkt0]
    let b : State := { u with slotAct := (List.range 512).map (fun i => (i, 0x81)) }
    (s.point 135).pkts = [{ pkt0 with cells := 2 }] ∧ pkt0.vc < 4 ∧ (yardPath 7 35).1 = 1 ∧ (7 + 35 + 0) % 8 = 2 ∧
    s.slotAllows (s.passClock 7 1 % 256) 1 0 = true ∧ s.cells = [] ∧ (u.point 135).pkts = [pkt0] ∧ (b.point 135).pkts = [pkt0] ∧
    b.slotAllows (b.passClock 7 1 % 256) 1 0 = false := by decide +kernel
theorem wit_Packets_exit : (queued 135 [pkt0]).exitCredit pkt0 = true := by
  have h : Map.get 0 (queued 135 [pkt0]).exitUse pkt0.exitKey + flitsOf pkt0.len = 1 := by decide +kernel
  simp only [State.exitCredit, h, exitRoom, decide_eq_true_eq]
  omega
theorem wit_Packets_slots : let s : State := { idle0 with cc := 256, tack := { idle0.tack with stgPend := true } }
    s.tack.stgPend = true ∧ s.cc % 256 = 0 ∧ ({ s with cc := 255 } : State).cc % 256 ≠ 0 := by decide +kernel

/-- A package whose domain root is that of its functions, which admits paddock 5 of package 63, and whose port 0 leads there. -/
def routed (s : State) : State := { s with routes := [(63, 2 ^ 63)], rdy0 := s.rdy0 ||| 2 ^ 18 }
def domain : State := routed ((st 0 []).updPdk 0 (fun p => { p with droot := 0x400, djob := [(63, 0x8000000000000005)] }))
theorem wit_Links_domain : let h1 : Word := 63 + 5 * 2 ^ 35
    let lk : Word := 2 ^ 36
    wbits h1 0 6 = 63 ∧ (routed idle0).takerOf 63 (wbits h1 35 6) = none ∧ ((routed idle0).routePort 63 0 0).isSome = true ∧
    domain.takerOf 63 (wbits h1 35 6) = some 0 ∧ (0x80000 : Word).getLsbD 63 = false ∧
    domain.domainPlace (3 - min (wbits lk 35 2) 2) 0 (wbits 0x80000 0 41) .read (decide (wbits lk 42 2 = 0)) = .ok (.phys 0x80000 1 true) ∧
    domain.domainPlace (3 - min (wbits 0 35 2) 2) 0 (wbits 0x80000 0 41) .write (decide (wbits 0 42 2 = 0)) = .ok (.phys 0x80000 1 true) ∧
    (domain.routePort 63 (domain.placeStop 0 0x80000 1) 0).isSome = true ∧ hostPlace 0x80000 1 = false ∧
    domain.anyPoison (0x80000 / 4 * 4) 8 = false := by decide +kernel
/-- The domain with the page at 0x80000 behind the host port. -/
def hosted : State := domain.homeWrite 0x1000 8 0x2000000000001ef
theorem wit_Links_host : hosted.takerOf 63 5 = some 0 ∧ (hosted.routePort 63 (hosted.placeStop 0 0x80000 3) 0).isSome = true ∧
    hosted.domainPlace (3 - min (wbits 0 35 2) 2) 0 (wbits 0x80000 0 41) .read (decide (wbits 0 42 2 = 0)) = .ok (.phys 0x80000 3 true) ∧
    hostPlace 0x80000 3 = true := by decide +kernel
theorem wit_Links_units : let s : State := { idle0 with links := [(17, { replay := [{ seq := 5 }, { seq := 6 }, { seq := 7 }], expect := 4095 })] }
    (s.link 17).asked = false ∧ (0xfff0000000000000 : Word).getLsbD 36 = false ∧
    BitVec.ofNat 12 (wbits 0xfff0000000000000 52 12) = (s.link 17).expect ∧ (s.link 17).replay = [{ seq := 5 }] ++ [{ seq := 6 }, { seq := 7 }] ∧
    (∀ q ∈ [({ seq := 5 } : Flit)], q.seq.toNat ≠ 6) ∧ (([{ seq := 6 }, { seq := 7 }] : List Flit).head?.map (fun q => q.seq.toNat) = some 6) := by decide +kernel
theorem wit_Links_proxy_windows (a : Nat) :
    ((cr (st 0 []) (fun k => { k with rings := [(3, { v := true, lines := 1, slots := 2, filled := 1 })] })).core 0).windowOf a = none ∧
    ((cr (st 0 []) (fun k => { k with rings := [(3, { v := true, lines := 1, slots := 2, filled := 2 })] })).core 0).windowOf a = none :=
  ⟨Core.windowOf_of_none _ (by decide +kernel) a, Core.windowOf_of_none _ (by decide +kernel) a⟩
theorem wit_Links_proxy : let s : State := cr (st 0 []) (fun k => { k with rings := [(3, { v := true, lines := 1, slots := 2, filled := 1 })] })
    let t : State := cr (st 0 []) (fun k => { k with rings := [(3, { v := true, lines := 1, slots := 2, filled := 2 })] })
    ((s.core 0).ring 3).v = true ∧ ((s.core 0).ring 3).lines = 1 ∧ ((s.core 0).ring 3).takes 1 = true ∧
    ((t.core 0).ring 3).v = true ∧ ((t.core 0).ring 3).lines = 1 ∧ ((t.core 0).ring 3).takes 1 = false := by decide +kernel
theorem wit_Packets_port : let s : State := { queued 227 [{ pkt0 with dst := 35 }] with rdy0 := 2 ^ 35 }
    let t : State := queued 227 [{ pkt0 with dst := 35 }]
    s.mcs = [] ∧ pkt0.len = 8 * pkt0.data.length ∧ (s.point 227).pkts = [{ pkt0 with dst := 35 }] ∧ pkt0.head ≠ none ∧ pkt0.vc = 0 ∧ pkt0.acc = none ∧
    s.portCredit 17 0 (flitsOf pkt0.len) = true ∧ t.portCredit 17 0 (flitsOf pkt0.len) = false := by decide +kernel
theorem wit_Links_training : (∀ q ∈ (({ queued 227 [{ pkt0 with dst := 35, vc := 1 }] with mcs := [] } : State).point (210 + 17)).pkts,
    q.vc ≠ 0 ∧ q.ring = false) := by decide +kernel
theorem wit_Links_ethernet : ({ idle0 with rdy0 := 2 ^ 17 } : State).rdy0.getLsbD 17 = true ∧
    2 ^ 47 - 2 + ([1, 2] : List Byte).length ≤ 2 ^ 47 := by decide +kernel

/-! ### Witnesses: the switch -/

/-- A packet in the switch with these branches, and the group 5 with these two dwords. -/
def mc0 : McPkt := { inp := 63, group := 5, num := 0, ring := 15, vf := 0, lines := [7], slack := 0, mask := 0, since := 0 }
def grouped (d0 d1 : Word) (p : McPkt) : State := { ringed 0 0 0 with groups := [(10, d0), (11, d1)], mcs := [p] }
theorem wit_Switch_forward : let p := { mc0 with mask := 0x80 }
    let q := { mc0 with mask := 0x2000000 }
    let s := grouped 0x8000000000000080 0x8000000000000000 p
    let u := grouped 0x8000000000000080 0 q
    s.mcs = [p] ∧ p.mask.getLsbD 7 = true ∧ s.branchCores p 7 = [31] ∧ u.mcs = [q] ∧ q.mask.getLsbD 25 = true ∧
    (u.point 227).pkts = [] ∧ u.portCredit 17 0 q.flits = false ∧ ({ u with rdy0 := 2 ^ 35 } : State).portCredit 17 0 q.flits = true := by decide +kernel
theorem wit_Switch_deliver : let p := { mc0 with deliver := [(0, 0)] }
    let s := grouped 0 0 p
    let n := grouped 0 0 { p with lines := [7, 7] }
    let b : State := { ringed 2 0 0 with mcs := [p] }
    s.mcs = [p] ∧ p.res = none ∧ ringRefuses ((s.core 0).ring 15) p = false ∧ ((s.core 0).ring 15).takes 1 = true ∧
    n.mcs = [{ p with lines := [7, 7] }] ∧ ringRefuses ((n.core 0).ring 15) { p with lines := [7, 7] } = true ∧ b.mcs = [p] ∧
    ringRefuses ((b.core 0).ring 15) p = false ∧ ((b.core 0).ring 15).takes 1 = false ∧ s.cc < 0 + 4096 ∧
    0 + 4096 ≤ ({ s with cc := 4096 } : State).cc := by decide +kernel
theorem wit_Switch_combine : let s := grouped 0xc000fc0000000000 0x2000001 mc0
    ((idle0.group 65535).ok 65535 && (idle0.group 65535).cmb && (idle0.group 65535).vf == wbits 0 41 6) = false ∧ (s.group 5).ok 5 = true ∧
    (s.group 5).cmb = true ∧ (s.group 5).vf = wbits 0 41 6 ∧ ((s.group 5).ok 5 && (s.group 5).cmb && (s.group 5).vf == wbits (2 ^ 41) 41 6) = false ∧
    35 ≠ (s.group 5).parent ∧ s.abandoned = [] ∧ (s.group 5).inmask.testBit (stopCode 35) = true ∧ s.place 5 65535 = none ∧
    (s.group 5).inmask.testBit 0 = true ∧ codeStop 0 ≠ 35 := by decide +kernel
theorem wit_Switch_land : let v : Contrib := ⟨0, [1], false, false, 0, false⟩
    let p := { mc0 with res := some v, deliver := [(0, 0)] }
    let q : CmbPend := { core := 0, ctx := 0, slot := 15, group := 5, num := 0, addr := 0, shed := 0, op := 0, n := 1, stamp := 0 }
    let s : State := { cr (grouped 0 0 p) (fun k => { k with task := some { setTask with stamp := 0 } }) with cmbs := [q] }
    s.mcs = [p] ∧ p.res = some v ∧ s.cmbs = [q] ∧ q.core = 0 ∧ q.group = p.group ∧ q.num = p.num ∧ q.slot < 16 ∧
    (s.core 0).task = some { setTask with stamp := 0 } ∧ ({ setTask with stamp := 0 } : Task).stamp = q.stamp ∧
    (s.core 0).wins = [] := by decide +kernel
theorem wit_Switch_land_windows (ln : Nat) : ((cr (grouped 0 0 mc0) (fun k => { k with task := some { setTask with stamp := 0 } })).core 0).windowOf ln = none :=
  Core.windowOf_of_none _ (by decide +kernel) ln

/-! ### Witnesses: the host and the tack -/

/-- Entry 55 of function `fn` waits with these dwords. -/
def mbAt (fn : Nat) (ws : List Word) : State :=
  { idle0.updFunc fn (fun f => { f with mbox := Map.setList 0 [] (32 * 55) ws }) with
    rdy0 := 2 ^ 36, tack := { idle0.tack with mboxOrder := [(fn, 55)], noImage := false } }
theorem wit_Mailbox_doorbell : let pk := launch0.pkt.d
    let d := (List.range 8).map (pktWord pk)
    idle0.enabled 63 = false ∧ (idle0.pdk 0).valid = true ∧ wbits (idle0.pdk 0).pctl 60 2 = 0 ∧ pktCheck (idle0.pdk 0) 15 d = none ∧
    ((idle0.pdk 0).queue 15).length < 64 ∧ pktNset d = 0 := by decide +kernel
theorem wit_Mailbox_firmware : let v (s : State) : State := { s with tack := { s.tack with valid := true } }
    Asked (mbAt 0 [1, 0]) 55 0x01 0 ∧ Asked (mbAt 0 [0x10, 232, 8]) 55 0x10 8 ∧ (((mbAt 0 [0x10, 232, 8]).func 0).mbWord 55 0).toNat % 8 = 0 ∧
    ((mbAt 0 [0x10, 232, 8]).func 0).mbLen 55 ≤ 232 ∧ Asked (mbAt 0 [0x11, 0]) 55 0x11 0 ∧
    imageValid (mbAt 0 [0x11, 0]).tack.staged (mbAt 0 [0x11, 0]).tack.arc = false ∧ Asked (mbAt 0 [0x12, 0]) 55 0x12 0 ∧
    (mbAt 0 [0x12, 0]).tack.valid = false ∧ Asked (v (mbAt 0 [0x12, 0])) 55 0x12 0 ∧ (v (mbAt 0 [0x12, 0])).tack.valid = true := by
  simp only [Asked]; decide +kernel
theorem wit_Mailbox_verify : let m : Map Byte := [(0, 0x45), (1, 0x58), (2, 0x44), (3, 0x57)]
    let s : State := { mbAt 0 [0x11, 0] with tack := { (mbAt 0 [0x11, 0]).tack with stage := some m } }
    imageAuthentic m = true → Asked s 55 0x11 0 ∧ imageValid s.tack.staged s.tack.arc = true := by
  intro m s h
  refine ⟨by simp only [Asked]; decide +kernel, ?_⟩
  have h1 : decide (imageNum m 0 4 = 0x57445845) = true := by decide +kernel
  have h2 : decide (s.tack.arc ≤ imageArc m) = true := by decide +kernel
  simp only [imageValid, show s.tack.staged = m from rfl, h, h1, h2, Bool.and_self]
theorem wit_Mailbox_merge : let s := mbAt 0 [0x20, 40, 0x3f0100]
    let v (s : State) : State := s.updPdk 1 (fun _ => { placePaddock with pctl := 0x80000100000000ff })
    let g : Merge := { fn := 0, e := 55, a := 0, b := 1, steps := 1, since := 0 }
    let m (cc : Nat) : State := { (v s).updPdk 0 (fun p => { p with queues := [(0, [launch0.pkt])] }) with
                                  cc := cc, tack := { s.tack with merging := some g } }
    Asked s 55 0x20 40 ∧ (s.func 0).mbByte 55 0 < 8 ∧ (s.func 0).mbByte 55 1 < 8 ∧ (s.func 0).mbByte 55 0 ≠ (s.func 0).mbByte 55 1 ∧
    (s.func 0).mbByte 55 2 < 64 ∧ Asked (v s) 55 0x20 40 ∧ ((v s).pdk ((s.func 0).mbByte 55 0)).valid = true ∧
    ((v s).pdk ((s.func 0).mbByte 55 1)).valid = true ∧ (∀ d, d < 8 → d ≠ 0 → d ≠ 1 → ((v s).pdk d).valid = false) ∧
    (m 4799).tack.merging = some g ∧ (m 4799).serving = true ∧ (m 4799).cc < g.since + 4800 ∧ (m 4800).tack.merging = some g ∧
    (m 4800).serving = true ∧ g.since + 4800 ≤ (m 4800).cc ∧ (m 4800).mergeBusy 0 1 = some (busyItem 0 0 0 0) := by
  simp only [Asked]; decide +kernel
theorem wit_Mailbox_merge_invalid : let s := mbAt 0 [0x20, 40, 0x3f0001]
    Asked s 55 0x20 40 ∧ (s.func 0).mbByte 55 0 < 8 ∧ (s.func 0).mbByte 55 1 < 8 ∧ (s.func 0).mbByte 55 0 ≠ (s.func 0).mbByte 55 1 ∧
    (s.func 0).mbByte 55 2 < 64 ∧ (s.pdk ((s.func 0).mbByte 55 0)).valid = false := by simp only [Asked]; decide +kernel
theorem wit_Mailbox_registers : let s := mbAt 0 [0x30, 24, 0, 0, 1]
    let w := mbAt 0 [0x40, 16, 0x100000, 100]
    let b := mbAt 0 [0x40, 16, 1]
    let r := mbAt 0 [0x41, 8, 0x100000]
    let x := mbAt 0 [0x41, 8, 1]
    Asked (mbAt 0 [0x21, 1, 63]) 55 0x21 1 ∧ 0 < ((mbAt 0 [0x21, 1, 63]).func 0).mbByte 55 0 ∧ ((mbAt 0 [0x21, 1, 63]).func 0).mbByte 55 0 < 64 ∧
    (mbAt 0 [0x21, 1, 63]).inReset 63 = false ∧ (mbAt 0 [0x21, 1, 63]).serves 63 = false ∧ Asked s 55 0x30 24 ∧ wbits ((s.func 0).mbWord 55 2) 0 5 = 1 ∧ (s.func 0).mbByte 55 0 = 0 ∧ (s.func 0).mbWord 55 1 = 0 ∧
    Asked w 55 0x40 16 ∧ (w.func 0).mbWord 55 0 = 0x100000 ∧ Asked b 55 0x40 16 ∧ tackAddr ((b.func 0).mbWord 55 0).toNat = false ∧
    Asked r 55 0x41 8 ∧ tackAddr ((r.func 0).mbWord 55 0).toNat = true ∧ Asked x 55 0x41 8 ∧
    tackAddr ((x.func 0).mbWord 55 0).toNat = false := by simp only [Asked]; decide +kernel
theorem wit_Mailbox_ptp : let s := mbAt 0 [0x50, 9, 0x02040404007f0f0f, 1]
    let b := mbAt 0 [0x50, 9, 0x0300000000000000, 0]
    Asked s 55 0x50 9 ∧ ptpOk ((s.func 0).mbByte 55) = true ∧ Asked b 55 0x50 9 ∧ ptpOk ((b.func 0).mbByte 55) = false := by
  simp only [Asked]; decide +kernel
theorem wit_Mailbox_codes : let d := idle0.updFunc 0 (fun f => { f with mbox := Map.set 0 [] (32 * 63) 0x4000000000000000 })
    (mbAt 63 [0x77]).nextReq 63 55 = true ∧ (mbAt 63 [0x77]).tack.noImage = false ∧ mbCode (((mbAt 63 [0x77]).func 63).mb 55 0) = 0x77 ∧
    (mbAt 63 [0x12]).nextReq 63 55 = true ∧ mbCode (((mbAt 63 [0x12]).func 63).mb 55 0) = 0x12 ∧ d.enabled 0 = true ∧ 63 < mbEntries 0 ∧
    mbGo ((d.func 0).mb 63 0) = false ∧ (d.func 0).notices = [] := by decide +kernel
def pcAt (v : Word) : State := cx (st 0 []) (fun t => { t with pc := v })
theorem wit_Firmware : let s : State := { idle0 with tack := { idle0.tack with swapReq := true, swapWait := some (0, 55), trial := true, oldSlot := some true } }
    idle0.tack.swapReq = false ∧ s.tack.swapReq = true ∧ s.tack.merging = none ∧ s.tack.swapWait = some (0, 55) ∧ idle0.tack.trial = false ∧
    s.tack.trial = true ∧ s.cc < s.tack.trialAt + 2400000000 ∧ s.tack.oldSlot = some true ∧
    s.tack.trialAt + 2400000000 ≤ ({ s with cc := 2400000000 } : State).cc ∧ idle0.window 0 0 = some 0xff ∧ idle0.tack.dwKeep = none ∧
    ({ s with tack := { s.tack with dwKeep := some (3, [9]) } } : State).tack.dwKeep = some (3, [9]) ∧ idle0.rdy0.getLsbD 16 = false ∧
    ({ idle0 with rdy0 := 2 ^ 16 } : State).rdy0.getLsbD 16 = true ∧ tackAddr 1 = false ∧
    (pcAt 0x80000).translate 0 (pcAt 0x80000).now.pc .exec (decide ((pcAt 0x80000).now.pl = 0)) = .ok (.phys 0x80000 1 true) ∧
    (pcAt (2 ^ 63)).translate 0 (pcAt (2 ^ 63)).now.pc .exec (decide ((pcAt (2 ^ 63)).now.pl = 0)) = .bad Cause.xlat := by decide +kernel

end Sys2Proof.Tests
end

section
/-!
SUPPORT. Every step keeps the canonical form of memory. Only `State.homeWrite` and what is built from it touch the list of bytes, so
each function of the model has one lemma: `F_mem` says that `F` leaves the memory as it was, `F_canon` that it leaves a canonical memory
canonical. The lemmas stand in the order of the model's definitions and each uses those of the functions that its function calls;
`exec_canon` collects them over the words and events, `step_canon` over what a step may be. An `F_mem` is proved `by rfl`, not as the term `rfl`, so that `simp` keeps it as
a proof when it discharges the hypothesis of an `F_canon`.
-/
namespace Sys2Proof.Machine
section

/-- The canonical form of a memory, as an atom: the lemmas below reason about it by its name and never by its two clauses. -/
def Canon (m : List Host.Cell) : Prop := Memory.wf m

/-- The answer of a word's body holds a canonical memory wherever it holds a state; below, the same of the model's other answers. -/
def Res.Canon : Res → Prop
  | .done s | .stored s | .goto s _ | .jump s _ | .ret s _ | .stay s | .trapIn s _ _ | .sent s _ | .holdIn s _ _
  | .again s _ => Machine.Canon s.mem
  | .park | .trap _ _ | .own _ _ | .hold _ _ => True

def Out.Canon : Out → Prop
  | .next s => Machine.Canon s.mem
  | .fault _ | .refused _ => True

def BlkRes.Canon : BlkRes → Prop
  | .ok s _ => Machine.Canon s.mem
  | .trap _ _ | .wait _ _ => True

def EnqRes.Canon : EnqRes → Prop
  | .ok s _ _ => Machine.Canon s.mem
  | .trap _ _ | .hold _ _ => True

def LotAns.Canon : LotAns → Prop
  | .held s | .waits s => Machine.Canon s.mem
  | .full => True

def DstRes.Canon : DstRes → Prop
  | .done s _ _ => Machine.Canon s.mem
  | .none => True

def BayStep.Canon : BayStep → Prop
  | .later s => Machine.Canon s.mem
  | .ends r _ => Machine.Canon r.st.mem

def Answered.Canon : Answered → Prop
  | .data s _ _ | .waits s | .again s => Machine.Canon s.mem
  | .cause _ => True

def Move.Canon : Move → Prop
  | .run _ s => Machine.Canon s.mem
  | .out o => Out.Canon o

/-- A step over one number that leaves canonical memory canonical. -/
def Keeps (f : State → Nat → State) : Prop := ∀ s n, Canon s.mem → Canon (f s n).mem

/-- An event that leaves canonical memory canonical. -/
def Safe (f : State → Out) : Prop := ∀ s, Canon s.mem → Out.Canon (f s)

/-! Of each answer, what the canonical form of it says of the state that it holds. -/

@[simp] theorem Res.canon_done {s : State} : Res.Canon (.done s) ↔ Machine.Canon s.mem := .rfl
@[simp] theorem Res.canon_stored {s : State} : Res.Canon (.stored s) ↔ Machine.Canon s.mem := .rfl
@[simp] theorem Res.canon_goto {s : State} {a : Word} : Res.Canon (.goto s a) ↔ Machine.Canon s.mem := .rfl
@[simp] theorem Res.canon_jump {s : State} {a : Word} : Res.Canon (.jump s a) ↔ Machine.Canon s.mem := .rfl
@[simp] theorem Res.canon_ret {s : State} {a : Word} : Res.Canon (.ret s a) ↔ Machine.Canon s.mem := .rfl
@[simp] theorem Res.canon_stay {s : State} : Res.Canon (.stay s) ↔ Machine.Canon s.mem := .rfl
@[simp] theorem Res.canon_trapIn {s : State} {z : BitVec 5} {v : Word} : Res.Canon (.trapIn s z v) ↔ Machine.Canon s.mem := .rfl
@[simp] theorem Res.canon_sent {s : State} {w : Wait} : Res.Canon (.sent s w) ↔ Machine.Canon s.mem := .rfl
@[simp] theorem Res.canon_holdIn {s : State} {w : Wait} {n : Nat} : Res.Canon (.holdIn s w n) ↔ Machine.Canon s.mem := .rfl
@[simp] theorem Res.canon_again {s : State} {w : Wait} : Res.Canon (.again s w) ↔ Machine.Canon s.mem := .rfl
@[simp] theorem Res.canon_park : Res.Canon .park := trivial
@[simp] theorem Res.canon_trap {z : BitVec 5} {v : Word} : Res.Canon (.trap z v) := trivial
@[simp] theorem Res.canon_own {z : BitVec 5} {v : Word} : Res.Canon (.own z v) := trivial
@[simp] theorem Res.canon_hold {w : Wait} {n : Nat} : Res.Canon (.hold w n) := trivial
@[simp] theorem Out.canon_next {s : State} : Out.Canon (.next s) ↔ Machine.Canon s.mem := .rfl
@[simp] theorem BlkRes.canon_ok {s : State} {ws : List Word} : BlkRes.Canon (.ok s ws) ↔ Machine.Canon s.mem := .rfl
@[simp] theorem BlkRes.canon_trap {z : BitVec 5} {v : Word} : BlkRes.Canon (.trap z v) := trivial
@[simp] theorem BlkRes.canon_wait {w : Wait} {n : Nat} : BlkRes.Canon (.wait w n) := trivial
@[simp] theorem EnqRes.canon_ok {s : State} {ent : Entry} {p : Option Nat} : EnqRes.Canon (.ok s ent p) ↔ Machine.Canon s.mem := .rfl
@[simp] theorem EnqRes.canon_trap {z : BitVec 5} {v : Word} : EnqRes.Canon (.trap z v) := trivial
@[simp] theorem EnqRes.canon_hold {w : Wait} {n : Nat} : EnqRes.Canon (.hold w n) := trivial
@[simp] theorem LotAns.canon_held {s : State} : LotAns.Canon (.held s) ↔ Machine.Canon s.mem := .rfl
@[simp] theorem LotAns.canon_waits {s : State} : LotAns.Canon (.waits s) ↔ Machine.Canon s.mem := .rfl
@[simp] theorem LotAns.canon_full : LotAns.Canon .full := trivial
@[simp] theorem DstRes.canon_done {s : State} {ts : Word} {f : Option (BitVec 5 × Word)} :
    DstRes.Canon (.done s ts f) ↔ Machine.Canon s.mem := .rfl
@[simp] theorem DstRes.canon_none : DstRes.Canon .none := trivial
@[simp] theorem BayStep.canon_later {s : State} : BayStep.Canon (.later s) ↔ Machine.Canon s.mem := .rfl
@[simp] theorem BayStep.canon_ends {r : BayEnd} {b : Bool} : BayStep.Canon (.ends r b) ↔ Machine.Canon r.st.mem := .rfl
@[simp] theorem Answered.canon_data {s : State} {d : List Word} {ts : Word} : Answered.Canon (.data s d ts) ↔ Machine.Canon s.mem := .rfl
@[simp] theorem Answered.canon_waits {s : State} : Answered.Canon (.waits s) ↔ Machine.Canon s.mem := .rfl
@[simp] theorem Answered.canon_again {s : State} : Answered.Canon (.again s) ↔ Machine.Canon s.mem := .rfl
@[simp] theorem Answered.canon_cause {z : BitVec 5} : Answered.Canon (.cause z) := trivial
@[simp] theorem Move.canon_run {i : Instr} {s : State} : Move.Canon (.run i s) ↔ Machine.Canon s.mem := .rfl
@[simp] theorem Move.canon_out {o : Out} : Move.Canon (.out o) ↔ Out.Canon o := .rfl

theorem Res.Canon.of_done {r : Res} {t : State} (hr : r.Canon) (h : r = .done t) : Machine.Canon t.mem := by
  subst h
  exact hr

theorem BlkRes.Canon.of_ok {r : BlkRes} {t : State} {ws : List Word} (hr : r.Canon) (h : r = .ok t ws) : Machine.Canon t.mem := by
  subst h
  exact hr

theorem LotAns.Canon.of_held {r : LotAns} {t : State} (hr : r.Canon) (h : r = .held t) : Machine.Canon t.mem := by
  subst h
  exact hr

theorem LotAns.Canon.of_waits {r : LotAns} {t : State} (hr : r.Canon) (h : r = .waits t) : Machine.Canon t.mem := by
  subst h
  exact hr

theorem DstRes.Canon.of_done {r : DstRes} {t : State} {ts : Word} {f : Option (BitVec 5 × Word)} (hr : r.Canon) (h : r = .done t ts f) :
    Machine.Canon t.mem := by
  subst h
  exact hr

theorem BayStep.Canon.of_later {r : BayStep} {t : State} (hr : r.Canon) (h : r = .later t) : Machine.Canon t.mem := by
  subst h
  exact hr

theorem BayStep.Canon.of_ends {r : BayStep} {t : BayEnd} {fill : Bool} (hr : r.Canon) (h : r = .ends t fill) : Machine.Canon t.st.mem := by
  subst h
  exact hr

theorem Answered.Canon.of_data {r : Answered} {t : State} {l : List Word} {ts : Word} (hr : r.Canon) (h : r = .data t l ts) :
    Machine.Canon t.mem := by
  subst h
  exact hr

theorem Answered.Canon.of_waits {r : Answered} {t : State} (hr : r.Canon) (h : r = .waits t) : Machine.Canon t.mem := by
  subst h
  exact hr

theorem Answered.Canon.of_again {r : Answered} {t : State} (hr : r.Canon) (h : r = .again t) : Machine.Canon t.mem := by
  subst h
  exact hr

@[simp] theorem State.mem_ite {p : Prop} [Decidable p] {s t : State} : (if p then s else t).mem = if p then s.mem else t.mem :=
  apply_ite State.mem p s t

@[simp] theorem State.fst_mem_ite {α : Type} {p : Prop} [Decidable p] {r q : State × α} :
    (if p then r else q).1.mem = if p then r.1.mem else q.1.mem :=
  apply_ite (fun r : State × α => r.1.mem) p r q

/-- Both branches of a condition leave canonical memory, so the condition does. -/
@[simp] theorem canon_ite {p : Prop} [Decidable p] {m l : List Host.Cell} (hm : Canon m) (hl : Canon l) : Canon (if p then m else l) := by
  split
  · exact hm
  · exact hl

theorem foldl_mem {α : Type} {f : State → α → State} (h : ∀ s a, (f s a).mem = s.mem) (l : List α) (s : State) :
    (l.foldl f s).mem = s.mem := by
  induction l generalizing s with
  | nil => rfl
  | cons a r ih => exact (ih _).trans (h s a)

theorem foldl_canon {α : Type} {f : State → α → State} (h : ∀ s a, Canon s.mem → Canon (f s a).mem) (l : List α) {s : State}
    (hs : Canon s.mem) : Canon (l.foldl f s).mem := by
  induction l generalizing s with
  | nil => exact hs
  | cons a r ih => exact ih (h s a hs)

theorem safe_flatMap {α : Type} {l : List α} {g : α → List (State → Out)} (h : ∀ a, ∀ f ∈ g a, Safe f) :
    ∀ f ∈ l.flatMap g, Safe f := by
  intro f hf
  obtain ⟨a, -, ha⟩ := List.mem_flatMap.mp hf
  exact h a f ha

theorem safe_map {α : Type} {l : List α} {g : α → State → Out} (h : ∀ a, Safe (g a)) : ∀ f ∈ l.map g, Safe f :=
  List.forall_mem_map.mpr fun a _ => h a

variable {s : State} {k : Tk} {c x n pa ln w cls m e core fn unit port blk ctx pkg off stop : Nat} {a d b : Reg}
  {v va ts pts : Word} {p : PtPkt} {rep : Reply} {atU ms : Bool} {ent : Entry} {q : Req} {i : Instr}

/-! ### Ops: contexts, cores, traps and the path of a word -/

@[simp] theorem State.count_mem {ev : Nat} : (s.count c x ev n).mem = s.mem := by
  simp [State.count]

@[simp] theorem State.popAll_mem {fs : List Nat} : (s.popAll c x fs).mem = s.mem := by
  simp [State.popAll]

@[simp] theorem State.unpop_mem {fs : List Nat} : (s.unpop c x fs).mem = s.mem := by
  simp [State.unpop]

@[simp] theorem State.giveBack_mem : (s.giveBack c x).mem = s.mem := by
  simp [State.giveBack]

@[simp] theorem State.arise_mem {kind : Nat} {cause : BitVec 5} {tval pc : Word} :
    (s.arise kind core ctx cause tval pc).mem = s.mem := by
  simp [State.arise]

@[simp] theorem State.withdraw_mem : (s.withdraw c x).mem = s.mem := by
  unfold State.withdraw
  split <;> simp

@[simp] theorem takeTrap_mem {cause : BitVec 5} {tval pc : Word} : (takeTrap s c x cause tval pc).mem = s.mem := by
  simp [takeTrap]

@[simp] theorem State.signal_mem {f : Nat} : (s.signal c x f).mem = s.mem := by
  simp [State.signal]

@[simp] theorem State.holdSignals_mem : (s.holdSignals c x).mem = s.mem := by
  unfold State.holdSignals
  dsimp only
  split <;> simp

@[simp] theorem State.signals_mem {fs : List Nat} : (s.signals c x fs).mem = s.mem := by
  rw [State.signals, State.holdSignals_mem, foldl_mem fun _ _ => State.signal_mem]

@[simp] theorem State.retireAt_mem : (s.retireAt c x atU).mem = s.mem := by
  simp [State.retireAt]

@[simp] theorem State.retire_mem : (s.retire c x).mem = s.mem := by
  simp [State.retire]

@[simp] theorem finishWord_mem : (finishWord s c x k).mem = s.mem := by
  simp [finishWord]

@[simp] theorem State.complete_mem {f : Ctx → Ctx} : (s.complete c x f).mem = s.mem := by
  simp [State.complete]

@[simp] theorem State.holdAt_mem {w : Wait} {bound : Nat} : (s.holdAt c x k w bound).mem = s.mem := by
  unfold State.holdAt
  split <;> simp

@[simp] theorem State.holdIssued_mem {w : Wait} : (s.holdIssued c x k w).mem = s.mem := by
  simp [State.holdIssued]

@[simp] theorem settle_canon {r : Res} (hs : Canon s.mem) (hr : r.Canon) : Canon (settle s c x i k r).mem := by
  unfold settle
  dsimp only
  split <;> simp_all

/-- A control word keeps the canonical form when its body does. -/
theorem controlAt_canon {lvl : BitVec 2} {body : Nat → Nat → State → Res} (hs : Canon s.mem)
    (hb : ∀ c x t, Canon t.mem → (body c x t).Canon) : Out.Canon (controlAt lvl i k s body) := by
  unfold controlAt
  dsimp only
  (repeat' split) <;> simp [hs, hb, settle_canon]

theorem control_canon {body : Nat → Nat → State → Res} (hs : Canon s.mem) (hb : ∀ c x t, Canon t.mem → (body c x t).Canon) :
    Out.Canon (control i k s body) := controlAt_canon hs hb

@[simp] theorem regWord_canon {f : Ctx → Word} (hs : Canon s.mem) : Out.Canon (regWord i k d s f) :=
  control_canon hs fun _ _ _ ht => by simp [ht]

/-! ### Flags: flags and status values -/

@[simp] theorem State.setBz_mem {b : Bool} : (s.setBz c x b).mem = s.mem := by rfl

@[simp] theorem State.fillSlot_mem : (s.fillSlot c n v).mem = s.mem := by rfl

@[simp] theorem State.emptySlot_mem : (s.emptySlot c n).mem = s.mem := by rfl

@[simp] theorem State.engineFill_mem : (s.engineFill c n v).mem = s.mem := by rfl

/-! ### Points: paddocks and queuing points -/

@[simp] theorem State.updPoint_mem {f : Point → Point} : (s.updPoint n f).mem = s.mem := by rfl

@[simp] theorem State.pushAt_mem {at_ : Nat} : (s.pushAt n p at_).mem = s.mem := by rfl

@[simp] theorem State.pushPkt_mem : (s.pushPkt n p).mem = s.mem := by rfl

@[simp] theorem State.acceptPkt_mem {i : Nat} : (s.acceptPkt n i p).mem = s.mem := by rfl

@[simp] theorem State.takePkt_mem {i : Nat} : (s.takePkt n i).mem = s.mem := by rfl

@[simp] theorem State.form_mem {e : BitVec 28} : (s.form c x cls e p).mem = s.mem := by rfl

@[simp] theorem State.formAs_mem : (s.formAs c x p).mem = s.mem := by rfl

@[simp] theorem State.sendFrom_mem : (s.sendFrom p).mem = s.mem := by
  simp [State.sendFrom]

@[simp] theorem State.leaveExit_mem : (s.leaveExit p).mem = s.mem := by
  simp [State.leaveExit]

@[simp] theorem State.updShed_mem {j : Nat} {f : Shed → Shed} : (s.updShed j f).mem = s.mem := by rfl

@[simp] theorem State.dropHint_mem : (s.dropHint c pkg off).mem = s.mem := by rfl

@[simp] theorem State.sendOut_mem : (s.sendOut p).mem = s.mem := by
  simp [State.sendOut]

@[simp] theorem State.sendReq_mem {e : BitVec 28} {lvl : Nat} {data : List Word} {mark fwd : Nat} {stop : Option Nat} :
    (s.sendReq c x cls e p lvl pkg off data mark fwd stop).mem = s.mem := by
  unfold State.sendReq
  dsimp only
  (repeat' split) <;> simp

@[simp] theorem State.sendCtl_mem {src dst : Nat} : (s.sendCtl c src dst).mem = s.mem := by
  simp [State.sendCtl]

/-! ### Mem: homes, translation, the L1, the pen and the lots -/

@[simp] theorem State.setByte_canon {v : Byte} (hs : Canon s.mem) : Canon (s.setByte pa v).mem := State.setByte_wf s hs pa v

@[simp] theorem State.homeWrite_canon {v : Nat} (hs : Canon s.mem) :
    Canon (s.homeWrite pa n v).mem := State.homeWrite_wf s hs pa n v

@[simp] theorem State.homeBytes_canon {l keep : Line} (hs : Canon s.mem) : Canon (s.homeBytes ln l keep).mem := by
  refine foldl_canon (fun t a ht => ?_) _ hs
  split
  · exact ht
  · exact State.setByte_canon ht

@[simp] theorem State.homeWords_canon {l : Line} {mask : BitVec 32} (hs : Canon s.mem) : Canon (s.homeWords ln l mask).mem :=
  State.homeWords_wf s hs ln l mask

@[simp] theorem State.setPoison_mem {mask : BitVec 32} {b : Bool} : (s.setPoison ln mask b).mem = s.mem := by
  simp [State.setPoison]

@[simp] theorem State.setHcLine_mem {h : HcLine} : (s.setHcLine ln h).mem = s.mem := by
  unfold State.setHcLine
  dsimp only
  (repeat' split) <;> simp

@[simp] theorem State.hcFetch_mem : (s.hcFetch ln pts).1.mem = s.mem := by
  simp [State.hcFetch]

@[simp] theorem State.hcStore_mem : (s.hcStore ln pts).1.mem = s.mem := by
  simp [State.hcStore]

@[simp] theorem State.hcAnon_mem : (s.hcAnon ln).1.mem = s.mem := by
  simp [State.hcAnon]

@[simp] theorem State.homePkt_mem : (s.homePkt c x pa p).mem = s.mem := by rfl

@[simp] theorem State.forcedPkt_mem : (s.forcedPkt c pa p).mem = s.mem := by rfl

theorem State.under_canon {e : BitVec 28} {f : State → State} (hs : Canon s.mem) (hf : ∀ t, Canon t.mem → Canon (f t).mem) :
    Canon (s.under c x n e f).mem := hf _ hs

@[simp] theorem State.writeBackLine_canon (hs : Canon s.mem) : Canon (s.writeBackLine c ln).mem := by
  unfold State.writeBackLine
  split <;> simp [hs]

@[simp] theorem State.evictLine_canon (hs : Canon s.mem) : Canon (s.evictLine c ln).mem := by
  simp [State.evictLine, hs]

@[simp] theorem State.evictBlk_canon {b : Nat} (hs : Canon s.mem) : Canon (s.evictBlk c b).mem := by
  rw [State.evictBlk, State.updCore_mem]
  refine foldl_canon (fun t a ht => ?_) _ hs
  (repeat' split) <;> simp [ht]

@[simp] theorem State.clearWay_canon {b : Nat} (hs : Canon s.mem) : Canon (s.clearWay c b w).mem := by
  refine foldl_canon (fun t a ht => ?_) _ hs
  (repeat' split) <;> simp [ht]

@[simp] theorem State.makeRoom_canon {b : Nat} (hs : Canon s.mem) : Canon (s.makeRoom c b).1.mem := by
  unfold State.makeRoom
  split <;> simp [hs]

@[simp] theorem State.clearPenWays_canon (hs : Canon s.mem) : Canon (s.clearPenWays c).mem := by
  refine foldl_canon (fun t e ht => ?_) _ hs
  (repeat' split) <;> simp [ht]

@[simp] theorem State.raisePts_mem : (s.raisePts c ts).mem = s.mem := by
  simp [State.raisePts]

@[simp] theorem State.allocBlk_canon {b : Nat} {cls : BitVec 2} (hs : Canon s.mem) : Canon (s.allocBlk c b cls).mem := by
  simp [State.allocBlk, hs]

@[simp] theorem State.allocLine_canon {cls : BitVec 2} (hs : Canon s.mem) : Canon (s.allocLine c ln cls).mem := by
  unfold State.allocLine
  split <;> simp [hs]

@[simp] theorem State.fillLine_canon {cls : BitVec 2} (hs : Canon s.mem) : Canon (s.fillLine c ln cls pts).1.mem := by
  unfold State.fillLine
  dsimp only
  split <;> simp [hs]

@[simp] theorem State.fillBlk_canon {cls : BitVec 2} (hs : Canon s.mem) : Canon (s.fillBlk c x ln cls).mem := by
  have fill (ls : List Nat) : ∀ r : State × Word, Canon r.1.mem →
      Canon (ls.foldl (fun (r : State × Word) l => r.1.fillLine c l cls r.2) r).1.mem := by
    induction ls with
    | nil => exact fun _ hr => hr
    | cons l ls ih => exact fun r hr => ih _ (State.fillLine_canon hr)
  rw [State.fillBlk, State.updCtx_mem]
  exact fill _ _ hs

theorem State.enterFifo_canon {drain : State → Nat → State} (hs : Canon s.mem) (hd : ∀ t o, Canon t.mem → Canon (drain t o).mem) :
    Canon (s.enterFifo c e drain).mem := by
  unfold State.enterFifo
  dsimp only
  (repeat' split) <;> simp [hs, hd]

@[simp] theorem State.lineReq_mem {data keep : Line} : (s.lineReq c va pkg off data keep).mem = s.mem := by
  simp [State.lineReq]

@[simp] theorem State.sendLine_mem {i : Nat} {data keep : Line} : (s.sendLine c w i va pkg off data keep).mem = s.mem := by
  simp [State.sendLine]

@[simp] theorem State.writeBackWin_canon {i : Nat} (hs : Canon s.mem) : Canon (s.writeBackWin c w i).mem := by
  unfold State.writeBackWin
  dsimp only
  (repeat' split) <;> simp [hs]

@[simp] theorem State.drainEntry_canon (hs : Canon s.mem) : Canon (s.drainEntry c e).mem := by
  simp [State.drainEntry, hs]

@[simp] theorem State.l1Store_canon {v : Nat} {cls : BitVec 2} (hs : Canon s.mem) : Canon (s.l1Store c x pa w v cls).mem := by
  unfold State.l1Store
  dsimp only
  split
  · split
    · split <;> simp [hs]
    · split <;> simp [hs]
  · split
    · exact State.enterFifo_canon (by split <;> simp [hs]) fun t o ht => State.drainEntry_canon ht
    · split <;> simp [hs]

@[simp] theorem State.hcCopy_mem {m : BitVec 32} {wts : Word} : (s.hcCopy c ln m wts).mem = s.mem := by
  unfold State.hcCopy
  split <;> simp

@[simp] theorem State.homeStore_canon {v : Nat} {cls : BitVec 2} {alloc : Bool} (hs : Canon s.mem) :
    Canon (s.homeStore c x pa w v cls ms alloc).mem := by
  unfold State.homeStore
  extract_lets ln m held filled
  have hf : Canon filled.mem := by
    unfold filled
    split
    · exact State.fillBlk_canon (by simp [hs])
    · exact hs
  clear_value filled
  split
  · exact State.homeWrite_canon hs
  · have stored : Canon ((filled.homeWrite pa w v).hcStore ln (filled.ctx c x).pts).1.mem := by simp [hf]
    split
    next e =>
      rw [e] at stored
      extract_lets seen
      have hseen : Canon seen.mem := stored
      clear_value seen
      (repeat' split) <;> simp [hseen]

@[simp] theorem State.directStore_canon {v : Nat} (hs : Canon s.mem) : Canon (s.directStore c pa w v).mem := by
  unfold State.directStore
  dsimp only
  split <;> simp [hs]

@[simp] theorem State.placeStore_canon {p : Place} {v : Nat} (hs : Canon s.mem) : Canon (s.placeStore c x p w v).mem := by
  unfold State.placeStore
  (repeat' split) <;> simp [hs]

@[simp] theorem State.sendBy_mem {k : Nat} {e : BitVec 28} {lvl : Nat} {place : Place} {data : List Word} :
    (s.sendBy c x k e lvl p place data).mem = s.mem := by
  unfold State.sendBy
  split <;> simp

@[simp] theorem State.noteVa_mem {p : Place} : (s.noteVa c p va).mem = s.mem := by
  unfold State.noteVa
  (repeat' split) <;> simp

@[simp] theorem State.performStore_canon (hs : Canon s.mem) : Canon (s.performStore c x).mem := by
  unfold State.performStore
  split
  · exact hs
  · rw [State.signals_mem, State.noteVa_mem]
    exact State.placeStore_canon hs

@[simp] theorem State.drainStores_canon (hs : Canon s.mem) : Canon (s.drainStores c x).mem :=
  foldl_canon (fun _ _ ht => State.performStore_canon ht) _ hs

@[simp] theorem State.sendAccess_canon {place : Place} {data : List Word} (hs : Canon s.mem) :
    Canon (s.sendAccess c x p place data).mem := by
  unfold State.sendAccess
  split <;> simp [hs]

@[simp] theorem State.storePkt_canon {p : Place} (hs : Canon s.mem) : Canon (s.storePkt c x va w p).mem := by
  unfold State.storePkt
  split <;> simp [hs]

@[simp] theorem State.loadFill_canon {cls : BitVec 2} (hs : Canon s.mem) : Canon (s.loadFill c x pa w cls ms).mem := by
  unfold State.loadFill
  dsimp only
  (repeat' split) <;> simp [hs]

@[simp] theorem State.loadNow_canon {cls : BitVec 2} (hs : Canon s.mem) : Canon (s.loadNow c x pa w cls ms).1.mem := by
  simp [State.loadNow, hs]

@[simp] theorem State.codeFill_canon {cls : BitVec 2} (hs : Canon s.mem) : Canon (s.codeFill c x pa cls ms va).1.mem := by
  simp [State.codeFill, hs]

theorem State.penStore_canon {v : Nat} {cls : BitVec 2} {t : State} (hs : Canon s.mem)
    (ht : s.penStore c x va pa w v cls = some t) :
    Canon t.mem := by
  unfold State.penStore at ht
  dsimp only at ht
  (repeat' split at ht) <;> cases ht <;> simp [hs]

/-! ### Hints: forwarding hints -/

@[simp] theorem State.putHint_mem {h : Hint} : (s.putHint c h).mem = s.mem := by
  simp [State.putHint]

@[simp] theorem State.noteReply_mem {arg1 : Word} : (s.noteReply c pkg off arg1).mem = s.mem := by
  unfold State.noteReply
  (repeat' split) <;> simp

theorem State.secondTry_mem {r : Reply} {t : State} (ht : s.secondTry c pkg off r = some t) : t.mem = s.mem := by
  unfold State.secondTry at ht
  (repeat' split at ht) <;> cases ht <;> simp

theorem State.retryAt_mem {n : Need} {r : Reply} {t : State} (ht : s.retryAt c va n atU r = some t) : t.mem = s.mem := by
  unfold State.retryAt at ht
  split at ht
  · exact State.secondTry_mem ht
  · cases ht

@[simp] theorem State.noteAt_mem {n : Need} {r : Reply} : (s.noteAt c va n atU r).mem = s.mem := by
  unfold State.noteAt
  split <;> simp

/-! ### Csr: control and status registers -/

@[simp] theorem csrReadEffect_mem : (csrReadEffect s c x n).mem = s.mem := by
  simp [csrReadEffect]

@[simp] theorem csrWrite_mem : (csrWrite s c x n v).mem = s.mem := by
  unfold csrWrite
  (repeat' split) <;> simp

@[simp] theorem execCsrr_canon {r : BitVec 9} (hs : Canon s.mem) : Out.Canon (execCsrr k d r s) := by
  refine control_canon hs fun c x t ht => ?_
  dsimp only
  split <;> simp [ht]

@[simp] theorem csrForm_canon {r : BitVec 9} {f : Word → Word → Word} (hs : Canon s.mem) : Out.Canon (csrForm i k d a r s f) := by
  refine control_canon hs fun c x t ht => ?_
  dsimp only
  (repeat' split) <;> simp [ht]

/-! ### LoadStore: scalar loads and stores -/

@[simp] theorem loadDone_canon {ea : Word} {signed : Bool} {cls : BitVec 2} (hs : Canon s.mem) :
    Res.Canon (loadDone s c x d ea w signed pa cls ms) := by
  unfold loadDone
  dsimp only
  split <;> simp [hs]

@[simp] theorem State.sendWait_canon {w : Wait} (hs : Canon s.mem) : Canon (s.sendWait c x w).mem := by
  unfold State.sendWait
  split <;> simp [hs]

@[simp] theorem sendIt_canon {w : Wait} (hs : Canon s.mem) : Res.Canon (sendIt s c x w) := by
  simp [sendIt, hs]

@[simp] theorem holdBlk_canon {w : Wait} {bound : Nat} (hs : Canon s.mem) : Res.Canon (holdBlk s c x w bound) := by
  unfold holdBlk
  split <;> simp [hs]

@[simp] theorem loadBody_canon {ea : Word} {signed : Bool} (hs : Canon s.mem) : Res.Canon (loadBody d ea w signed c x s) := by
  unfold loadBody
  extract_lets t
  split
  · trivial
  · split
    · trivial
    · split <;> simp [hs]
    · split
      · trivial
      · trivial
      · trivial
      · split <;> simp [hs]

@[simp] theorem loadWord_canon {o : BitVec 8} {signed : Bool} (hs : Canon s.mem) : Out.Canon (loadWord i k d a o s w signed) :=
  control_canon hs fun c x t ht => by simp [ht]

@[simp] theorem execLdx_canon (hs : Canon s.mem) : Out.Canon (execLdx k d a b s) :=
  control_canon hs fun c x t ht => by simp [ht]

@[simp] theorem storeBody_canon {ea : Word} (hs : Canon s.mem) : Res.Canon (storeBody k v ea w c x s) := by
  unfold storeBody
  extract_lets t kc
  split
  · trivial
  · split
    · trivial
    · (repeat' split) <;> simp [hs]
    · split
      · trivial
      · trivial
      · trivial
      · split
        · trivial
        · split
          · split
            · trivial
            · split
              next u hu => simp [State.penStore_canon hs hu]
              next => trivial
          · (repeat' split) <;> simp [hs]

@[simp] theorem storeWord_canon {o : BitVec 8} (hs : Canon s.mem) : Out.Canon (storeWord i k d a o s w) :=
  control_canon hs fun c x t ht => by simp [ht]

@[simp] theorem execStx_canon (hs : Canon s.mem) : Out.Canon (execStx k d a b s) :=
  control_canon hs fun c x t ht => by simp [ht]

@[simp] theorem State.readBlock_canon (hs : Canon s.mem) : (s.readBlock c x va n).Canon := by
  induction n generalizing s va with
  | zero => exact hs
  | succ m ih =>
    have next {t : State} {v : Word} (ht : Canon t.mem) : BlkRes.Canon (match t.readBlock c x (va + 8) m with
        | .ok s' ws => .ok s' (v :: ws)
        | r => r) := by
      have := ih (va := va + 8) ht
      generalize t.readBlock c x (va + 8) m = r at this ⊢
      cases r <;> simp_all
    rw [State.readBlock]
    dsimp only
    split
    · simp
    · split
      · simp
      · split
        · exact next hs
        · simp
    · split
      · simp
      · simp
      · simp
      · split
        · split
          · exact next hs
          · simp
        · split
          · simp
          · exact next (State.loadNow_canon hs)

@[simp] theorem State.writeBlock_canon {ws : List Word} (hs : Canon s.mem) : (s.writeBlock c x va ws).Canon := by
  induction ws generalizing s va with
  | nil => exact hs
  | cons v r ih =>
    rw [State.writeBlock]
    split
    · simp
    · (repeat' split) <;> simp [ih hs]
    · split
      · simp
      · simp
      · simp
      · split
        · simp
        · split
          · split
            · simp
            · split
              · exact ih (State.penStore_canon hs ‹_›)
              · simp
          · split
            · simp
            · split
              · split
                · exact ih hs
                · simp
              · exact ih (State.placeStore_canon (State.storePkt_canon hs))

/-! ### Order: ordering words, blocks and stash windows -/

@[simp] theorem State.acquire_mem {sc : Nat} : (s.acquire c sc).mem = s.mem := by
  simp [State.acquire]

@[simp] theorem State.sendHostLine_mem : (s.sendHostLine c ln).mem = s.mem := by
  unfold State.sendHostLine
  split <;> simp

theorem State.drainChecked_canon {t : State} (hs : Canon s.mem) (ht : s.drainChecked c e atU = .ok t) : Canon t.mem := by
  unfold State.drainChecked at ht
  dsimp only at ht
  (repeat' split at ht) <;> cases ht <;> simp [hs]

@[simp] theorem State.drainAll_canon {es : List Nat} (hs : Canon s.mem) : Canon (s.drainAll c es atU).1.mem := by
  induction es generalizing s with
  | nil => exact hs
  | cons e r ih =>
    rw [State.drainAll]
    split
    · exact ih (State.drainChecked_canon hs ‹_›)
    · exact hs

@[simp] theorem State.release_canon {sc : Nat} (hs : Canon s.mem) : Canon (s.release c x sc).1.mem := by
  unfold State.release
  split <;> simp [hs]

theorem farDone_canon {r : State × Option (BitVec 5 × Word)} {f : State → Res} (hr : Canon r.1.mem)
    (hf : ∀ t, Canon t.mem → (f t).Canon) :
    (farDone c r f).Canon := by
  unfold farDone
  split
  · exact hr
  · split
    · exact hf _ hr
    · exact hr

@[simp] theorem State.invalidateCode_canon {sc : Nat} (hs : Canon s.mem) : Canon (s.invalidateCode c x sc).mem := by
  rw [State.invalidateCode, foldl_mem fun _ _ => State.updCore_mem ..]
  exact State.drainStores_canon hs

theorem orderWord_canon {sc : BitVec 3} {f : Nat → Nat → Nat → State → Res} (hs : Canon s.mem)
    (hf : ∀ c x n t, Canon t.mem → (f c x n t).Canon) : Out.Canon (orderWord i k sc s f) := by
  refine control_canon hs fun c x t ht => ?_
  split
  · simp
  · exact hf _ _ _ _ ht
  · have h2 := hf c x 2 t ht
    split <;> simp_all

@[simp] theorem execFence_canon {sc : BitVec 3} (hs : Canon s.mem) : Out.Canon (execFence k sc s) :=
  orderWord_canon hs fun _ _ _ _ ht => farDone_canon (State.release_canon ht) fun _ hu => by simp [hu]

@[simp] theorem execAcq_canon {sc : BitVec 3} (hs : Canon s.mem) : Out.Canon (execAcq k sc s) :=
  orderWord_canon hs fun c x j t ht => by simp [ht]

@[simp] theorem execRel_canon {sc : BitVec 3} (hs : Canon s.mem) : Out.Canon (execRel k sc s) :=
  orderWord_canon hs fun _ _ _ _ ht => farDone_canon (State.release_canon ht) fun _ hu => hu

@[simp] theorem State.sendInvi_mem {ps : List Nat} :
    (s.sendInvi c x ps).mem = s.mem := foldl_mem (fun _ _ => State.sendReq_mem) _ s

@[simp] theorem execInvi_canon {sc : BitVec 3} (hs : Canon s.mem) : Out.Canon (execInvi k sc s) := by
  refine orderWord_canon hs fun c x j t ht => ?_
  dsimp only
  (repeat' split) <;> simp [ht]

@[simp] theorem State.declareBlk_canon {b : Nat} {cls : BitVec 2} (hs : Canon s.mem) : Canon (s.declareBlk c x b cls).mem := by
  unfold State.declareBlk
  extract_lets joined room
  have hj : Canon joined.mem := by simp [joined, hs]
  have hr : Canon room.mem := by
    unfold room
    (repeat' split) <;> simp [hj]
  simp [hr]

@[simp] theorem State.beginBlk_mem {slot code info : Nat} {wb : Bool} : (s.beginBlk c slot code info wb).mem = s.mem := by rfl

@[simp] theorem farAsk_canon {r : Res} (hs : Canon s.mem) (hr : r.Canon) : (farAsk c x va pkg off s r).Canon := by
  unfold farAsk
  split
  · exact hr
  · exact holdBlk_canon hs

@[simp] theorem farProbe_canon {r : Res} (hs : Canon s.mem) (hr : r.Canon) : (farProbe c x va pkg off s r).Canon := by
  unfold farProbe
  split
  · simp
  · exact farAsk_canon hs hr

@[simp] theorem hostProbe_canon {cls : BitVec 2} {r : Res} (hs : Canon s.mem) (hr : r.Canon) :
    (hostProbe c x va pa cls ms s r).Canon := by
  unfold hostProbe
  split
  · exact hr
  · exact holdBlk_canon hs

@[simp] theorem State.blkPkts_canon (hs : Canon s.mem) : Canon (s.blkPkts c x va n).mem := by
  refine foldl_canon (fun t i ht => ?_) _ hs
  dsimp only
  split
  · exact State.sendAccess_canon ht
  · exact ht

@[simp] theorem execLblk_canon {i : BitVec 8} (hs : Canon s.mem) : Out.Canon (execLblk k d a i s) := by
  refine control_canon hs fun c x t ht => ?_
  dsimp only
  split
  · simp
  · split
    · simp
    · exact farProbe_canon ht (by simp [ht])
    · split
      · simp
      · refine hostProbe_canon ht ?_
        split
        · simp [ht]
        · split
          all_goals
            rw [Res.canon_done, State.beginBlk_mem]
            exact State.declareBlk_canon (State.drainStores_canon (State.blkPkts_canon ht))

@[simp] theorem State.writeBackBlk_canon {b : Nat} (hs : Canon s.mem) : Canon (s.writeBackBlk c b).1.mem := by
  have lines (ls : List Nat) : ∀ r : State × Nat, Canon r.1.mem → Canon (ls.foldl (fun (r : State × Nat) ln =>
      match (r.1.core c).line ln with
      | some l => if l.blk = b ∧ l.dirty ≠ 0 then (r.1.writeBackLine c ln, r.2 + 1) else r
      | none => r) r).1.mem := by
    induction ls with
    | nil => exact fun _ hr => hr
    | cons l ls ih =>
      refine fun r hr => ih _ ?_
      dsimp only
      split
      · rw [State.fst_mem_ite]
        exact canon_ite (State.writeBackLine_canon hr) hr
      · exact hr
  exact lines _ (s, 0) hs

@[simp] theorem blkBody_canon {evict : Bool} (hs : Canon s.mem) : Res.Canon (blkBody d a evict c x s) := by
  unfold blkBody
  extract_lets t drained
  have hd : Canon drained.mem := State.drainStores_canon hs
  clear_value drained
  split
  · trivial
  · exact farProbe_canon hs (by simp [hs])
  · split
    · trivial
    · refine hostProbe_canon hs ?_
      split
      · simp [hd]
      next l _ =>
        have hw : Canon (drained.writeBackBlk c l.blk).1.mem := State.writeBackBlk_canon hd
        dsimp only
        split <;> simp [hw]

@[simp] theorem execWblk_canon (hs : Canon s.mem) : Out.Canon (execWblk k d a s) :=
  control_canon hs fun c x t ht => by simp [ht]

@[simp] theorem execEblk_canon (hs : Canon s.mem) : Out.Canon (execEblk k d a s) :=
  control_canon hs fun c x t ht => by simp [ht]

@[simp] theorem execDblk_canon (hs : Canon s.mem) : Out.Canon (execDblk k a s) := by
  refine control_canon hs fun c x t ht => ?_
  dsimp only
  split
  · simp
  · exact farProbe_canon ht ht
  · split
    · simp
    · refine hostProbe_canon ht ?_
      have drained : Canon (t.drainStores c x).mem := State.drainStores_canon ht
      split
      · exact drained
      · simp [drained]

@[simp] theorem State.flushWindow_canon (hs : Canon s.mem) : Canon (s.flushWindow c w atU).1.mem := by
  simp [State.flushWindow, hs]

@[simp] theorem execSmap_canon (hs : Canon s.mem) : Out.Canon (execSmap k d a b s) := by
  refine control_canon hs fun c x t ht => ?_
  dsimp only
  split
  · simp
  · simp
  · split
    · simp
    · split
      · simp
      · exact farDone_canon (State.flushWindow_canon ht) fun _ hu => by simp [hu]

@[simp] theorem execSunmap_canon (hs : Canon s.mem) : Out.Canon (execSunmap k d s) :=
  control_canon hs fun _ _ _ ht => farDone_canon (State.flushWindow_canon ht) fun _ hu => by simp [hu]

@[simp] theorem execSflush_canon (hs : Canon s.mem) : Out.Canon (execSflush k d s) :=
  control_canon hs fun _ _ _ ht => farDone_canon (State.flushWindow_canon ht) fun _ hu => hu

@[simp] theorem execSstat_canon (hs : Canon s.mem) : Out.Canon (execSstat k d a s) :=
  control_canon hs fun c x t ht => by simp [ht]

/-! ### Spad: the scratchpad -/

theorem State.fillWin_mem {t : State} (ht : s.fillWin c w n atU = .ok t) : t.mem = s.mem := by
  unfold State.fillWin at ht
  dsimp only at ht
  (repeat' split at ht) <;> cases ht <;> simp

@[simp] theorem State.fillFirst_mem : (s.fillFirst c ln).mem = s.mem := by
  unfold State.fillFirst
  split
  · rfl
  · split
    · exact State.fillWin_mem ‹_›
    · rfl

@[simp] theorem State.spadWrite_canon {w : SpadWrite} (hs : Canon s.mem) : Canon (s.spadWrite c w).mem := by
  have drained (t : State) (o : Nat) (ht : Canon t.mem) : Canon (t.drainEntry c o).mem := State.drainEntry_canon ht
  unfold State.spadWrite
  extract_lets filled k new mended
  have hm : Canon mended.mem := by simp [mended, filled, hs]
  clear_value mended
  split
  · simp [hm]
  · extract_lets wn old kept
    have hk : Canon kept.mem := hm
    clear_value kept
    split
    · simp [hm]
    · split
      next pa cls _ _ =>
        extract_lets ln put held
        have hput : Canon put.mem := State.homeBytes_canon hm
        have hheld : Canon held.mem := hm
        clear_value put held
        split
        · split
          · exact hm
          · split
            · simp [hput]
            · have stored : Canon (put.hcStore ln k.maxPts).1.mem := by simp [hput]
              split
              next e =>
                rw [e] at stored
                simp [stored]
        · split
          · exact State.enterFifo_canon hheld drained
          · exact hheld
      next => simp [hm]
      next =>
        split
        · exact State.enterFifo_canon hk drained
        · exact hk

@[simp] theorem State.spadWrites_canon {ws : List SpadWrite} (hs : Canon s.mem) : Canon (s.spadWrites c ws).mem :=
  foldl_canon (fun _ _ ht => State.spadWrite_canon ht) _ hs

/-! ### System: system, context and time words -/

@[simp] theorem execSys_canon {i : BitVec 8} (hs : Canon s.mem) : Out.Canon (execSys k i s) := by
  refine control_canon hs fun c x t _ => ?_
  split <;> simp

@[simp] theorem execTrap_canon {i : BitVec 8} (hs : Canon s.mem) : Out.Canon (execTrap k a i s) :=
  controlAt_canon hs fun c x t _ => by simp

@[simp] theorem execBrk_canon {i : BitVec 8} (hs : Canon s.mem) : Out.Canon (execBrk k i s) :=
  control_canon hs fun c x t _ => by simp

@[simp] theorem execEret_canon (hs : Canon s.mem) : Out.Canon (execEret k s) :=
  controlAt_canon hs fun c x t ht => by simp [ht]

@[simp] theorem execHalt_canon (hs : Canon s.mem) : Out.Canon (execHalt k s) := by
  refine controlAt_canon hs fun c x t ht => ?_
  dsimp only
  split <;> simp [ht]

@[simp] theorem execFret_canon (hs : Canon s.mem) : Out.Canon (execFret k s) := by
  refine control_canon hs fun c x t ht => ?_
  dsimp only
  (repeat' split) <;> simp [ht]

@[simp] theorem execIllegalWord_canon {w : Code} (hs : Canon s.mem) : Out.Canon (execIllegalWord w s) := by
  simp [execIllegalWord, hs]

@[simp] theorem execFetchFault_canon (hs : Canon s.mem) : Out.Canon (execFetchFault s) := by
  unfold execFetchFault
  dsimp only
  split <;> simp [hs]

@[simp] theorem execCstart_canon (hs : Canon s.mem) : Out.Canon (execCstart k d a s) := by
  refine controlAt_canon hs fun c x t ht => ?_
  dsimp only
  (repeat' split) <;> simp [ht]

@[simp] theorem execCstop_canon (hs : Canon s.mem) : Out.Canon (execCstop k d s) := by
  refine controlAt_canon hs fun c x t ht => ?_
  split <;> simp [ht]

@[simp] theorem State.stopAtBoundary_canon (hs : Canon s.mem) : Canon (s.stopAtBoundary c x).mem := by
  unfold State.stopAtBoundary
  dsimp only
  split <;> simp [hs]

@[simp] theorem execCyield_canon {i : BitVec 8} (hs : Canon s.mem) : Out.Canon (execCyield k i s) :=
  control_canon hs fun c x t ht => by simp [ht]

@[simp] theorem execCid_canon (hs : Canon s.mem) : Out.Canon (execCid k d s) :=
  control_canon hs fun c x t ht => by simp [ht]

@[simp] theorem execCwait_canon {w : BitVec 8} (hs : Canon s.mem) : Out.Canon (execCwait k d w s) := by
  refine control_canon hs fun c x t ht => ?_
  (repeat' split) <;> simp [ht]

@[simp] theorem execTend_canon (hs : Canon s.mem) : Out.Canon (execTend k s) := by
  refine control_canon hs fun c x t ht => ?_
  dsimp only
  (repeat' split) <;> simp [ht]

@[simp] theorem execTwid_canon {i : BitVec 8} (hs : Canon s.mem) : Out.Canon (execTwid k d i s) :=
  control_canon hs fun c x t ht => by simp [ht]

@[simp] theorem execWtime_canon {w : BitVec 8} (hs : Canon s.mem) : Out.Canon (execWtime k a w s) := by
  refine control_canon hs fun c x t ht => ?_
  dsimp only
  split <;> simp [ht]

@[simp] theorem execRtime_canon (hs : Canon s.mem) : Out.Canon (execRtime k d s) :=
  control_canon hs fun c x t ht => by simp [ht]

@[simp] theorem execRframe_canon (hs : Canon s.mem) : Out.Canon (execRframe k d s) :=
  control_canon hs fun c x t ht => by simp [ht]

@[simp] theorem execWframe_canon {w : BitVec 8} (hs : Canon s.mem) : Out.Canon (execWframe k a w s) := by
  refine control_canon hs fun c x t ht => ?_
  dsimp only
  split <;> simp [ht]

@[simp] theorem execSlk_canon {i : BitVec 8} (hs : Canon s.mem) : Out.Canon (execSlk k i s) :=
  control_canon hs fun c x t ht => by simp [ht]

@[simp] theorem execAage_canon (hs : Canon s.mem) : Out.Canon (execAage k d s) :=
  control_canon hs fun c x t ht => by simp [ht]

@[simp] theorem execAheld_canon (hs : Canon s.mem) : Out.Canon (execAheld k d a s) := by
  refine control_canon hs fun c x t ht => ?_
  dsimp only
  (repeat' split) <;> simp [ht]

@[simp] theorem execAirrev_canon (hs : Canon s.mem) : Out.Canon (execAirrev k s) := by
  refine control_canon hs fun c x t ht => ?_
  split <;> simp [ht]

/-! ### Sync: tokens, future slots, barriers and rings -/

@[simp] theorem State.countAdm_mem {ctr : Nat} : (s.countAdm c x cls ctr).mem = s.mem := by rfl

@[simp] theorem execTksnd_canon (hs : Canon s.mem) : Out.Canon (execTksnd k a s) := by
  refine control_canon hs fun c x t ht => ?_
  dsimp only
  (repeat' split) <;> simp [ht]

@[simp] theorem execTkrcv_canon {w : BitVec 8} (hs : Canon s.mem) : Out.Canon (execTkrcv k a w s) := by
  refine control_canon hs fun c x t ht => ?_
  dsimp only
  split <;> simp [ht]

@[simp] theorem execTktry_canon (hs : Canon s.mem) : Out.Canon (execTktry k d a s) := by
  refine control_canon hs fun c x t ht => ?_
  dsimp only
  split <;> simp [ht]

@[simp] theorem execPwr_canon (hs : Canon s.mem) : Out.Canon (execPwr k d a s) :=
  control_canon hs fun c x t ht => by simp [ht]

@[simp] theorem execPrd_canon (hs : Canon s.mem) : Out.Canon (execPrd k d a s) := by
  refine control_canon hs fun c x t ht => ?_
  split <;> simp [ht]

@[simp] theorem execPclr_canon (hs : Canon s.mem) : Out.Canon (execPclr k d s) :=
  control_canon hs fun c x t ht => by simp [ht]

@[simp] theorem execPwait_canon {w : BitVec 8} (hs : Canon s.mem) : Out.Canon (execPwait k d w s) := by
  refine control_canon hs fun c x t ht => ?_
  split <;> simp [ht]

@[simp] theorem execBarinit_canon {i : BitVec 8} (hs : Canon s.mem) : Out.Canon (execBarinit k a i s) :=
  control_canon hs fun c x t ht => by simp [ht]

@[simp] theorem execBararr_canon {i : BitVec 8} (hs : Canon s.mem) : Out.Canon (execBararr k d i s) := by
  refine control_canon hs fun c x t ht => ?_
  split
  · simp
  · exact farDone_canon (State.release_canon ht) fun _ hu => by simp [hu]

@[simp] theorem execBarwait_canon {w : BitVec 8} (hs : Canon s.mem) : Out.Canon (execBarwait k a w s) := by
  refine control_canon hs fun c x t ht => ?_
  dsimp only
  (repeat' split) <;> simp [ht]

@[simp] theorem execRgclaim_canon {w : BitVec 8} (hs : Canon s.mem) : Out.Canon (execRgclaim k d a w s) := by
  refine control_canon hs fun c x t ht => ?_
  dsimp only
  (repeat' split) <;> simp [ht]

@[simp] theorem execRgfill_canon (hs : Canon s.mem) : Out.Canon (execRgfill k a s) :=
  control_canon hs fun c x t ht => by simp [ht]

@[simp] theorem execRgwait_canon {w : BitVec 8} (hs : Canon s.mem) : Out.Canon (execRgwait k d a w s) := by
  refine control_canon hs fun c x t ht => ?_
  dsimp only
  split <;> simp [ht]

@[simp] theorem execRgfree_canon (hs : Canon s.mem) : Out.Canon (execRgfree k a s) :=
  control_canon hs fun c x t ht => by simp [ht]

@[simp] theorem execRgstat_canon (hs : Canon s.mem) : Out.Canon (execRgstat k d a s) :=
  control_canon hs fun c x t ht => by simp [ht]

@[simp] theorem execRgstatSet_canon (hs : Canon s.mem) : Out.Canon (execRgstatSet k d a s) := by
  refine control_canon hs fun c x t ht => ?_
  dsimp only
  split
  · simp
  · split
    · simp
    · exact holdBlk_canon ht
    · simp [(State.readBlock_canon ht).of_ok ‹_›]
    · simp [(State.readBlock_canon ht).of_ok ‹_›]

@[simp] theorem execRgstatSave_canon (hs : Canon s.mem) : Out.Canon (execRgstatSave k d a s) := by
  refine control_canon hs fun c x t ht => ?_
  dsimp only
  split
  · simp
  · split
    · simp
    · exact holdBlk_canon ht
    · exact (State.writeBlock_canon (State.drainStores_canon ht)).of_ok ‹_›

/-! ### Launch: launch packets, interrupts and notices -/

theorem State.arrive_mem {q vf : Nat} {d : List Word} {src : Option (Nat × Nat × Word)} {t : State}
    (ht : s.arrive blk q vf d src = .ok t) :
    t.mem = s.mem := by
  unfold State.arrive at ht
  dsimp only at ht
  (repeat' split at ht) <;> cases ht <;> simp

@[simp] theorem execTlnc_canon {i : BitVec 8} (hs : Canon s.mem) : Out.Canon (execTlnc k d a i s) := by
  refine control_canon hs fun c x t ht => ?_
  dsimp only
  split
  · simp
  · split
    · simp
    · exact holdBlk_canon ht
    next u pk hu =>
      have read : Canon u.mem := (State.readBlock_canon ht).of_ok hu
      split
      · simp
      · split
        · simp [read]
        · split
          · simp [read]
          · split <;> simp [read, State.arrive_mem ‹_›]

@[simp] theorem State.logEntry_canon {src vec info : Nat} (hs : Canon s.mem) : Canon (s.logEntry fn src vec info).mem := by
  rw [State.logEntry, State.updFunc_mem]
  exact State.homeWrite_canon (State.homeWrite_canon hs)

@[simp] theorem State.interrupt_canon {src info : Nat} (hs : Canon s.mem) : Canon (s.interrupt fn src info).mem := by
  rw [State.interrupt]
  split
  · rw [State.updFunc_mem]
    exact hs
  · split
    · rw [State.updFunc_mem]
      exact hs
    · rw [State.updFunc_mem]
      exact State.logEntry_canon hs

@[simp] theorem State.notice_canon {q info : Nat} {d : List Word} (hs : Canon s.mem) : Canon (s.notice fn blk q info d).mem := by
  unfold State.notice
  extract_lets f words noted
  split
  · exact hs
  · exact State.interrupt_canon hs

/-! ### Tasks: tasks -/

@[simp] theorem State.setLaunch_mem {l : Option Launch} : (s.setLaunch n l).mem = s.mem := by rfl

@[simp] theorem State.updLaunch_mem {f : Launch → Launch} : (s.updLaunch n f).mem = s.mem := by
  unfold State.updLaunch
  split <;> simp

@[simp] theorem State.choose_mem : (s.choose c).1.mem = s.mem := by
  simp [State.choose]

@[simp] theorem State.beginTask_canon {t : Task} {d : List Word} (hs : Canon s.mem) : Canon (s.beginTask c t d).mem :=
  State.clearPenWays_canon (by simp [hs])

@[simp] theorem execTaskStart_canon (hs : Canon s.mem) : Out.Canon (execTaskStart core s) := by
  have hc : Canon (s.choose core).1.mem := by simp [hs]
  unfold execTaskStart
  split
  · split
    next e =>
      rw [e] at hc
      simp [State.beginTask_canon hc]
    next => exact hs
  · exact hs

@[simp] theorem State.fillLaunch_canon {b : Nat} {src : Nat × Nat × Word} (hs : Canon s.mem) :
    Canon (s.fillLaunch b src pts v).mem := by
  unfold State.fillLaunch
  split
  · rw [State.engineFill_mem, foldl_mem fun _ _ => State.updCtx_mem ..]
    exact hs
  · split
    · exact State.homeWrite_canon (State.homeWrite_canon (by simp [hs]))
    · exact hs

@[simp] theorem State.endLaunch_canon {l : Launch} (hs : Canon s.mem) : Canon (s.endLaunch ln l).mem := by
  unfold State.endLaunch
  dsimp only
  split <;> simp [hs]

@[simp] theorem State.taskDone_canon {t code info : Nat} (hs : Canon s.mem) : Canon (s.taskDone ln t core code info pts).mem := by
  unfold State.taskDone
  split <;> simp [hs]

@[simp] theorem State.lapseTickets_mem : (s.lapseTickets c).mem = s.mem := by rfl

@[simp] theorem State.releaseSets_mem : (s.releaseSets c).mem = s.mem := by
  rw [State.releaseSets, State.updPdk_mem]
  refine foldl_mem (fun t l => ?_) _ s
  split
  · exact State.sendCtl_mem
  · rfl

@[simp] theorem State.clearRequest_mem : (s.clearRequest c).mem = s.mem := by
  unfold State.clearRequest
  split <;> simp

@[simp] theorem State.finishTask_canon {code info : Nat} (hs : Canon s.mem) : Canon (s.finishTask c code info).mem := by
  unfold State.finishTask
  split <;> simp [hs]

@[simp] theorem State.request_mem {b : Nat} {why : Option Nat} : (s.request c b why).mem = s.mem := by
  unfold State.request
  split <;> simp

@[simp] theorem State.preempt_mem {l : Launch} : (s.preempt n l).mem = s.mem := by
  unfold State.preempt
  dsimp only
  (repeat' split) <;> simp

@[simp] theorem execLaunchRelease_canon {q : Nat} (hs : Canon s.mem) : Out.Canon (execLaunchRelease blk q s) := by
  unfold execLaunchRelease
  dsimp only
  (repeat' split) <;> simp [hs]

/-! ### Queues: the engine queues -/

@[simp] theorem State.enqueue_mem : (s.enqueue c x e ent).mem = s.mem := by
  simp [State.enqueue]

@[simp] theorem enqBody_canon {w : Word} {tk : Tk} {g : Option (Nat × Bool)} {chk : Nat → Nat → State → EnqRes} (hs : Canon s.mem)
    (hc : (chk c x s).Canon) : (enqBody w e tk g chk c x s).Canon := by
  unfold enqBody
  dsimp only
  split
  · simp
  · split
    · simp
    · exact holdBlk_canon hs
    · split
      · simp
      · split <;> simp_all

@[simp] theorem execEnote_canon (hs : Canon s.mem) : Out.Canon (execEnote k d s) := by
  refine control_canon hs fun c x t ht => ?_
  have enq : (enqBody (wordVal (.enote k d)) d.toNat k none (fun _ _ s => .ok s { ins := .enote k d } none) c x t).Canon :=
    enqBody_canon ht ht
  dsimp only
  generalize enqBody (wordVal (.enote k d)) d.toNat k none (fun _ _ s => .ok s { ins := .enote k d } none) c x t = r at enq ⊢
  split
  · simpa using enq
  · exact enq

@[simp] theorem execEqf_canon {y : Bool} {m : BitVec 3} (hs : Canon s.mem) : Out.Canon (execEqf y m s) := by
  refine control_canon hs fun c x t ht => ?_
  dsimp only
  split
  · simp
  · split
    · simp
    · rw [Res.canon_done, foldl_mem fun _ _ => State.enqueue_mem]
      simp [ht]

@[simp] theorem State.startEntry_mem {fl : Flight} : (s.startEntry c e fl).mem = s.mem := by rfl

@[simp] theorem State.fillPkt_mem {f : Freeze} : (s.fillPkt c ent f).mem = s.mem := by
  unfold State.fillPkt
  (repeat' split) <;> simp

@[simp] theorem State.freeze_mem {f : Freeze} : (s.freeze c f).mem = s.mem := by rfl

@[simp] theorem State.freezeOwn_mem {i : Nat} : (s.freezeOwn c e ent w i).mem = s.mem := by
  simp [State.freezeOwn]

@[simp] theorem State.unsignal_mem {f : Nat} : (s.unsignal c x f).mem = s.mem := by
  simp [State.unsignal]

@[simp] theorem State.undoTend_mem : (s.undoTend c x).mem = s.mem := by
  unfold State.undoTend
  dsimp only
  split
  · rfl
  · rw [foldl_mem fun _ _ => State.unsignal_mem]
    simp

@[simp] theorem State.raiseHead_mem {cause : BitVec 5} {tval : Word} {again : Bool} :
    (s.raiseHead c e x cause tval again).mem = s.mem := by
  simp [State.raiseHead]

@[simp] theorem State.metPoison_mem : (s.metPoison c e).mem = s.mem := by
  simp [State.metPoison]

@[simp] theorem State.retireFlight_canon {f : Flight} (hs : Canon s.mem) : Canon (s.retireFlight c e f).mem := by
  unfold State.retireFlight
  dsimp only
  (repeat' split) <;> simp [hs]

@[simp] theorem execEngineCommandRetire_canon {q : Nat} (hs : Canon s.mem) : Out.Canon (execEngineCommandRetire core q s) := by
  unfold execEngineCommandRetire
  extract_lets k e
  split
  · exact hs
  · split
    · exact hs
    · split
      · simp [hs]
      · exact State.under_canon hs fun _ ht => State.retireFlight_canon ht

@[simp] theorem State.flushPosts_canon (hs : Canon s.mem) : Canon (s.flushPosts c).mem :=
  foldl_canon (fun _ _ ht => State.spadWrites_canon ht) _ hs

/-! ### Vector: vector words -/

@[simp] theorem vecIssue_canon (hs : Canon s.mem) : EnqRes.Canon (vecIssue i c x s) := by
  unfold vecIssue
  dsimp only
  split <;> simp [hs]

@[simp] theorem vecWord_canon (hs : Canon s.mem) : Out.Canon (vecWord i k s) :=
  control_canon hs fun c x t ht => by simp [ht]

@[simp] theorem State.startVxe_mem {late : Option Freeze} : (s.startVxe c ent late).mem = s.mem := by
  unfold State.startVxe
  dsimp only
  split <;> simp

theorem State.headStep_mem {slotOf : Instr → Option Nat} {go : State → Entry → State} (hgo : ∀ t ent, (go t ent).mem = t.mem) :
    (s.headStep c e slotOf go).mem = s.mem := by
  unfold State.headStep
  dsimp only
  (repeat' split) <;> simp [hgo]

@[simp] theorem execVxeCommandStart_canon (hs : Canon s.mem) : Out.Canon (execVxeCommandStart core s) := by
  rw [execVxeCommandStart, Out.canon_next, State.headStep_mem fun _ _ => State.startVxe_mem]
  simp [hs]

@[simp] theorem execVxeWriteback_canon (hs : Canon s.mem) : Out.Canon (execVxeWriteback core s) :=
  hs

/-! ### Matrix: matrix words -/

@[simp] theorem opCheck_canon {word : Word} {ok : Bool} {ws : List Word} {go : EnqRes} (hgo : go.Canon) :
    (opCheck word ok ws go).Canon := by
  unfold opCheck
  (repeat' split) <;> simp [hgo]

theorem withBlock_canon {al : Nat} {f : State → List Word → EnqRes} (hs : Canon s.mem) (hf : ∀ t ws, Canon t.mem → (f t ws).Canon) :
    (withBlock s c x va al n f).Canon := by
  unfold withBlock
  split
  · simp
  · have hb : (s.readBlock c x va n).Canon := State.readBlock_canon hs
    split <;> simp_all

@[simp] theorem goCheck_canon {word : Word} {ws : List Word} {go : EnqRes} (hgo : go.Canon) : (goCheck word ws go).Canon := by
  unfold goCheck
  refine opCheck_canon ?_
  split <;> simp [hgo]

@[simp] theorem matIssue_canon (hs : Canon s.mem) : (matIssue i c x s).Canon := by
  unfold matIssue
  dsimp only
  split
  · refine withBlock_canon hs fun t ws ht => ?_
    split <;> simp [ht]
  · split <;> simp [hs]
  · exact withBlock_canon hs fun t ws ht => goCheck_canon ht
  · simp [hs]
  · exact opCheck_canon hs
  · exact opCheck_canon hs
  · exact opCheck_canon hs
  · refine opCheck_canon ?_
    split <;> simp [hs]
  · refine opCheck_canon ?_
    split <;> simp [hs]
  · exact hs

@[simp] theorem matWord_canon (hs : Canon s.mem) : Out.Canon (matWord i k s) :=
  control_canon hs fun c x t ht => by simp [ht]

@[simp] theorem State.missed_mem {m : Miss} : (s.missed c ent m).mem = s.mem := by
  simp [State.missed]

@[simp] theorem State.startMxe_mem {late : Option Freeze} : (s.startMxe c ent late).mem = s.mem := by
  unfold State.startMxe
  dsimp only
  (repeat' split) <;> simp

@[simp] theorem execMxeCommandStart_canon (hs : Canon s.mem) : Out.Canon (execMxeCommandStart core s) := by
  rw [execMxeCommandStart, Out.canon_next, State.headStep_mem fun _ _ => State.startMxe_mem]
  exact hs

@[simp] theorem execMxeWriteback_canon (hs : Canon s.mem) : Out.Canon (execMxeWriteback core s) := by
  unfold execMxeWriteback
  dsimp only
  (repeat' split) <;> simp [hs]

@[simp] theorem State.nestStep_mem {late : Option Freeze} : (s.nestStep c late).mem = s.mem := by
  unfold State.nestStep
  dsimp only
  (repeat' split) <;> simp

@[simp] theorem State.movesLand_canon (hs : Canon s.mem) : Canon (s.movesLand c).mem := by
  simp [State.movesLand, hs]

@[simp] theorem execNestStep_canon (hs : Canon s.mem) : Out.Canon (execNestStep core s) := by
  simp [execNestStep, hs]

@[simp] theorem State.drainNest_canon {late : Option Freeze} (hs : Canon s.mem) : Canon (s.drainNest c late).mem := by
  unfold State.drainNest
  extract_lets k
  split
  · exact hs
  · split
    · exact hs
    · split
      · exact hs
      · split
        · simp [hs]
        · exact State.under_canon (by simp [hs]) fun _ ht => State.spadWrites_canon ht

@[simp] theorem execNestStoreDrainEnd_canon (hs : Canon s.mem) : Out.Canon (execNestStoreDrainEnd core s) := by
  simp [execNestStoreDrainEnd, hs]

/-! ### Sets: lots, wounds and the drain of a pen -/

@[simp] theorem State.woundCore_mem : (s.woundCore c).mem = s.mem := by
  simp [State.woundCore]

@[simp] theorem State.sendWound_mem {key : Nat} : (s.sendWound key c).mem = s.mem := by
  simp [State.sendWound]

@[simp] theorem State.giveLot_mem {va key log : Nat} : (s.giveLot c x va key log).mem = s.mem := by rfl

@[simp] theorem State.withdrawHead_mem : (s.withdrawHead c).mem = s.mem := by rfl

@[simp] theorem State.askLot_canon {who va key log : Nat} (hs : Canon s.mem) : LotAns.Canon (s.askLot c who x va key log) := by
  unfold State.askLot
  dsimp only
  (repeat' split) <;> simp [hs]

@[simp] theorem State.drainPenLine_canon {p : PenLine} (hs : Canon s.mem) : Canon (s.drainPenLine c ln p ts).mem := by
  unfold State.drainPenLine
  dsimp only
  split <;> simp [hs]

@[simp] theorem State.commitPkts_mem : (s.commitPkts c ts).mem = s.mem := by
  refine foldl_mem (fun t e => ?_) _ s
  split <;> simp

@[simp] theorem State.drainPen_canon (hs : Canon s.mem) : Canon (s.drainPen c).mem := by
  rw [State.drainPen, State.raisePts_mem, State.updCore_mem]
  refine foldl_canon (fun t e ht => ?_) _ (by simp [hs])
  split
  · exact State.drainPenLine_canon ht
  · exact ht

/-! ### Copy: copy words and the copy engine -/

@[simp] theorem copyIssue_canon {f p : BitVec 4} {opts : Nat} (hs : Canon s.mem) :
    EnqRes.Canon (copyIssue i f p a b opts c x s) := by
  unfold copyIssue
  extract_lets t v g word ent fin bad
  have hf (u : State) (hu : Canon u.mem) (ent : Entry) : EnqRes.Canon (fin u ent) := by
    unfold fin
    (repeat' split) <;> simp [hu]
  clear_value fin
  split
  · split <;> trivial
  · trivial
  · split
    · trivial
    · split
      · exact hf s hs _
      · split
        · split
          · trivial
          · have hb : BlkRes.Canon (s.readBlock c x g 4) := State.readBlock_canon hs
            split
            next => trivial
            next => trivial
            next e =>
              split
              · trivial
              · exact hf _ (hb.of_ok e) _
        · split
          · trivial
          · exact hf s hs _

@[simp] theorem cpoqIssue_canon {f p : BitVec 4} (hs : Canon s.mem) : EnqRes.Canon (cpoqIssue i f p a b c x s) := by
  unfold cpoqIssue
  dsimp only
  (repeat' split) <;> simp [hs]

@[simp] theorem copyChk_canon (hs : Canon s.mem) : EnqRes.Canon (copyChk i c x s) := by
  unfold copyChk
  split <;> simp [hs]

@[simp] theorem copyWord_canon (hs : Canon s.mem) : Out.Canon (copyWord i k s) :=
  control_canon hs fun c x t ht => by simp [ht]

theorem State.fillLines_mem {lns : List Nat} {t : State} (ht : s.fillLines c atU lns = .ok t) : t.mem = s.mem := by
  induction lns generalizing s with
  | nil => cases ht; rfl
  | cons ln r ih =>
    rw [State.fillLines] at ht
    split at ht
    · exact ih ht
    · split at ht
      · exact (ih ht).trans (State.fillWin_mem ‹_›)
      · cases ht

@[simp] theorem State.holdCopy_mem : (s.holdCopy c ent).mem = s.mem := by rfl

@[simp] theorem State.startCpe_mem {late : Option Freeze} : (s.startCpe c ent late).mem = s.mem := by
  unfold State.startCpe
  dsimp only
  (repeat' split) <;> simp

@[simp] theorem execCpeCommandStart_canon (hs : Canon s.mem) : Out.Canon (execCpeCommandStart core s) := by
  rw [execCpeCommandStart, Out.canon_next, State.headStep_mem fun _ _ => State.startCpe_mem]
  exact hs

@[simp] theorem State.copyPkt_mem {w : Copy} : (s.copyPkt c w m n).mem = s.mem := by
  unfold State.copyPkt
  (repeat' split) <;> simp

@[simp] theorem execCopyPacketForm_canon (hs : Canon s.mem) : Out.Canon (execCopyPacketForm core s) := by
  unfold execCopyPacketForm
  dsimp only
  (repeat' split) <;> simp [hs]

@[simp] theorem State.homePut_canon {cls : BitVec 2} {comb : Option Nat} {l : Line} {bad : Bool} (hs : Canon s.mem) :
    Canon (s.homePut c pa cls comb l bad).1.mem := by
  unfold State.homePut
  dsimp only
  (repeat' split) <;> simp [hs]

@[simp] theorem State.dstLine_canon {l : Line} {bad : Bool} (hs : Canon s.mem) : DstRes.Canon (s.dstLine c ent n l bad rep) := by
  unfold State.dstLine
  dsimp only
  (repeat' split) <;> simp [hs]

theorem State.lineRetry_mem {t : State} (ht : s.lineRetry c ent n rep = some t) : t.mem = s.mem := by
  unfold State.lineRetry at ht
  split at ht
  · exact State.retryAt_mem ht
  · cases ht

@[simp] theorem State.lineNote_mem : (s.lineNote c ent n rep).mem = s.mem := by
  unfold State.lineNote
  split <;> simp

@[simp] theorem State.lineDone_mem {w : Copy} {sf df : Option (BitVec 5 × Word)} :
    (s.lineDone c w m sf df ts).mem = s.mem := by rfl

@[simp] theorem State.sendCopyLine_mem {w : Copy} {l : Line} {sf : Option (BitVec 5 × Word)} :
    (s.sendCopyLine c w m l sf).mem = s.mem := by
  unfold State.sendCopyLine
  (repeat' split) <;> simp

@[simp] theorem State.sideWait_mem {w : Copy} {wi i : Nat} : (s.sideWait c w m wi i).mem = s.mem := by
  unfold State.sideWait
  (repeat' split) <;> simp

@[simp] theorem State.putLine_canon {w : Copy} {l : Line} {sf : Option (BitVec 5 × Word)} (hs : Canon s.mem) :
    Canon (s.putLine c w m l sf rep).mem := by
  have hd : DstRes.Canon (if noWrite w.ent sf then .done s 0 none else s.dstLine c w.ent m l sf.isSome rep) := by
    split
    · exact hs
    · exact State.dstLine_canon hs
  unfold State.putLine
  split
  next => simp [hs]
  next e => simp [hd.of_done e]

@[simp] theorem State.rowLine_canon {w : Copy} (hs : Canon s.mem) : Canon (s.rowLine c w m rep).mem := by
  unfold State.rowLine
  (repeat' split) <;> simp [hs]

@[simp] theorem State.lineAgain_mem {w : Copy} : (s.lineAgain c w m).mem = s.mem := by
  unfold State.lineAgain
  (repeat' split) <;> simp

@[simp] theorem State.copyLine_canon {w : Copy} (hs : Canon s.mem) : Canon (s.copyLine c w m rep).mem := by
  unfold State.copyLine
  split
  next t ht => simp [State.lineRetry_mem ht, hs]
  next =>
    extract_lets k late
    split
    next => simp [hs]
    next =>
      split
      · exact State.rowLine_canon hs
      · split
        · exact hs
        · exact State.putLine_canon hs

@[simp] theorem execCopyLineComplete_canon (hs : Canon s.mem) : Out.Canon (execCopyLineComplete core n rep s) := by
  unfold execCopyLineComplete
  split
  · exact hs
  · exact State.under_canon hs fun _ ht => State.copyLine_canon ht

@[simp] theorem State.performHeld_canon {h : HeldCopy} (hs : Canon s.mem) : Canon (s.performHeld c h).mem := by
  refine foldl_canon (fun t m ht => ?_) _ hs
  dsimp only
  split
  · exact ht
  · split
    · split <;> simp [ht]
    · exact State.putLine_canon (by split <;> simp [ht])

@[simp] theorem State.performHold_canon (hs : Canon s.mem) : Canon (s.performHold c).mem :=
  foldl_canon (fun _ _ ht => State.performHeld_canon ht) _ hs

/-! ### Fetch: instruction fetch and the next move -/

@[simp] theorem State.keepCode_mem {at_ : Nat} {w : Code} : (s.keepCode c at_ w).mem = s.mem := by
  simp [State.keepCode]

theorem State.fetchCode_canon {pc : Word} {r : State × Code} (hs : Canon s.mem) (hr : s.fetchCode c x pc = some r) :
    Canon r.1.mem := by
  unfold State.fetchCode at hr
  dsimp only at hr
  (repeat' split at hr) <;> cases hr <;> simp [hs]

@[simp] theorem State.takeSlot_mem {eng : Bool} : (s.takeSlot c x eng).mem = s.mem := by rfl

@[simp] theorem State.issue_canon (hs : Canon s.mem) : (s.issue c x).Canon := by
  unfold State.issue
  split
  · exact execFetchFault_canon hs
  next t w ht =>
    have fetched : Canon t.mem := State.fetchCode_canon hs ht
    split
    · split <;> simp [hs, fetched]
    · exact execIllegalWord_canon fetched

/-! ### Guard: guarded pairs -/

@[simp] theorem engIssue_canon (hs : Canon s.mem) : (engIssue e i c x s).Canon := by
  unfold engIssue
  split
  · exact copyChk_canon hs
  · exact matIssue_canon hs
  · exact vecIssue_canon hs

@[simp] theorem execEgrd_canon {g : BitVec 1} (hs : Canon s.mem) : Out.Canon (execEgrd d g s) := by
  unfold execEgrd
  dsimp only
  split
  · simp [hs]
  · split
    · simp [hs]
    next u w hu =>
      have fetched : Canon u.mem := State.fetchCode_canon hs hu
      split
      · simp [fetched]
      · simp [fetched]
      next e j _ _ =>
        refine control_canon fetched fun c x t ht => ?_
        have enq : (enqBody (wordVal j) e (tkOfWord w) (some (d.toNat, g = 1)) (engIssue e j) c x t).Canon :=
          enqBody_canon ht (engIssue_canon ht)
        split
        · simp
        · generalize enqBody (wordVal j) e (tkOfWord w) (some (d.toNat, g = 1)) (engIssue e j) c x t = r at enq ⊢
          split
          · simpa using enq
          · exact enq

/-! ### Adm: admission -/

@[simp] theorem State.setEng_mem {e : Eng} : (s.setEng cls unit e).mem = s.mem := by rfl

@[simp] theorem State.updEng_mem {f : Eng → Eng} : (s.updEng cls unit f).mem = s.mem := by rfl

@[simp] theorem State.ownAnswer_mem {slot : Nat} : (s.ownAnswer c x cls slot).mem = s.mem := by
  simp [State.ownAnswer]

@[simp] theorem reqBody_canon {f p : BitVec 4} {rt : BitVec 2} {chk : Nat → Nat → State → ChkRes} (hs : Canon s.mem) :
    (reqBody i cls f rt p a b chk c x s).Canon := by
  unfold reqBody
  dsimp only
  (repeat' split) <;> simp [hs]

@[simp] theorem reqWord_canon {f p : BitVec 4} {rt : BitVec 2} {chk : Nat → Nat → State → ChkRes} (hs : Canon s.mem) :
    Out.Canon (reqWord i k cls f rt p a b s chk) := control_canon hs fun _ _ _ ht => reqBody_canon ht

@[simp] theorem State.updReq_mem {f : Req → Req} : (s.updReq c x f).mem = s.mem := by rfl

@[simp] theorem State.answerReq_mem {r : Req} {a : Answer} : (s.answerReq r a).mem = s.mem := by rfl

@[simp] theorem State.decideReq_mem {r : Req} : (s.decideReq r unit).mem = s.mem := by
  unfold State.decideReq
  dsimp only
  (repeat' split) <;> simp

@[simp] theorem execAdmissionDecision_canon (hs : Canon s.mem) : Out.Canon (execAdmissionDecision core ctx s) := by
  unfold execAdmissionDecision
  dsimp only
  (repeat' split) <;> simp [hs]

@[simp] theorem execAdmissionAnswer_canon (hs : Canon s.mem) : Out.Canon (execAdmissionAnswer core ctx s) := by
  unfold execAdmissionAnswer
  (repeat' split) <;> simp [hs]

@[simp] theorem execTicketIssue_canon (hs : Canon s.mem) : Out.Canon (execTicketIssue cls unit s) := by
  unfold execTicketIssue
  split <;> simp [hs]

@[simp] theorem State.lapse_mem : (s.lapse cls unit).mem = s.mem := by
  unfold State.lapse
  dsimp only
  split <;> simp

@[simp] theorem execTicketLapse_canon (hs : Canon s.mem) : Out.Canon (execTicketLapse cls unit s) := by
  unfold execTicketLapse
  split <;> simp [hs]

@[simp] theorem execAdmrt_canon (hs : Canon s.mem) : Out.Canon (execAdmrt k d a b s) := by
  refine control_canon hs fun c x t ht => ?_
  dsimp only
  (repeat' split) <;> simp [ht]

@[simp] theorem execAdmctr_canon (hs : Canon s.mem) : Out.Canon (execAdmctr k d a s) := by
  refine control_canon hs fun c x t ht => ?_
  dsimp only
  (repeat' split) <;> simp [ht]

@[simp] theorem execAdmtk_canon (hs : Canon s.mem) : Out.Canon (execAdmtk k d a b s) := by
  refine control_canon hs fun c x t ht => ?_
  dsimp only
  (repeat' split) <;> simp [ht]

/-! ### Alu: integer words -/

@[simp] theorem alu2_canon {f : Word → Word → Word} (hs : Canon s.mem) : Out.Canon (alu2 i k d a b s f) := regWord_canon hs

@[simp] theorem alu1_canon {f : Word → Word} (hs : Canon s.mem) : Out.Canon (alu1 i k d a s f) := regWord_canon hs

/-! ### Amo: atomic memory operations -/

@[simp] theorem amoAt_canon {op v cmp : Nat} {cls : BitVec 2} (hs : Canon s.mem) :
    Canon (amoAt s c x op pa w v cmp cls ms).1.mem := by
  unfold amoAt
  extract_lets ln back old poi seen put kept
  have hb : Canon back.mem := by
    unfold back
    split <;> simp [hs]
  have hseen : Canon seen.mem := hb
  have hput : Canon put.mem := by
    unfold put
    split <;> simp [hb]
  have hkept : Canon kept.mem := by
    unfold kept
    (repeat' split) <;> simp [hput]
  clear_value back seen put kept
  split
  · have hl : Canon (back.loadNow c x pa w cls ms).1.mem := State.loadNow_canon hb
    dsimp only
    (repeat' split) <;> simp [hl]
  · (repeat' split) <;> simp [hb, hseen, hkept]

@[simp] theorem amoBody_canon {op : Nat} {z : BitVec 1} (hs : Canon s.mem) : Res.Canon (amoBody op d a b z c x s) := by
  unfold amoBody
  extract_lets t k w ea v cmp inSet
  split
  · trivial
  · split
    · trivial
    · (repeat' split) <;> simp [hs]
    · split
      · trivial
      · trivial
      · trivial
      next pa cls ms _ _ _ =>
        extract_lets sent
        have hsent : Canon sent.mem := by
          unfold sent
          split <;> simp [hs]
        clear_value sent
        split
        · split
          · trivial
          · have hl : Canon (s.loadNow c x pa w cls ms).1.mem := State.loadNow_canon hs
            dsimp only
            split
            · trivial
            · split
              next u hu =>
                rw [Res.canon_done, State.updCtx_mem]
                split at hu
                · exact State.penStore_canon hl hu
                · rw [← Option.some.inj hu]
                  exact hl
              next => trivial
        · split
          · exact sendIt_canon hs
          · have ha : Canon (amoAt (sent.drainStores c x) c x op pa w v cmp cls ms).1.mem := amoAt_canon (State.drainStores_canon hsent)
            dsimp only
            split <;> simp [ha]

@[simp] theorem amoWord_canon {op : Nat} {z : BitVec 1} (hs : Canon s.mem) : Out.Canon (amoWord i op k d a b z s) :=
  control_canon hs fun c x t ht => by simp [ht]

/-! ### Link: Ganor links -/

@[simp] theorem State.setLink_mem {l : Link} : (s.setLink port l).mem = s.mem := by rfl

@[simp] theorem State.freePlaces_mem {vc : Nat} : (s.freePlaces port vc n).mem = s.mem := by rfl

@[simp] theorem State.idleLinks_mem : s.idleLinks.mem = s.mem := by
  refine foldl_mem (fun t p => ?_) _ s
  split <;> simp

@[simp] theorem State.sendPort_mem {ws : List Word} : (s.sendPort port ws).mem = s.mem := by rfl

/-! ### Switch: multicast and combining -/

@[simp] theorem State.sweepMcs_mem : s.sweepMcs.mem = s.mem := by
  refine foldl_mem (fun t p => ?_) _ s
  split <;> simp

@[simp] theorem State.inject_mem {e : Group} {stop : Option Nat} {p : McPkt} : (s.inject e stop p).mem = s.mem := by
  simp [State.inject]

@[simp] theorem State.mcDiscard_mem {vc places : Nat} : (s.mcDiscard stop vc places).mem = s.mem := by
  simp [State.mcDiscard]

@[simp] theorem State.arriveMc_mem {p : McPkt} : (s.arriveMc stop p).mem = s.mem := by
  simp [State.arriveMc]

@[simp] theorem State.setPlace_mem {group num : Nat} {p : Option CombPlace} : (s.setPlace group num p).mem = s.mem := by rfl

@[simp] theorem State.countSpent_mem : (s.countSpent stop).mem = s.mem := by rfl

@[simp] theorem State.sendResult_mem {group num : Nat} {v : Contrib} {abn : Bool} :
    (s.sendResult group num v abn).mem = s.mem := by
  simp [State.sendResult]

theorem State.contribute_mem {group num vf hops places : Nat} {v : Contrib} {res abn : Bool} {head : Word} {t : State}
    (ht : s.contribute stop group num vf v res abn head hops places = some t) : t.mem = s.mem := by
  have spent (l : List (Nat × Contrib × Bool)) (u : State) :
      (l.foldl (fun (s : State) x => if x.2.2 then s.countSpent x.1 else s) u).mem = u.mem := by
    refine foldl_mem (fun t x => ?_) _ u
    split <;> simp
  unfold State.contribute at ht
  dsimp only at ht
  (repeat' split at ht) <;> cases ht <;> simp [spent]

@[simp] theorem execCombineContribution_canon {group num : Nat} {v : CombIn} (hs : Canon s.mem) :
    Out.Canon (execCombineContribution stop group num v s) := by
  unfold execCombineContribution
  split
  next t ht => simp [State.contribute_mem ht, hs]
  next => exact hs

@[simp] theorem State.abandon_mem {vf : Nat} : (s.abandon vf).mem = s.mem := by
  refine foldl_mem (fun t g => ?_) _ s
  dsimp only
  split
  · refine foldl_mem (fun u j => ?_) _ t
    (repeat' split) <;> simp
  · rfl

@[simp] theorem State.mcSent_mem {branch : Nat} {p : McPkt} : (s.mcSent n branch p).mem = s.mem := by
  simp [State.mcSent]

@[simp] theorem execMulticastForward_canon {branch : Nat} (hs : Canon s.mem) : Out.Canon (execMulticastForward n branch s) := by
  unfold execMulticastForward
  dsimp only
  (repeat' split) <;> simp [hs]

@[simp] theorem State.placeSlot_canon {q : Nat} {ls : List Line} (hs : Canon s.mem) : Canon (s.placeSlot c q ls).mem := by
  simp [State.placeSlot, hs]

@[simp] theorem State.delivered_mem {p : McPkt} : (s.delivered core n p).mem = s.mem := by
  simp [State.delivered]

@[simp] theorem State.dropDelivery_mem {p : McPkt} : (s.dropDelivery core n p).mem = s.mem := by
  simp [State.dropDelivery]

@[simp] theorem execMulticastDelivery_canon (hs : Canon s.mem) : Out.Canon (execMulticastDelivery core n s) := by
  unfold execMulticastDelivery
  dsimp only
  (repeat' split) <;> simp [hs]

@[simp] theorem execMulticastDropTimeout_canon (hs : Canon s.mem) : Out.Canon (execMulticastDropTimeout core n s) := by
  unfold execMulticastDropTimeout
  (repeat' split) <;> simp [hs]

@[simp] theorem State.landResult_canon {q : CmbPend} {v : Contrib} {abn : Bool} (hs : Canon s.mem) :
    Canon (s.landResult q v abn).mem := by
  unfold State.landResult
  extract_lets s' live es put ws info
  have hs' : Canon s'.mem := hs
  have hw (ws : List SpadWrite) : Canon (s'.spadWrites q.core ws).mem := State.spadWrites_canon hs'
  clear_value s'
  split
  · exact hs'
  · split
    · rw [State.engineFill_mem]
      exact hs'
    · split
      · rw [State.updCtx_mem, State.engineFill_mem]
        exact hw _
      · rw [State.engineFill_mem]
        exact hw _

@[simp] theorem execCombineResultLand_canon (hs : Canon s.mem) : Out.Canon (execCombineResultLand core n s) := by
  unfold execCombineResultLand
  (repeat' split) <;> simp [hs]

/-! ### Bays: bays -/

@[simp] theorem endWith_mem {f : LineFail} {info : Nat} : (endWith s ts f info).st.mem = s.mem := by
  unfold endWith
  split <;> simp

@[simp] theorem State.bayRead_mem {a i : Nat} : (s.bayRead c atU a n i).1.mem = s.mem := by
  induction n generalizing s a i with
  | zero => rfl
  | succ m ih =>
    rw [State.bayRead]
    split
    · rfl
    · dsimp only
      split
      · exact State.fillLines_mem ‹_›
      · exact ih.trans (State.fillLines_mem ‹_›)

@[simp] theorem State.bayWrite_canon {a v : Nat} (hs : Canon s.mem) : Canon (s.bayWrite c a n v).1.mem := by
  simp [State.bayWrite, hs]

@[simp] theorem sortBay_canon {b : Req} (hs : Canon s.mem) : Canon (sortBay s b).st.mem := by
  unfold sortBay
  dsimp only
  split <;> simp [hs]

@[simp] theorem topkBay_canon (hs : Canon s.mem) : Canon (topkBay s q).st.mem := by
  have read : Canon (s.bayRead q.core q.atU (spadAddr q.va) (spadLen q.va) 0).1.mem := by simp [hs]
  unfold topkBay
  dsimp only
  generalize s.bayRead q.core q.atU (spadAddr q.va) (spadLen q.va) 0 = r at read ⊢
  split
  · simp [read]
  · split
    · simp [read]
    · simp [State.fillLines_mem ‹_›, read]

@[simp] theorem State.foldLines_canon {op i : Nat} {ls : List Line} {f : LineFail} (hs : Canon s.mem) :
    Canon (s.foldLines q op ls i ts f).1.mem := by
  induction ls generalizing s i ts f with
  | nil => exact hs
  | cons l r ih =>
    rw [State.foldLines]
    split
    next pa z _ _ =>
      have put : Canon (s.homePut q.core pa z (some op) l false).1.mem := State.homePut_canon hs
      generalize s.homePut q.core pa z (some op) l false = u at put ⊢
      exact ih put
    · exact ih hs
    · exact ih hs

@[simp] theorem redBay_canon {b : Req} (hs : Canon s.mem) : Canon (redBay s b).st.mem := by
  simp [redBay, hs]

@[simp] theorem histBay_canon {b : Req} (hs : Canon s.mem) : Canon (histBay s b).st.mem := by
  unfold histBay
  dsimp only
  split <;> simp [hs]

@[simp] theorem execLoftLineOperation_canon {line op : Nat} {data : Line} (hs : Canon s.mem) :
    Out.Canon (execLoftLineOperation line op data s) := by
  unfold execLoftLineOperation
  split <;> simp [hs]

@[simp] theorem State.putOne_canon {i : Nat} (hs : Canon s.mem) : Canon (s.putOne q i rep).1.mem := by
  unfold State.putOne
  (repeat' split) <;> simp [hs]

@[simp] theorem State.getOne_canon {i : Nat} (hs : Canon s.mem) : Canon (s.getOne q i rep).1.mem := by
  unfold State.getOne
  (repeat' split) <;> simp [hs]

@[simp] theorem State.moveLines_canon {b : Bay} {put : Bool} {i : Nat} {f : LineFail} (hs : Canon s.mem) :
    Canon (s.moveLines b put n i ts f).1.mem := by
  induction n generalizing s i ts f with
  | zero => exact hs
  | succ m ih =>
    rw [State.moveLines]
    split
    · exact ih hs
    next t ht =>
      have hc : Canon t.mem := State.fillLines_mem ht ▸ hs
      have moved : Canon (if put then t.putOne b.req i (b.lineRep i) else t.getOne b.req i (b.lineRep i)).1.mem := by
        split
        · exact State.putOne_canon hc
        · exact State.getOne_canon hc
      generalize (if put then t.putOne b.req i (b.lineRep i) else t.getOne b.req i (b.lineRep i)) = u at moved ⊢
      exact ih moved

theorem xferBay_canon {b : Bay} {put : Bool} {t : BayEnd} (hs : Canon s.mem) (ht : xferBay s b put = some t) :
    Canon t.st.mem := by
  unfold xferBay at ht
  dsimp only at ht
  (repeat' split at ht) <;> cases ht <;> simp [hs]

@[simp] theorem State.amoAnon_canon {op v cmp : Nat} {cls : BitVec 2} (hs : Canon s.mem) :
    Canon (s.amoAnon c op pa w v cmp cls ms).1.mem := by
  unfold State.amoAnon
  dsimp only
  (repeat' split) <;> simp [hs]

theorem xamoBay_canon {b : Bay} {t : BayEnd} (hs : Canon s.mem) (ht : xamoBay s b = some t) : Canon t.st.mem := by
  have read : Canon (s.bayRead b.req.core b.req.atU (spadAddr b.req.va) 1 0).1.mem := by simp [hs]
  unfold xamoBay at ht
  dsimp only at ht
  generalize s.bayRead b.req.core b.req.atU (spadAddr b.req.va) 1 0 = r at read ht
  split at ht
  · cases ht; simp [read]
  · split at ht
    · cases ht
    · split at ht
      · cases ht; simp [read]
      · split at ht
        · cases ht; simp [read]
        · cases ht
          generalize (if (spadOpt b.req.va).testBit 5 = true then 8 else 4) = w
          split <;> simp [read]
      · split at ht <;> cases ht <;> simp [read]

theorem State.peerLaunch_mem {spkg spdk pdk q : Nat} {d : List Word} {t : State} (ht : s.peerLaunch spkg spdk pdk q d = .ok t) :
    t.mem = s.mem := by
  unfold State.peerLaunch at ht
  split at ht
  · cases ht
  · dsimp only at ht
    split at ht
    · cases ht
    · split at ht
      · cases ht
      · exact State.arrive_mem ht

theorem xlncBay_mem {y : Bay} {t : BayEnd} (ht : xlncBay s y = some t) : t.st.mem = s.mem := by
  unfold xlncBay at ht
  extract_lets b far done at ht
  have read : (s.bayRead b.core b.atU (spadAddr b.va) 1 0).1.mem = s.mem := State.bayRead_mem
  have ended (v : State) (r : Option Nat) : (done v r).st.mem = v.mem := by
    unfold done
    split
    · exact endWith_mem
    · rfl
  clear_value done
  generalize s.bayRead b.core b.atU (spadAddr b.va) 1 0 = r at read ht
  obtain ⟨u, ls, f⟩ := r
  rw [← read]
  dsimp only at ht
  split at ht
  · cases ht
    exact endWith_mem
  · split at ht
    · split at ht
      next v hv =>
        cases ht
        exact (ended _ _).trans (State.peerLaunch_mem hv)
      next =>
        cases ht
        exact ended _ _
    · split at ht
      · cases ht
      · cases ht
        exact ended _ _
      · cases ht
        exact ended _ _
      · cases ht
        exact endWith_mem

theorem cmbBay_mem {b : Bay} {t : BayEnd × Bool} (ht : cmbBay s b unit = some t) : t.1.st.mem = s.mem := by
  unfold cmbBay at ht
  dsimp only at ht
  split at ht
  · cases ht; rfl
  · split at ht
    · cases ht; simp
    · obtain ⟨u, hu, rfl⟩ := Option.map_eq_some_iff.mp ht
      have := State.contribute_mem hu
      split <;> simp_all

@[simp] theorem mcStart_mem {b : Req} {bay : Nat} : (mcStart s b unit bay).1.mem = s.mem := by
  simp [mcStart]

@[simp] theorem State.endBay_mem {b : Bay} {r : BayEnd} {fill : Bool} : (s.endBay cls unit n b r fill).mem = r.st.mem := by
  unfold State.endBay
  dsimp only
  split
  · rw [State.setEng_mem]
  · split
    · rw [State.updCtx_mem]
      split <;> split <;> simp
    · split <;> split <;> simp

theorem ofEnd_canon {r : Option BayEnd} (hs : Canon s.mem) (hr : ∀ t, r = some t → Canon t.st.mem) : (ofEnd s r).Canon := by
  cases r with
  | none => exact hs
  | some t => exact hr t rfl

theorem mcStart_end_mem {b : Nat} {t : BayEnd} (ht : (mcStart s q unit b).2 = some t) : t.st.mem = s.mem := by
  unfold mcStart at ht
  dsimp only at ht
  split at ht
  · cases ht; rfl
  · split at ht
    · cases ht; simp
    · cases ht
@[simp] theorem State.bayWork_canon {b : Bay} (hs : Canon s.mem) : (s.bayWork cls unit n b).Canon := by
  unfold State.bayWork
  dsimp only
  split
  · exact sortBay_canon hs
  · exact topkBay_canon hs
  · exact redBay_canon hs
  · exact histBay_canon hs
  · split
    · split <;> exact hs
    · exact ofEnd_canon hs fun t ht => xferBay_canon hs ht
  · exact ofEnd_canon hs fun t ht => xferBay_canon hs ht
  · split
    · split <;> exact hs
    · split
      · exact hs
      · have started : (mcStart s b.req unit n).1.mem = s.mem := mcStart_mem
        have ended {t : BayEnd} : (mcStart s b.req unit n).2 = some t → t.st.mem = s.mem := mcStart_end_mem
        split <;> simp_all
  · split
    next ht =>
      have := cmbBay_mem ht
      simp_all
    · simpa using hs
  · exact ofEnd_canon hs fun t ht => xamoBay_canon hs ht
  · exact ofEnd_canon hs fun t ht => xlncBay_mem ht ▸ hs
  · exact hs

theorem State.perEight_mem {f : State → Nat → Nat → State} (hf : ∀ t i j, (f t i j).mem = t.mem) : (s.perEight n f).mem = s.mem :=
  foldl_mem (fun _ _ => hf _ _ _) _ s

@[simp] theorem State.bayPkt_mem : (s.bayPkt cls unit q p).mem = s.mem := by
  simp [State.bayPkt]

@[simp] theorem State.bayPkts_mem : (s.bayPkts cls unit q).mem = s.mem := by
  unfold State.bayPkts
  rw [State.perEight_mem fun _ _ _ => State.bayPkt_mem, foldl_mem, State.perEight_mem fun _ _ _ => State.bayPkt_mem]
  intro t g
  split <;> simp

@[simp] theorem State.baySend_mem {d : List Word} : (s.baySend unit q p pkg off d).mem = s.mem := by
  simp [State.baySend]

@[simp] theorem State.sendLineOf_mem {i : Nat} : (s.sendLineOf q i).1.mem = s.mem := by
  unfold State.sendLineOf
  extract_lets a
  split
  next => rfl
  next t ht => exact State.fillLines_mem ht

@[simp] theorem State.sendable_mem {put : Bool} {n : Nat} {l : List Tr} : (s.sendable q put n l).1.mem = s.mem := by
  induction l generalizing s n with
  | nil => rfl
  | cons t r ih =>
    show ((if put then s.sendLineOf q n else (s, true)).1.sendable q put (n + 1) r).1.mem = s.mem
    rw [ih]
    split <;> simp

@[simp] theorem State.askLine_mem {line len : Nat} : (s.askLine unit q line len).1.mem = s.mem := by
  unfold State.askLine
  (repeat' split) <;> simp

@[simp] theorem State.asksFor_mem : (s.asksFor cls unit q).1.mem = s.mem := by
  have asked (gs : List (Nat × Nat × Place)) : ∀ r : State × List BayAsk, (gs.foldl (fun (r : State × List BayAsk) g =>
      let (s, a) := r.1.askLine unit q g.1 g.2.1
      (s, r.2 ++ [{ line := g.1, len := g.2.1, at_ := s.cc, rep := a }])) r).1.mem = r.1.mem := by
    induction gs with
    | nil => exact fun _ => rfl
    | cons g gs ih => exact fun r => (ih _).trans State.askLine_mem
  unfold State.asksFor
  split
  · rfl
  · split
    · split
      · rfl
      · exact State.askLine_mem.trans State.sendLineOf_mem
    · exact (asked _ _).trans State.sendable_mem

@[simp] theorem State.bayLineAsk_mem : (s.bayLineAsk q).mem = s.mem := by
  unfold State.bayLineAsk
  dsimp only
  (repeat' split) <;> simp

@[simp] theorem State.askOnce_mem {b : Bay} : (s.askOnce cls unit n b).mem = s.mem := by
  simp [State.askOnce]

@[simp] theorem State.bayGo_canon {b : Bay} (hs : Canon s.mem) : Canon (s.bayGo cls unit n b).mem := by
  have asked : Canon (if b.asks = [] then s.asksFor cls unit b.req else (s, [])).1.mem := by
    split <;> simp [hs]
  unfold State.bayGo
  split
  next e =>
    rw [e] at asked
    simpa using asked
  next s' e =>
    rw [e] at asked
    have hw : (s'.bayWork cls unit n b).Canon := State.bayWork_canon asked
    split
    next e => exact hw.of_later e
    next e => simp [hw.of_ends e]

@[simp] theorem State.bayAnswer_mem {b : Bay} {line : Nat} : (s.bayAnswer cls unit n b line rep).mem = s.mem := by
  unfold State.bayAnswer
  split
  next => rfl
  next a =>
    extract_lets set
    have hset (t : State) (a' : BayAsk) : (set t a').mem = t.mem := by simp [set]
    clear_value set
    split
    next => split <;> simp [hset]
    next =>
      split
      next t ht => simp [hset, State.askLine_mem, State.secondTry_mem ht]
      next =>
        dsimp only
        rw [hset]
        split <;> simp
    next => exact hset _ _

@[simp] theorem execBayComplete_canon {bay : Nat} {rep : BayReply} (hs : Canon s.mem) :
    Out.Canon (execBayComplete cls unit bay rep s) := by
  unfold execBayComplete
  split
  · exact hs
  · split
    · simp [hs]
    · split
      · exact hs
      · refine State.under_canon hs fun t ht => ?_
        split <;> simp [ht]

@[simp] theorem State.shadowLines_mem {r : Ring} {j : Nat} : (s.shadowLines c atU r n j).1.mem = s.mem := by
  induction n generalizing s j with
  | zero => rfl
  | succ m ih =>
    rw [State.shadowLines]
    dsimp only
    split
    · exact State.bayRead_mem
    · exact ih.trans State.bayRead_mem

@[simp] theorem State.placeSlots_canon {ring : Nat} {ls : List (List Line)} (hs : Canon s.mem) :
    Canon (s.placeSlots core ring ls).mem :=
  foldl_canon (fun _ _ ht => State.placeSlot_canon ht) _ hs

@[simp] theorem State.offered_mem {b : Bay} {code : Nat} : (s.offered b n code).1.mem = s.mem := by
  simp [State.offered]

@[simp] theorem State.offer_canon {shed : Nat} {b : Bay} (hs : Canon s.mem) : Canon (s.offer shed b n).1.mem := by
  unfold State.offer
  dsimp only
  (repeat' split) <;> simp [hs]

@[simp] theorem execProxyOffer_canon {shed bay : Nat} (hs : Canon s.mem) : Out.Canon (execProxyOffer shed bay rep s) := by
  unfold execProxyOffer
  dsimp only
  (repeat' split) <;> simp [hs]

/-! ### Branch: branches, loops and buckets -/

@[simp] theorem branchIf_canon {o : BitVec 8} {p : Ctx → Bool} (hs : Canon s.mem) : Out.Canon (branchIf i k o s p) := by
  refine control_canon hs fun c x t ht => ?_
  dsimp only
  split <;> simp [ht]

@[simp] theorem branchSlot_canon {p : BitVec 4} {o : BitVec 16} {pol : Bool} (hs : Canon s.mem) :
    Out.Canon (branchSlot i k p o s pol) := by
  refine control_canon hs fun c x t ht => ?_
  (repeat' split) <;> simp [ht]

@[simp] theorem execJal_canon {i : BitVec 16} (hs : Canon s.mem) : Out.Canon (execJal k d i s) :=
  control_canon hs fun c x t ht => by simp [ht]

@[simp] theorem execJalr_canon {i : BitVec 11} (hs : Canon s.mem) : Out.Canon (execJalr k d a i s) := by
  refine control_canon hs fun c x t ht => ?_
  dsimp only
  split <;> simp [ht]

@[simp] theorem execLpset_canon {i : BitVec 8} (hs : Canon s.mem) : Out.Canon (execLpset k d a i s) := by
  refine control_canon hs fun c x t ht => ?_
  dsimp only
  (repeat' split) <;> simp [ht]

@[simp] theorem execLpresEntry_canon (hs : Canon s.mem) : Out.Canon (execLpresEntry k d a s) := by
  refine control_canon hs fun c x t ht => ?_
  dsimp only
  split <;> simp [ht]

@[simp] theorem execLpresExit_canon (hs : Canon s.mem) : Out.Canon (execLpresExit k a s) := by
  refine control_canon hs fun c x t ht => ?_
  dsimp only
  (repeat' split) <;> simp [ht]

@[simp] theorem execBkt_canon (hs : Canon s.mem) : Out.Canon (execBkt k d a s) := by
  refine control_canon hs fun c x t ht => ?_
  dsimp only
  split <;> simp [ht]

/-! ### Commit: atomic sets as events -/

@[simp] theorem State.lotPkt_mem {who key : Nat} : (s.lotPkt c who x va key).mem = s.mem := by rfl

@[simp] theorem execLotRequest_canon {who : Nat} (hs : Canon s.mem) : Out.Canon (execLotRequest core who s) := by
  unfold execLotRequest
  (repeat' split) <;> simp [hs]
  · exact (State.askLot_canon hs).of_held ‹_›
  · exact (State.askLot_canon hs).of_waits ‹_›
  · exact (State.askLot_canon hs).of_held ‹_›
  · exact (State.askLot_canon hs).of_waits ‹_›

@[simp] theorem execLotGrant_canon {key : Nat} (hs : Canon s.mem) : Out.Canon (execLotGrant key s) := by
  unfold execLotGrant
  split <;> simp [hs]

@[simp] theorem State.restart_canon (hs : Canon s.mem) : Canon (s.restart c).mem := by
  unfold State.restart
  dsimp only
  (repeat' split) <;> simp [hs]

@[simp] theorem execRollback_canon (hs : Canon s.mem) : Out.Canon (execRollback core s) := by
  unfold execRollback
  dsimp only
  (repeat' split) <;> simp [hs]

@[simp] theorem execTaskComplete_canon (hs : Canon s.mem) : Out.Canon (execTaskComplete core s) := by
  unfold execTaskComplete
  dsimp only
  (repeat' split) <;> simp [hs]

@[simp] theorem execCommit_canon (hs : Canon s.mem) : Out.Canon (execCommit core s) := by
  unfold execCommit
  split
  · exact State.performHold_canon (State.drainPen_canon (by simp [hs]))
  · exact hs

@[simp] theorem State.woundHolders_mem : (s.woundHolders c).mem = s.mem := by
  refine foldl_mem (fun t r => ?_) _ s
  (repeat' split) <;> simp

@[simp] theorem State.grantToken_canon {b : Nat} (hs : Canon s.mem) : Canon (s.grantToken b c).mem := by
  simp [State.grantToken, hs]

@[simp] theorem execIrrevocabilityGrant_canon (hs : Canon s.mem) : Out.Canon (execIrrevocabilityGrant blk s) := by
  unfold execIrrevocabilityGrant
  split <;> simp [hs]

/-! ### Waits: waiting -/

@[simp] theorem execPendingEventTake_canon (hs : Canon s.mem) : Out.Canon (execPendingEventTake core ctx s) := by
  unfold execPendingEventTake
  dsimp only
  (repeat' split) <;> simp [hs]

@[simp] theorem execWaitBoundExpiry_canon {who : Nat} (hs : Canon s.mem) : Out.Canon (execWaitBoundExpiry core who s) := by
  unfold execWaitBoundExpiry
  extract_lets k t e back
  have hb : back.mem = s.mem := by
    unfold back
    split <;> simp
  clear_value back
  split
  · split
    · exact hs
    · split
      · split
        · rw [Out.canon_next, State.updCtx_mem, takeTrap_mem]
          exact hs
        · exact hs
      · exact hs
  · split
    · split
      · rw [Out.canon_next, State.raiseHead_mem, hb]
        exact hs
      · exact hs
    · exact hs

@[simp] theorem execWaitSatisfied_canon {who : Nat} (hs : Canon s.mem) : Out.Canon (execWaitSatisfied core who s) := by
  unfold execWaitSatisfied
  dsimp only
  split
  · exact hs
  · cases ((s.core core).getCtx who).wait with
    | none => exact hs
    | some w =>
      cases w with
      | rendezvous | answer | load | remoteStore | remoteAmo | block | blockStore | farInvi => exact hs
      | farLines =>
        dsimp only
        split
        · rw [Out.canon_next, takeTrap_mem, State.updCore_mem]
          exact hs
        · split <;> simp [hs]
      | _ =>
        dsimp only
        split <;> simp [hs]

@[simp] theorem execYRendezvous_canon (hs : Canon s.mem) : Out.Canon (execYRendezvous core s) := by
  unfold execYRendezvous
  split <;> simp [hs]

@[simp] theorem execHeldSignalPush_canon {who : Nat} (hs : Canon s.mem) : Out.Canon (execHeldSignalPush core who s) := by
  unfold execHeldSignalPush
  dsimp only
  (repeat' split) <;> simp [hs]

@[simp] theorem execTokenDelivery_canon (hs : Canon s.mem) : Out.Canon (execTokenDelivery n s) := by
  unfold execTokenDelivery
  (repeat' split) <;> simp [hs]

/-! ### Firmware: firmware -/

@[simp] theorem State.packageReset_mem : s.packageReset.mem = s.mem := by rfl

@[simp] theorem execPackageReset_canon (hs : Canon s.mem) : Out.Canon (execPackageReset s) :=
  hs

@[simp] theorem State.fwSwap_mem : s.fwSwap.mem = s.mem := by rfl

@[simp] theorem execFwctlSwap_canon (hs : Canon s.mem) : Out.Canon (execFwctlSwap s) :=
  hs

@[simp] theorem State.fwCommit_mem : s.fwCommit.mem = s.mem := by
  simp [State.fwCommit]

@[simp] theorem execFwctlCommit_canon (hs : Canon s.mem) : Out.Canon (execFwctlCommit s) := by
  simp [execFwctlCommit, hs]

@[simp] theorem execTrialTimeout_canon (hs : Canon s.mem) : Out.Canon (execTrialTimeout s) := by
  unfold execTrialTimeout
  split <;> simp [hs]

@[simp] theorem State.heartbeat_mem : s.heartbeat.mem = s.mem := by rfl

@[simp] theorem execTackHbeatWrite_canon (hs : Canon s.mem) : Out.Canon (execTackHbeatWrite s) :=
  hs

@[simp] theorem execUnitReady_canon {bit : Nat} (hs : Canon s.mem) : Out.Canon (execUnitReady bit s) := by
  unfold execUnitReady
  (repeat' split) <;> simp [hs]

/-! ### Halter: the halter -/

@[simp] theorem State.record_mem {lvl watch : Nat} {cause : BitVec 5} {tval pc : Word} :
    (s.record lvl watch core ctx cause tval pc).mem = s.mem := by rfl

@[simp] theorem State.saveWinLine_canon {i : Nat} (hs : Canon s.mem) : Canon (s.saveWinLine c w i).mem := by
  unfold State.saveWinLine
  split <;> simp [hs]

@[simp] theorem State.writeBackAll_canon (hs : Canon s.mem) : Canon (s.writeBackAll c).mem := by
  refine foldl_canon (fun _ _ ht => foldl_canon (fun _ _ hu => State.saveWinLine_canon hu) _ ht) _ ?_
  exact foldl_canon (fun _ _ ht => State.writeBackLine_canon ht) _ hs

theorem State.stopCore_canon {finish : State → State} (hs : Canon s.mem) (hf : ∀ t, Canon t.mem → Canon (finish t).mem) :
    Canon (s.stopCore c finish).mem := by
  rw [State.stopCore, State.updCore_mem]
  refine hf _ ?_
  simp [hs]

theorem State.resetCore_canon {finish : State → State} (hs : Canon s.mem) (hf : ∀ t, Canon t.mem → Canon (finish t).mem) :
    Canon (s.resetCore c finish).mem := by
  rw [State.resetCore, State.updCore_mem]
  exact State.stopCore_canon hs hf

@[simp] theorem State.coreReset_canon {lvl : Nat} (hs : Canon s.mem) : Canon (s.coreReset c lvl).mem :=
  State.resetCore_canon hs fun _ ht => State.finishTask_canon ht

@[simp] theorem State.resetEngine_mem : (s.resetEngine cls unit).mem = s.mem := by
  rw [State.resetEngine, State.setEng_mem]
  refine foldl_mem (fun t n => ?_) _ s
  split
  · rw [State.endBay_mem]
  · rfl

@[simp] theorem State.shedReset_canon {j lvl : Nat} (hs : Canon s.mem) : Canon (s.shedReset j lvl).mem :=
  foldl_canon (fun _ _ ht => State.coreReset_canon ht) _ (by simp [hs])

@[simp] theorem State.takeLevel_canon {w : Watch} {lvl : Nat} (hs : Canon s.mem) : Canon (s.takeLevel w lvl).mem := by
  unfold State.takeLevel
  dsimp only
  (repeat' split) <;> simp [hs]

@[simp] theorem State.fire_canon {w : Watch} (hs : Canon s.mem) : Canon (s.fire w).mem := by
  simp [State.fire, hs]

@[simp] theorem execHalterWatchFire_canon {kind : Nat} (hs : Canon s.mem) : Out.Canon (execHalterWatchFire kind core ctx s) := by
  unfold execHalterWatchFire
  dsimp only
  (repeat' split) <;> simp [hs]

@[simp] theorem execHeartbeatTimeout_canon (hs : Canon s.mem) : Out.Canon (execHeartbeatTimeout s) := by
  unfold execHeartbeatTimeout
  split <;> simp [hs]

@[simp] theorem execHalterLevelTimeout_canon (hs : Canon s.mem) : Out.Canon (execHalterLevelTimeout n s) := by
  unfold execHalterLevelTimeout
  (repeat' split) <;> simp [hs]

/-! ### MemEvents: events of memory -/

@[simp] theorem execStorePerform_canon (hs : Canon s.mem) : Out.Canon (execStorePerform core ctx s) := by
  unfold execStorePerform
  split
  · exact State.under_canon hs fun _ ht => State.performStore_canon ht
  · exact hs

@[simp] theorem State.answered_canon (hs : Canon s.mem) : Answered.Canon (s.answered c pkg off rep) := by
  unfold State.answered
  split
  next t ht => simp [State.secondTry_mem ht, hs]
  next => (repeat' split) <;> simp [hs]

@[simp] theorem State.replyTo_canon (hs : Canon s.mem) : Canon (s.replyTo c x rep).mem := by
  unfold State.replyTo
  extract_lets t trap far got
  have htrap (cz : BitVec 5) (va : Word) : Canon (trap cz va).mem := by simp [trap, hs]
  have hgot (u : State) (va : Word) (r : Option Word) (hu : Canon u.mem) : Canon (got u va r).mem := by simp [got, hu]
  have hfar (p : Place) (va : Word) {f : State → List Word → State} {near : Nat → BitVec 2 → Bool → State}
      (hf : ∀ u l, Canon u.mem → Canon (f u l).mem) (hn : ∀ pa cls ms, Canon (near pa cls ms).mem) : Canon (far p va f near).mem := by
    unfold far
    split
    next pkg off =>
      have ha : Answered.Canon (s.answered c pkg off rep) := State.answered_canon hs
      split
      next e => exact hf _ _ (by simp [ha.of_data e])
      next => exact htrap _ _
      next e => exact ha.of_waits e
      next e =>
        split
        · exact State.sendWait_canon (ha.of_again e)
        · exact ha.of_again e
    next =>
      split
      · exact htrap _ _
      · split
        · exact hn _ _ _
        · exact hs
  clear_value trap far got
  split
  next d va w signed _ _ =>
    refine hfar _ _ (fun u l hu => by simp [hu]) fun pa cls ms => ?_
    have hl : Res.Canon (loadDone s c x (BitVec.ofNat 5 d) va w signed pa cls ms) := loadDone_canon hs
    split
    next e => simp [hl.of_done e]
    next => exact htrap _ _
  · exact hfar _ _ (fun u l hu => by simp [hu]) fun pa cls ms => by simp [State.placeStore_canon, hs]
  · refine hfar _ _ (fun u l hu => by simp [hu]) fun pa cls ms => ?_
    dsimp only
    split <;> simp [htrap, hs]
  · refine hfar _ _ (fun u l hu => hgot _ _ _ hu) fun pa cls ms => ?_
    dsimp only
    split
    · exact htrap _ _
    · exact hgot _ _ _ (State.loadNow_canon hs)
  · exact hfar _ _ (fun u l hu => hgot _ _ _ hu) fun pa cls ms => hgot _ _ _ (State.placeStore_canon hs)
  · split
    · exact hs
    · split <;> simp [hs]
  · exact hs

@[simp] theorem State.answerAway_canon {f : FarLine} (hs : Canon s.mem) : Canon (s.answerAway c f rep).mem := by
  unfold State.answerAway
  extract_lets failed
  have hf (cz : BitVec 5) : Canon (failed cz).mem := by simp [failed, hs]
  clear_value failed
  split
  · split
    · simp [hs]
    · exact hf _
    · exact hs
  · have ha : Answered.Canon (s.answered c f.pkg f.off rep) := State.answered_canon hs
    split
    next e => exact ha.of_waits e
    next e => simp [ha.of_again e]
    next e => simp [ha.of_data e]
    next => exact hf _

@[simp] theorem State.replyAway_canon (hs : Canon s.mem) : Canon (s.replyAway c rep).mem := by
  unfold State.replyAway
  split <;> simp [hs]

@[simp] theorem State.putRemoteLine_mem {i : Nat} {d : Line} : (s.putRemoteLine c w i d).mem = s.mem := by rfl

@[simp] theorem State.engineAccess_canon (hs : Canon s.mem) : Canon (s.engineAccess c).mem := by
  unfold State.engineAccess
  extract_lets k now pend looked
  have hl : Canon looked.mem := hs
  clear_value looked
  split <;> simp [hs, hl]

theorem State.accessWait_mem {t : State} (ht : s.accessWait c = some t) : t.mem = s.mem := by
  unfold State.accessWait at ht
  dsimp only at ht
  split at ht
  · cases ht
  · obtain ⟨r, -, rfl⟩ := Option.map_eq_some_iff.mp ht
    exact State.freezeOwn_mem

@[simp] theorem State.lateOwn_canon {seq : Nat} {cause : BitVec 5 × Word} (hs : Canon s.mem) :
    Canon (s.lateOwn c e seq cause).mem :=
  State.engineAccess_canon (by simp [hs])

@[simp] theorem State.fillFails_canon {f : Freeze} {cz : BitVec 5} (hs : Canon s.mem) : Canon (s.fillFails c f cz va).mem := by
  unfold State.fillFails
  extract_lets nest cleared
  have hc : Canon cleared.mem := hs
  clear_value cleared
  (repeat' split) <;> simp [hc]

@[simp] theorem State.fillAnswer_canon {f : Freeze} {cz : BitVec 5} (hs : Canon s.mem) : Canon (s.fillAnswer c f cz).mem := by
  unfold State.fillAnswer
  split <;> simp [hs]

@[simp] theorem State.fillHere_canon {f : Freeze} (hs : Canon s.mem) : Canon (s.fillHere c f).mem := by
  unfold State.fillHere
  split
  · simp [hs]
  · split
    next t ht => simp [State.fillWin_mem ht, hs]
    next => exact State.fillFails_canon hs

@[simp] theorem State.replyFrozen_canon (hs : Canon s.mem) : Canon (s.replyFrozen c e rep).mem := by
  unfold State.replyFrozen
  split
  next => exact hs
  next f =>
    extract_lets va
    split
    · exact hs
    · split
      · simp [hs]
      · split
        next pkg off _ =>
          have ha : Answered.Canon (s.answered c pkg off rep) := State.answered_canon hs
          split
          next e => simp [ha.of_data e]
          next => exact State.fillAnswer_canon hs
          next e => exact ha.of_waits e
          next e => simp [ha.of_again e]
        next => (repeat' split) <;> simp [hs]
        next => exact hs

theorem State.replyLine_canon {lns : List Nat} {fails : State → BitVec 5 → Word → State} {fresh : State → State} (hs : Canon s.mem)
    (hfails : ∀ t cz v, Canon t.mem → Canon (fails t cz v).mem) (hfresh : ∀ t, Canon t.mem → Canon (fresh t).mem) :
    Canon (s.replyLine c atU lns rep fails fresh).mem := by
  unfold State.replyLine
  split
  · exact hs
  · dsimp only
    split
    next pkg off _ =>
      have answered : (s.answered c pkg off rep).Canon := State.answered_canon hs
      split <;> simp_all
    · exact hs

@[simp] theorem State.bayLineReply_canon {b : Bay} (hs : Canon s.mem) : Canon (s.bayLineReply cls unit n b rep).mem :=
  State.replyLine_canon hs (fun _ _ _ ht => by rw [State.endBay_mem, endWith_mem]; exact ht) fun _ ht => by simp [ht]

@[simp] theorem execLoadReply_canon (hs : Canon s.mem) : Out.Canon (execLoadReply core ctx rep s) := by
  unfold execLoadReply
  split
  · extract_lets t
    show Canon (State.mem _)
    split
    · exact State.under_canon hs fun _ ht => State.replyTo_canon ht
    · exact hs
  · split
    · exact State.replyFrozen_canon hs
    · split
      · exact State.replyAway_canon hs
      · split
        · exact State.bayLineReply_canon hs
        · exact hs

@[simp] theorem execStashFill_canon (hs : Canon s.mem) : Out.Canon (execStashFill core s) := by
  unfold execStashFill
  (repeat' split) <;> simp [hs]

@[simp] theorem State.endBlk_mem {wb : Bool} : (s.endBlk c n wb).mem = s.mem := by
  unfold State.endBlk
  split <;> simp

@[simp] theorem execBlockFillComplete_canon (hs : Canon s.mem) : Out.Canon (execBlockFillComplete core n s) := by
  simp [execBlockFillComplete, hs]

@[simp] theorem execBlockWritebackComplete_canon (hs : Canon s.mem) : Out.Canon (execBlockWritebackComplete core n s) := by
  simp [execBlockWritebackComplete, hs]

@[simp] theorem execHcHomeAccess_canon {line : Nat} {wr : List (Nat × Byte)} (hs : Canon s.mem) :
    Out.Canon (execHcHomeAccess line wr pts s) := by
  unfold execHcHomeAccess
  split
  · simp [hs]
  · rw [Out.canon_next, State.hcStore_mem]
    exact foldl_canon (fun _ _ ht => State.setByte_canon ht) _ hs

@[simp] theorem execLeaseExpiry_canon {line : Nat} (hs : Canon s.mem) : Out.Canon (execLeaseExpiry core line s) :=
  hs

@[simp] theorem execOqEntryFill_canon {j : Nat} (hs : Canon s.mem) : Out.Canon (execOqEntryFill core j s) := by
  refine foldl_canon (fun t n ht => ?_) _ hs
  have filled : Out.Canon (execCopyLineComplete core n .home t) := execCopyLineComplete_canon ht
  split
  · simp_all
  · exact ht

@[simp] theorem execFreezeEnd_canon (hs : Canon s.mem) : Out.Canon (execFreezeEnd core s) := by
  unfold execFreezeEnd
  split <;> simp [hs]

@[simp] theorem State.goLate_canon {f : Freeze} (hs : Canon s.mem) : Canon (s.goLate c f).mem := by
  unfold State.goLate
  dsimp only
  (repeat' split) <;> simp [hs]

@[simp] theorem execFreezeLimit_canon (hs : Canon s.mem) : Out.Canon (execFreezeLimit core s) := by
  unfold execFreezeLimit
  extract_lets k
  split
  · split
    · exact State.goLate_canon hs
    · exact hs
  · exact hs

@[simp] theorem State.farLog_mem {addr : Nat} {lasting : Bool} {synd time : Word} :
    (s.farLog unit core addr lasting synd time).mem = s.mem := by rfl

@[simp] theorem State.farEffect_mem {addr : Nat} {lasting : Bool} : (s.farEffect unit core addr lasting).mem = s.mem := by
  unfold State.farEffect
  dsimp only
  (repeat' split) <;> simp

@[simp] theorem execFarrierRetry_canon {addr : Nat} {lasting : Bool} {synd : Word} (hs : Canon s.mem) :
    Out.Canon (execFarrierRetry unit core addr lasting synd s) := by
  unfold execFarrierRetry
  (repeat' split) <;> simp [hs]

@[simp] theorem State.dropCopies_canon {ws : List (Nat × Nat)} (hs : Canon s.mem) : Canon (s.dropCopies c ws).mem := by
  rw [State.dropCopies, State.updCore_mem]
  refine foldl_canon (fun _ _ ht => State.saveWinLine_canon ht) _ ?_
  exact foldl_canon (fun _ _ ht => State.evictLine_canon ht) _ hs

@[simp] theorem State.dropTlb_mem {vf lo hi : Nat} : (s.dropTlb c vf lo hi).mem = s.mem := by rfl

@[simp] theorem State.shoot_canon {vf lo hi : Nat} (hs : Canon s.mem) : Canon (s.shoot c vf lo hi).mem := by
  have drained : Canon ((List.range 4).foldl (fun (s : State) x => s.drainStores c x) s).mem :=
    foldl_canon (fun _ _ ht => State.drainStores_canon ht) _ hs
  unfold State.shoot
  generalize (List.range 4).foldl (fun (s : State) x => s.drainStores c x) s = t at *
  dsimp only
  (repeat' split) <;> simp [drained]

@[simp] theorem execShootdown_canon (hs : Canon s.mem) : Out.Canon (execShootdown core s) := by
  unfold execShootdown
  dsimp only
  (repeat' split) <;> simp [hs]

@[simp] theorem State.writeSdctl_mem : (s.writeSdctl blk v).mem = s.mem := by rfl

@[simp] theorem execSdctlGo_canon (hs : Canon s.mem) : Out.Canon (execSdctlGo blk v s) :=
  hs

@[simp] theorem State.walkPkts_mem {lvl tbl va : Nat} : (s.walkPkts c x lvl tbl va).mem = s.mem := by
  induction lvl generalizing s tbl with
  | zero =>
    unfold State.walkPkts
    dsimp only
    split <;> simp
  | succ m ih =>
    unfold State.walkPkts
    dsimp only
    split
    · simp
    · simp [ih]

@[simp] theorem execPageWalk_canon (hs : Canon s.mem) : Out.Canon (execPageWalk core ctx va s) := by
  unfold execPageWalk
  dsimp only
  (repeat' split) <;> simp [hs]

/-! ### Clock: clocks and frames -/

@[simp] theorem State.raiseSlip_mem {b e : Nat} {dl : Word} : (s.raiseSlip b e dl).mem = s.mem := by
  refine foldl_mem (fun t c => ?_) _ s
  (repeat' split) <;> simp

@[simp] theorem State.deadline_mem {b : Nat} : (s.deadline b e).mem = s.mem := by
  unfold State.deadline
  split <;> simp

@[simp] theorem execFrameTick_canon (hs : Canon s.mem) : Out.Canon (execFrameTick blk s) := by
  unfold execFrameTick
  split
  · rw [Out.canon_next, foldl_mem fun _ _ => State.deadline_mem]
    simp [hs]
  · exact hs

@[simp] theorem execSlipEnd_canon (hs : Canon s.mem) : Out.Canon (execSlipEnd blk s) := by
  unfold execSlipEnd
  dsimp only
  split
  · exact hs
  · split
    · exact hs
    · exact foldl_canon (fun _ _ ht => State.interrupt_canon ht) _ hs

@[simp] theorem State.advanceTime_mem : s.advanceTime.mem = s.mem := by
  unfold State.advanceTime
  rfl

@[simp] theorem State.countLots_mem : (s.countLots c).mem = s.mem := by
  refine foldl_mem (fun t x => ?_) _ s
  split <;> simp

@[simp] theorem State.tickStalls_mem : (s.tickStalls c).mem = s.mem := by
  have counted : ((List.range 4).foldl (fun (u : State) x =>
      match ((s.core c).getCtx x).wait with
      | none => u
      | some w =>
        if ((s.core c).getCtx x).run = .running ∧ (s.core c).free x ∧ (u.waitReport c x w).isSome then
          u.updCtx c x (fun t => { t with stall := t.stall + 1 })
        else u) s).mem = s.mem := by
    refine foldl_mem (fun t x => ?_) _ s
    (repeat' split) <;> simp
  unfold State.tickStalls
  dsimp only
  split
  · exact counted
  · rw [State.updCore_mem]
    exact counted

@[simp] theorem State.stepTime_mem {ns : ℤ} : (s.stepTime ns).mem = s.mem := by rfl

@[simp] theorem execTmadjWrite_canon (hs : Canon s.mem) : Out.Canon (execTmadjWrite v s) :=
  hs

@[simp] theorem execTimeSyncExchange_canon {offset : ℤ} (hs : Canon s.mem) : Out.Canon (execTimeSyncExchange offset s) := by
  unfold execTimeSyncExchange
  split <;> simp [hs]

@[simp] theorem execPtpEventMessage_canon {offset : ℤ} (hs : Canon s.mem) : Out.Canon (execPtpEventMessage port offset s) := by
  unfold execPtpEventMessage
  split <;> simp [hs]

@[simp] theorem execPowerCapCheck_canon {watts : Nat} (hs : Canon s.mem) : Out.Canon (execPowerCapCheck watts s) :=
  hs

/-! ### Ingress: packets that arrive over a port -/

@[simp] theorem State.answerPkg_mem {q : PtPkt} {code : Nat} {arg1 : Word} {data : List Word} :
    (s.answerPkg q stop code arg1 ts data).mem = s.mem := by
  unfold State.answerPkg
  dsimp only
  split <;> simp

theorem State.sendOn_mem {fwd : Nat} {t : State} (ht : s.sendOn p stop fwd = some t) : t.mem = s.mem := by
  unfold State.sendOn at ht
  dsimp only at ht
  (repeat' split at ht) <;> cases ht <;> simp

@[simp] theorem State.passOn_mem : (s.passOn port p).mem = s.mem := by
  unfold State.passOn
  split
  next t ht => exact State.sendOn_mem ht
  next => split <;> simp

@[simp] theorem State.arriveLaunch_mem : (s.arriveLaunch port p).mem = s.mem := by
  unfold State.arriveLaunch
  split
  next t ht => simp [State.peerLaunch_mem ht]
  next => simp

@[simp] theorem State.replyIn_mem : (s.replyIn p).mem = s.mem := by
  unfold State.replyIn
  split <;> simp

theorem State.ingress_mem {t : State} (ht : s.ingress port p = some t) : t.mem = s.mem := by
  unfold State.ingress at ht
  extract_lets n head free at ht
  have hf (u : State) : (free u).mem = u.mem := by simp [free]
  clear_value free
  split at ht
  · cases ht
  · split at ht
    · exact State.contribute_mem ht
    · (repeat' split at ht) <;> cases ht <;> simp [hf]

@[simp] theorem State.consume_mem {vc : Nat} : (s.consume port vc).mem = s.mem := by
  unfold State.consume
  dsimp only
  split <;> simp

/-! ### Packets: packet events and the Yard -/

@[simp] theorem execPacketWaitUnit_canon {point : Nat} (hs : Canon s.mem) : Out.Canon (execPacketWaitUnit point n s) := by
  unfold execPacketWaitUnit
  (repeat' split) <;> simp [hs]

@[simp] theorem State.arriveAt_mem {point i : Nat} : (s.arriveAt point i p).mem = s.mem := by
  simp [State.arriveAt]

@[simp] theorem execArbiterGrant_canon {point vc : Nat} (hs : Canon s.mem) : Out.Canon (execArbiterGrant point vc s) := by
  unfold execArbiterGrant
  dsimp only
  split
  · exact hs
  next j _ =>
    split
    · exact hs
    next p _ =>
      split
      · split <;> simp [hs]
      · split
        · cases hi : (s.takePkt point j).ingress (point - 408) p with
          | none => simp [hs]
          | some t => simp [State.ingress_mem hi, hs]
        · split <;> simp [hs]

@[simp] theorem execReplyForm_canon {point : Nat} (hs : Canon s.mem) : Out.Canon (execReplyForm point n s) := by
  unfold execReplyForm
  split <;> simp [hs]

@[simp] theorem State.noteEvents_mem {q : PtPkt} : (s.noteEvents q).mem = s.mem := by
  simp [State.noteEvents]

@[simp] theorem execEventLogWrite_canon {entry : Word} (hs : Canon s.mem) : Out.Canon (execEventLogWrite core ctx entry s) := by
  unfold execEventLogWrite
  dsimp only
  (repeat' split) <;> simp [hs]

@[simp] theorem execCellInject_canon {dir lane : Nat} (hs : Canon s.mem) : Out.Canon (execCellInject stop dir lane blk s) := by
  unfold execCellInject
  dsimp only
  (repeat' split) <;> simp [hs]

@[simp] theorem execStgctlCommit_canon (hs : Canon s.mem) : Out.Canon (execStgctlCommit s) :=
  hs

@[simp] theorem execSlotTableCommit_canon (hs : Canon s.mem) : Out.Canon (execSlotTableCommit s) := by
  unfold execSlotTableCommit
  split <;> simp [hs]

/-! ### Preempt: pre-emption -/

@[simp] theorem execSliceExpiry_canon (hs : Canon s.mem) : Out.Canon (execSliceExpiry core s) := by
  unfold execSliceExpiry
  dsimp only
  (repeat' split) <;> simp [hs]

@[simp] theorem execPreemptionPoint_canon (hs : Canon s.mem) : Out.Canon (execPreemptionPoint core s) := by
  unfold execPreemptionPoint
  dsimp only
  (repeat' split) <;> simp [hs]

@[simp] theorem State.putWords_canon {a : Nat} {ws : List Word} (hs : Canon s.mem) : Canon (s.putWords a ws).mem := by
  induction ws generalizing s a with
  | nil => exact hs
  | cons w r ih =>
    unfold State.putWords
    exact ih (State.homeWrite_canon hs)

@[simp] theorem State.releaseAll_canon (hs : Canon s.mem) : Canon (s.releaseAll c).mem := by
  rw [State.releaseAll, State.updCore_mem]
  refine foldl_canon (fun _ _ ht => State.drainEntry_canon ht) _ ?_
  refine foldl_canon (fun _ _ ht => foldl_canon (fun _ _ hu => State.writeBackWin_canon hu) _ ht) _ ?_
  exact foldl_canon (fun _ _ ht => State.drainStores_canon ht) _ hs

@[simp] theorem State.leaveTask_mem {t : Task} {slot : Nat} : (s.leaveTask c t slot).mem = s.mem := by
  simp [State.leaveTask]

@[simp] theorem State.savePkts_mem {a : Nat} : (s.savePkts c a n).mem = s.mem := foldl_mem (fun _ _ => State.forcedPkt_mem) _ s

@[simp] theorem execSaveSequence_canon (hs : Canon s.mem) : Out.Canon (execSaveSequence core s) := by
  unfold execSaveSequence
  extract_lets k
  split
  · split
    · refine State.under_canon hs fun u hu => ?_
      extract_lets released raised cut p imaged recorded
      have hr : Canon released.mem := State.releaseAll_canon hu
      have hc : Canon cut.mem := by simp [cut, raised, hr]
      have hi : Canon imaged.mem := by simp [imaged, hc]
      have hd : Canon recorded.mem := by simp [recorded, hi]
      clear_value released cut imaged recorded
      split
      · exact hr
      · simp [hd]
    · exact hs
  · exact hs

@[simp] theorem State.loadTask_canon {t : Task} {d : List Word} {a : Nat} (hs : Canon s.mem) :
    Canon (s.loadTask c t d a).mem := by
  refine foldl_canon (fun _ _ hu => ?_) _ ?_
  · simp [hu]
  · simp [hs]

@[simp] theorem execRestore_canon (hs : Canon s.mem) : Out.Canon (execRestore core s) := by
  have hc : Canon (s.choose core).1.mem := by simp [hs]
  unfold execRestore
  split
  · split
    next e =>
      rw [e] at hc
      extract_lets p loaded marked resumed
      have hm : Canon marked.mem := State.homeWrite_canon (State.loadTask_canon hc)
      simp [resumed, hm]
    next => exact hs
  · exact hs

/-! ### TackMap: the tack registers -/

theorem State.remapped_canon {t : State} (ht : Canon t.mem) : Canon (s.remapped t).mem := State.remapped_wf s t ht

theorem State.writeIlv_canon {b i j : Nat} {t : State} (hs : Canon s.mem) (ht : s.writeIlv b i j v = some t) : Canon t.mem := by
  obtain ⟨-, e⟩ := Option.ite_none_left_eq_some.mp ht
  rw [← Option.some.inj e]
  exact State.remapped_canon (by simp [hs])

@[simp] theorem State.writeEntry_mem {b j : Nat} : (s.writeEntry b e j v).mem = s.mem := by rfl

@[simp] theorem State.writeGroup_mem : (s.writeGroup n v).mem = s.mem := by
  simp [State.writeGroup]

@[simp] theorem State.writeSlots_mem {o : Nat} : (s.writeSlots o v).mem = s.mem := by rfl

@[simp] theorem State.newHolders_mem {p : Paddock} : (s.newHolders p).mem = s.mem := by rfl

@[simp] theorem State.writePdk_canon {b o : Nat} (hs : Canon s.mem) : Canon (s.writePdk b o v).mem := by
  unfold State.writePdk
  extract_lets p p'
  refine State.remapped_canon ?_
  split <;> simp [hs]

theorem State.tackWrite_canon {a : Nat} {t : State} (hs : Canon s.mem) (ht : s.tackWrite a v = some t) : Canon t.mem := by
  unfold State.tackWrite at ht
  dsimp only at ht
  (repeat' split at ht)
  any_goals exact State.writeIlv_canon hs ht
  all_goals
    cases ht
    simp [hs]

@[simp] theorem State.tackCsrSet_mem : (s.tackCsrSet n v).mem = s.mem := by
  simp [State.tackCsrSet]

/-! ### Diag: diagnostic windows -/

@[simp] theorem State.diag_mem {i : Nat} : (s.diag unit i).1.mem = s.mem := by
  unfold State.diag
  split <;> simp

@[simp] theorem State.diags_mem {j : Nat} : (s.diags unit j n).1.mem = s.mem := by
  induction n generalizing s j with
  | zero => rfl
  | succ m ih =>
    rw [State.diags]
    exact ih.trans State.diag_mem

@[simp] theorem State.keepEntry_mem : s.keepEntry.mem = s.mem := by
  unfold State.keepEntry
  split <;> simp

@[simp] theorem State.tackCsrWrite_mem : (s.tackCsrWrite n v).mem = s.mem := by
  simp [State.tackCsrWrite]

@[simp] theorem State.dwWord_mem : s.dwWord.1.mem = s.mem := by
  unfold State.dwWord
  split <;> simp

@[simp] theorem execDwdataRead_canon (hs : Canon s.mem) : Out.Canon (execDwdataRead s) := by
  simp [execDwdataRead, hs]

/-! ### Fabric: requests between packages -/

@[simp] theorem State.stampLine_mem {cls : BitVec 2} : (s.stampLine cls pa ts).1.mem = s.mem := by
  simp [State.stampLine]

@[simp] theorem State.stampLines_mem {cls : BitVec 2} : (s.stampLines cls pa n ts).1.mem = s.mem := by
  induction n generalizing s pa ts with
  | zero => rfl
  | succ m ih =>
    rw [State.stampLines]
    exact ih.trans State.stampLine_mem

@[simp] theorem State.putLines_canon {b : Nat} {d : List Word} (hs : Canon s.mem) : Canon (s.putLines b m d).mem := by
  simp [State.putLines, hs]

@[simp] theorem State.reduceAt_canon {op b : Nat} {d : List Word} (hs : Canon s.mem) : Canon (s.reduceAt op b d).mem :=
  foldl_canon (fun _ _ ht => State.homeWrite_canon ht) _ hs

@[simp] theorem State.domainLoad_mem {cls : BitVec 2} : (s.domainLoad cls pa ts).1.mem = s.mem := by
  simp [State.domainLoad]

@[simp] theorem State.domainStore_canon {cls : BitVec 2} {v : Nat} (hs : Canon s.mem) :
    Canon (s.domainStore cls pa w v ts).1.mem := by
  simp [State.domainStore, hs]

@[simp] theorem State.domainOp_canon {op : DomOp} {cls : BitVec 2} (hs : Canon s.mem) :
    Canon (s.domainOp op pa cls ts).1.mem := by
  unfold State.domainOp
  dsimp only
  (repeat' split) <;> simp [hs]

@[simp] theorem State.inviAll_mem : s.inviAll.mem = s.mem := foldl_mem (fun _ _ => State.updCore_mem ..) _ s

@[simp] theorem State.proxyArrive_canon {ring lines : Nat} {data : List Word} (hs : Canon s.mem) :
    Canon (s.proxyArrive core ring lines data).1.mem := by
  simp [State.proxyArrive, hs]

@[simp] theorem State.redirect_mem {q : PtPkt} : (s.redirect q stop pkg off n).mem = s.mem := by
  unfold State.redirect
  extract_lets q'
  split
  next t ht => exact State.sendOn_mem ht
  next => simp

@[simp] theorem State.poisonBy_mem {q : PtPkt} {op : DomOp} : (s.poisonBy q pa op).mem = s.mem := by
  unfold State.poisonBy
  split <;> simp

@[simp] theorem State.serveAt_canon {q : PtPkt} {cls : BitVec 2} {o : Nat} {hostOk : Bool} {op : DomOp} (hs : Canon s.mem) :
    Canon (s.serveAt q blk pa cls n o hostOk op).mem := by
  have served : Canon (s.domainOp op pa cls q.ts).1.mem := State.domainOp_canon hs
  unfold State.serveAt
  extract_lets stop arg
  split
  · simp [hs]
  · split
    next e =>
      rw [e] at served
      simp [served]
    next e =>
      rw [e] at served
      simp [served]

@[simp] theorem execDomainRequest_canon {h0 h1 adr lk : Word} {hostOk : Bool} {op : DomOp} (hs : Canon s.mem) :
    Out.Canon (execDomainRequest h0 h1 adr ts lk hostOk op s) := by
  unfold execDomainRequest
  dsimp only
  (repeat' split) <;> simp [hs]

@[simp] theorem State.lateBay_canon {lim : Nat} (hs : Canon s.mem) : Out.Canon (s.lateBay cls unit n lim) := by
  unfold State.lateBay
  split
  · exact hs
  · split
    · exact State.bayLineReply_canon hs
    · split
      · exact execProxyOffer_canon hs
      · split <;> simp [hs]

@[simp] theorem execRequestTimeout_canon (hs : Canon s.mem) : Out.Canon (execRequestTimeout core ctx s) := by
  have replied : Canon (s.replyTo core ctx .unreachable).mem := State.replyTo_canon hs
  unfold execRequestTimeout
  dsimp only
  generalize s.replyTo core ctx .unreachable = u at *
  (repeat' split) <;> simp [hs, replied]

@[simp] theorem State.linkRecord_mem : s.linkRecord.mem = s.mem := by rfl

@[simp] theorem State.retrain_mem : (s.retrain port).mem = s.mem := by rfl

@[simp] theorem execLinkRetrain_canon (hs : Canon s.mem) : Out.Canon (execLinkRetrain port s) := by
  simp [execLinkRetrain, hs]

@[simp] theorem State.failLines_canon {q : PtPkt} (hs : Canon s.mem) : Canon (s.failLines q n).mem := by
  induction n generalizing s with
  | zero => exact hs
  | succ m ih =>
    rw [State.failLines]
    split
    · exact ih (State.copyLine_canon hs)
    · exact hs

@[simp] theorem State.failBay_canon {q : PtPkt} (hs : Canon s.mem) : Canon (s.failBay q).mem := by
  unfold State.failBay
  split
  next n y _ =>
    split
    · have offered : Out.Canon (execProxyOffer q.src n .unreachable s) := execProxyOffer_canon hs
      split
      next e =>
        rw [e] at offered
        exact offered
      next => exact hs
    · split <;> simp [hs]
  next => exact hs

@[simp] theorem State.failReq_canon {q : PtPkt} (hs : Canon s.mem) : Canon (s.failReq port q).mem := by
  unfold State.failReq
  dsimp only
  (repeat' split) <;> simp [hs]

@[simp] theorem State.dropBranch_mem : (s.dropBranch port).mem = s.mem := by
  rw [State.dropBranch, State.sweepMcs_mem]
  refine foldl_mem (fun t n => ?_) _ s
  (repeat' split) <;> simp

@[simp] theorem State.dropHeld_canon (hs : Canon s.mem) : Canon (s.dropHeld port).mem := by
  rw [State.dropHeld, State.dropBranch_mem]
  refine foldl_canon (fun t p ht => ?_) _ ?_
  · split <;> simp [ht]
  · rw [foldl_mem fun _ _ => State.leaveExit_mem]
    simp [hs]

@[simp] theorem execLinkTrainingEnd_canon {ok : Bool} (hs : Canon s.mem) : Out.Canon (execLinkTrainingEnd port ok s) := by
  unfold execLinkTrainingEnd
  (repeat' split) <;> simp [hs]

@[simp] theorem execReplayRequest_canon {seq : Nat} (hs : Canon s.mem) : Out.Canon (execReplayRequest port seq s) := by
  simp [execReplayRequest, hs]

@[simp] theorem State.linkLog_mem {lasting : Bool} : (s.linkLog port lasting).mem = s.mem := by rfl

@[simp] theorem State.linkFails_mem {crc : Bool} : (s.linkFails port crc).mem = s.mem := by
  simp [State.linkFails]

@[simp] theorem execLinkUnitReceive_canon {side : Word} {flit : List Word} {crcOk : Bool} (hs : Canon s.mem) :
    Out.Canon (execLinkUnitReceive port side flit crcOk s) := by
  unfold execLinkUnitReceive
  split
  · exact hs
  · split
    · simp [hs]
    · rw [Out.canon_next, foldl_mem fun _ _ => State.consume_mem]
      dsimp only
      (repeat' split) <;> simp [hs]

/-! ### HostPort: the host port -/

@[simp] theorem State.ring_canon {q : Nat} {d : List Word} (hs : Canon s.mem) : Canon (s.ring fn blk q d).mem := by
  unfold State.ring
  extract_lets mine
  split
  · exact hs
  · split
    next t ht => simp [State.arrive_mem ht, hs]
    next => exact State.notice_canon hs

@[simp] theorem State.writeDoor_canon {q j : Nat} (hs : Canon s.mem) : Canon (s.writeDoor fn blk q j v).mem := by
  unfold State.writeDoor
  extract_lets n written
  split
  · exact State.ring_canon hs
  · exact hs

@[simp] theorem execDoorbellWrite_canon {j : Nat} {packet : List Word} (hs : Canon s.mem) :
    Out.Canon (execDoorbellWrite fn blk j packet s) := by
  unfold execDoorbellWrite
  split
  · exact hs
  · exact foldl_canon (fun _ _ ht => State.writeDoor_canon ht) _ hs

@[simp] theorem State.flushPend_canon (hs : Canon s.mem) : Canon (s.flushPend fn).mem := by
  refine foldl_canon (fun t v ht => ?_) _ hs
  dsimp only
  split
  · rw [State.updFunc_mem]
    exact State.logEntry_canon ht
  · exact ht

@[simp] theorem State.writeIlhead_canon (hs : Canon s.mem) : Canon (s.writeIlhead fn v).mem :=
  State.flushPend_canon (by simp [hs])

@[simp] theorem execIlheadWrite_canon (hs : Canon s.mem) : Out.Canon (execIlheadWrite fn v s) := by
  unfold execIlheadWrite
  split <;> simp [hs]

@[simp] theorem State.writeIl_canon {o : Nat} (hs : Canon s.mem) : Canon (s.writeIl fn o v).mem := by
  unfold State.writeIl
  (repeat' split) <;> simp [hs]

@[simp] theorem State.dropSaved_canon (hs : Canon s.mem) : Canon (s.dropSaved fn).mem := by
  refine foldl_canon (fun t u ht => ?_) _ hs
  exact State.homeWrite_canon ht

@[simp] theorem State.dropLaunches_mem : (s.dropLaunches fn).mem = s.mem := by
  unfold State.dropLaunches
  dsimp only
  refine foldl_mem (fun t b => ?_) _ s
  split <;> simp

@[simp] theorem State.answerMb_canon {status : Nat} {payload : List Word} {len : Nat} (hs : Canon s.mem) :
    Canon (s.answerMb fn e status payload len).mem := by
  simp [State.answerMb, hs]

@[simp] theorem State.status_canon {st : Nat} (hs : Canon s.mem) : Canon (s.status fn e st).mem := by
  simp [State.status, hs]

@[simp] theorem State.beginReset_canon (hs : Canon s.mem) : Canon (s.beginReset fn).mem := by
  rw [State.beginReset, State.updFunc_mem]
  refine foldl_canon (fun t c ht => ?_) _ (by simp [hs])
  split
  · exact State.resetCore_canon ht fun u hu => State.finishTask_canon hu
  · exact ht

theorem State.endReset_keeps : Keeps State.endReset := by
  have habandon : Keeps State.abandon := fun s fn hs => State.abandon_mem.symm ▸ hs
  delta State.endReset
  obtain ⟨abandon, e⟩ : ∃ f, State.abandon = f := ⟨_, rfl⟩
  rw [e] at habandon ⊢
  intro s fn hs
  have abandoned := habandon s fn hs
  dsimp only
  generalize abandon s fn = t at abandoned ⊢
  split
  · refine State.status_canon ?_
    rw [State.updFunc_mem]
    exact abandoned
  · rw [State.updFunc_mem]
    exact abandoned
@[simp] theorem State.endReset_canon (hs : Canon s.mem) : Canon (s.endReset fn).mem := State.endReset_keeps s fn hs

@[simp] theorem State.resetFunction_canon (hs : Canon s.mem) : Canon (s.resetFunction fn).mem := by
  unfold State.resetFunction
  dsimp only
  (repeat' split) <;> simp [hs]

@[simp] theorem execFunctionReset_canon (hs : Canon s.mem) : Out.Canon (execFunctionReset fn s) := by
  unfold execFunctionReset
  split <;> simp [hs]

@[simp] theorem State.writeFn_canon {o : Nat} (hs : Canon s.mem) : Canon (s.writeFn fn o v).mem := by
  unfold State.writeFn
  extract_lets old written
  split
  · split
    · exact State.resetFunction_canon hs
    · exact hs
  · (repeat' split) <;> simp [hs]

@[simp] theorem State.clearDone_mem : (s.clearDone fn e).mem = s.mem := by rfl

@[simp] theorem execMailboxDoneClear_canon (hs : Canon s.mem) : Out.Canon (execMailboxDoneClear fn e s) := by
  unfold execMailboxDoneClear
  split <;> simp [hs]

@[simp] theorem State.writeMb_mem {j : Nat} : (s.writeMb fn e j v).mem = s.mem := by
  simp [State.writeMb]

@[simp] theorem State.writePf_canon {a : Nat} (hs : Canon s.mem) : Canon (s.writePf a v).mem := by
  unfold State.writePf
  (repeat' split) <;> simp [hs]

@[simp] theorem State.writeVf_canon {a : Nat} (hs : Canon s.mem) : Canon (s.writeVf fn a v).mem := by
  unfold State.writeVf
  (repeat' split) <;> simp [hs]

@[simp] theorem execRegisterWrite_canon {agent addr : Nat} (hs : Canon s.mem) : Out.Canon (execRegisterWrite agent addr v s) := by
  unfold execRegisterWrite
  split
  · cases ht : s.tackWrite addr v with
    | none => split <;> simp [hs]
    | some t => split <;> simp [hs, State.tackWrite_canon hs ht]
  · (repeat' split) <;> simp [hs]

@[simp] theorem State.putBytes_canon {l : List Byte} (hs : Canon s.mem) : Canon (s.putBytes pa l).mem := by
  induction l generalizing s pa with
  | nil => exact hs
  | cons b r ih =>
    unfold State.putBytes
    exact ih (State.homeWrite_canon hs)

@[simp] theorem State.ethPkts_mem {inbound : Bool} :
    (s.ethPkts inbound pa n).mem = s.mem := foldl_mem (fun _ _ => State.sendFrom_mem) _ s

@[simp] theorem execEthernetFrame_canon {inbound : Bool} {data : List Byte} (hs : Canon s.mem) :
    Out.Canon (execEthernetFrame port inbound pa data s) := by
  unfold execEthernetFrame
  (repeat' split) <;> simp [hs]

/-! ### Mailbox: mailbox requests -/

theorem State.request417_canon {code need : Nat} {pfOnly rom : Bool} {f : Func → State} (hs : Canon s.mem)
    (hf : ∀ u, Canon (f u).mem) : Canon (s.request417 fn e code need pfOnly rom f).mem := by
  unfold State.request417
  dsimp only
  (repeat' split) <;> simp [hs, hf]

@[simp] theorem execUnknownMailboxCode_canon (hs : Canon s.mem) : Out.Canon (execUnknownMailboxCode fn e s) := by
  unfold execUnknownMailboxCode
  dsimp only
  (repeat' split) <;> simp [hs]

@[simp] theorem execInfo_canon (hs : Canon s.mem) : Out.Canon (execInfo fn e s) := by
  refine State.request417_canon hs fun _ => State.answerMb_canon ?_
  simp [hs]

@[simp] theorem execFwchunk_canon (hs : Canon s.mem) : Out.Canon (execFwchunk fn e s) := by
  refine State.request417_canon hs fun _ => ?_
  dsimp only
  split <;> simp [hs]

@[simp] theorem execFwverify_canon (hs : Canon s.mem) : Out.Canon (execFwverify fn e s) := by
  refine State.request417_canon hs fun _ => ?_
  dsimp only
  split <;> simp [hs]

@[simp] theorem execFwswap_canon (hs : Canon s.mem) : Out.Canon (execFwswap fn e s) := by
  refine State.request417_canon hs fun _ => ?_
  split <;> simp [hs]

@[simp] theorem execFirmwareHandover_canon (hs : Canon s.mem) : Out.Canon (execFirmwareHandover s) := by
  unfold execFirmwareHandover
  dsimp only
  (repeat' split) <;> simp [hs]

@[simp] theorem State.setStates_mem {a b : Nat} : (s.setStates a b n).mem = s.mem := by rfl

@[simp] theorem State.mergeTables_canon {s0 : State} {ws : List Word} {a b : Nat} (hs : Canon s0.mem) :
    Canon (s0.mergeTables ws a b m).mem :=
  State.remapped_canon (by simp [hs])

@[simp] theorem State.shootAll_mem {a vf : Nat} : (s.shootAll a vf).mem = s.mem := by
  simp [State.shootAll]

@[simp] theorem State.setMerge_mem {m : Option Merge} : (s.setMerge m).mem = s.mem := by rfl

@[simp] theorem State.mergeEnd_canon {g : Merge} (hs : Canon s.mem) : Canon (s.mergeEnd g m).mem := by
  simp [State.mergeEnd, hs]

@[simp] theorem State.mergeShoot_canon {g : Merge} (hs : Canon s.mem) : Canon (s.mergeShoot g m).mem := by
  unfold State.mergeShoot
  split <;> simp [hs]

@[simp] theorem State.mergeOn_canon {g : Merge} (hs : Canon s.mem) : Canon (s.mergeOn g).mem := by
  unfold State.mergeOn
  dsimp only
  split
  · (repeat' split) <;> simp [hs]
  · split
    · split
      · exact hs
      · exact State.mergeShoot_canon (State.remapped_canon (by simp [hs]))
    · split <;> simp [hs]

@[simp] theorem execMerge_canon (hs : Canon s.mem) : Out.Canon (execMerge fn e s) := by
  unfold execMerge
  split
  · split <;> simp [hs]
  · refine State.request417_canon hs fun u => ?_
    dsimp only
    split <;> simp [hs]

@[simp] theorem execVfreset_canon (hs : Canon s.mem) : Out.Canon (execVfreset fn e s) := by
  unfold execVfreset
  extract_lets go u
  have hgo (t : State) (ht : Canon t.mem) (u : Func) : Canon (go t u).mem := by
    unfold go
    extract_lets f
    split
    · exact State.status_canon ht
    · split
      · exact State.status_canon ht
      · refine State.resetFunction_canon ?_
        split <;> exact ht
  clear_value go
  split
  · show Canon (State.mem _)
    split
    · exact State.status_canon hs
    · exact hgo s hs _
  · exact State.request417_canon hs (hgo s hs)

@[simp] theorem execDiagread_canon (hs : Canon s.mem) : Out.Canon (execDiagread fn e s) := by
  refine State.request417_canon hs fun u => ?_
  dsimp only
  split <;> simp [hs]

@[simp] theorem execCfgwrite_canon (hs : Canon s.mem) : Out.Canon (execCfgwrite fn e s) := by
  refine State.request417_canon hs fun u => ?_
  dsimp only
  split
  · simp [hs]
  · split
    next t ht => simp [State.tackWrite_canon hs ht]
    next => simp [hs]

@[simp] theorem execCfgread_canon (hs : Canon s.mem) : Out.Canon (execCfgread fn e s) := by
  refine State.request417_canon hs fun u => ?_
  dsimp only
  split <;> simp [hs]

@[simp] theorem execPtpcfg_canon (hs : Canon s.mem) : Out.Canon (execPtpcfg fn e s) := by
  refine State.request417_canon hs fun u => ?_
  dsimp only
  split
  · exact State.status_canon hs
  · exact State.status_canon hs

/-! ### ScalarFp: binary64 words -/

@[simp] theorem fscWord_canon {f : Nat → Nat → Nat} (hs : Canon s.mem) : Out.Canon (fscWord i k d a b s f) := regWord_canon hs

/-! ### Tick: one clock of the package -/

@[simp] theorem State.tickCore_canon (hs : Canon s.mem) : Canon (s.tickCore c).mem := by
  have counted {u : State} : ((List.range 4).foldl (fun s x => s.count c x 0 1) u).mem = u.mem := foldl_mem (fun _ _ => State.count_mem) _ u
  have waited {u : State} (hu : Canon u.mem) : Canon ((u.accessWait c).getD ((u.tickStalls c).engineAccess c)).mem := by
    cases ht : u.accessWait c with
    | none => simp [hu]
    | some t => simp [State.accessWait_mem ht, hu]
  unfold State.tickCore
  dsimp only
  generalize hr : (if (s.core c).fresh = [] then s else s.updCore c Core.ripen) = r
  have hrc : Canon r.mem := by
    subst hr
    split <;> simp [hs]
  split
  · exact hrc
  · rw [State.updCore_mem]
    split
    · simp only [State.count_mem, State.countLots_mem]
      (repeat' split) <;> simp [hrc, counted]
    · refine waited ?_
      rw [State.countLots_mem]
      (repeat' split) <;> simp [hrc, counted]

@[simp] theorem execTimeCounterStep_canon (hs : Canon s.mem) : Out.Canon (execTimeCounterStep s) := by
  have ticked : Canon ((List.range Config.numCores).foldl (fun s c => s.tickCore c) s).mem :=
    foldl_canon (fun _ _ ht => State.tickCore_canon ht) _ hs
  unfold execTimeCounterStep
  split
  · exact hs
  · simp [ticked]

/-! ### Dispatch: every word and event -/

@[simp] theorem exec_canon (hs : Canon s.mem) : Out.Canon (exec i s) := by
  cases i
  all_goals dsimp only [exec]
  case lim | lis | fsqrtD | fcvtDL | fcvtLD =>
    exact regWord_canon hs
  case add | sub | and | or | xor | andn | sll | srl | sra | slt | sltu | min | max | minu | maxu | mul | mulh | mulhu | div |
      divu | rem | remu =>
    exact alu2_canon hs
  case clz | ctz | popc | sextb | sexth | sextw | addi | andi | ori | xori | slli | srli | srai | slti | sltiu =>
    exact alu1_canon hs
  case beq | bne | blt | bge | bltu | bgeu | bbusy | bfree =>
    exact branchIf_canon hs
  case bpt | bpf =>
    exact branchSlot_canon hs
  case lb | lh | lw | ld | lbu | lhu | lwu =>
    exact loadWord_canon hs
  case sb | sh | sw | sd =>
    exact storeWord_canon hs
  case amoadd | amoand | amoor | amoxor | amomin | amomax | amominu | amomaxu | amoswap | amocas | amofadd =>
    exact amoWord_canon hs
  case faddD | fsubD | fmulD | fdivD | fminD | fmaxD | feqD | fltD | fleD =>
    exact fscWord_canon hs
  case csrw | csrs | csrc =>
    exact csrForm_canon hs
  case vadd | vsub | vmul | vfma | vmax | vmin | vabs | vneg | vand | vor | vxor | vsll | vsra | vsrl | vcmplt | vcmpeq | vexp2
      | vlog2 | vrcp | vrsqrt | vcvt | vbmax | vq | vdq | vredmax | vredsum | vredmin | vbcast | vperm | vld | vst | vlds |
      vsts | vldx | vstx | vldb | vpushc | vpopc | vbal | vsoftk | vhist | vmov | vsplat | vlane | vsel | vmset | vidx =>
    exact vecWord_canon hs
  case mxcfg | mxfmt | mxgo | mxzero | mxstat | mxmm | mxbin | mxrank | mxsp | mxst | mxld | mxtov | mxfromv =>
    exact matWord_canon hs
  case cpin | cpout | cpss | cpred | cpoq =>
    exact copyWord_canon hs
  case xput | xget | xmc | xcmb | xamo | xlnc | sfsort | sftopk | lftopRed | lftopHist =>
    exact reqWord_canon hs
  all_goals simp [hs]

/-! ### Schedule: the events in turn -/

@[simp] theorem State.turn_canon (hs : Canon s.mem) : s.turn.Canon := by
  unfold State.turn
  dsimp only
  (repeat' split) <;> simp [hs]

theorem firstMove_canon {l : List (State → Out)} {o : Out} (hs : Canon s.mem) (hl : ∀ f ∈ l, Safe f) (ho : firstMove s l = some o) :
    o.Canon := by
  induction l with
  | nil => cases ho
  | cons f r ih =>
    rw [firstMove] at ho
    split at ho
    · cases ho
      exact hl f (.head _) s hs
    · exact ih (fun g hg => hl g (.tail _ hg)) ho

@[simp] theorem stopEvent_canon (hs : Canon s.mem) : Out.Canon (stopEvent c x s) := by
  simp [stopEvent, hs]

theorem ctxEvents_safe : ∀ f ∈ ctxEvents c x, Safe f := by
  simp +contextual [ctxEvents, Safe]

theorem coreEvents_safe : ∀ f ∈ coreEvents c, Safe f := by
  simp only [coreEvents, List.forall_mem_append]
  refine ⟨⟨⟨⟨⟨?_, safe_flatMap fun _ => ctxEvents_safe⟩, ?_⟩, ?_⟩, ?_⟩, ?_⟩
  all_goals simp +contextual [Safe]

theorem blockEvents_safe : ∀ f ∈ blockEvents blk, Safe f := by
  simp +contextual [blockEvents, Safe]

theorem engineEvents_safe : ∀ f ∈ engineEvents cls unit, Safe f := by
  unfold engineEvents
  split <;> simp +contextual [Safe, or_imp, forall_and]

theorem mailEvents_safe : ∀ f ∈ mailEvents s, Safe f := by
  unfold mailEvents
  split <;> simp +contextual [Safe]

theorem mcEvents_safe : ∀ f ∈ mcEvents s n, Safe f := by
  unfold mcEvents
  split
  · simp
  · refine List.forall_mem_append.mpr ⟨?_, safe_flatMap fun d => ?_⟩
    all_goals simp +contextual [Safe]

theorem pointEvents_safe {t : Point} : ∀ f ∈ pointEvents n t, Safe f := by
  unfold pointEvents
  simp only [List.forall_mem_append, List.forall_mem_map]
  (repeat' split) <;> simp +contextual [Safe]

theorem packageEvents_safe : ∀ f ∈ packageEvents s, Safe f := by
  simp only [packageEvents, List.forall_mem_append]
  refine ⟨⟨⟨⟨⟨⟨?_, ?_⟩, safe_flatMap fun _ => mcEvents_safe⟩, ?_⟩, safe_map fun _ _ => execFunctionReset_canon⟩, ?_⟩,
    mailEvents_safe⟩
  all_goals simp +contextual [Safe]

@[simp] theorem clockEvent_canon (hs : Canon s.mem) : Out.Canon (clockEvent s) := by
  have ht : Out.Canon (execTimeCounterStep s) := execTimeCounterStep_canon hs
  unfold clockEvent
  split
  next e =>
    rw [e] at ht
    exact ht
  next => exact ht

theorem State.events_safe : ∀ f ∈ s.events, Safe f := by
  simp only [State.events, List.forall_mem_append]
  refine ⟨⟨⟨⟨⟨safe_flatMap fun _ => coreEvents_safe, safe_flatMap fun _ => engineEvents_safe⟩, packageEvents_safe⟩,
    safe_flatMap fun _ => pointEvents_safe⟩, safe_flatMap fun _ => blockEvents_safe⟩, ?_⟩
  split
  · simp
  · exact safe_flatMap fun c => by simp +contextual [Safe]

@[simp] theorem State.nextInternal_canon (hs : Canon s.mem) : Out.Canon s.nextInternal := by
  unfold State.nextInternal
  cases ho : firstMove s s.events with
  | none => exact clockEvent_canon hs
  | some o => exact firstMove_canon hs State.events_safe ho

@[simp] theorem State.plan_canon (hs : Canon s.mem) : s.plan.Canon := by
  unfold State.plan
  split
  · exact State.turn_canon hs
  · exact hs
  · split
    · exact State.turn_canon hs
    · exact State.nextInternal_canon hs

/-! ### Step: one step -/

@[simp] theorem step_canon (hs : Canon s.mem) : Out.Canon (step s) := by
  have planned := State.plan_canon hs
  unfold step
  split
  next i t h =>
    rw [h] at planned
    exact exec_canon planned
  next o h =>
    rw [h] at planned
    exact planned

end

/-- Settles O8, by the read-after-write laws of the bytes at their homes. -/
theorem memoryReadsAfterWrite : Obligations.MemoryReadsAfterWrite := by
  unfold Obligations.MemoryReadsAfterWrite
  intro s pa n v
  refine ⟨State.homeRead_homeWrite s pa n v, fun a ha => State.byteAt_homeWrite_ne s ha, fun i hi => ?_⟩
  rw [State.byteAt_homeWrite s hi, BitVec.toNat_ofNat]

/-- Settles O7: the next move keeps the canonical form, whether it is a word that issues, an event of the agenda or one of the
package's own, or the clock. -/
theorem memoryStaysCanonical : Obligations.MemoryStaysCanonical := by
  unfold Obligations.MemoryStaysCanonical
  intro s t hs ht
  have stepped : Out.Canon (step s) := step_canon hs
  rw [ht] at stepped
  exact stepped

end Sys2Proof.Machine
end

section
/-!
SUPPORT. Every step answers a next state: each word goes through `controlAt`, each event ends every branch in a state, and the events
that the scheduler tries are instructions of `exec`.
-/
namespace Sys2Proof.Machine
section

/-- The answer is a next state: neither a fault nor a refusal. -/
def Out.GoesOn (o : Out) : Prop := ∃ t, o = .next t

theorem Out.goesOn_next {s : State} : Out.GoesOn (.next s) := ⟨s, rfl⟩

variable {s : State} {i : Instr}

/-- A control word takes its trap, waits or settles, and each of these is a state (R106, R342). -/
theorem controlAt_goesOn {lvl : BitVec 2} {k : Tk} {body : Nat → Nat → State → Res} : Out.GoesOn (controlAt lvl i k s body) := by
  unfold controlAt
  dsimp only
  repeat' (first | with_reducible exact Out.goesOn_next | split)

theorem control_goesOn {k : Tk} {body : Nat → Nat → State → Res} : Out.GoesOn (control i k s body) := controlAt_goesOn

section families
variable {k : Tk} {d a b : Reg}

theorem regWord_goesOn {f : Ctx → Word} : Out.GoesOn (regWord i k d s f) := control_goesOn
theorem alu1_goesOn {f : Word → Word} : Out.GoesOn (alu1 i k d a s f) := regWord_goesOn
theorem alu2_goesOn {f : Word → Word → Word} : Out.GoesOn (alu2 i k d a b s f) := regWord_goesOn
theorem fscWord_goesOn {f : Nat → Nat → Nat} : Out.GoesOn (fscWord i k d a b s f) := regWord_goesOn
theorem branchIf_goesOn {o : BitVec 8} {p : Ctx → Bool} : Out.GoesOn (branchIf i k o s p) := control_goesOn
theorem branchSlot_goesOn {p : BitVec 4} {o : BitVec 16} {pol : Bool} : Out.GoesOn (branchSlot i k p o s pol) := control_goesOn
theorem loadWord_goesOn {o : BitVec 8} {w : Nat} {sg : Bool} : Out.GoesOn (loadWord i k d a o s w sg) := control_goesOn
theorem storeWord_goesOn {o : BitVec 8} {w : Nat} : Out.GoesOn (storeWord i k d a o s w) := control_goesOn
theorem amoWord_goesOn {op : Nat} {z : BitVec 1} : Out.GoesOn (amoWord i op k d a b z s) := control_goesOn
theorem orderWord_goesOn {sc : BitVec 3} {f : Nat → Nat → Nat → State → Res} : Out.GoesOn (orderWord i k sc s f) := control_goesOn
theorem csrForm_goesOn {r : BitVec 9} {f : Word → Word → Word} : Out.GoesOn (csrForm i k d a r s f) := control_goesOn
theorem reqWord_goesOn {cls : Nat} {f p : BitVec 4} {r : BitVec 2} {chk : Nat → Nat → State → ChkRes} :
    Out.GoesOn (reqWord i k cls f r p a b s chk) := control_goesOn
theorem vecWord_goesOn : Out.GoesOn (vecWord i k s) := control_goesOn
theorem matWord_goesOn : Out.GoesOn (matWord i k s) := control_goesOn
theorem copyWord_goesOn : Out.GoesOn (copyWord i k s) := control_goesOn

end families

theorem execEgrd_goesOn {d : Reg} {g : BitVec 1} : Out.GoesOn (execEgrd d g s) := by
  unfold execEgrd control
  dsimp only
  repeat' (first | with_reducible exact Out.goesOn_next | with_reducible exact controlAt_goesOn | split)

theorem execProxyOffer_goesOn {shed bay : Nat} {rep : Reply} : Out.GoesOn (execProxyOffer shed bay rep s) := by
  unfold execProxyOffer
  dsimp only
  repeat' (first | with_reducible exact Out.goesOn_next | split)

theorem State.lateBay_goesOn {cls unit n lim : Nat} : Out.GoesOn (s.lateBay cls unit n lim) := by
  unfold State.lateBay
  repeat' (first | with_reducible exact Out.goesOn_next | with_reducible exact execProxyOffer_goesOn | split)

theorem execRequestTimeout_goesOn {core ctx : Nat} : Out.GoesOn (execRequestTimeout core ctx s) := by
  unfold execRequestTimeout
  extract_lets lim t far s'
  clear_value lim far
  repeat' (first | with_reducible exact Out.goesOn_next | with_reducible exact State.lateBay_goesOn | split)

theorem execWaitSatisfied_goesOn {core who : Nat} : Out.GoesOn (execWaitSatisfied core who s) := by
  unfold execWaitSatisfied
  extract_lets k t again
  have answered : again.GoesOn := Out.goesOn_next
  clear_value again
  split
  · exact Out.goesOn_next
  · cases t.wait with
    | none => exact Out.goesOn_next
    | some w => cases w <;> dsimp only <;> repeat' (first | with_reducible exact Out.goesOn_next | exact answered | split)

/-- Every word and every event of the package answers a next state. -/
theorem exec_goesOn : Out.GoesOn (exec i s) := by
  cases i
  case egrd => exact execEgrd_goesOn
  case proxyOffer => exact execProxyOffer_goesOn
  case waitSatisfied => exact execWaitSatisfied_goesOn
  case requestTimeout => exact execRequestTimeout_goesOn
  case vxeCommandStart | vxeWriteback | mxeCommandStart | nestStep | nestStoreDrainEnd | cpeCommandStart | blockFillComplete
      | blockWritebackComplete | leaseExpiry | oqEntryFill | sdctlGo | tmadjWrite | powerCapCheck | stgctlCommit | packageReset
      | fwctlSwap | fwctlCommit | tackHbeatWrite | linkRetrain | replayRequest | info | fwchunk | fwverify | fwswap | diagread
      | cfgwrite | cfgread | ptpcfg | illegalWord | dwdataRead =>
    exact ⟨_, rfl⟩
  case fetchFault | taskStart | launchRelease | engineCommandRetire | mxeWriteback | copyPacketForm | copyLineComplete
      | admissionDecision | admissionAnswer | ticketIssue | ticketLapse | combineContribution | multicastForward | multicastDelivery
      | multicastDropTimeout | combineResultLand | loftLineOperation | bayComplete | lotRequest | lotGrant | rollback
      | taskComplete | commit | irrevocabilityGrant | pendingEventTake | waitBoundExpiry | yRendezvous
      | heldSignalPush | tokenDelivery | trialTimeout | unitReady | halterWatchFire | heartbeatTimeout | halterLevelTimeout
      | storePerform | loadReply | stashFill | hcHomeAccess | freezeEnd | freezeLimit | farrierRetry | shootdown | pageWalk
      | frameTick | slipEnd | timeSyncExchange | ptpEventMessage | packetWaitUnit | arbiterGrant | replyForm | eventLogWrite
      | cellInject | slotTableCommit | sliceExpiry | preemptionPoint | saveSequence | restore | domainRequest
      | linkTrainingEnd | linkUnitReceive | doorbellWrite | ilheadWrite | functionReset | mailboxDoneClear | registerWrite
      | ethernetFrame | unknownMailboxCode | firmwareHandover | merge | vfreset | timeCounterStep =>
    dsimp only [exec, execFetchFault, execTaskStart, execLaunchRelease, execEngineCommandRetire, execMxeWriteback, execCopyPacketForm,
      execCopyLineComplete, execAdmissionDecision, execAdmissionAnswer, execTicketIssue, execTicketLapse, execCombineContribution,
      execMulticastForward, execMulticastDelivery, execMulticastDropTimeout, execCombineResultLand, execLoftLineOperation,
      execBayComplete, execLotRequest, execLotGrant, execRollback, execTaskComplete, execCommit,
      execIrrevocabilityGrant, execPendingEventTake, execWaitBoundExpiry, execYRendezvous, execHeldSignalPush,
      execTokenDelivery, execTrialTimeout, execUnitReady, execHalterWatchFire, execHeartbeatTimeout, execHalterLevelTimeout,
      execStorePerform, execLoadReply, execStashFill, execHcHomeAccess, execFreezeEnd, execFreezeLimit, execFarrierRetry,
      execShootdown, execPageWalk, execFrameTick, execSlipEnd, execTimeSyncExchange, execPtpEventMessage, execPacketWaitUnit,
      execArbiterGrant, execReplyForm, execEventLogWrite, execCellInject, execSlotTableCommit, execSliceExpiry, execPreemptionPoint,
      execSaveSequence, execRestore, execDomainRequest, execLinkTrainingEnd,
      execLinkUnitReceive, execDoorbellWrite, execIlheadWrite, execFunctionReset, execMailboxDoneClear, execRegisterWrite,
      execEthernetFrame, execUnknownMailboxCode, execFirmwareHandover, execMerge, execVfreset, execTimeCounterStep]
    -- The branches of an event end in a state each: a branch is one, or splits further.
    repeat' (first | with_reducible exact Out.goesOn_next | split)
  all_goals dsimp only [exec]
  case trap | eret | halt | cstart | cstop => exact controlAt_goesOn
  case lim | lis | fsqrtD | fcvtDL | fcvtLD => exact regWord_goesOn
  case add | sub | and | or | xor | andn | sll | srl | sra | slt | sltu | min | max | minu | maxu | mul | mulh | mulhu | div |
      divu | rem | remu =>
    exact alu2_goesOn
  case clz | ctz | popc | sextb | sexth | sextw | addi | andi | ori | xori | slli | srli | srai | slti | sltiu =>
    exact alu1_goesOn
  case beq | bne | blt | bge | bltu | bgeu | bbusy | bfree => exact branchIf_goesOn
  case bpt | bpf => exact branchSlot_goesOn
  case lb | lh | lw | ld | lbu | lhu | lwu => exact loadWord_goesOn
  case sb | sh | sw | sd => exact storeWord_goesOn
  case amoadd | amoand | amoor | amoxor | amomin | amomax | amominu | amomaxu | amoswap | amocas | amofadd => exact amoWord_goesOn
  case faddD | fsubD | fmulD | fdivD | fminD | fmaxD | feqD | fltD | fleD => exact fscWord_goesOn
  case fence | acq | rel | invi => exact orderWord_goesOn
  case csrw | csrs | csrc => exact csrForm_goesOn
  case vadd | vsub | vmul | vfma | vmax | vmin | vabs | vneg | vand | vor | vxor | vsll | vsra | vsrl | vcmplt | vcmpeq | vexp2
      | vlog2 | vrcp | vrsqrt | vcvt | vbmax | vq | vdq | vredmax | vredsum | vredmin | vbcast | vperm | vld | vst | vlds |
      vsts | vldx | vstx | vldb | vpushc | vpopc | vbal | vsoftk | vhist | vmov | vsplat | vlane | vsel | vmset | vidx =>
    exact vecWord_goesOn
  case mxcfg | mxfmt | mxgo | mxzero | mxstat | mxmm | mxbin | mxrank | mxsp | mxst | mxld | mxtov | mxfromv => exact matWord_goesOn
  case cpin | cpout | cpss | cpred | cpoq => exact copyWord_goesOn
  case xput | xget | xmc | xcmb | xamo | xlnc | sfsort | sftopk | lftopRed | lftopHist => exact reqWord_goesOn
  all_goals exact control_goesOn

/-! ### The scheduler -/

/-- The events of a list, each of which answers a next state. -/
def AllGoOn (l : List (State → Out)) : Prop := ∀ f ∈ l, ∀ s, (f s).GoesOn

theorem allGoOn_exec (l : List Instr) : AllGoOn (l.map exec) := List.forall_mem_map.mpr fun _ _ _ => exec_goesOn

theorem allGoOn_map {α : Type} (g : α → Instr) (l : List α) : AllGoOn (l.map fun a => exec (g a)) :=
  List.forall_mem_map.mpr fun _ _ _ => exec_goesOn

theorem AllGoOn.append {l m : List (State → Out)} (hl : AllGoOn l) (hm : AllGoOn m) : AllGoOn (l ++ m) :=
  List.forall_mem_append.mpr ⟨hl, hm⟩

theorem allGoOn_flatMap {α : Type} {l : List α} {g : α → List (State → Out)} (h : ∀ a, AllGoOn (g a)) : AllGoOn (l.flatMap g) := by
  intro f hf
  obtain ⟨a, -, ha⟩ := List.mem_flatMap.mp hf
  exact h a f ha

theorem ctxEvents_goOn (c x : Nat) : AllGoOn (ctxEvents c x) :=
  have stop : AllGoOn [stopEvent c x] := List.forall_mem_singleton.mpr fun _ => Out.goesOn_next
  ((allGoOn_exec [.pendingEventTake c x]).append stop).append (allGoOn_exec [.storePerform c x, .heldSignalPush c x,
    .waitSatisfied c x, .admissionDecision c x, .admissionAnswer c x, .lotRequest c x, .loadReply c x .home])

theorem coreEvents_goOn (c : Nat) : AllGoOn (coreEvents c) :=
  (((((allGoOn_exec [.vxeWriteback c, .mxeWriteback c, .nestStoreDrainEnd c, .engineCommandRetire c 0, .engineCommandRetire c 1,
      .engineCommandRetire c 2]).append (allGoOn_flatMap (ctxEvents_goOn c))).append
    (allGoOn_exec [.yRendezvous c, .rollback c, .lotRequest c 4, .loadReply c 8 .home, .stashFill c, .loadReply c 4 .home,
      .loadReply c 5 .home, .loadReply c 6 .home, .oqEntryFill c 0, .oqEntryFill c 1, .oqEntryFill c 2, .oqEntryFill c 3,
      .freezeEnd c, .freezeLimit c, .blockFillComplete c 0, .blockWritebackComplete c 0, .copyPacketForm c])).append
    (allGoOn_map (fun n => .copyLineComplete c n .home) _)).append
    (allGoOn_exec [.nestStep c, .vxeCommandStart c, .mxeCommandStart c, .cpeCommandStart c, .commit c, .taskComplete c,
      .preemptionPoint c, .saveSequence c, .sliceExpiry c, .shootdown c])).append
    (allGoOn_map (fun n => .waitBoundExpiry c n) _)

theorem blockEvents_goOn (b : Nat) : AllGoOn (blockEvents b) :=
  AllGoOn.append (m := (List.range 16).map (execLaunchRelease b)) (allGoOn_exec [.frameTick b, .slipEnd b, .irrevocabilityGrant b])
    (allGoOn_map (fun q => .launchRelease b q) _)

theorem engineEvents_goOn (cls unit : Nat) : AllGoOn (engineEvents cls unit) := by
  refine ((allGoOn_map (fun n => .bayComplete cls unit n {}) _).append ?_).append
    (allGoOn_exec [.ticketIssue cls unit, .ticketLapse cls unit])
  split
  · exact allGoOn_map (fun n => .proxyOffer unit n .home) _
  · exact allGoOn_exec []

theorem mailEvents_goOn (s : State) : AllGoOn (mailEvents s) := by
  unfold mailEvents
  split
  next fn e _ _ =>
    exact allGoOn_exec [.info fn e, .fwchunk fn e, .fwverify fn e, .fwswap fn e, .merge fn e, .vfreset fn e, .diagread fn e,
      .cfgwrite fn e, .cfgread fn e, .ptpcfg fn e, .unknownMailboxCode fn e]
  next => exact allGoOn_exec []

theorem mcEvents_goOn (s : State) (n : Nat) : AllGoOn (mcEvents s n) := by
  unfold mcEvents
  split
  · exact allGoOn_exec []
  · exact (allGoOn_map (fun b => .multicastForward n b) _).append (allGoOn_flatMap fun d =>
      allGoOn_exec [.multicastDelivery d.1 n, .multicastDropTimeout d.1 n, .combineResultLand d.1 n])

theorem pointEvents_goOn (n : Nat) (t : Point) : AllGoOn (pointEvents n t) := by
  refine (allGoOn_map (fun i => .packetWaitUnit n i) _).append ?_
  split
  · exact allGoOn_map (fun p : PtPkt => .cellInject (n - 128) (yardPath p.src p.dst).1 ((p.src + p.dst + p.vc) % 8) p.blk) _
  · split
    · exact allGoOn_map (fun p : PtPkt => .eventLogWrite p.core p.ctx 0) _
    · exact allGoOn_exec [.arbiterGrant n 3, .arbiterGrant n 2, .arbiterGrant n 1, .arbiterGrant n 0, .replyForm n 0]

theorem packageEvents_goOn (s : State) : AllGoOn (packageEvents s) :=
  ((((((allGoOn_exec [.tokenDelivery 0]).append (allGoOn_map (fun r : LotReq => .lotGrant r.key) _)).append
    (allGoOn_flatMap (mcEvents_goOn s))).append
    (allGoOn_map (fun w : Watch => .halterWatchFire w.kind w.core w.ctx) _)).append
    (allGoOn_map (fun f : Nat × Func => .functionReset f.1) _)).append
    (allGoOn_exec [.slotTableCommit, .firmwareHandover])).append (mailEvents_goOn s)

theorem State.events_goOn (s : State) : AllGoOn s.events := by
  refine (((((allGoOn_flatMap fun _ => coreEvents_goOn _).append (allGoOn_flatMap fun _ => engineEvents_goOn _ _)).append
    (packageEvents_goOn s)).append (allGoOn_flatMap fun _ => pointEvents_goOn _ _)).append
    (allGoOn_flatMap fun _ => blockEvents_goOn _)).append ?_
  split
  · exact allGoOn_exec []
  · exact allGoOn_flatMap fun c => allGoOn_exec [.taskStart c, .restore c]

theorem firstMove_goesOn {l : List (State → Out)} {o : Out} (hl : AllGoOn l) (ho : firstMove s l = some o) : o.GoesOn := by
  induction l with
  | nil => cases ho
  | cons f r ih =>
    obtain ⟨hf, hr⟩ := List.forall_mem_cons.mp hl
    rw [firstMove] at ho
    split at ho
    · cases ho
      exact hf s
    · exact ih hr ho

theorem clockEvent_goesOn : (clockEvent s).GoesOn := by
  obtain ⟨t, ht⟩ : (execTimeCounterStep s).GoesOn := exec_goesOn (i := .timeCounterStep)
  rw [clockEvent, ht]
  exact Out.goesOn_next

theorem State.nextInternal_goesOn : s.nextInternal.GoesOn := by
  unfold State.nextInternal
  cases ho : firstMove s s.events with
  | none => exact clockEvent_goesOn
  | some o => exact firstMove_goesOn s.events_goOn ho

/-- A move that is answered at once is answered by a next state. -/
def Move.GoesOn : Move → Prop
  | .run _ _ => True
  | .out o => o.GoesOn

theorem State.issue_goesOn {c x : Nat} : (s.issue c x).GoesOn := by
  unfold State.issue
  split
  · exact exec_goesOn (i := .fetchFault)
  · split
    · split
      · trivial
      · exact Out.goesOn_next
    · exact exec_goesOn (i := .illegalWord _)

theorem State.turn_goesOn : s.turn.GoesOn := by
  unfold State.turn
  dsimp only
  split
  · exact Out.goesOn_next
  · split
    · exact State.issue_goesOn
    · split
      · exact Out.goesOn_next
      · split
        · exact exec_goesOn (i := .pendingEventTake _ _)
        · split
          · exact State.issue_goesOn
          · exact Out.goesOn_next

theorem State.plan_goesOn : s.plan.GoesOn := by
  unfold State.plan
  split
  · exact State.turn_goesOn
  · trivial
  · split
    · exact State.turn_goesOn
    · exact State.nextInternal_goesOn

theorem step_goesOn : Out.GoesOn (step s) := by
  have planned : s.plan.GoesOn := State.plan_goesOn
  unfold step
  split
  next => exact exec_goesOn
  next o h => rwa [h] at planned

end

/-- Settles O5: every word and every event answers a next state, and so does whichever of them the scheduler moves next. -/
theorem everyStepGoesOn : Obligations.EveryStepGoesOn := by
  unfold Obligations.EveryStepGoesOn
  exact ⟨fun _ _ => exec_goesOn, fun _ => step_goesOn⟩

end Sys2Proof.Machine
end

section
/-!
SUPPORT. Bit fields of a status value, and what the shared operations leave of a context.
-/
namespace Sys2Proof.Machine
section

/-! ### Bit fields -/

/-- A field that is written reads the written bits, and every other bit stays. -/
theorem getLsbD_putBits {w : Nat} (v : BitVec w) (lo n x i : Nat) :
    (putBits v lo n x).getLsbD i = if lo ≤ i ∧ i < lo + n ∧ i < w then x.testBit (i - lo) else v.getLsbD i := by
  have field : (BitVec.ofNat w (x % 2 ^ n * 2 ^ lo)).getLsbD i = (decide (lo ≤ i ∧ i < lo + n ∧ i < w) && x.testBit (i - lo)) := by
    rw [BitVec.getLsbD_ofNat, Nat.testBit_mul_two_pow, Nat.testBit_mod_two_pow]
    grind
  have mask : (BitVec.ofNat w ((2 ^ n - 1) * 2 ^ lo)).getLsbD i = decide (lo ≤ i ∧ i < lo + n ∧ i < w) := by
    rw [BitVec.getLsbD_ofNat, Nat.testBit_mul_two_pow, Nat.testBit_two_pow_sub_one]
    grind
  rw [putBits, BitVec.getLsbD_or, BitVec.getLsbD_and, BitVec.getLsbD_not, field, mask]
  by_cases hw : i < w
  · by_cases hf : lo ≤ i ∧ i < lo + n <;> simp [hw, hf]
  · simp [hw, BitVec.getLsbD_of_ge v i (Nat.not_lt.1 hw)]

theorem getLsbD_putBits_apart {w : Nat} (v : BitVec w) {lo n x i : Nat} (h : i < lo ∨ lo + n ≤ i) :
    (putBits v lo n x).getLsbD i = v.getLsbD i := by
  rw [getLsbD_putBits, if_neg (by omega)]

theorem extractLsb'_putBits_self {w : Nat} (v : BitVec w) (lo n x : Nat) (h : lo + n ≤ w) :
    (putBits v lo n x).extractLsb' lo n = BitVec.ofNat n x := by
  refine BitVec.eq_of_getLsbD_eq fun i hi => ?_
  rw [BitVec.getLsbD_extractLsb', getLsbD_putBits, BitVec.getLsbD_ofNat, if_pos (by omega), Nat.add_sub_cancel_left]

/-- A field apart from the one that is written stays. -/
theorem extractLsb'_putBits_apart {w : Nat} (v : BitVec w) {lo n x l m : Nat} (h : l + m ≤ lo ∨ lo + n ≤ l) :
    (putBits v lo n x).extractLsb' l m = v.extractLsb' l m := by
  refine BitVec.eq_of_getLsbD_eq fun i hi => ?_
  rw [BitVec.getLsbD_extractLsb', BitVec.getLsbD_extractLsb', getLsbD_putBits, if_neg (by omega)]

/-- A word-aligned address has its two low bits clear. -/
theorem and_alignMask {a : Word} (h : a.toNat % 4 = 0) : a &&& 0xfffffffffffffffc = a := by
  have mask : ∀ i : Fin 64, BitVec.getLsbD (0xfffffffffffffffc : Word) i = decide (2 ≤ i.val) := by decide
  refine BitVec.eq_of_getLsbD_eq fun i hi => ?_
  rw [BitVec.getLsbD_and, mask ⟨i, hi⟩]
  have low := Nat.testBit_mod_two_pow a.toNat 2 i
  rw [show a.toNat % 2 ^ 2 = 0 from h, Nat.zero_testBit] at low
  by_cases h2 : 2 ≤ i
  · simp [h2]
  · simpa [h2, BitVec.getLsbD, Nat.lt_of_not_le h2] using low

/-- The base of a handler table is `tvec` without its low byte and above bit 47 (R23). -/
theorem tvec_base (a : Word) : a &&& (0xffffffffff00 : Word) = (a >>> 8 <<< 8) &&& (0xffffffffffff : Word) := by
  have mask : ∀ i : Fin 64, BitVec.getLsbD (0xffffffffff00 : Word) i =
    (decide (8 ≤ i.val) && BitVec.getLsbD (0xffffffffffff : Word) i) := by decide
  refine BitVec.eq_of_getLsbD_eq fun i hi => ?_
  rw [BitVec.getLsbD_and, BitVec.getLsbD_and, mask ⟨i, hi⟩, BitVec.getLsbD_shiftLeft, BitVec.getLsbD_ushiftRight]
  by_cases h8 : 8 ≤ i
  · simp [h8, hi, Nat.not_lt.2 h8]
  · simp [h8]

/-! ### What the shared operations leave of a context -/

variable {s t : State} {c x : Nat} {k : Tk}

/-- What may change any one context of a core alone leaves every context. -/
theorem CtxFrame.ctx_eq (h : ∀ y, CtxFrame s t c y) (d y : Nat) : t.ctx d y = s.ctx d y := by
  by_cases hd : d = c
  · subst hd
    exact (h (y + 1)).ctxs y (by omega)
  · rw [State.ctx, State.ctx, (h y).others d hd]

@[simp] theorem State.count_ctx (s : State) (c y ev n d x : Nat) : (s.count c y ev n).ctx d x = s.ctx d x :=
  CtxFrame.ctx_eq (fun z => CtxFrame.count s c z y ev n) d x

@[simp] theorem State.popAll_ctx (s : State) (c y : Nat) (fs : List Nat) (d x : Nat) : (s.popAll c y fs).ctx d x = s.ctx d x :=
  CtxFrame.ctx_eq (fun z => CtxFrame.popAll s c z y fs) d x

@[simp] theorem State.unpop_ctx (s : State) (c y : Nat) (fs : List Nat) (d x : Nat) : (s.unpop c y fs).ctx d x = s.ctx d x :=
  CtxFrame.ctx_eq (fun z => CtxFrame.unpop s c z y fs) d x

@[simp] theorem State.giveBack_ctx (s : State) (c y d x : Nat) : (s.giveBack c y).ctx d x = s.ctx d x :=
  State.unpop_ctx s c y _ d x

@[simp] theorem State.withdraw_ctx (s : State) (c y d x : Nat) : (s.withdraw c y).ctx d x = s.ctx d x := by
  unfold State.withdraw
  split <;> rfl

@[simp] theorem State.arise_ctx (s : State) (kind c y : Nat) (cz : BitVec 5) (v pc : Word) (d x : Nat) :
    (s.arise kind c y cz v pc).ctx d x = s.ctx d x := by
  unfold State.arise
  dsimp only
  split <;> rfl

@[simp] theorem issued_ctx (s : State) (k : Tk) (d x : Nat) : (s.issued k).ctx d x = s.ctx d x := State.popAll_ctx s _ _ _ d x

@[simp] theorem issued_now (s : State) (k : Tk) : (s.issued k).now = s.now := by simp [State.now]

@[simp] theorem issued_holdFor (s : State) (k : Tk) (c : Nat) : ((s.issued k).core c).holdFor = (s.core c).holdFor := by
  have frame : CtxFrame s (s.issued k) s.cur.1 s.cur.2 := CtxFrame.popAll s _ _ _ _
  by_cases hc : c = s.cur.1
  · rw [hc, frame.unit]
  · rw [frame.others c hc]

/-! ### How a word's answer settles -/

/-- A word that is no control transfer at LAST of an active loop: R83 raises nothing for it. -/
def NoNest (i : Instr) (t : Ctx) : Prop := isTransfer i = false ∨ t.loopAt t.pc = none

theorem NoNest.eq_false {i : Instr} {t : Ctx} (h : NoNest i t) : (isTransfer i && (t.loopAt t.pc).isSome) = false := by
  rcases h with h | h <;> simp [h]

/-- A trap that comes before NEST, or where NEST does not arise, is the one that is taken (R342). -/
theorem settle_trap {i : Instr} {cz : BitVec 5} {v : Word} (h : Cause.beforeNest cz = true ∨ NoNest i (s.ctx c x)) :
    settle s c x i k (.trap cz v) = takeTrap s c x cz v (s.ctx c x).pc := by
  unfold settle
  by_cases hn : (isTransfer i && ((s.ctx c x).loopAt (s.ctx c x).pc).isSome) = true
  · simp only [hn, h.resolve_right (fun h => by simp [h.eq_false] at hn), if_true]
  · simp only [hn]

theorem settle_stay {i : Instr} (h : NoNest i (s.ctx c x)) :
    settle s c x i k (.stay t) = (t.retireAt c x ((s.ctx c x).pl = 0)).signals c x (signalFifos k x) := by
  unfold settle
  simp only [h.eq_false]

end
end Sys2Proof.Machine
end

section
/-!
SUPPORT. Taking a trap: the context that it leaves, and what the halter notes (R20 to R25, R115).
-/
namespace Sys2Proof.Machine
section

variable {s : State} {c x : Nat} {cz : BitVec 5} {v pc : Word} {t : Ctx}

/-- The TIP bit of the bank of a level. -/
def Ctx.tipAt (t : Ctx) (lvl : BitVec 2) : Bool := if lvl = 1 then t.stip else t.htip

/-- The context that a trap leaves: in its future handler (R115), stopped by a double trap (R25), or in the handler of its level (R23). -/
def Ctx.taken (t : Ctx) (cz : BitVec 5) (v pc : Word) : Ctx :=
  if cz = Cause.fut ∧ t.pl = 0 ∧ t.fip = false then t.unwait.enterFut pc
  else if t.tipAt (trapLevel cz t.pl) = true then { t.unwait with run := .failed }
  else t.unwait.enter (trapLevel cz t.pl) cz v pc

theorem takeTrap_ctx (s : State) (c x : Nat) (cz : BitVec 5) (v pc : Word) :
    (takeTrap s c x cz v pc).ctx c x = (s.ctx c x).taken cz v pc := by
  have same : ((s.giveBack c x).withdraw c x).ctx c x = s.ctx c x := by simp
  unfold takeTrap Ctx.taken
  generalize (s.giveBack c x).withdraw c x = u at same ⊢
  dsimp only
  rw [same]
  show _ = if cz = Cause.fut ∧ (s.ctx c x).unwait.pl = 0 ∧ (s.ctx c x).unwait.fip = false then _ else _
  split
  · simp
  · rw [apply_ite (fun w : State => w.ctx c x), apply_ite (fun w : State => w.ctx c x)]
    simp only [State.arise_ctx, ite_self]
    generalize htip : (if trapLevel cz (s.ctx c x).unwait.pl = 1 then (s.ctx c x).unwait.stip else (s.ctx c x).unwait.htip) = tip
    rw [show (s.ctx c x).tipAt (trapLevel cz (s.ctx c x).pl) = tip from htip]
    cases tip
    · exact State.ctx_setCtx_self _ c x _
    · exact (State.arise_ctx _ 3 c x cz v pc c x).trans (State.ctx_setCtx_self _ c x _)

/-- Outside a future trap at U the model routes a trap to the level of R21. -/
theorem trapLevel_eq_levelOf : ∀ (cz : BitVec 5) (pl : BitVec 2), pl ≤ 2 → trapLevel cz pl = levelOf cz pl := by decide

theorem levelOf_eq : ∀ (cz : BitVec 5) (pl : BitVec 2), levelOf cz pl = 1 ∨ levelOf cz pl = 2 := by decide

/-- What keeps a trap from being a future trap at U. -/
theorem not_futAtU (hfut : cz ≠ 7 ∨ t.pl ≠ 0 ∨ t.fip = true) : ¬ (cz = Cause.fut ∧ t.pl = 0 ∧ t.fip = false) := by
  rintro ⟨rfl, hpl, hfip⟩
  simp [hpl, hfip] at hfut

/-- A trap whose bank is free enters the handler of its level (R23). -/
theorem Ctx.taken_enter (hfut : cz ≠ 7 ∨ t.pl ≠ 0 ∨ t.fip = true) (hpl : t.pl ≤ 2)
    (htip : t.tipAt (levelOf cz t.pl) = false) :
    t.taken cz v pc = t.unwait.enter (levelOf cz t.pl) cz v pc := by
  unfold Ctx.taken
  rw [trapLevel_eq_levelOf _ _ hpl, if_neg (not_futAtU hfut), if_neg (by rw [htip]; decide)]

/-- A trap whose bank is taken stops the context (R25). -/
theorem Ctx.taken_double (hfut : cz ≠ 7 ∨ t.pl ≠ 0 ∨ t.fip = true) (hpl : t.pl ≤ 2)
    (htip : t.tipAt (levelOf cz t.pl) = true) :
    t.taken cz v pc = { t.unwait with run := .failed } := by
  unfold Ctx.taken
  rw [trapLevel_eq_levelOf _ _ hpl, if_neg (not_futAtU hfut), if_pos htip]

/-- A FUT at U outside a future handler goes to `ctx.fvec` (R115). -/
theorem Ctx.taken_fut (hpl : t.pl = 0) (hfip : t.fip = false) : t.taken Cause.fut v pc = t.unwait.enterFut pc :=
  if_pos ⟨rfl, hpl, hfip⟩

theorem Ctx.taken_moves (t : Ctx) (cz : BitVec 5) (v pc : Word) : (t.taken cz v pc).x = t.x ∧ Ctx.Trapped t (t.taken cz v pc) := by
  unfold Ctx.taken
  split
  · exact ⟨rfl, rfl⟩
  · generalize trapLevel cz t.pl = lvl
    cases t.tipAt lvl
    · by_cases hl : lvl = 1
      · subst hl
        exact ⟨rfl, rfl⟩
      · simp only [Ctx.enter, hl, if_false]
        exact ⟨rfl, rfl⟩
    · exact ⟨rfl, rfl⟩

/-! ### What the entry into a bank leaves -/

theorem Ctx.enter_s : t.enter 1 cz v pc = { t with
    sBank := { t.sBank with epc := pc &&& 0xfffffffffffffffc, cause := cz, tval := v }
    status := putBits (putBits (putBits t.status 2 2 t.pl.toNat) 6 1 1) 0 2 1
    pc := if t.sBank.tvec.getLsbD 0 then (t.sBank.tvec &&& 0xffffffffff00) + 8 * cz.setWidth 64 else t.sBank.tvec &&& 0xffffffffff00 } := rfl

theorem Ctx.enter_h : t.enter 2 cz v pc = { t with
    hBank := { t.hBank with epc := pc &&& 0xfffffffffffffffc, cause := cz, tval := v }
    status := putBits (putBits (putBits t.status 4 2 t.pl.toNat) 7 1 1) 0 2 2
    pc := if t.hBank.tvec.getLsbD 0 then (t.hBank.tvec &&& 0xffffffffff00) + 8 * cz.setWidth 64 else t.hBank.tvec &&& 0xffffffffff00 } := rfl

/-- The status in the handler at S: TIP and the old level in the fields of S, and H's as they were. -/
theorem Ctx.enter_s_status (t : Ctx) (cz : BitVec 5) (v pc : Word) :
    (t.enter 1 cz v pc).pl = 1 ∧ (t.enter 1 cz v pc).stip = true ∧ (t.enter 1 cz v pc).htip = t.htip ∧
    (t.enter 1 cz v pc).status.extractLsb' 2 2 = t.pl ∧
    (t.enter 1 cz v pc).status.extractLsb' 4 2 = t.status.extractLsb' 4 2 := by
  rw [Ctx.enter_s]
  refine ⟨extractLsb'_putBits_self _ 0 2 1 (by omega), ?_, ?_, ?_, ?_⟩
  · simp [Ctx.stip, getLsbD_putBits]
  · exact (getLsbD_putBits_apart _ (by omega)).trans ((getLsbD_putBits_apart _ (by omega)).trans (getLsbD_putBits_apart _ (by omega)))
  · rw [extractLsb'_putBits_apart _ (by omega), extractLsb'_putBits_apart _ (by omega), extractLsb'_putBits_self _ _ _ _ (by omega),
      BitVec.ofNat_toNat, BitVec.setWidth_eq]
  · rw [extractLsb'_putBits_apart _ (by omega), extractLsb'_putBits_apart _ (by omega), extractLsb'_putBits_apart _ (by omega)]

/-- The status in the handler at H. -/
theorem Ctx.enter_h_status (t : Ctx) (cz : BitVec 5) (v pc : Word) :
    (t.enter 2 cz v pc).pl = 2 ∧ (t.enter 2 cz v pc).htip = true ∧ (t.enter 2 cz v pc).stip = t.stip ∧
    (t.enter 2 cz v pc).status.extractLsb' 4 2 = t.pl ∧
    (t.enter 2 cz v pc).status.extractLsb' 2 2 = t.status.extractLsb' 2 2 := by
  rw [Ctx.enter_h]
  refine ⟨extractLsb'_putBits_self _ 0 2 2 (by omega), ?_, ?_, ?_, ?_⟩
  · simp [Ctx.htip, getLsbD_putBits]
  · exact (getLsbD_putBits_apart _ (by omega)).trans ((getLsbD_putBits_apart _ (by omega)).trans (getLsbD_putBits_apart _ (by omega)))
  · rw [extractLsb'_putBits_apart _ (by omega), extractLsb'_putBits_apart _ (by omega), extractLsb'_putBits_self _ _ _ _ (by omega),
      BitVec.ofNat_toNat, BitVec.setWidth_eq]
  · rw [extractLsb'_putBits_apart _ (by omega), extractLsb'_putBits_apart _ (by omega), extractLsb'_putBits_apart _ (by omega)]

/-! ### What the halter notes (R25) -/

theorem State.mem_arise_watches {w : Watch} {kind core ctx : Nat} (h : w ∈ s.watches) (hk : w.kind ≠ kind) :
    w ∈ (s.arise kind core ctx cz v pc).watches := by
  unfold State.arise
  dsimp only
  split
  · exact h
  · simp [h, hk]

/-- A double trap has a watch of its own. -/
theorem State.arise_double (s : State) (c x : Nat) (cz : BitVec 5) (v pc : Word) :
    ∃ w ∈ (s.arise 3 c x cz v pc).watches, w.kind = 3 ∧ w.core = c ∧ w.ctx = x ∧ w.cause = cz ∧ w.tval = v ∧ w.pc = pc := by
  refine ⟨⟨3, c, x, 15, s.cc, cz, v, pc, (s.ctx c x).retiredU⟩, ?_, rfl, rfl, rfl, rfl, rfl, rfl⟩
  simp [State.arise]

theorem takeTrap_double (hfut : cz ≠ 7 ∨ (s.ctx c x).pl ≠ 0 ∨ (s.ctx c x).fip = true) (hpl : (s.ctx c x).pl ≤ 2)
    (htip : (s.ctx c x).tipAt (levelOf cz (s.ctx c x).pl) = true) :
    ∃ w ∈ (takeTrap s c x cz v pc).watches,
      w.kind = 3 ∧ w.core = c ∧ w.ctx = x ∧ w.cause = cz ∧ w.tval = v ∧ w.pc = pc := by
  have same : ((s.giveBack c x).withdraw c x).ctx c x = s.ctx c x := by simp
  unfold takeTrap
  generalize (s.giveBack c x).withdraw c x = u at same ⊢
  dsimp only
  rw [same, if_neg (show ¬ (cz = Cause.fut ∧ (s.ctx c x).unwait.pl = 0 ∧ (s.ctx c x).unwait.fip = false) from
      not_futAtU hfut),
    show trapLevel cz (s.ctx c x).unwait.pl = levelOf cz (s.ctx c x).pl from trapLevel_eq_levelOf _ _ hpl,
    show (if levelOf cz (s.ctx c x).pl = 1 then (s.ctx c x).unwait.stip else (s.ctx c x).unwait.htip) = true from htip, if_pos rfl]
  obtain ⟨w, hw, hk, rest⟩ := State.arise_double
    ((if cz = Cause.fut then u.count c x 7 1 else u).setCtx c x { (s.ctx c x).unwait with run := .failed }) c x cz v pc
  refine ⟨w, ?_, hk, rest⟩
  split
  · exact State.mem_arise_watches hw (by omega)
  · split
    · exact State.mem_arise_watches hw (by omega)
    · exact hw

end

/-- Settles O20, by the frame of a trap and the context that it leaves. -/
theorem trapsChangeOnlyTheirContext : Obligations.TrapsChangeOnlyTheirContext := by
  unfold Obligations.TrapsChangeOnlyTheirContext
  intro s c x cz v pc
  have frame : CtxFrame s (takeTrap s c x cz v pc) c x := CtxFrame.takeTrap s c x cz v pc
  rw [takeTrap_ctx]
  exact ⟨frame, fun a => by rw [State.byteAt, frame.mem_eq, State.byteAt], Ctx.taken_moves _ cz v pc⟩

/-- Settles O19: the context that a trap leaves is that of its handler, of the future handler, or the stopped one. -/
theorem trapEntrySavesAndGoesToHandler : Obligations.TrapEntrySavesAndGoesToHandler := by
  unfold Obligations.TrapEntrySavesAndGoesToHandler
  refine ⟨fun s c x cz v pc hpl hpc hfut htip => ?_, fun s c x v pc hpl hfip => ?_, fun s c x cz v pc hfut hpl htip => ?_⟩
  · rw [takeTrap_ctx, Ctx.taken_enter hfut hpl htip]
    rcases levelOf_eq cz (s.ctx c x).pl with hl | hl
    · obtain ⟨hp, hs, hh, ho, hk⟩ := Ctx.enter_s_status (s.ctx c x).unwait cz v pc
      rw [hl]
      refine ⟨hp, rfl, rfl, rfl, rfl, rfl, fun _ => ⟨?_, rfl, hs, ho, hh, hk⟩, fun h => absurd h (by decide), ?_⟩
      · rw [Ctx.enter_s, and_alignMask hpc]
        rfl
      · rw [Ctx.enter_s, tvec_base]
        rfl
    · obtain ⟨hp, hh, hs, ho, hk⟩ := Ctx.enter_h_status (s.ctx c x).unwait cz v pc
      rw [hl]
      refine ⟨hp, rfl, rfl, rfl, rfl, rfl, fun h => absurd h (by decide), fun _ => ⟨?_, rfl, hh, ho, hs, hk⟩, ?_⟩
      · rw [Ctx.enter_h, and_alignMask hpc]
        rfl
      · rw [Ctx.enter_h, tvec_base]
        rfl
  · rw [takeTrap_ctx, Ctx.taken_fut hpl hfip]
    refine ⟨rfl, ?_, rfl, ?_, rfl, rfl, rfl⟩
    · simp [Ctx.fip, Ctx.enterFut, Ctx.setFip, getLsbD_putBits]
    · exact (extractLsb'_putBits_apart _ (by omega)).trans hpl
  · rw [takeTrap_ctx, Ctx.taken_double hfut hpl htip]
    exact ⟨rfl, rfl, rfl, rfl, takeTrap_double hfut hpl htip⟩

end Sys2Proof.Machine
end

section
/-!
SUPPORT. What completing, waiting and trapping move of a context, and the words that write one register.
-/
namespace Sys2Proof.Machine
section

variable {s t : State} {c x : Nat} {k : Tk} {i : Instr} {u v w : Ctx} {d : Reg}

/-! ### What counting, waiting and signals move of a context -/

/-- What a word moves of its context beside its result, its pc and its loops: its waiting and its counts. -/
def Ctx.Marks (u v : Ctx) : Prop :=
  v = { u with
    wait := v.wait, waitTk := v.waitTk, bound := v.bound, stall := v.stall, waitAt := v.waitAt, reached := v.reached
    rendez := v.rendez, heldSig := v.heldSig, gotten := v.gotten, popped := v.popped, waived := v.waived
    retired := v.retired, retiredU := v.retiredU }

theorem Ctx.Marks.refl (u : Ctx) : Ctx.Marks u u := rfl

theorem Ctx.Marks.trans (h : Ctx.Marks u v) (g : Ctx.Marks v w) : Ctx.Marks u w := by
  unfold Ctx.Marks at *
  rw [g, h]

theorem Ctx.Moves.trans (h : Ctx.Moves u v) (g : Ctx.Moves v w) : Ctx.Moves u w := by
  unfold Ctx.Moves at *
  rw [g, h]

theorem Ctx.Marks.moves (h : Ctx.Marks u v) : Ctx.Moves u v := by
  unfold Ctx.Marks Ctx.Moves at *
  rw [h]

theorem State.updCore_ctx {f : Core → Core} (h : (f (s.core c)).ctx = (s.core c).ctx) : (s.updCore c f).ctx c x = s.ctx c x := by
  rw [State.ctx, State.core_updCore_self, Core.getCtx, h]
  rfl

theorem State.signal_marks (s : State) (c x f : Nat) : Ctx.Marks (s.ctx c x) ((s.signal c x f).ctx c x) := by
  unfold State.signal
  dsimp only
  split
  · rw [State.updCore_ctx (Core.push_ctx _ f)]
    exact .refl _
  · rw [State.ctx_setCtx_self]
    split <;> exact rfl

theorem State.holdSignals_marks (s : State) (c x : Nat) : Ctx.Marks (s.ctx c x) ((s.holdSignals c x).ctx c x) := by
  unfold State.holdSignals
  dsimp only
  split
  · split
    · rw [State.ctx_setCtx_self]
      exact rfl
    · exact .refl _
  · exact .refl _

theorem State.signals_marks (s : State) (c x : Nat) (fs : List Nat) : Ctx.Marks (s.ctx c x) ((s.signals c x fs).ctx c x) := by
  refine Ctx.Marks.trans ?_ (State.holdSignals_marks _ c x)
  induction fs generalizing s with
  | nil => exact .refl _
  | cons f r ih => exact (State.signal_marks s c x f).trans (ih _)

theorem State.retireAt_marks (s : State) (c x : Nat) (b : Bool) : Ctx.Marks (s.ctx c x) ((s.retireAt c x b).ctx c x) := by
  unfold State.retireAt
  rw [State.count_ctx, State.ctx_updCtx_self]
  exact rfl

theorem State.holdAt_marks (s : State) (c x : Nat) (k : Tk) (w : Wait) (b : Nat) :
    Ctx.Marks (s.ctx c x) ((s.holdAt c x k w b).ctx c x) := by
  unfold State.holdAt
  rw [State.ctx_updCtx_self]
  cases w.ringKey with
  | none => exact rfl
  | some key =>
    dsimp only
    rw [State.updCore_ctx rfl]
    exact rfl

theorem Ctx.advance_moves (t : Ctx) (req : Bool) : Ctx.Moves t (t.advance req) := by
  unfold Ctx.advance
  split
  · unfold Ctx.kernelBoundary
    dsimp only
    split
    · exact rfl
    · split <;> exact rfl
  · exact rfl

theorem finishWord_moves (s : State) (c x : Nat) (k : Tk) : Ctx.Moves (s.ctx c x) ((finishWord s c x k).ctx c x) := by
  unfold finishWord
  refine Ctx.Moves.trans ?_ (State.signals_marks _ c x _).moves
  rw [State.ctx_updCtx_self]
  exact (State.retireAt_marks s c x _).moves.trans (Ctx.advance_moves _ _)

/-! ### A word of level S at U -/

theorem controlAt_priv {lvl : BitVec 2} {body : Nat → Nat → State → Res} (hw : i.wf = true) (hl : s.now.pl < lvl) :
    controlAt lvl i k s body = .next (s.raised Cause.priv (wordVal i)) := by
  have low : (s.ctx s.cur.1 s.cur.2).pl < lvl := hl
  unfold controlAt
  simp only [hw, low, if_true, Bool.true_eq_false, if_false]
  rw [settle_trap (.inl rfl)]
  rfl

/-! ### Words that write one register -/

/-- A word whose body writes `x[d]` and completes, or traps. -/
def RegisterWord (i : Instr) (k : Tk) (d : Reg) (s : State) : Prop :=
  ∃ body, exec i s = control i k s body ∧ ∀ u c x,
    (∃ v, body c x u = .done (u.updCtx c x (fun t => t.wr d v))) ∨ ∃ cz v, body c x u = .trap cz v

theorem registerWord_of_regWord {f : Ctx → Word} (h : exec i s = regWord i k d s f) : RegisterWord i k d s :=
  ⟨_, h, fun _ _ _ => .inl ⟨_, rfl⟩⟩

theorem registerWord_of_intResult {v : Word} {t : Ctx} (h : intResult i t = some (k, d, v)) : RegisterWord i k d s := by
  cases i
  case add | sub | and | or | xor | andn | sll | srl | sra | slt | sltu | min | max | minu | maxu | mul | mulh | mulhu | div |
      divu | rem | remu | clz | ctz | popc | sextb | sexth | sextw | addi | andi | ori | xori | slli | srli | srai | slti | sltiu |
      lim | lis =>
    cases h
    exact registerWord_of_regWord rfl
  all_goals cases h

theorem registerWord_of_fpResult {v : Word} {t : Ctx} (h : fpResult i t = some (k, d, v)) : RegisterWord i k d s := by
  cases i
  case faddD | fsubD | fmulD | fdivD | fminD | fmaxD | feqD | fltD | fleD | fsqrtD | fcvtDL | fcvtLD =>
    cases h
    exact registerWord_of_regWord rfl
  all_goals cases h

theorem registerWord_of_readResult {v : Word} {r : State} (h : readResult i r = some (k, d, v)) : RegisterWord i k d s := by
  cases i
  case cid | rtime | rframe | twid =>
    cases h
    unfold RegisterWord
    dsimp only [exec, execCid, execRtime, execRframe, execTwid]
    exact ⟨_, rfl, fun _ _ _ => .inl ⟨_, rfl⟩⟩
  case prd k d a =>
    cases h
    unfold RegisterWord
    dsimp only [exec, execPrd]
    refine ⟨_, rfl, fun u c x => ?_⟩
    split
    · exact .inr ⟨_, _, rfl⟩
    · exact .inl ⟨_, rfl⟩
  all_goals cases h

/-! ### What such a word leaves -/

/-- What the answer to a control word can be: a trap at the issue, its body's answer, before or after its tokens are popped, or a wait. -/
theorem controlAt_cases {lvl : BitVec 2} {body : Nat → Nat → State → Res} (h : controlAt lvl i k s body = .next t) :
    (∃ cz v, t = settle s s.cur.1 s.cur.2 i k (.trap cz v)) ∨
    (∃ u : State, (u = s ∨ u = s.issued k) ∧ t = settle s s.cur.1 s.cur.2 i k (body s.cur.1 s.cur.2 u)) ∨
    ∃ (u : State) (w : Wait) (b : Nat), Ctx.Marks s.now (u.ctx s.cur.1 s.cur.2) ∧ t = u.holdAt s.cur.1 s.cur.2 k w b := by
  unfold controlAt at h
  dsimp only at h
  split at h
  · cases h
    exact .inl ⟨_, _, rfl⟩
  · split at h
    · cases h
      exact .inl ⟨_, _, rfl⟩
    · split at h
      · cases h
        split
        · exact .inr (.inl ⟨s, .inl rfl, rfl⟩)
        · exact .inr (.inr ⟨s, _, _, .refl _, rfl⟩)
      · split at h
        · split at h
          · cases h
            exact .inr (.inl ⟨s, .inl rfl, rfl⟩)
          · cases h
            refine .inr (.inr ⟨_, _, _, ?_, rfl⟩)
            rw [State.ctx_updCtx_self]
            exact rfl
        · cases h
          exact .inr (.inl ⟨s.issued k, .inr rfl, rfl⟩)

/-- A body that traps makes its word trap. -/
theorem settle_trap_cases (s : State) (c x : Nat) (i : Instr) (k : Tk) (cz : BitVec 5) (v : Word) :
    ∃ cz' v', settle s c x i k (.trap cz v) = takeTrap s c x cz' v' (s.ctx c x).pc := by
  unfold settle
  dsimp only
  cases (isTransfer i && ((s.ctx c x).loopAt (s.ctx c x).pc).isSome)
  · exact ⟨_, _, rfl⟩
  · dsimp only
    by_cases hb : Cause.beforeNest cz = true
    · exact ⟨_, _, if_pos hb⟩
    · exact ⟨_, _, if_neg hb⟩

/-- A body that completes makes its word complete, or raise NEST (R83). -/
theorem settle_done_cases (s t : State) (c x : Nat) (i : Instr) (k : Tk) :
    settle s c x i k (.done t) = finishWord t c x k ∨ ∃ cz v, settle s c x i k (.done t) = takeTrap s c x cz v (s.ctx c x).pc := by
  unfold settle
  dsimp only
  cases (isTransfer i && ((s.ctx c x).loopAt (s.ctx c x).pc).isSome)
  · exact .inl rfl
  · exact .inr ⟨_, _, rfl⟩

/-- Of a context, only `x[d]` and what completing moves have changed, or what a trap moves and no register. -/
def Ctx.WritesOnly (u v : Ctx) (d : Reg) : Prop :=
  (∀ r, r ≠ d → v.rd r = u.rd r) ∧ (Ctx.Moves { u with x := v.x } v ∨ (v.x = u.x ∧ Ctx.Trapped u v))

theorem Ctx.rd_congr (h : v.x = u.x) (r : Reg) : v.rd r = u.rd r := by rw [Ctx.rd, Ctx.rd, h]

theorem Ctx.Moves.x_eq (h : Ctx.Moves u v) : v.x = u.x := by
  unfold Ctx.Moves at h
  rw [h]

theorem Ctx.Trapped.writesOnly (hx : v.x = u.x) (h : Ctx.Trapped u v) : Ctx.WritesOnly u v d := ⟨fun r _ => Ctx.rd_congr hx r, .inr ⟨hx, h⟩⟩

theorem Ctx.Moves.writesOnly_wr {val : Word} (h : Ctx.Moves (u.wr d val) v) : Ctx.WritesOnly u v d := by
  refine ⟨fun r hr => (Ctx.rd_congr h.x_eq r).trans (Ctx.rd_wr_ne u val hr), .inl ?_⟩
  have wr : { u with x := v.x } = u.wr d val := by
    rw [h.x_eq]
    unfold Ctx.wr
    split <;> rfl
  rw [wr]
  exact h

theorem Ctx.Moves.writesOnly (h : Ctx.Moves u v) : Ctx.WritesOnly u v d := by
  have : Ctx.Moves (u.wr 0 0) v := h
  exact ⟨fun r _ => Ctx.rd_congr h.x_eq r, this.writesOnly_wr.2⟩

theorem takeTrap_writesOnly (s : State) (c x : Nat) (cz : BitVec 5) (v pc : Word) :
    Ctx.WritesOnly (s.ctx c x) ((takeTrap s c x cz v pc).ctx c x) d := by
  rw [takeTrap_ctx]
  obtain ⟨hx, ht⟩ := Ctx.taken_moves (s.ctx c x) cz v pc
  exact ht.writesOnly hx

/-- Whatever the step of such a word does, it changes its own context alone, and of it `x[d]` and what completing or a trap moves. -/
theorem RegisterWord.frame (hr : RegisterWord i k d s) (h : exec i s = .next t) :
    CtxFrame s t s.cur.1 s.cur.2 ∧ Ctx.WritesOnly s.now t.now d := by
  obtain ⟨body, he, hb⟩ := hr
  rw [he] at h
  have frame : CtxFrame s t s.cur.1 s.cur.2 := by
    refine controlAt_frame (fun u => ?_) h
    rcases hb u s.cur.1 s.cur.2 with ⟨v, hv⟩ | ⟨cz, v, hv⟩
    · rw [hv]
      exact CtxFrame.updCtx u _ _ _
    · rw [hv]
      trivial
  refine ⟨frame, ?_⟩
  show Ctx.WritesOnly (s.ctx s.cur.1 s.cur.2) (t.ctx t.cur.1 t.cur.2) d
  rw [frame.cur_eq]
  have trapped (cz : BitVec 5) (v : Word) :
      Ctx.WritesOnly (s.ctx s.cur.1 s.cur.2) ((settle s s.cur.1 s.cur.2 i k (.trap cz v)).ctx s.cur.1 s.cur.2) d := by
    obtain ⟨cz', v', ht⟩ := settle_trap_cases s s.cur.1 s.cur.2 i k cz v
    rw [ht]
    exact takeTrap_writesOnly ..
  rcases controlAt_cases h with ⟨cz, v, rfl⟩ | ⟨u, hu, rfl⟩ | ⟨u, w, b, hu, rfl⟩
  · exact trapped cz v
  · have same : u.ctx s.cur.1 s.cur.2 = s.ctx s.cur.1 s.cur.2 := by
      rcases hu with rfl | rfl
      · rfl
      · exact issued_ctx s k _ _
    rcases hb u s.cur.1 s.cur.2 with ⟨v, hv⟩ | ⟨cz, v, hv⟩
    · rw [hv]
      rcases settle_done_cases s (u.updCtx s.cur.1 s.cur.2 (fun t => t.wr d v)) s.cur.1 s.cur.2 i k with ht | ⟨cz, v, ht⟩
      · have moves := finishWord_moves (u.updCtx s.cur.1 s.cur.2 (fun t => t.wr d v)) s.cur.1 s.cur.2 k
        rw [State.ctx_updCtx_self, same] at moves
        rw [ht]
        exact moves.writesOnly_wr
      · rw [ht]
        exact takeTrap_writesOnly ..
    · rw [hv]
      exact trapped cz v
  · exact (hu.trans (State.holdAt_marks u _ _ k w b)).moves.writesOnly

end

/-- Settles O17: the level is checked at issue, before the word's tokens. -/
theorem privilegeTraps : Obligations.PrivilegeTraps := by
  unfold Obligations.PrivilegeTraps
  intro s i k hi hw hl
  have low : s.now.pl < 1 := by
    rw [hl]
    decide
  cases i
  case trap | eret | halt | cstart | cstop =>
    dsimp only [exec, execTrap, execEret, execHalt, execCstart, execCstop]
    exact controlAt_priv hw low
  all_goals cases hi

/-- Settles O11. -/
theorem registerWordFrame : Obligations.RegisterWordFrame := by
  unfold Obligations.RegisterWordFrame
  intro s t i k d v hi h
  have word : RegisterWord i k d s := by
    rcases hi with hi | hi | hi
    · exact registerWord_of_intResult hi
    · exact registerWord_of_fpResult hi
    · exact registerWord_of_readResult hi
  obtain ⟨frame, regs, rest⟩ := word.frame h
  exact ⟨frame, fun a => by rw [State.byteAt, frame.mem_eq, State.byteAt], regs, rest⟩

end Sys2Proof.Machine
end

section
/-!
SUPPORT. Returns from a trap, `halt`, and the traps of scalar accesses.
-/
namespace Sys2Proof.Machine
section

variable {s t : State} {c x : Nat} {k : Tk} {i : Instr} {u v w : Ctx} {a : Word} {req : Bool}

@[simp] theorem State.signals_cur (s : State) (c x : Nat) (fs : List Nat) : (s.signals c x fs).cur = s.cur :=
  (CtxFrame.signals s c x fs).cur_eq

@[simp] theorem State.retireAt_cur (s : State) (c x : Nat) (b : Bool) : (s.retireAt c x b).cur = s.cur :=
  (CtxFrame.retireAt s c x b).cur_eq

/-! ### Where a return leads (R24, R82) -/

/-- The registers, the banks and the status stay. -/
def Ctx.SameRegs (u v : Ctx) : Prop := v.x = u.x ∧ v.sBank = u.sBank ∧ v.hBank = u.hBank ∧ v.status = u.status

theorem Ctx.SameRegs.trans (h : Ctx.SameRegs u v) (g : Ctx.SameRegs v w) : Ctx.SameRegs u w := by
  obtain ⟨hx, hs, hh, ht⟩ := h
  obtain ⟨gx, gs, gh, gt⟩ := g
  exact ⟨gx.trans hx, gs.trans hs, gh.trans hh, gt.trans ht⟩

theorem Ctx.Marks.sameRegs (h : Ctx.Marks u v) : Ctx.SameRegs u v ∧ v.pc = u.pc := by
  unfold Ctx.Marks at h
  rw [h]
  exact ⟨⟨rfl, rfl, rfl, rfl⟩, rfl⟩

theorem Ctx.rehold_sameRegs (t : Ctx) : Ctx.SameRegs t t.rehold ∧ t.rehold.pc = t.pc := by
  unfold Ctx.rehold
  generalize (if t.pl = 2 then t.htip else t.stip) = tip
  cases tip with
  | true => exact ⟨⟨rfl, rfl, rfl, rfl⟩, rfl⟩
  | false =>
    cases t.heldSig with
    | cons f r => exact ⟨⟨rfl, rfl, rfl, rfl⟩, rfl⟩
    | nil =>
      unfold Ctx.reachEnd
      dsimp only
      repeat' split
      all_goals exact ⟨⟨rfl, rfl, rfl, rfl⟩, rfl⟩

theorem Ctx.returnTo_sameRegs (t : Ctx) (a : Word) (req : Bool) : Ctx.SameRegs t (t.returnTo a req) := by
  unfold Ctx.returnTo
  split
  · unfold Ctx.kernelBoundary
    dsimp only
    split
    · exact ⟨rfl, rfl, rfl, rfl⟩
    · split <;> exact ⟨rfl, rfl, rfl, rfl⟩
  · exact ⟨rfl, rfl, rfl, rfl⟩

/-- A return goes to its address, unless an active loop of the level ends just before it (R82). -/
theorem Ctx.returnTo_pc
    (h : ∀ n, n < 4 → (u.loopCtr n).act = true → (u.loopCtr n).pl = u.pl → (u.loopCtr n).last ≠ a - 4) :
    (u.returnTo a req).pc = a := by
  have noLoop : u.loopAt (a - 4) = none := by
    unfold Ctx.loopAt
    rw [List.find?_eq_none]
    intro n hn
    have := h n (List.mem_range.mp hn)
    simp_all
  rw [Ctx.returnTo, noLoop]

theorem Ctx.trapReturn_s (h : u.pl = 1) :
    u.trapReturn = ({ u with status := putBits (putBits u.status 0 2 (bits u.status.toNat 2 2)) 6 1 0 }, u.sBank.epc) := if_pos h

theorem Ctx.trapReturn_h (h : u.pl = 2) :
    u.trapReturn = ({ u with status := putBits (putBits u.status 0 2 (bits u.status.toNat 4 2)) 7 1 0 }, u.hBank.epc) :=
  if_neg (by rw [h]; decide)

theorem Ctx.trapReturn_banks (u : Ctx) :
    u.trapReturn.1.x = u.x ∧ u.trapReturn.1.sBank = u.sBank ∧ u.trapReturn.1.hBank = u.hBank ∧ u.trapReturn.1.lc = u.lc := by
  unfold Ctx.trapReturn
  split <;> exact ⟨rfl, rfl, rfl, rfl⟩

theorem ofNat_bits {n : Nat} (b : BitVec n) (lo len : Nat) : BitVec.ofNat len (bits b.toNat lo len) = b.extractLsb' lo len := by
  refine BitVec.eq_of_toNat_eq ?_
  simp [bits, Nat.shiftRight_eq_div_pow]

/-- The level that a return restores. -/
theorem pl_restored (st : BitVec 12) {lo tip : Nat} (h : 2 ≤ tip) :
    (putBits (putBits st 0 2 (bits st.toNat lo 2)) tip 1 0).extractLsb' 0 2 = st.extractLsb' lo 2 := by
  rw [extractLsb'_putBits_apart _ (by omega), extractLsb'_putBits_self _ _ _ _ (by omega), ofNat_bits]

/-- The TIP bit that a return clears. -/
theorem tip_cleared (st : BitVec 12) (lo : Nat) {tip : Nat} (h : tip < 12) :
    (putBits (putBits st 0 2 (bits st.toNat lo 2)) tip 1 0).getLsbD tip = false := by
  rw [getLsbD_putBits, if_pos (by omega), Nat.zero_testBit]

/-- The TIP bit of the other bank. -/
theorem tip_kept (st : BitVec 12) (lo : Nat) {tip other : Nat} (h : 2 ≤ other) (hne : other ≠ tip) :
    (putBits (putBits st 0 2 (bits st.toNat lo 2)) tip 1 0).getLsbD other = st.getLsbD other := by
  rw [getLsbD_putBits_apart _ (by omega), getLsbD_putBits_apart _ (by omega)]

/-- The context that `eret` leaves, with `req` the pre-emption request. -/
def Ctx.ereted (t : Ctx) (req : Bool) : Ctx := (t.trapReturn.1.returnTo t.trapReturn.2 req).rehold

theorem Ctx.ereted_banks (t : Ctx) (req : Bool) :
    (t.ereted req).x = t.x ∧ (t.ereted req).sBank = t.sBank ∧ (t.ereted req).hBank = t.hBank ∧
    (t.ereted req).status = t.trapReturn.1.status := by
  obtain ⟨hx, hs, hh, ht⟩ := (Ctx.returnTo_sameRegs t.trapReturn.1 t.trapReturn.2 req).trans (Ctx.rehold_sameRegs _).1
  obtain ⟨rx, rs, rh, -⟩ := t.trapReturn_banks
  exact ⟨hx.trans rx, hs.trans rs, hh.trans rh, ht⟩

/-- A return goes to the saved pc, unless an active loop of the restored level ends just before it (R82). -/
theorem Ctx.ereted_pc
    (h : ∀ n, n < 4 → (u.loopCtr n).act = true → (u.loopCtr n).pl = (u.ereted req).pl → (u.loopCtr n).last ≠ u.trapReturn.2 - 4) :
    (u.ereted req).pc = u.trapReturn.2 := by
  have level : (u.ereted req).pl = u.trapReturn.1.pl := congrArg (BitVec.extractLsb' 0 2) (u.ereted_banks req).2.2.2
  have loops (n : Nat) : u.trapReturn.1.loopCtr n = u.loopCtr n := by
    rw [Ctx.loopCtr, Ctx.loopCtr, u.trapReturn_banks.2.2.2]
  refine (Ctx.rehold_sameRegs _).2.trans (Ctx.returnTo_pc fun n hn => ?_)
  rw [loops, ← level]
  exact h n hn

/-- `eret` that issues leaves the context of its return, under the marks of a counted word; one that is no head trap's handler (R109). -/
theorem execEret_returns (h : Issues 1 (.eret k) k s) (hhold : (s.core s.cur.1).holdFor ≠ some s.cur.2) :
    ∃ t req, exec (.eret k) s = .next t ∧ Ctx.Marks (s.now.ereted req) t.now := by
  dsimp only [exec, execEret]
  rw [controlAt_issues h, issued_ctx, if_neg (show ¬ (((s.issued k).setCtx s.cur.1 s.cur.2 _).core s.cur.1).holdFor = some s.cur.2 by
      rw [State.core_setCtx_self, Core.setCtx_holdFor, issued_holdFor]; exact hhold), settle_stay h.noNest]
  refine ⟨_, ((s.issued k).setCtx s.cur.1 s.cur.2 s.now.trapReturn.1).preReq s.cur.1, rfl, ?_⟩
  unfold State.now
  rw [State.signals_cur, State.retireAt_cur, State.updCtx_cur, State.setCtx_cur, issued_cur]
  refine Ctx.Marks.trans (.trans ?_ (State.retireAt_marks _ s.cur.1 s.cur.2 _)) (State.signals_marks _ s.cur.1 s.cur.2 _)
  rw [State.ctx_updCtx_self, State.ctx_setCtx_self]
  exact .refl _

/-- `halt` with no store pending, no signal held and a place for each of its own stops the context after the word (R99). -/
theorem execHalt_stops (h : Issues 1 (.halt k) k s) (hsig : s.now.heldSig = []) (hst : s.now.stores = [])
    (hroom : ∀ f ∈ signalFifos k s.cur.2, ((s.issued k).core s.cur.1).fifoRoom f = true) :
    exec (.halt k) s =
      .next (((s.issued k).setNow { s.now with run := .stopped, pc := s.now.pc + 4 }).stayed k (s.now.pl = 0)) := by
  have drained : (s.issued k).drainStores s.cur.1 s.cur.2 = s.issued k := by
    rw [State.drainStores, issued_ctx, show (s.ctx s.cur.1 s.cur.2).stores = [] from hst]
    rfl
  have room : ((s.issued k).core s.cur.1).lacksRoom (signalFifos k s.cur.2) = false := by
    simp only [Core.lacksRoom, List.any_eq_false]
    intro f hf
    simp [hroom f hf]
  dsimp only [exec, execHalt]
  rw [controlAt_issues h, drained, issued_ctx, show (s.ctx s.cur.1 s.cur.2).heldSig = [] from hsig]
  dsimp only
  rw [settle_stay h.noNest, room, State.stayed, State.setNow, State.setCtx_cur, issued_cur, State.updCtx, issued_ctx]
  rfl

/-! ### The traps of scalar accesses (R14, R28, R29) -/

theorem loadBody_misal {d : Reg} {ea : Word} {n : Nat} {sg : Bool} (h : ea.toNat % n ≠ 0) :
    loadBody d ea n sg c x s = .trap Cause.misal ea := by
  simp [loadBody, aligned, h]

theorem loadBody_bad {d : Reg} {ea : Word} {n : Nat} {sg : Bool} {cz : BitVec 5} (h : ea.toNat % n = 0)
    (ht : s.translate c ea .read ((s.ctx c x).pl = 0) = .bad cz) : loadBody d ea n sg c x s = .trap cz ea := by
  unfold loadBody
  dsimp only
  rw [if_neg (by simp [aligned, h]), ht]

theorem storeBody_misal {val ea : Word} {n : Nat} (h : ea.toNat % n ≠ 0) : storeBody k val ea n c x s = .trap Cause.misal ea := by
  simp [storeBody, aligned, h]

theorem storeBody_bad {val ea : Word} {n : Nat} {cz : BitVec 5} (h : ea.toNat % n = 0)
    (ht : s.translate c ea .write ((s.ctx c x).pl = 0) = .bad cz) : storeBody k val ea n c x s = .trap cz ea := by
  unfold storeBody
  dsimp only
  rw [if_neg (by simp [aligned, h]), ht]

theorem offsetAddr_eq (t : Ctx) (r : Reg) (o : BitVec 8) (n : Nat) : offsetAddr t r o n = t.rd r + BitVec.ofNat 64 n * o.signExtend 64 := by
  rw [offsetAddr, BitVec.mul_comm, wnat, sx]

theorem offsetAddr_one (t : Ctx) (r : Reg) (o : BitVec 8) : offsetAddr t r o 1 = t.rd r + o.signExtend 64 := by
  rw [offsetAddr_eq, BitVec.one_mul]

/-- A load that issues settles as the body of a load at its address (R90, R92). -/
theorem exec_loadOf {d : Reg} {ea : Word} {n : Nat} {sg : Bool} (hl : loadOf i s.now = some (k, d, ea, n, sg)) (h : Issues 0 i k s) :
    exec i s = .next (settle s s.cur.1 s.cur.2 i k (loadBody d ea n sg s.cur.1 s.cur.2 (s.issued k))) := by
  cases i
  case lb | lbu =>
    cases hl
    dsimp only [exec, execLb, execLbu, loadWord, control]
    rw [controlAt_issues h, issued_ctx, offsetAddr_one, State.now]
  case lh | lw | ld | lhu | lwu =>
    cases hl
    dsimp only [exec, execLh, execLw, execLd, execLhu, execLwu, loadWord, control]
    rw [controlAt_issues h, issued_ctx, offsetAddr_eq]
    rfl
  case ldx =>
    cases hl
    dsimp only [exec, execLdx, control]
    rw [controlAt_issues h, issued_ctx]
    rfl
  all_goals cases hl

/-- A store that issues settles as the body of a store of its value at its address (R91, R92). -/
theorem exec_storeOf {val ea : Word} {n : Nat} (hl : storeOf i s.now = some (k, val, ea, n)) (h : Issues 0 i k s) :
    exec i s = .next (settle s s.cur.1 s.cur.2 i k (storeBody k val ea n s.cur.1 s.cur.2 (s.issued k))) := by
  cases i
  case sb =>
    cases hl
    dsimp only [exec, execSb, storeWord, control]
    rw [controlAt_issues h, issued_ctx, offsetAddr_one, State.now]
  case sh | sw | sd =>
    cases hl
    dsimp only [exec, execSh, execSw, execSd, storeWord, control]
    rw [controlAt_issues h, issued_ctx, offsetAddr_eq]
    rfl
  case stx =>
    cases hl
    dsimp only [exec, execStx, control]
    rw [controlAt_issues h, issued_ctx]
    rfl
  all_goals cases hl

/-! ### What translation reads (R249 to R252, R379) -/

/-- What the translation for a core reads is the same in both states. -/
structure SameSpace (s t : State) (c : Nat) : Prop where
  mem    : t.mem = s.mem
  poison : t.poison = s.poison
  pdks   : t.pdks = s.pdks
  pkg    : t.pkg = s.pkg
  funcs  : t.funcs = s.funcs
  sheds  : t.sheds = s.sheds
  task   : (t.core c).task = (s.core c).task
  tlb    : (t.core c).tlb = (s.core c).tlb

theorem CtxFrame.sameSpace (h : CtxFrame s t c x) : SameSpace s t c where
  mem := by rw [h.rest]
  poison := by rw [h.rest]
  pdks := by rw [h.rest]
  pkg := by rw [h.rest]
  funcs := by rw [h.rest]
  sheds := by rw [h.rest]
  task := by rw [h.unit]
  tlb := by rw [h.unit]

section
variable (h : SameSpace s t c)
include h

theorem SameSpace.homeRead (pa n : Nat) : t.homeRead pa n = s.homeRead pa n :=
  State.homeRead_congr s fun _ _ => by rw [State.byteAt, State.byteAt, h.mem]

theorem SameSpace.wordPoison (pa : Nat) : t.wordPoison pa = s.wordPoison pa := by rw [State.wordPoison, State.wordPoison, h.poison]

theorem SameSpace.pdk (b : Nat) : t.pdk b = s.pdk b := by rw [State.pdk, State.pdk, h.pdks]

theorem SameSpace.rootOf (vf : Nat) : t.rootOf vf = s.rootOf vf := by rw [State.rootOf, State.rootOf, State.func, State.func, h.funcs]

theorem SameSpace.walk (lvl tbl va : Nat) : t.walk lvl tbl va = s.walk lvl tbl va := by
  induction lvl generalizing tbl with
  | zero => simp only [State.walk, h.homeRead, h.wordPoison]
  | succ m ih => simp only [State.walk, h.homeRead, h.wordPoison, ih]

theorem SameSpace.walkPoison (lvl tbl va : Nat) : t.walkPoison lvl tbl va = s.walkPoison lvl tbl va := by
  induction lvl generalizing tbl with
  | zero => simp only [State.walkPoison, h.homeRead, h.wordPoison]
  | succ m ih => simp only [State.walkPoison, h.homeRead, h.wordPoison, ih]

theorem SameSpace.walkCause (tbl va : Nat) : t.walkCause tbl va = s.walkCause tbl va := by
  rw [State.walkCause, State.walkCause, h.walkPoison]

theorem SameSpace.coreBlk : t.coreBlk c = s.coreBlk c := by
  simp only [State.coreBlk, State.blkOf, h.task, h.pdk]

theorem SameSpace.coreVf : t.coreVf c = s.coreVf c := by rw [State.coreVf, State.coreVf, h.task]

theorem SameSpace.leafOf (vf va : Nat) : t.leafOf c vf va = s.leafOf c vf va := by
  simp only [State.leafOf, h.tlb, h.sheds, h.walk, h.rootOf]

theorem SameSpace.ownTaker (b : Nat) : t.ownTaker b = s.ownTaker b := by
  simp only [State.ownTaker, h.pdk, h.pkg]

theorem SameSpace.domainPlace (fuel blk off : Nat) (n : Need) (atU : Bool) :
    t.domainPlace fuel blk off n atU = s.domainPlace fuel blk off n atU := by
  induction fuel generalizing blk off with
  | zero => rfl
  | succ f ih => simp only [State.domainPlace, h.pdk, h.walk, h.walkCause, h.pkg, h.ownTaker, ih]

theorem SameSpace.domainTr (pkg off : Nat) (n : Need) (atU : Bool) : t.domainTr c pkg off n atU = s.domainTr c pkg off n atU := by
  rw [State.domainTr, State.domainTr, h.pkg, h.coreBlk, h.ownTaker, h.domainPlace]

theorem SameSpace.translate (va : Word) (n : Need) (atU : Bool) : t.translate c va n atU = s.translate c va n atU := by
  simp only [State.translate, h.domainTr, h.leafOf, h.coreVf, h.walkCause, h.rootOf, h.pdk, h.coreBlk]

end

theorem issued_sameSpace (s : State) (k : Tk) : SameSpace s (s.issued k) s.cur.1 :=
  (CtxFrame.popAll s _ s.cur.2 _ _).sameSpace

/-- A reset lists no core, so that every context is as a reset leaves it. -/
theorem State.reset_ctx (c x : Nat) : State.reset.ctx c x = Ctx.reset := rfl

/-- A load or a store that issues, whose body raises a trap, raises it. -/
theorem raised_of_trap {body : Res} {cz : BitVec 5} {val : Word} (he : exec i s = .next (settle s s.cur.1 s.cur.2 i k body))
    (h : Issues 0 i k s) (hb : body = .trap cz val) : exec i s = .next (s.raised cz val) := by
  rw [he, hb, settle_trap (.inr h.noNest)]
  rfl

end

/-- Settles O22: of the context that a return leaves, counting the word and its signals move neither registers, banks, status nor pc. -/
theorem eretRestoresAndHaltStops : Obligations.EretRestoresAndHaltStops := by
  unfold Obligations.EretRestoresAndHaltStops
  refine ⟨fun s k h hhold _ => ?_, fun s k h hsig hst hroom => execHalt_stops h hsig hst hroom⟩
  obtain ⟨t, req, ht, marks⟩ := execEret_returns h hhold
  obtain ⟨⟨hx, hs, hh, hst⟩, hpc⟩ := marks.sameRegs
  obtain ⟨ex, es, eh, est⟩ := s.now.ereted_banks req
  have status : t.now.status = s.now.trapReturn.1.status := hst.trans est
  have level : t.now.pl = (s.now.ereted req).pl := congrArg (BitVec.extractLsb' 0 2) hst
  have back (hloops : ∀ n, n < 4 → (s.now.loopCtr n).act = true → (s.now.loopCtr n).pl = t.now.pl →
      (s.now.loopCtr n).last ≠ s.now.trapReturn.2 - 4) : t.now.pc = s.now.trapReturn.2 := by
    rw [hpc]
    refine Ctx.ereted_pc fun n hn => ?_
    rw [← level]
    exact hloops n hn
  refine ⟨t, ht, hx.trans ex, hs.trans es, hh.trans eh, fun hl => ?_, fun hl => ?_⟩
  · rw [Ctx.trapReturn_s hl] at status back
    refine ⟨?_, ?_, ?_, back⟩
    · rw [Ctx.pl, status, pl_restored _ (by decide)]
    · rw [Ctx.stip, status, tip_cleared _ _ (by decide)]
    · rw [Ctx.htip, Ctx.htip, status, tip_kept _ _ (by decide) (by decide)]
  · rw [Ctx.trapReturn_h hl] at status back
    refine ⟨?_, ?_, ?_, back⟩
    · rw [Ctx.pl, status, pl_restored _ (by decide)]
    · rw [Ctx.htip, status, tip_cleared _ _ (by decide)]
    · rw [Ctx.stip, Ctx.stip, status, tip_kept _ _ (by decide) (by decide)]

/-- Settles O29: the tokens that the word popped are nothing that its translation reads. -/
theorem accessTraps : Obligations.AccessTraps := by
  unfold Obligations.AccessTraps
  intro s i k ea w n h hi
  have level : ((s.issued k).ctx s.cur.1 s.cur.2).pl = s.now.pl := by rw [issued_ctx, State.now]
  have space (cz : BitVec 5) (n : Need) (ht : s.translate s.cur.1 ea n (s.now.pl = 0) = .bad cz) :
      (s.issued k).translate s.cur.1 ea n (((s.issued k).ctx s.cur.1 s.cur.2).pl = 0) = .bad cz := by
    rw [level, (issued_sameSpace s k).translate]
    exact ht
  rcases hi with ⟨d, sg, hl, rfl⟩ | ⟨val, hl, rfl⟩
  · exact ⟨fun hmis => raised_of_trap (exec_loadOf hl h) h (loadBody_misal hmis),
      fun cz hal ht => raised_of_trap (exec_loadOf hl h) h (loadBody_bad hal (space cz .read ht))⟩
  · exact ⟨fun hmis => raised_of_trap (exec_storeOf hl h) h (storeBody_misal hmis),
      fun cz hal ht => raised_of_trap (exec_storeOf hl h) h (storeBody_bad hal (space cz .write ht))⟩

/-- Settles O6. -/
theorem resetLeavesItsValues : Obligations.ResetLeavesItsValues := by
  unfold Obligations.ResetLeavesItsValues
  refine ⟨fun c x => ?_, Memory.reset_wf⟩
  rw [State.reset_ctx]
  have loops (n : Nat) : (Ctx.reset.loopCtr n).act = false := rfl
  have tokens (f : Nat) : (State.reset.core c).fifoCount f = 0 := rfl
  exact ⟨rfl, rfl, rfl, rfl, rfl, rfl, rfl, by decide, rfl, rfl, rfl, loops, tokens, rfl, rfl⟩

end Sys2Proof.Machine
end

section
/-!
SUPPORT. What a fetch of a line that no copy holds reads: evictions for its place leave the line, and its fill brings the home's bytes.
-/
namespace Sys2Proof.Machine
section

variable {s t u : State} {c x ln m : Nat}

/-! ### A line of a home as a number -/

theorem State.homeRead_lt (s : State) (a n : Nat) : s.homeRead a n < 256 ^ n := by
  induction n generalizing a with
  | zero => exact Nat.one_pos
  | succ m ih =>
    have first := (s.byteAt a).isLt
    have rest := ih (a + 1)
    rw [State.homeRead, Nat.pow_succ]
    omega

theorem State.homeRead_add (s : State) (a m n : Nat) : s.homeRead a (m + n) = s.homeRead a m + 256 ^ m * s.homeRead (a + m) n := by
  induction m generalizing a with
  | zero => simp [State.homeRead]
  | succ m ih =>
    rw [Nat.add_right_comm, State.homeRead, State.homeRead, ih, show a + 1 + m = a + (m + 1) by omega]
    ring

/-- Bytes of a line of the home are the bytes of memory there. -/
theorem State.bits_homeLine (s : State) {pa n : Nat} (h : pa % 128 + n ≤ 128) :
    bits (s.homeLine (pa / 128)).toNat (8 * (pa % 128)) (8 * n) = s.homeRead pa n := by
  have pow (k : Nat) : 2 ^ (8 * k) = 256 ^ k := Nat.pow_mul 2 8 k
  have number : (s.homeLine (pa / 128)).toNat = s.homeRead (128 * (pa / 128)) 128 := by
    rw [State.homeLine, BitVec.toNat_ofNat, show 1024 = 8 * 128 from rfl, pow, Nat.mod_eq_of_lt (s.homeRead_lt _ _)]
  obtain ⟨r, hr⟩ := Nat.exists_eq_add_of_le h
  have split : s.homeRead (128 * (pa / 128)) 128 =
      s.homeRead (128 * (pa / 128)) (pa % 128) + 256 ^ (pa % 128) * (s.homeRead pa n + 256 ^ n * s.homeRead (pa + n) r) := by
    rw [show s.homeRead (128 * (pa / 128)) 128 = s.homeRead (128 * (pa / 128)) (pa % 128 + n + r) by rw [← hr], Nat.add_assoc,
      State.homeRead_add, State.homeRead_add, Nat.div_add_mod]
  rw [number, split, bits, pow, pow, Nat.add_mul_div_left _ _ (Nat.pow_pos (by decide)), Nat.div_eq_of_lt (s.homeRead_lt _ _), Nat.zero_add,
    Nat.add_mul_mod_self_left, Nat.mod_eq_of_lt (s.homeRead_lt _ _)]

/-! ### What is left of a line -/

/-- The home's data of line `ln`, its pen line in core `c` and the pending stores of context `x` stay. -/
structure HomeKept (s t : State) (c x ln : Nat) : Prop where
  bytes  : ∀ a, a / 128 = ln → t.byteAt a = s.byteAt a
  poison : ∀ a, a / 128 = ln → t.wordPoison a = s.wordPoison a
  pen    : Map.get none (t.core c).pen ln = Map.get none (s.core c).pen ln
  stores : (t.ctx c x).stores = (s.ctx c x).stores

/-- The core's copy of the line stays too. -/
structure LineKept (s t : State) (c x ln : Nat) : Prop extends HomeKept s t c x ln where
  line   : (t.core c).line ln = (s.core c).line ln

theorem HomeKept.trans (h : HomeKept s t c x ln) (g : HomeKept t u c x ln) : HomeKept s u c x ln where
  bytes a ha := (g.bytes a ha).trans (h.bytes a ha)
  poison a ha := (g.poison a ha).trans (h.poison a ha)
  pen := g.pen.trans h.pen
  stores := g.stores.trans h.stores

theorem LineKept.refl (s : State) (c x ln : Nat) : LineKept s s c x ln := ⟨⟨fun _ _ => rfl, fun _ _ => rfl, rfl, rfl⟩, rfl⟩

theorem LineKept.trans (h : LineKept s t c x ln) (g : LineKept t u c x ln) : LineKept s u c x ln :=
  ⟨h.toHomeKept.trans g.toHomeKept, g.line.trans h.line⟩

theorem HomeKept.homeLine (h : HomeKept s t c x ln) : t.homeLine ln = s.homeLine ln := by
  rw [State.homeLine, State.homeLine, State.homeRead_congr s fun i hi => h.bytes _ (by omega)]

theorem HomeKept.linePoison (h : HomeKept s t c x ln) : t.linePoison ln = s.linePoison ln := by
  refine List.foldl_ext _ _ _ fun m j hj => ?_
  rw [h.poison _ (by have := List.mem_range.mp hj; omega)]

theorem HomeKept.updCore {f : Core → Core} (hp : Map.get none (f (s.core c)).pen ln = Map.get none (s.core c).pen ln)
    (hc : (f (s.core c)).ctx = (s.core c).ctx) : HomeKept s (s.updCore c f) c x ln where
  bytes _ _ := rfl
  poison _ _ := rfl
  pen := by rw [State.core_updCore_self, hp]
  stores := by rw [State.updCore_ctx hc]

theorem LineKept.updCore {f : Core → Core} (hl : (f (s.core c)).line ln = (s.core c).line ln)
    (hp : Map.get none (f (s.core c)).pen ln = Map.get none (s.core c).pen ln) (hc : (f (s.core c)).ctx = (s.core c).ctx) :
    LineKept s (s.updCore c f) c x ln :=
  ⟨.updCore hp hc, by rw [State.core_updCore_self, hl]⟩

@[simp] theorem Core.line_setLine_self (k : Core) (ln : Nat) (l : Option L1Line) : (k.setLine ln l).line ln = l := Map.get_set_self ..

theorem Core.line_setLine_ne (k : Core) (l : Option L1Line) (h : ln ≠ m) : (k.setLine m l).line ln = k.line ln := Map.get_set_ne _ _ _ h

/-! ### Evictions of other lines -/

theorem setByte_lineKept {a : Nat} {b : Byte} (h : a / 128 ≠ ln) : LineKept s (s.setByte a b) c x ln := by
  refine ⟨⟨fun e he => ?_, fun _ _ => rfl, rfl, rfl⟩, rfl⟩
  exact Map.get_set_ne _ _ _ fun hea => h (hea ▸ he)

theorem homeWrite_lineKept {a n v : Nat} (h : ∀ j, j < n → (a + j) / 128 ≠ ln) : LineKept s (s.homeWrite a n v) c x ln := by
  induction n generalizing s a v with
  | zero => exact .refl ..
  | succ r ih =>
    refine (setByte_lineKept (h 0 (by omega))).trans (ih fun j hj => ?_)
    rw [Nat.add_right_comm, Nat.add_assoc]
    exact h (j + 1) (by omega)

theorem homeWords_lineKept {l : Line} {mask : BitVec 32} (h : ln ≠ m) : LineKept s (s.homeWords m l mask) c x ln := by
  refine List.foldlRecOn (motive := fun t => LineKept s t c x ln) _ _ (.refl ..) fun t ht j hj => ht.trans ?_
  have := List.mem_range.mp hj
  split
  · exact homeWrite_lineKept fun i hi => by omega
  · exact .refl ..

theorem setPoison_lineKept {mask : BitVec 32} {b : Bool} (h : ln ≠ m) : LineKept s (s.setPoison m mask b) c x ln := by
  unfold State.setPoison
  split
  · exact .refl ..
  refine ⟨⟨fun _ _ => rfl, fun a ha => ?_, rfl, rfl⟩, rfl⟩
  refine List.foldlRecOn (motive := fun p => Map.get false p (a / 4) = s.wordPoison a) _ _ rfl fun p hp j hj => ?_
  have := List.mem_range.mp hj
  split
  · rw [Map.get_set_ne _ _ _ (by omega), hp]
  · exact hp

theorem forcedPkt_lineKept {a : Nat} {p : PtPkt} : LineKept s (s.forcedPkt c a p) c x ln := ⟨⟨fun _ _ => rfl, fun _ _ => rfl, rfl, rfl⟩, rfl⟩

/-- The write-back of another line leaves the line. -/
theorem writeBackLine_lineKept (h : ln ≠ m) : LineKept s (s.writeBackLine c m) c x ln := by
  unfold State.writeBackLine
  split
  · exact .refl ..
  split
  · exact .refl ..
  refine (((homeWords_lineKept h).trans (setPoison_lineKept h)).trans forcedPkt_lineKept).trans (.updCore ?_ rfl rfl)
  dsimp only [Core.line, Core.setLine]
  exact Map.get_set_ne _ _ _ h

theorem evictLine_lineKept (h : ln ≠ m) : LineKept s (s.evictLine c m) c x ln :=
  (writeBackLine_lineKept h).trans (.updCore (Core.line_setLine_ne _ _ h) rfl rfl)

/-- An eviction of a block leaves a line of which the L1 holds no copy. -/
theorem evictBlk_lineKept {b : Nat} (hn : (s.core c).line ln = none) : LineKept s (s.evictBlk c b) c x ln := by
  refine .trans ?_ (.updCore rfl rfl rfl)
  refine List.foldlRecOn (motive := fun t => LineKept s t c x ln) _ _ (.refl ..) fun t ht m _ => ht.trans ?_
  split
  next l hl =>
    split
    · refine evictLine_lineKept fun hm => ?_
      rw [← hm, ht.line, hn] at hl
      cases hl
    · exact .refl ..
  next => exact .refl ..

theorem clearWay_lineKept {b w : Nat} (hn : (s.core c).line ln = none) : LineKept s (s.clearWay c b w) c x ln := by
  refine List.foldlRecOn (motive := fun t => LineKept s t c x ln) _ _ (.refl ..) fun t ht m _ => ht.trans ?_
  split
  · split
    · exact .refl ..
    · exact evictBlk_lineKept (ht.line.trans hn)
  · exact .refl ..

theorem makeRoom_lineKept {b : Nat} (hn : (s.core c).line ln = none) : LineKept s (s.makeRoom c b).1 c x ln := by
  unfold State.makeRoom
  split
  · exact .refl ..
  · exact .trans (t := { s with free := s.free + 1 }) ⟨⟨fun _ _ => rfl, fun _ _ => rfl, rfl, rfl⟩, rfl⟩ (clearWay_lineKept hn)

/-! ### The fill of a line -/

theorem blkLines_singleBlk (ln : Nat) : blkLines (singleBlk ln) = [ln] := by
  have len : (128 * ln + 1) % 128 = 1 := by omega
  have first : (128 * ln + 1) / 128 = ln := by omega
  simp [blkLines, singleBlk, blkLen, blkFirst, len, first]

theorem touch_singleBlk (k : Core) (ln : Nat) : k.touch (singleBlk ln) = k := by
  refine if_pos ?_
  rw [blkLen, singleBlk]
  omega

/-- A line that gets its place has every word invalid (R240). -/
theorem allocLine_fresh (cls : BitVec 2) (hn : (s.core c).line ln = none) :
    HomeKept s (s.allocLine c ln cls) c x ln ∧
    ∃ w, ((s.allocLine c ln cls).core c).line ln = some { cls := cls, blk := singleBlk ln, way := w } := by
  have kept : LineKept s (s.makeRoom c (singleBlk ln)).1 c x ln := makeRoom_lineKept hn
  rw [State.allocLine, hn]
  dsimp only
  rw [State.allocBlk]
  dsimp only
  rw [blkLines_singleBlk]
  refine ⟨kept.toHomeKept.trans (.updCore rfl rfl), (s.makeRoom c (singleBlk ln)).2, ?_⟩
  rw [State.core_updCore_self, List.foldl_cons, List.foldl_nil, Core.line_setLine_self, kept.line, hn]

theorem lineMask_zero : lineMask 0 = 0 := by simp [lineMask]

theorem mergeWords_zero (old new : Line) : mergeWords old new 0 = old := by
  rw [mergeWords, lineMask_zero]
  show (old &&& ~~~ 0#1024) ||| (new &&& 0#1024) = old
  rw [BitVec.not_zero, BitVec.and_allOnes, BitVec.and_zero, BitVec.or_zero]

theorem mergeWords_self (l : Line) (mask : BitVec 32) : mergeWords l l mask = l := by
  refine BitVec.eq_of_getLsbD_eq fun i hi => ?_
  rw [mergeWords, BitVec.getLsbD_or, BitVec.getLsbD_and, BitVec.getLsbD_and, BitVec.getLsbD_not]
  cases (lineMask mask).getLsbD i <;> simp [hi]

/-- A line all of whose words are valid gives its own bytes and poison. -/
theorem viewLine_valid {k : Core} {l : L1Line} (hl : k.line ln = some l) (hv : l.valid = 0xffffffff) (hd : l.data = s.homeLine ln)
    (hp : l.poison = s.linePoison ln) : k.viewLine s ln = (s.homeLine ln, s.linePoison ln) := by
  have all : (0xffffffff : BitVec 32) = BitVec.allOnes 32 := rfl
  rw [Core.viewLine, hl]
  dsimp only
  rw [hd, hp, hv, mergeWords_self, all, BitVec.and_allOnes, BitVec.not_allOnes, BitVec.and_zero, BitVec.or_zero]

theorem setHcLine_lineKept {h : HcLine} : LineKept s (s.setHcLine m h) c x ln := by
  unfold State.setHcLine
  split
  · exact ⟨⟨fun _ _ => rfl, fun _ _ => rfl, rfl, rfl⟩, rfl⟩
  · dsimp only
    split
    · exact ⟨⟨fun _ _ => rfl, fun _ _ => rfl, rfl, rfl⟩, rfl⟩
    · split <;> exact ⟨⟨fun _ _ => rfl, fun _ _ => rfl, rfl, rfl⟩, rfl⟩

/-- A line that is filled from the home gives the home's bytes and poison. -/
theorem setLine_view {l : L1Line} (h : HomeKept s t c x ln) (hv : l.valid = 0xffffffff) (hd : l.data = s.homeLine ln)
    (hp : l.poison = s.linePoison ln) :
    HomeKept s (t.updCore c (fun k => k.setLine ln (some l))) c x ln ∧
    ((t.updCore c (fun k => k.setLine ln (some l))).core c).viewLine (t.updCore c (fun k => k.setLine ln (some l))) ln =
      (s.homeLine ln, s.linePoison ln) := by
  have kept : HomeKept s (t.updCore c (fun k => k.setLine ln (some l))) c x ln := h.trans (.updCore rfl rfl)
  refine ⟨kept, ?_⟩
  rw [← kept.homeLine] at hd ⊢
  rw [← kept.linePoison] at hp ⊢
  refine viewLine_valid ?_ hv hd hp
  rw [State.core_updCore_self, Core.line_setLine_self]

/-- After the fill of a line of which the L1 held no copy, the core sees the home's bytes (R240, R247). -/
theorem fillLine_view (cls : BitVec 2) (pts : Word) (hn : (s.core c).line ln = none) :
    HomeKept s (s.fillLine c ln cls pts).1 c x ln ∧
    ((s.fillLine c ln cls pts).1.core c).viewLine (s.fillLine c ln cls pts).1 ln = (s.homeLine ln, s.linePoison ln) := by
  obtain ⟨kept, w, hw⟩ := allocLine_fresh (x := x) cls hn
  rw [State.fillLine, hw]
  dsimp only
  split
  · have lease : LineKept (s.allocLine c ln cls) ((s.allocLine c ln cls).hcFetch ln pts).1 c x ln :=
      setHcLine_lineKept.trans ⟨⟨fun _ _ => rfl, fun _ _ => rfl, rfl, rfl⟩, rfl⟩
    exact setLine_view (kept.trans lease.toHomeKept) rfl kept.homeLine kept.linePoison
  · refine setLine_view kept rfl ?_ ?_
    · rw [mergeWords_zero, kept.homeLine]
    · rw [kept.linePoison]
      show (0#32 &&& 0#32) ||| (s.linePoison ln &&& ~~~ 0#32) = s.linePoison ln
      rw [BitVec.and_zero, BitVec.zero_or, BitVec.not_zero, BitVec.and_allOnes]

theorem LineKept.viewLine (h : LineKept s t c x ln) : (t.core c).viewLine t ln = (s.core c).viewLine s ln := by
  rw [Core.viewLine, Core.viewLine, h.line, h.homeLine, h.linePoison]

theorem updPts_lineKept {pts : Word} : LineKept s (s.updCtx c x (fun t => { t with pts := pts })) c x ln := by
  refine ⟨⟨fun _ _ => rfl, fun _ _ => rfl, ?_, ?_⟩, ?_⟩
  · rw [State.updCtx, State.core_setCtx_self, Core.setCtx_pen]
  · rw [State.ctx_updCtx_self]
  · rw [State.updCtx, State.core_setCtx_self, Core.line, Core.setCtx_l1, Core.line]

theorem fillBlk_view (cls : BitVec 2) (hn : (s.core c).line ln = none) :
    HomeKept s (s.fillBlk c x ln cls) c x ln ∧
    ((s.fillBlk c x ln cls).core c).viewLine (s.fillBlk c x ln cls) ln = (s.homeLine ln, s.linePoison ln) := by
  rw [State.fillBlk, hn]
  dsimp only
  rw [blkLines_singleBlk, List.foldl_cons, List.foldl_nil]
  have touched : LineKept s (s.updCore c (fun k => k.touch (singleBlk ln))) c x ln := by
    refine .updCore ?_ ?_ ?_ <;> rw [touch_singleBlk]
  obtain ⟨kept, view⟩ := fillLine_view (x := x) cls ((s.updCore c (fun k => k.touch (singleBlk ln))).ctx c x).pts (touched.line.trans hn)
  refine ⟨(touched.toHomeKept.trans kept).trans updPts_lineKept.toHomeKept, ?_⟩
  rw [(updPts_lineKept (x := x)).viewLine, view, touched.homeLine, touched.linePoison]

theorem forget_absent {k : Core} (hn : k.line ln = none) : k.forget ln = k := by rw [Core.forget, hn]

/-! ### The word that a miss reads (R16, R17) -/

/-- Where no pen and no pending store gives a byte of a line without poison, a context reads the line that the core sees. -/
theorem readView_of_line {pa n : Nat} {copies : Bool} {l : Line}
    (hv : (if copies = true then (s.core c).viewLine s (pa / 128) else (s.homeLine (pa / 128), s.linePoison (pa / 128))) = (l, 0))
    (hp : Map.get none (s.core c).pen (pa / 128) = none) (hs : (s.ctx c x).stores = []) :
    s.readView c x pa n copies = (bits l.toNat (8 * (pa % 128)) (8 * n), false) := by
  unfold State.readView
  dsimp only
  rw [hv, hs, Core.overlayPen, hp]
  simp [overlayStores]

/-- An instruction-cache miss of a line of which nothing nearer holds a copy reads its word at the home. -/
theorem codeFill_reads {pa : Nat} (cls : BitVec 2) (ms : Bool) (va : Word) (hl : (s.core c).line (pa / 128) = none)
    (hp : Map.get none (s.core c).pen (pa / 128) = none) (hs : (s.ctx c x).stores = []) (ha : pa % 4 = 0)
    (hpoi : s.linePoison (pa / 128) = 0) : ∃ t, s.codeFill c x pa cls ms va = (t, s.homeRead pa 4, false) := by
  have word := s.bits_homeLine (pa := pa) (n := 4) (by omega)
  unfold State.codeFill
  dsimp only
  by_cases hc : ms = true ∨ cls = 3
  · have home : (! ms && decide (cls ≠ 3)) = false := by
      rcases hc with h | h <;> simp [h]
    rw [if_pos hc, if_pos (by tauto), home, readView_of_line (l := s.homeLine (pa / 128)) (by rw [hpoi]; rfl) hp hs, word]
    exact ⟨_, rfl⟩
  · have copies : (! ms && decide (cls ≠ 3)) = true := by
      obtain ⟨hm, h3⟩ := not_or.mp hc
      rw [Bool.not_eq_true] at hm
      rw [hm, decide_eq_true h3]
      rfl
    have forgot : LineKept s (s.updCore c (fun k => k.forget (pa / 128))) c x (pa / 128) := by
      refine .updCore ?_ ?_ ?_ <;> rw [forget_absent hl]
    have sent : LineKept s ((s.updCore c (fun k => k.forget (pa / 128))).homePkt c x pa { kind := 4, rlen := 128, addr := va }) c x (pa / 128) :=
      forgot.trans ⟨⟨fun _ _ => rfl, fun _ _ => rfl, rfl, rfl⟩, rfl⟩
    obtain ⟨kept, view⟩ := fillBlk_view (x := x) cls (sent.line.trans hl)
    have miss : (s.updCore c (fun k => k.forget (pa / 128))).l1Hit c x (pa / 128) (wordMask pa 4) = false := by
      rw [State.l1Hit, forgot.line, hl]
    rw [if_neg hc, miss, if_neg (by simpa using hc), copies,
      readView_of_line (l := s.homeLine (pa / 128)) (by rw [if_pos rfl, view, sent.homeLine, sent.linePoison, hpoi])
        (kept.pen.trans (sent.pen.trans hp)) (kept.stores.trans (sent.stores.trans hs)), word]
    exact ⟨_, rfl⟩

end

/-- Settles O4: a miss fills the line from its home, and what is evicted for its place writes other lines back. -/
theorem fetchReadsMemory : Obligations.FetchReadsMemory := by
  unfold Obligations.FetchReadsMemory
  intro s c x pc pa cls ms ht hi hl hp hs ha hpoi
  obtain ⟨t, hf⟩ := codeFill_reads cls ms pc hl hp hs ha hpoi
  refine ⟨t.keepCode c (pa / 4) (BitVec.ofNat 32 (s.homeRead pa 4)), ?_⟩
  rw [State.fetchCode]
  dsimp only
  rw [ht]
  dsimp only
  rw [hi, hf]
  rfl

end Sys2Proof.Machine
end

section
/-!
SUPPORT. The decoder against the encoder (R36, R38, R46).
-/
namespace Sys2Proof.Machine

/-- Settles O2, by the round trip of each word; an event is no word. -/
theorem decodeEncode : Obligations.DecodeEncode := by
  unfold Obligations.DecodeEncode
  intro i
  cases i with
  | add k d a b => exact Laws.RoundTrip.add k d a b
  | sub k d a b => exact Laws.RoundTrip.sub k d a b
  | and k d a b => exact Laws.RoundTrip.and k d a b
  | or k d a b => exact Laws.RoundTrip.or k d a b
  | xor k d a b => exact Laws.RoundTrip.xor k d a b
  | andn k d a b => exact Laws.RoundTrip.andn k d a b
  | sll k d a b => exact Laws.RoundTrip.sll k d a b
  | srl k d a b => exact Laws.RoundTrip.srl k d a b
  | sra k d a b => exact Laws.RoundTrip.sra k d a b
  | slt k d a b => exact Laws.RoundTrip.slt k d a b
  | sltu k d a b => exact Laws.RoundTrip.sltu k d a b
  | min k d a b => exact Laws.RoundTrip.min k d a b
  | max k d a b => exact Laws.RoundTrip.max k d a b
  | minu k d a b => exact Laws.RoundTrip.minu k d a b
  | maxu k d a b => exact Laws.RoundTrip.maxu k d a b
  | mul k d a b => exact Laws.RoundTrip.mul k d a b
  | mulh k d a b => exact Laws.RoundTrip.mulh k d a b
  | mulhu k d a b => exact Laws.RoundTrip.mulhu k d a b
  | div k d a b => exact Laws.RoundTrip.div k d a b
  | divu k d a b => exact Laws.RoundTrip.divu k d a b
  | rem k d a b => exact Laws.RoundTrip.rem k d a b
  | remu k d a b => exact Laws.RoundTrip.remu k d a b
  | clz k d a => exact Laws.RoundTrip.clz k d a
  | ctz k d a => exact Laws.RoundTrip.ctz k d a
  | popc k d a => exact Laws.RoundTrip.popc k d a
  | sextb k d a => exact Laws.RoundTrip.sextb k d a
  | sexth k d a => exact Laws.RoundTrip.sexth k d a
  | sextw k d a => exact Laws.RoundTrip.sextw k d a
  | addi k d a i => exact Laws.RoundTrip.addi k d a i
  | andi k d a i => exact Laws.RoundTrip.andi k d a i
  | ori k d a i => exact Laws.RoundTrip.ori k d a i
  | xori k d a i => exact Laws.RoundTrip.xori k d a i
  | slli k d a i => exact Laws.RoundTrip.slli k d a i
  | srli k d a i => exact Laws.RoundTrip.srli k d a i
  | srai k d a i => exact Laws.RoundTrip.srai k d a i
  | slti k d a i => exact Laws.RoundTrip.slti k d a i
  | sltiu k d a i => exact Laws.RoundTrip.sltiu k d a i
  | lim k d i => exact Laws.RoundTrip.lim k d i
  | lis k d i => exact Laws.RoundTrip.lis k d i
  | beq k a b o => exact Laws.RoundTrip.beq k a b o
  | bne k a b o => exact Laws.RoundTrip.bne k a b o
  | blt k a b o => exact Laws.RoundTrip.blt k a b o
  | bge k a b o => exact Laws.RoundTrip.bge k a b o
  | bltu k a b o => exact Laws.RoundTrip.bltu k a b o
  | bgeu k a b o => exact Laws.RoundTrip.bgeu k a b o
  | bbusy k o => exact Laws.RoundTrip.bbusy k o
  | bfree k o => exact Laws.RoundTrip.bfree k o
  | bpt k p i => exact Laws.RoundTrip.bpt k p i
  | bpf k p i => exact Laws.RoundTrip.bpf k p i
  | jal k d i => exact Laws.RoundTrip.jal k d i
  | jalr k d a i => exact Laws.RoundTrip.jalr k d a i
  | lpset k d a i => exact Laws.RoundTrip.lpset k d a i
  | lpresEntry k d a => exact Laws.RoundTrip.lpresEntry k d a
  | lpresExit k a => exact Laws.RoundTrip.lpresExit k a
  | bkt k d a => exact Laws.RoundTrip.bkt k d a
  | cstart k d a => exact Laws.RoundTrip.cstart k d a
  | cstop k d => exact Laws.RoundTrip.cstop k d
  | cyield k i => exact Laws.RoundTrip.cyield k i
  | cid k d => exact Laws.RoundTrip.cid k d
  | cwait k d w => exact Laws.RoundTrip.cwait k d w
  | faddD k d a b => exact Laws.RoundTrip.faddD k d a b
  | fsubD k d a b => exact Laws.RoundTrip.fsubD k d a b
  | fmulD k d a b => exact Laws.RoundTrip.fmulD k d a b
  | fdivD k d a b => exact Laws.RoundTrip.fdivD k d a b
  | fminD k d a b => exact Laws.RoundTrip.fminD k d a b
  | fmaxD k d a b => exact Laws.RoundTrip.fmaxD k d a b
  | fsqrtD k d a => exact Laws.RoundTrip.fsqrtD k d a
  | fcvtDL k d a => exact Laws.RoundTrip.fcvtDL k d a
  | fcvtLD k d a => exact Laws.RoundTrip.fcvtLD k d a
  | feqD k d a b => exact Laws.RoundTrip.feqD k d a b
  | fltD k d a b => exact Laws.RoundTrip.fltD k d a b
  | fleD k d a b => exact Laws.RoundTrip.fleD k d a b
  | lb k d a i => exact Laws.RoundTrip.lb k d a i
  | lh k d a i => exact Laws.RoundTrip.lh k d a i
  | lw k d a i => exact Laws.RoundTrip.lw k d a i
  | ld k d a i => exact Laws.RoundTrip.ld k d a i
  | lbu k d a i => exact Laws.RoundTrip.lbu k d a i
  | lhu k d a i => exact Laws.RoundTrip.lhu k d a i
  | lwu k d a i => exact Laws.RoundTrip.lwu k d a i
  | sb k d a i => exact Laws.RoundTrip.sb k d a i
  | sh k d a i => exact Laws.RoundTrip.sh k d a i
  | sw k d a i => exact Laws.RoundTrip.sw k d a i
  | sd k d a i => exact Laws.RoundTrip.sd k d a i
  | ldx k d a b => exact Laws.RoundTrip.ldx k d a b
  | stx k d a b => exact Laws.RoundTrip.stx k d a b
  | amoadd k d a b z => exact Laws.RoundTrip.amoadd k d a b z
  | amoand k d a b z => exact Laws.RoundTrip.amoand k d a b z
  | amoor k d a b z => exact Laws.RoundTrip.amoor k d a b z
  | amoxor k d a b z => exact Laws.RoundTrip.amoxor k d a b z
  | amomin k d a b z => exact Laws.RoundTrip.amomin k d a b z
  | amomax k d a b z => exact Laws.RoundTrip.amomax k d a b z
  | amominu k d a b z => exact Laws.RoundTrip.amominu k d a b z
  | amomaxu k d a b z => exact Laws.RoundTrip.amomaxu k d a b z
  | amoswap k d a b z => exact Laws.RoundTrip.amoswap k d a b z
  | amocas k d a b z => exact Laws.RoundTrip.amocas k d a b z
  | amofadd k d a b z => exact Laws.RoundTrip.amofadd k d a b z
  | lblk k d a i => exact Laws.RoundTrip.lblk k d a i
  | wblk k d a => exact Laws.RoundTrip.wblk k d a
  | eblk k d a => exact Laws.RoundTrip.eblk k d a
  | dblk k a => exact Laws.RoundTrip.dblk k a
  | fence k s => exact Laws.RoundTrip.fence k s
  | acq k s => exact Laws.RoundTrip.acq k s
  | rel k s => exact Laws.RoundTrip.rel k s
  | invi k s => exact Laws.RoundTrip.invi k s
  | smap k d a b => exact Laws.RoundTrip.smap k d a b
  | sunmap k d => exact Laws.RoundTrip.sunmap k d
  | sflush k d => exact Laws.RoundTrip.sflush k d
  | sstat k d a => exact Laws.RoundTrip.sstat k d a
  | aage k d => exact Laws.RoundTrip.aage k d
  | aheld k d a => exact Laws.RoundTrip.aheld k d a
  | airrev k => exact Laws.RoundTrip.airrev k
  | csrr k d c => exact Laws.RoundTrip.csrr k d c
  | csrw k d a c => exact Laws.RoundTrip.csrw k d a c
  | csrs k d a c => exact Laws.RoundTrip.csrs k d a c
  | csrc k d a c => exact Laws.RoundTrip.csrc k d a c
  | sys k i => exact Laws.RoundTrip.sys k i
  | trap k a i => exact Laws.RoundTrip.trap k a i
  | eret k => exact Laws.RoundTrip.eret k
  | brk k i => exact Laws.RoundTrip.brk k i
  | halt k => exact Laws.RoundTrip.halt k
  | fret k => exact Laws.RoundTrip.fret k
  | tend k => exact Laws.RoundTrip.tend k
  | tlnc k d a i => exact Laws.RoundTrip.tlnc k d a i
  | twid k d i => exact Laws.RoundTrip.twid k d i
  | wtime k a w => exact Laws.RoundTrip.wtime k a w
  | rtime k d => exact Laws.RoundTrip.rtime k d
  | rframe k d => exact Laws.RoundTrip.rframe k d
  | wframe k a w => exact Laws.RoundTrip.wframe k a w
  | slk k i => exact Laws.RoundTrip.slk k i
  | vadd k d a b e => exact Laws.RoundTrip.vadd k d a b e
  | vsub k d a b e => exact Laws.RoundTrip.vsub k d a b e
  | vmul k d a b e => exact Laws.RoundTrip.vmul k d a b e
  | vfma k d a b e => exact Laws.RoundTrip.vfma k d a b e
  | vmax k d a b e => exact Laws.RoundTrip.vmax k d a b e
  | vmin k d a b e => exact Laws.RoundTrip.vmin k d a b e
  | vabs k d a e => exact Laws.RoundTrip.vabs k d a e
  | vneg k d a e => exact Laws.RoundTrip.vneg k d a e
  | vand k d a b => exact Laws.RoundTrip.vand k d a b
  | vor k d a b => exact Laws.RoundTrip.vor k d a b
  | vxor k d a b => exact Laws.RoundTrip.vxor k d a b
  | vsll k d a b => exact Laws.RoundTrip.vsll k d a b
  | vsra k d a b => exact Laws.RoundTrip.vsra k d a b
  | vsrl k d a b => exact Laws.RoundTrip.vsrl k d a b
  | vcmplt k d a b e => exact Laws.RoundTrip.vcmplt k d a b e
  | vcmpeq k d a b e => exact Laws.RoundTrip.vcmpeq k d a b e
  | vexp2 k d a => exact Laws.RoundTrip.vexp2 k d a
  | vlog2 k d a => exact Laws.RoundTrip.vlog2 k d a
  | vrcp k d a => exact Laws.RoundTrip.vrcp k d a
  | vrsqrt k d a => exact Laws.RoundTrip.vrsqrt k d a
  | vcvt k d a b m => exact Laws.RoundTrip.vcvt k d a b m
  | vbmax k d a b => exact Laws.RoundTrip.vbmax k d a b
  | vq k d a b m => exact Laws.RoundTrip.vq k d a b m
  | vdq k d a b m => exact Laws.RoundTrip.vdq k d a b m
  | vredmax k d a e g => exact Laws.RoundTrip.vredmax k d a e g
  | vredsum k d a e g => exact Laws.RoundTrip.vredsum k d a e g
  | vredmin k d a e g => exact Laws.RoundTrip.vredmin k d a e g
  | vbcast k d a b => exact Laws.RoundTrip.vbcast k d a b
  | vperm k d a b => exact Laws.RoundTrip.vperm k d a b
  | vld k d a => exact Laws.RoundTrip.vld k d a
  | vst k d a => exact Laws.RoundTrip.vst k d a
  | vlds k d a b => exact Laws.RoundTrip.vlds k d a b
  | vsts k d a b => exact Laws.RoundTrip.vsts k d a b
  | vldx k d a b => exact Laws.RoundTrip.vldx k d a b
  | vstx k d a b => exact Laws.RoundTrip.vstx k d a b
  | vldb k a => exact Laws.RoundTrip.vldb k a
  | vpushc k a b => exact Laws.RoundTrip.vpushc k a b
  | vpopc k d b => exact Laws.RoundTrip.vpopc k d b
  | vbal k d a => exact Laws.RoundTrip.vbal k d a
  | vsoftk k d a b => exact Laws.RoundTrip.vsoftk k d a b
  | vhist k d a b => exact Laws.RoundTrip.vhist k d a b
  | vmov k d a => exact Laws.RoundTrip.vmov k d a
  | vsplat k d a => exact Laws.RoundTrip.vsplat k d a
  | vlane k d a b => exact Laws.RoundTrip.vlane k d a b
  | vsel k d a b => exact Laws.RoundTrip.vsel k d a b
  | vmset k d a b => exact Laws.RoundTrip.vmset k d a b
  | vidx k d => exact Laws.RoundTrip.vidx k d
  | mxcfg k a => exact Laws.RoundTrip.mxcfg k a
  | mxfmt k d a => exact Laws.RoundTrip.mxfmt k d a
  | mxgo k d a => exact Laws.RoundTrip.mxgo k d a
  | mxzero k d => exact Laws.RoundTrip.mxzero k d
  | mxstat k d c => exact Laws.RoundTrip.mxstat k d c
  | mxmm k d a b => exact Laws.RoundTrip.mxmm k d a b
  | mxbin k d a b => exact Laws.RoundTrip.mxbin k d a b
  | mxrank k d a b => exact Laws.RoundTrip.mxrank k d a b
  | mxsp k d a b => exact Laws.RoundTrip.mxsp k d a b
  | mxst k d a b => exact Laws.RoundTrip.mxst k d a b
  | mxld k d a b => exact Laws.RoundTrip.mxld k d a b
  | mxtov k d a b => exact Laws.RoundTrip.mxtov k d a b
  | mxfromv k d a b => exact Laws.RoundTrip.mxfromv k d a b
  | enote k d => exact Laws.RoundTrip.enote k d
  | eqf y m => exact Laws.RoundTrip.eqf y m
  | egrd d g => exact Laws.RoundTrip.egrd d g
  | cpin k s p a b => exact Laws.RoundTrip.cpin k s p a b
  | cpout k s p a b => exact Laws.RoundTrip.cpout k s p a b
  | cpss k s p a b => exact Laws.RoundTrip.cpss k s p a b
  | cpred k s p a b => exact Laws.RoundTrip.cpred k s p a b
  | cpoq k s p a b => exact Laws.RoundTrip.cpoq k s p a b
  | xput k s r p a b => exact Laws.RoundTrip.xput k s r p a b
  | xget k s r p a b => exact Laws.RoundTrip.xget k s r p a b
  | xmc k s r p a b => exact Laws.RoundTrip.xmc k s r p a b
  | xcmb k s r p a b => exact Laws.RoundTrip.xcmb k s r p a b
  | xamo k s r p a b => exact Laws.RoundTrip.xamo k s r p a b
  | xlnc k s r p a b => exact Laws.RoundTrip.xlnc k s r p a b
  | sfsort k s r p a b => exact Laws.RoundTrip.sfsort k s r p a b
  | sftopk k s r p a b => exact Laws.RoundTrip.sftopk k s r p a b
  | lftopRed k s r p a b => exact Laws.RoundTrip.lftopRed k s r p a b
  | lftopHist k s r p a b => exact Laws.RoundTrip.lftopHist k s r p a b
  | tksnd k a => exact Laws.RoundTrip.tksnd k a
  | tkrcv k a w => exact Laws.RoundTrip.tkrcv k a w
  | tktry k d a => exact Laws.RoundTrip.tktry k d a
  | rgclaim k d a w => exact Laws.RoundTrip.rgclaim k d a w
  | rgfill k a => exact Laws.RoundTrip.rgfill k a
  | rgwait k d a w => exact Laws.RoundTrip.rgwait k d a w
  | rgfree k a => exact Laws.RoundTrip.rgfree k a
  | rgstat k d a => exact Laws.RoundTrip.rgstat k d a
  | rgstatSet k d a => exact Laws.RoundTrip.rgstatSet k d a
  | rgstatSave k d a => exact Laws.RoundTrip.rgstatSave k d a
  | pwr k d a => exact Laws.RoundTrip.pwr k d a
  | prd k d a => exact Laws.RoundTrip.prd k d a
  | pclr k d => exact Laws.RoundTrip.pclr k d
  | pwait k d w => exact Laws.RoundTrip.pwait k d w
  | barinit k a i => exact Laws.RoundTrip.barinit k a i
  | bararr k d i => exact Laws.RoundTrip.bararr k d i
  | barwait k a w => exact Laws.RoundTrip.barwait k a w
  | admrt k d a b => exact Laws.RoundTrip.admrt k d a b
  | admctr k d a => exact Laws.RoundTrip.admctr k d a
  | admtk k d a b => exact Laws.RoundTrip.admtk k d a b
  | _ => exact nofun

/-- Settles O1: each word is the encoding of its instruction, and no instruction has major 0. -/
theorem decodeWords : Obligations.DecodeWords := by
  unfold Obligations.DecodeWords
  exact ⟨decodeEncode (.sub Tk.none 7 5 6) rfl rfl, decodeEncode (.lpset Tk.none 0 11 3) rfl rfl,
    decodeEncode (.sd ⟨false, false, false, true, false⟩ 5 1 0) rfl rfl, decodeEncode (.csrr Tk.none 5 0x18) rfl rfl,
    decodeEncode (.amocas Tk.none 5 6 7 0) rfl rfl, decodeEncode (.vadd ⟨false, false, false, true, false⟩ 1 2 3 0) rfl rfl,
    decodeEncode (.mxmm Tk.none 0 0 11) rfl rfl, decodeEncode (.pwait Tk.none 4 0x80) rfl rfl, rfl⟩

end Sys2Proof.Machine
end

section
/-!
SUPPORT. How a control word ends that issues and runs at every level, by its body's answer.
-/
namespace Sys2Proof.Machine
section

variable {s t : State} {k : Tk} {i : Instr}

/-- A word whose body raises a trap raises it. -/
theorem control_raised {body : Nat → Nat → State → Res} {cz : BitVec 5} {v : Word} (h : Issues 0 i k s)
    (hb : body s.cur.1 s.cur.2 (s.issued k) = .trap cz v) : control i k s body = .next (s.raised cz v) := by
  rw [control, controlAt_issues h, hb, settle_trap (.inr h.noNest)]
  rfl

/-- A word whose body completes, completes. -/
theorem control_completes {body : Nat → Nat → State → Res} (h : Issues 0 i k s)
    (hb : body s.cur.1 s.cur.2 (s.issued k) = .done t) : control i k s body = .next (finishWord t s.cur.1 s.cur.2 k) :=
  control_done h hb

theorem control_finished {body : Nat → Nat → State → Res} (h : Issues 0 i k s)
    (hb : body s.cur.1 s.cur.2 (s.issued k) = .done t) (ht : t.cur = s.cur) : control i k s body = .next (t.finished k) := by
  rw [control_completes h hb, State.finished, ht]

end
end Sys2Proof.Machine
end

section
/-!
SUPPORT. The traps of scalar words: fields out of range (R49), empty slots (R71, R114) and the loop words (R83).
-/
namespace Sys2Proof.Machine
section

variable {s t : State} {c x : Nat} {k : Tk} {i : Instr}

/-! ### Fields out of range -/

/-- The ranges of a word's fields are checked before its level and its tokens (R49). -/
theorem controlAt_ill {lvl : BitVec 2} {body : Nat → Nat → State → Res} (hw : i.wf = false) :
    controlAt lvl i k s body = .next (s.raised Cause.ill (wordVal i)) := by
  unfold controlAt
  simp only [hw, if_true]
  rw [settle_trap (.inl rfl)]
  rfl

theorem control_ill {body : Nat → Nat → State → Res} (hw : i.wf = false) :
    control i k s body = .next (s.raised Cause.ill (wordVal i)) := controlAt_ill hw

theorem orderWord_ill {sc : BitVec 3} {f : Nat → Nat → Nat → State → Res} (hw : i.wf = false) :
    orderWord i k sc s f = .next (s.raised Cause.ill (wordVal i)) := control_ill hw

theorem vecWord_ill (hw : i.wf = false) : vecWord i k s = .next (s.raised Cause.ill (wordVal i)) := control_ill hw

theorem matWord_ill (hw : i.wf = false) : matWord i k s = .next (s.raised Cause.ill (wordVal i)) := control_ill hw

/-- The guard of `egrd` is checked before the next word is fetched (R45). -/
theorem execEgrd_ill {d : Reg} {g : BitVec 1} (hw : (Instr.egrd d g).wf = false) :
    execEgrd d g s = .next (s.raised Cause.ill (wordVal (.egrd d g))) := if_pos hw

/-- A word with a field out of range raises ILL; the ranges of every other word always hold. -/
theorem exec_ill (hw : i.wf = false) : exec i s = .next (s.raised Cause.ill (wordVal i)) := by
  cases i
  all_goals dsimp only [exec]
  case egrd => exact execEgrd_ill hw
  case trap | cstart | cstop => exact controlAt_ill hw
  case fence | acq | rel | invi => exact orderWord_ill hw
  case vadd | vsub | vmul | vfma | vmax | vmin | vabs | vneg | vcmplt | vcmpeq | vcvt | vbmax | vq | vdq | vredmax | vredsum
      | vredmin | vpushc | vpopc | vbal | vsoftk | vhist | vsel | vlane | vmset =>
    exact vecWord_ill hw
  case mxfmt | mxgo | mxstat | mxzero | mxmm | mxbin | mxsp | mxrank | mxst | mxld | mxtov | mxfromv => exact matWord_ill hw
  case lpset | lpresEntry | lpresExit | cwait | lblk | wblk | eblk | smap | sunmap | sflush | sstat | tlnc | twid | slk | enote
      | eqf | tkrcv | tktry | rgclaim | rgfill | rgwait | rgfree | rgstat | rgstatSet | rgstatSave | pwr | pclr | pwait | prd
      | admtk =>
    exact control_ill hw
  all_goals cases hw

/-! ### Empty slots -/

/-- The tokens that a word pops are nothing of its core's slots. -/
@[simp] theorem issued_slotFull (s : State) (k : Tk) (n : Nat) :
    ((s.issued k).core s.cur.1).slotFull n = (s.core s.cur.1).slotFull n := by
  have frame : CtxFrame s (s.issued k) s.cur.1 s.cur.2 := CtxFrame.popAll s _ _ _ _
  rw [Core.slotFull, frame.unit, Core.slotFull]

theorem branchSlot_fut {p : BitVec 4} {o : BitVec 16} {pol : Bool} (h : Issues 0 i k s)
    (he : (s.core s.cur.1).slotFull p.toNat = false) :
    branchSlot i k p o s pol = .next (s.raised Cause.fut (wordVal i)) :=
  control_raised h (if_pos ((issued_slotFull s k _).trans he))

theorem execPrd_fut {d a : Reg} (h : Issues 0 (.prd k d a) k s) (he : (s.core s.cur.1).slotFull a.toNat = false) :
    execPrd k d a s = .next (s.raised Cause.fut (wordVal (.prd k d a))) :=
  control_raised h (if_pos ((issued_slotFull s k _).trans he))

/-! ### The reasons of NEST -/

@[simp] theorem nestVal_zero (i : Instr) : nestVal i 0 = wordVal i := BitVec.or_zero

/-- A trip count of more than 32 bits has one of its high bits set. -/
theorem wbits_high_ne_zero {v : Word} (h : 2 ^ 32 ≤ v.toNat) : wbits v 32 32 ≠ 0 := by
  have := v.isLt
  unfold wbits bits
  omega

section
variable {d a : Reg} {len : BitVec 8}

theorem execLpset_active (h : Issues 0 (.lpset k d a len) k s) (ha : (s.now.loopCtr d.toNat).act = true) :
    execLpset k d a len s = .next (s.raised Cause.nest (wordVal (.lpset k d a len))) := by
  refine control_raised h ?_
  rw [issued_ctx, ← nestVal_zero]
  exact if_pos ha

theorem execLpset_wide (h : Issues 0 (.lpset k d a len) k s) (ha : (s.now.loopCtr d.toNat).act = false)
    (hw : 2 ^ 32 ≤ (s.now.rd a).toNat) :
    execLpset k d a len s = .next (s.raised Cause.nest (wordVal (.lpset k d a len) ||| 0x100000000)) := by
  refine control_raised h ?_
  rw [issued_ctx]
  exact (if_neg (by rw [← State.now, ha]; decide)).trans (if_pos (wbits_high_ne_zero hw))

theorem execLpresEntry_active (h : Issues 0 (.lpresEntry k d a) k s) (ha : (s.now.loopCtr a.toNat).act = true) :
    execLpresEntry k d a s = .next (s.raised Cause.nest (wordVal (.lpresEntry k d a))) := by
  refine control_raised h ?_
  rw [issued_ctx, ← nestVal_zero]
  exact if_pos ha

theorem execLpresExit_active (h : Issues 0 (.lpresExit k a) k s) (ha : (s.now.loopCtr a.toNat).act = true) :
    execLpresExit k a s = .next (s.raised Cause.nest (wordVal (.lpresExit k a) ||| 0x400000000)) := by
  refine control_raised h ?_
  rw [issued_ctx]
  exact if_pos ha

end

end

/-- Settles O16: ILL comes before everything else at issue; FUT and NEST are the answers of the words' bodies. -/
theorem scalarWordsRaiseTheirTraps : Obligations.ScalarWordsRaiseTheirTraps := by
  unfold Obligations.ScalarWordsRaiseTheirTraps
  refine ⟨fun s i hw => exec_ill hw, fun s i k h => ⟨?_, ?_, ?_⟩, fun s k d a len => ⟨fun h => ⟨?_, ?_⟩, ?_, ?_⟩⟩
  · rintro p o rfl he
    exact branchSlot_fut h he
  · rintro p o rfl he
    exact branchSlot_fut h he
  · rintro d a rfl he
    exact execPrd_fut h he
  · exact execLpset_active h
  · exact execLpset_wide h
  · exact execLpresEntry_active
  · exact execLpresExit_active

end Sys2Proof.Machine
end

section
/-!
SUPPORT. CSR words: the table of R52 against the checks at issue, and what a word leaves that passes them (R51, R53, R94).
-/
namespace Sys2Proof.Machine
section

/-- A number that R52 does not list is one that R51 does not assign. -/
theorem csrKnown_of_row_none {n : Nat} (h : csrRow n = none) : csrKnown n = false := by
  unfold csrRow at h
  split_ifs at h
  simp only [csrKnown, Bool.or_eq_false_iff, Bool.and_eq_false_iff, decide_eq_false_iff_not]
  omega

/-- A row of R52: its number is assigned, its level is that of R51, and its access is that of R53. -/
theorem csrRow_some {n : Nat} {lvl : BitVec 2} {roU roS : Bool} (h : csrRow n = some (lvl, roU, roS)) :
    csrKnown n = true ∧ csrLevel n = lvl ∧ ∀ pl, csrReadOnly n pl = if pl = 0 then roU else roS := by
  unfold csrRow at h
  split_ifs at h <;> cases h
  all_goals
    refine ⟨?_, ?_, fun pl => ?_⟩
    · simp only [csrKnown, Bool.or_eq_true, Bool.and_eq_true, decide_eq_true_eq]
      omega
    · exact BitVec.eq_of_toNat_eq (by simp [csrLevel]; omega)
    · rw [Bool.eq_iff_iff]
      by_cases hp : pl = 0#2 <;> simp [csrReadOnly, hp] <;> omega

variable {s : State} {i : Instr} {k : Tk} {d a : Reg} {n : BitVec 9} {m : Nat} {pl lvl : BitVec 2} {wr roU roS : Bool} {cz : BitVec 5}
  {g : Word → Word → Word}

/-! ### The checks at issue, by the row of R52 -/

theorem csrCheck_unlisted (h : csrRow m = none) : csrCheck m pl wr = some Cause.ill := if_pos (csrKnown_of_row_none h)

theorem csrCheck_below (h : csrRow m = some (lvl, roU, roS)) (hl : pl < lvl) : csrCheck m pl wr = some Cause.priv := by
  obtain ⟨known, rfl, -⟩ := csrRow_some h
  have low : ¬ (csrLevel m).toNat ≤ pl.toNat := Nat.not_le.2 hl
  simp [csrCheck, known, low, hl]

theorem csrCheck_readOnly (h : csrRow m = some (lvl, roU, roS)) (hl : lvl ≤ pl) (hr : (if pl = 0 then roU else roS) = true) :
    csrCheck m pl true = some Cause.ill := by
  obtain ⟨known, rfl, access⟩ := csrRow_some h
  have high : (csrLevel m).toNat ≤ pl.toNat := hl
  have ro : csrReadOnly m pl = true := (access pl).trans hr
  simp [csrCheck, known, high, ro]

theorem csrCheck_passes (h : csrRow m = some (lvl, roU, roS)) (hl : lvl ≤ pl)
    (hr : wr = false ∨ (if pl = 0 then roU else roS) = false) : csrCheck m pl wr = none := by
  obtain ⟨known, rfl, access⟩ := csrRow_some h
  have high : ¬ pl < csrLevel m := BitVec.not_lt.2 hl
  have writable : wr = false ∨ csrReadOnly m pl = false := hr.imp_right (access pl).trans
  rcases writable with hw | hw <;> simp [csrCheck, known, high, hw]

/-! ### What a CSR word does at issue -/

@[simp] theorem issued_penned (s : State) (k : Tk) : ((s.issued k).core s.cur.1).penned = (s.core s.cur.1).penned := by
  have frame : CtxFrame s (s.issued k) s.cur.1 s.cur.2 := CtxFrame.popAll s _ _ _ _
  rw [Core.penned, frame.unit, Core.penned]

@[simp] theorem csrReadEffect_cur (s : State) (c x m : Nat) : (csrReadEffect s c x m).cur = s.cur := by
  unfold csrReadEffect
  split <;> rfl

@[simp] theorem csrWrite_cur (s : State) (c x m : Nat) (v : Word) : (csrWrite s c x m v).cur = s.cur := by
  unfold csrWrite
  (repeat' split) <;> rfl

theorem execCsrr_raised (h : Issues 0 (.csrr k d n) k s) (hc : csrCheck n.toNat s.now.pl false = some cz) :
    execCsrr k d n s = .next (s.raised cz (wordVal (.csrr k d n))) := by
  refine control_raised h ?_
  dsimp only
  rw [issued_ctx, ← State.now, hc]

theorem csrForm_raised (h : Issues 0 i k s) (hc : csrCheck n.toNat s.now.pl true = some cz) :
    csrForm i k d a n s g = .next (s.raised cz (wordVal i)) := by
  refine control_raised h ?_
  dsimp only
  rw [issued_ctx, ← State.now, hc]

/-- A read that passes its checks gives the value, with the effect of a read (R94, R95). -/
theorem execCsrr_reads (h : Issues 0 (.csrr k d n) k s) (hc : csrCheck n.toNat s.now.pl false = none) :
    execCsrr k d n s = .next (((csrReadEffect (s.issued k) s.cur.1 s.cur.2 n.toNat).put d
      (csrValue (s.issued k) s.cur.1 s.cur.2 n.toNat)).finished k) := by
  refine control_finished h ?_ ?_
  · dsimp only
    rw [issued_ctx, ← State.now, hc, State.put, csrReadEffect_cur, issued_cur]
  · rw [State.put, State.updCtx_cur, csrReadEffect_cur, issued_cur]

/-- A write form that passes its checks writes the new value and gives the old one (R94). -/
theorem csrForm_writes (h : Issues 0 i k s) (hc : csrCheck n.toNat s.now.pl true = none)
    (hp : csrLevel n.toNat = 0 ∨ (s.core s.cur.1).penned = false) :
    csrForm i k d a n s g = .next (((csrWrite (s.issued k) s.cur.1 s.cur.2 n.toNat
      (g (csrValue (s.issued k) s.cur.1 s.cur.2 n.toNat) (s.now.rd a))).put d
      (csrValue (s.issued k) s.cur.1 s.cur.2 n.toNat)).finished k) := by
  have free : ¬ (csrLevel n.toNat ≠ 0 ∧ (s.core s.cur.1).penned = true) := by
    rintro ⟨hl, hq⟩
    rcases hp with hp | hp
    · exact hl hp
    · simp [hq] at hp
  refine control_finished h ?_ ?_
  · dsimp only
    rw [issued_ctx, issued_penned, ← State.now, hc, State.put, csrWrite_cur, issued_cur]
    exact if_neg free
  · rw [State.put, State.updCtx_cur, csrWrite_cur, issued_cur]

/-- The write forms differ in the new value alone. -/
theorem exec_csrWriteForm {f : Word → Word} (h : csrWriteForm i s.now = some (k, d, n, f)) :
    ∃ a g, exec i s = csrForm i k d a n s g ∧ ∀ o, g o (s.now.rd a) = f o := by
  cases i
  case csrw | csrs | csrc =>
    cases h
    dsimp only [exec, execCsrw, execCsrs, execCsrc]
    exact ⟨_, _, rfl, fun _ => rfl⟩
  all_goals cases h

/-- The checks of a CSR word, whichever it is: it raises the cause that they give. -/
theorem exec_csr_raised (h : Issues 0 i k s)
    (hi : (∃ d, i = .csrr k d n ∧ wr = false) ∨ (∃ d f, csrWriteForm i s.now = some (k, d, n, f) ∧ wr = true))
    (hc : csrCheck n.toNat s.now.pl wr = some cz) : exec i s = .next (s.raised cz (wordVal i)) := by
  rcases hi with ⟨d, rfl, rfl⟩ | ⟨d, f, hf, rfl⟩
  · exact execCsrr_raised h hc
  · obtain ⟨a, g, he, -⟩ := exec_csrWriteForm hf
    rw [he]
    exact csrForm_raised h hc

end

/-- Settles O24: the checks at issue are the rows of R52, and a word that passes them reads, or writes and reads. -/
theorem csrWordsReadWriteOrTrap : Obligations.CsrWordsReadWriteOrTrap := by
  unfold Obligations.CsrWordsReadWriteOrTrap
  refine ⟨fun s i k n wr h _ hi => ⟨fun hrow => ?_, fun lvl roU roS hrow => ⟨fun hl => ?_, ?_⟩⟩,
    fun s k n lvl roU roS hrow hl => ⟨fun d h => ?_, fun i d f hf h hro hp => ?_⟩⟩
  · exact exec_csr_raised h hi (csrCheck_unlisted hrow)
  · exact exec_csr_raised h hi (csrCheck_below hrow hl)
  · rintro hl rfl hro
    exact exec_csr_raised h hi (csrCheck_readOnly hrow hl hro)
  · exact execCsrr_reads h (csrCheck_passes hrow hl (.inl rfl))
  · obtain ⟨a, g, he, hg⟩ := exec_csrWriteForm hf
    obtain ⟨-, level, -⟩ := csrRow_some hrow
    rw [he, csrForm_writes h (csrCheck_passes hrow hl (.inr hro)) (level ▸ hp), hg]

end Sys2Proof.Machine
end

section
/-!
SUPPORT. Words that enter the engine queues: what an entry leaves of its queue and of its context, and how such a word completes
(R106, R108, R110, R113).
-/
namespace Sys2Proof.Machine
section

variable {s t u t' : State} {c x e : Nat} {k : Tk} {i : Instr} {ent : Entry} {a v w : Ctx}

/-! ### The queues of a core -/

@[simp] theorem Core.q_updQ_self (k : Core) (e : Nat) (f : EngQ → EngQ) : (k.updQ e f).q e = f (k.q e) := by
  unfold Core.updQ Core.setQ
  split <;> simp [Core.q]

theorem Core.q_updQ_ne (k : Core) {e e' : Nat} (f : EngQ → EngQ) (he : e < 3) (he' : e' < 3) (h : e' ≠ e) :
    (k.updQ e f).q e' = k.q e' := by
  unfold Core.updQ Core.setQ
  interval_cases e <;> interval_cases e' <;> simp [Core.q] at h ⊢

@[simp] theorem Core.updQ_ctx (k : Core) (e : Nat) (f : EngQ → EngQ) : (k.updQ e f).ctx = k.ctx := by
  unfold Core.updQ Core.setQ
  split <;> rfl

@[simp] theorem Core.setCtx_q (k : Core) (x : Nat) (t : Ctx) (e : Nat) : (k.setCtx x t).q e = k.q e := rfl

/-- What may change a context alone leaves the queues. -/
theorem CtxFrame.q_eq (h : CtxFrame s t c x) (e : Nat) : (t.core c).q e = (s.core c).q e := by
  rw [h.unit]
  rfl

/-! ### How a word that completes leaves its context -/

theorem Ctx.Marks.loopAt (h : Ctx.Marks v w) (a : Word) : w.loopAt a = v.loopAt a := by
  unfold Ctx.Marks at h
  rw [h]
  rfl

theorem State.signal_retired (s : State) (c x f : Nat) : ((s.signal c x f).ctx c x).retired = (s.ctx c x).retired := by
  unfold State.signal
  dsimp only
  split
  · rw [State.updCore_ctx (Core.push_ctx _ f)]
  · rw [State.ctx_setCtx_self]
    split <;> rfl

theorem State.holdSignals_retired (s : State) (c x : Nat) : ((s.holdSignals c x).ctx c x).retired = (s.ctx c x).retired := by
  unfold State.holdSignals
  dsimp only
  split
  · split
    · rw [State.ctx_setCtx_self]
    · rfl
  · rfl

theorem State.signals_retired (s : State) (c x : Nat) (fs : List Nat) :
    ((s.signals c x fs).ctx c x).retired = (s.ctx c x).retired := by
  refine (State.holdSignals_retired _ c x).trans ?_
  induction fs generalizing s with
  | nil => rfl
  | cons f r ih => exact (ih (s.signal c x f)).trans (State.signal_retired s c x f)

theorem Ctx.advance_retired (t : Ctx) (req : Bool) : (t.advance req).retired = t.retired := by
  unfold Ctx.advance Ctx.kernelBoundary
  dsimp only
  (repeat' split) <;> rfl

theorem Ctx.advance_pc {t : Ctx} (req : Bool) (h : t.loopAt t.pc = none) : (t.advance req).pc = t.pc + 4 := by
  unfold Ctx.advance
  rw [h]

theorem State.retire_pc (s : State) (c x : Nat) : ((s.retire c x).ctx c x).pc = (s.ctx c x).pc :=
  (State.retireAt_marks s c x _).sameRegs.2

theorem State.retire_retired (s : State) (c x : Nat) : ((s.retire c x).ctx c x).retired = (s.ctx c x).retired + 1 := by
  unfold State.retire State.retireAt
  rw [State.count_ctx, State.ctx_updCtx_self]

/-- A word that completes counts once. -/
theorem finishWord_retired (s : State) (c x : Nat) (k : Tk) : ((finishWord s c x k).ctx c x).retired = (s.ctx c x).retired + 1 := by
  unfold finishWord
  rw [State.signals_retired, State.ctx_updCtx_self, Ctx.advance_retired, State.retire_retired]

/-- A word that completes outside the last word of an active loop goes on behind itself (R11). -/
theorem finishWord_pc (k : Tk) (h : (s.ctx c x).loopAt (s.ctx c x).pc = none) :
    ((finishWord s c x k).ctx c x).pc = (s.ctx c x).pc + 4 := by
  have same : ((s.retire c x).ctx c x).pc = (s.ctx c x).pc := State.retire_pc s c x
  have noLoop : ((s.retire c x).ctx c x).loopAt ((s.retire c x).ctx c x).pc = none := by
    rw [same]
    exact ((State.retireAt_marks s c x _).loopAt _).trans h
  unfold finishWord
  rw [(State.signals_marks _ c x _).sameRegs.2, State.ctx_updCtx_self, Ctx.advance_pc _ noLoop, same]

theorem finishWord_x (s : State) (c x : Nat) (k : Tk) : ((finishWord s c x k).ctx c x).x = (s.ctx c x).x :=
  (finishWord_moves s c x k).x_eq

theorem finishWord_cur (s : State) (c x : Nat) (k : Tk) : (finishWord s c x k).cur = s.cur := (CtxFrame.finishWord s c x k).cur_eq

theorem finishWord_q (s : State) (c x : Nat) (k : Tk) (e : Nat) : ((finishWord s c x k).core c).q e = (s.core c).q e :=
  (CtxFrame.finishWord s c x k).q_eq e

/-- What a word that enters a queue leaves of the state: whose turn it is, the memory, and its own context but for a seed that goes
with the entry (R149). -/
structure KeepsCourse (s t : State) (c x : Nat) : Prop where
  cur : t.cur = s.cur
  mem : t.mem = s.mem
  ctx : t.ctx c x = { s.ctx c x with seedSet := (t.ctx c x).seedSet }

theorem KeepsCourse.refl (s : State) (c x : Nat) : KeepsCourse s s c x := ⟨rfl, rfl, rfl⟩

theorem KeepsCourse.trans (h : KeepsCourse s t c x) (g : KeepsCourse t u c x) : KeepsCourse s u c x where
  cur := g.cur.trans h.cur
  mem := g.mem.trans h.mem
  ctx := by rw [g.ctx, h.ctx]

theorem KeepsCourse.updCore {f : Core → Core} (h : (f (s.core c)).ctx = (s.core c).ctx) : KeepsCourse s (s.updCore c f) c x where
  cur := rfl
  mem := rfl
  ctx := by rw [State.updCore_ctx h]

/-- A word that leaves its context's course and completes goes on behind itself. -/
theorem finishWord_wentOn (k : Tk) (h : KeepsCourse s u s.cur.1 s.cur.2) : WentOn s (finishWord u s.cur.1 s.cur.2 k) := by
  have now : (finishWord u s.cur.1 s.cur.2 k).now = (finishWord u s.cur.1 s.cur.2 k).ctx s.cur.1 s.cur.2 := by
    rw [State.now, finishWord_cur, h.cur]
  unfold WentOn
  rw [now]
  refine ⟨?_, fun a => ?_, ?_, fun noLoop => ?_⟩
  · rw [finishWord_x, h.ctx, State.now]
  · rw [State.byteAt, (CtxFrame.finishWord u s.cur.1 s.cur.2 k).mem_eq, h.mem, State.byteAt]
  · rw [finishWord_retired, h.ctx, State.now]
  · rw [finishWord_pc k (by rw [h.ctx]; exact noLoop), h.ctx, State.now]

/-! ### Enqueueing (R108, R149) -/

/-- The entry that enters a queue: the word's own fields, with the number, the seed, the level and the classes of its context. -/
def State.entered (s : State) (c x e : Nat) (ent : Entry) : Entry :=
  let t := s.ctx c x
  let cls := if ent.slk = 0 then t.slk.toNat else ent.slk
  { ent with
    ctx := x, seq := ((s.core c).q e).next, seed := if e = 2 ∧ t.seedSet then some t.vseed else none, atU := t.pl = 0
    lvl := t.pl.toNat, no := (s.core c).enqNo, slk := cls, ske := t.skEntry cls, cslk := t.slk.toNat, cske := t.skEntry t.slk.toNat }

/-- The queue behind an entry. -/
def EngQ.append (q : EngQ) (ent : Entry) : EngQ := { q with q := q.q ++ [ent], next := q.next + 1 }

/-- The state from which the entry goes: a seed goes with an entry of the VXE queue. -/
def State.seedTaken (s : State) (c x e : Nat) : State :=
  if e = 2 ∧ (s.ctx c x).seedSet then s.setCtx c x { s.ctx c x with seedSet := false } else s

theorem State.enqueue_eq (s : State) (c x e : Nat) (ent : Entry) :
    s.enqueue c x e ent =
      (s.seedTaken c x e).updCore c (fun k => { k with enqNo := k.enqNo + 1 }.updQ e (fun q => q.append (s.entered c x e ent))) := rfl

theorem State.seedTaken_keeps (s : State) (c x e : Nat) : KeepsCourse s (s.seedTaken c x e) c x := by
  unfold State.seedTaken
  split
  · exact ⟨rfl, rfl, by rw [State.ctx_setCtx_self]⟩
  · exact .refl s c x

@[simp] theorem State.seedTaken_q (s : State) (c x e e' : Nat) : ((s.seedTaken c x e).core c).q e' = (s.core c).q e' := by
  unfold State.seedTaken
  split
  · rw [State.core_setCtx_self, Core.setCtx_q]
  · rfl

theorem State.enqueue_keeps (s : State) (c x e : Nat) (ent : Entry) : KeepsCourse s (s.enqueue c x e ent) c x := by
  rw [State.enqueue_eq]
  exact (s.seedTaken_keeps c x e).trans (.updCore (Core.updQ_ctx _ e _))

@[simp] theorem State.enqueue_q_self (s : State) (c x e : Nat) (ent : Entry) :
    ((s.enqueue c x e ent).core c).q e = ((s.core c).q e).append (s.entered c x e ent) := by
  rw [State.enqueue_eq, State.core_updCore_self, Core.q_updQ_self, ← s.seedTaken_q c x e e]
  rfl

theorem State.enqueue_q_ne (s : State) (c x : Nat) {e e' : Nat} (ent : Entry) (he : e < 3) (he' : e' < 3) (h : e' ≠ e) :
    ((s.enqueue c x e ent).core c).q e' = (s.core c).q e' := by
  rw [State.enqueue_eq, State.core_updCore_self, Core.q_updQ_ne _ _ he he' h, ← s.seedTaken_q c x e e']
  rfl

/-- Of the queues of a core, an entry moves its own alone, by what R108 and R343 say. -/
theorem State.enqueue_enqueued (s : State) (c x : Nat) (ent : Entry) (he : e < 3) :
    Enqueued s (s.enqueue c x e ent) c e (s.entered c x e ent) := by
  unfold Enqueued
  rw [State.enqueue_q_self]
  exact ⟨rfl, rfl, rfl, rfl, fun _ he' h => s.enqueue_q_ne c x ent he he' h⟩

theorem Enqueued.congr (h : Enqueued t u c e ent) (hs : ∀ e, (t.core c).q e = (s.core c).q e)
    (hw : ∀ e, (t'.core c).q e = (u.core c).q e) : Enqueued s t' c e ent := by
  unfold Enqueued at *
  simpa only [hs, hw] using h

/-! ### The body of an engine word (R108, R110, R263) -/

section
variable {wv : Word} {tk : Tk} {g : Option (Nat × Bool)} {chk : Nat → Nat → State → EnqRes} {slot : Option Nat}

theorem State.drainStores_none (h : (s.ctx c x).stores = []) : s.drainStores c x = s := by
  rw [State.drainStores, h]
  rfl

/-- The slot that an engine word names is emptied at issue. -/
def State.emptied (s : State) (c : Nat) (slot : Option Nat) : State :=
  match slot with
  | some n => s.emptySlot c n
  | none => s

theorem State.emptied_keeps (s : State) (c x : Nat) (slot : Option Nat) : KeepsCourse s (s.emptied c slot) c x := by
  cases slot with
  | none => exact .refl s c x
  | some n => exact .updCore (f := fun k => k.emptySlot n) rfl

@[simp] theorem State.emptied_q (s : State) (c : Nat) (slot : Option Nat) (e : Nat) :
    ((s.emptied c slot).core c).q e = (s.core c).q e := by
  cases slot with
  | none => rfl
  | some n =>
    rw [State.emptied, State.emptySlot, State.core_updCore_self]
    rfl

theorem enqBody_enoted (h : ((s.core c).q e).enoted = true) : enqBody wv e tk g chk c x s = .trap Cause.ill wv := if_pos h

/-- An engine word whose checks pass enters its queue, where the queue has room and no store of its context is pending. -/
theorem enqBody_enters (hq : ((s.core c).q e).enoted = false) (hc : chk c x s = .ok s ent slot)
    (hroom : ((s.core c).q e).count < 64) (hst : (s.ctx c x).stores = []) :
    enqBody wv e tk g chk c x s = .done ((s.emptied c slot).enqueue c x e { ent with guard := g, tk := tk }) := by
  have room : ¬ Config.queueLen ≤ ((s.core c).q e).count := Nat.not_le.2 hroom
  unfold enqBody
  dsimp only
  rw [hq, hc, if_neg (by decide)]
  dsimp only
  rw [if_neg room, State.drainStores_none hst]
  rfl

/-- The tokens of an engine word act at its engine: none is popped at issue. -/
@[simp] theorem issued_onlyY (s : State) (k : Tk) : s.issued (onlyY k) = s := by
  unfold State.issued State.popAll
  exact if_pos rfl

end

/-! ### `enote` and `eqf` (R110) -/

section
variable {d : Reg} {y : Bool} {m : BitVec 3}

/-- The queue that an `enote` has closed. -/
def State.noteClosed (s : State) (c e : Nat) : State := s.updCore c (fun kc => kc.updQ e (fun q => { q with enoted := true }))

@[simp] theorem State.noteClosed_q (s : State) (c e : Nat) :
    ((s.noteClosed c e).core c).q e = { (s.core c).q e with enoted := true } := by
  rw [State.noteClosed, State.core_updCore_self, Core.q_updQ_self]

theorem execEnote_ill (h : Issues 0 (.enote k d) (onlyY k) s) (hq : ((s.core s.cur.1).q d.toNat).enoted = true) :
    execEnote k d s = .next (s.raised Cause.ill (wordVal (.enote k d))) := by
  refine control_raised h ?_
  dsimp only
  rw [issued_onlyY, enqBody_enoted hq]

theorem execEnote_enters (h : Issues 0 (.enote k d) (onlyY k) s) (hq : ((s.core s.cur.1).q d.toNat).enoted = false)
    (hroom : ((s.core s.cur.1).q d.toNat).count < 64) (hst : s.now.stores = []) :
    execEnote k d s =
      .next (finishWord ((s.enqueue s.cur.1 s.cur.2 d.toNat { ins := .enote k d, tk := k }).noteClosed s.cur.1 d.toNat)
        s.cur.1 s.cur.2 (onlyY k)) := by
  refine control_completes h ?_
  dsimp only
  rw [issued_onlyY, enqBody_enters hq rfl hroom hst]
  rfl

/-- An `enote` that enters its queue closes it behind its own entry. -/
theorem execEnote_closes (h : Issues 0 (.enote k d) (onlyY k) s) (hq : ((s.core s.cur.1).q d.toNat).enoted = false)
    (hroom : ((s.core s.cur.1).q d.toNat).count < 64) (hst : s.now.stores = []) :
    ∃ t e, execEnote k d s = .next t ∧ e.ins = .enote k d ∧ ((t.core s.cur.1).q d.toNat).enoted = true ∧
      ((t.core s.cur.1).q d.toNat).q = ((s.core s.cur.1).q d.toNat).q ++ [e] ∧ WentOn s t := by
  have closed : KeepsCourse s ((s.enqueue s.cur.1 s.cur.2 d.toNat { ins := .enote k d, tk := k }).noteClosed s.cur.1 d.toNat)
      s.cur.1 s.cur.2 := (s.enqueue_keeps _ _ _ _).trans (.updCore (Core.updQ_ctx _ _ _))
  refine ⟨_, s.entered s.cur.1 s.cur.2 d.toNat { ins := .enote k d, tk := k }, execEnote_enters h hq hroom hst, rfl, ?_, ?_,
    finishWord_wentOn _ closed⟩
  · rw [finishWord_q, State.noteClosed_q]
  · rw [finishWord_q, State.noteClosed_q, State.enqueue_q_self]
    rfl

/-- One more entry, with the fence `f`, at the end of a queue. -/
def FencedBy (f : Nat × BitVec 3) (q q' : EngQ) : Prop := ∃ ent : Entry, ent.fence = some f ∧ q'.q = q.q ++ [ent]

/-- Of the queues that a list names, each gets one entry with the fence; every other stays. -/
theorem foldl_enqueue_fence {f : Nat × BitVec 3} (hf : ent.fence = some f) (es : List Nat) (hn : es.Nodup) (hes : ∀ e ∈ es, e < 3)
    (s : State) (c x : Nat) :
    KeepsCourse s (es.foldl (fun s e => s.enqueue c x e ent) s) c x ∧ ∀ e, e < 3 →
      (e ∈ es → FencedBy f ((s.core c).q e) (((es.foldl (fun s e => s.enqueue c x e ent) s).core c).q e)) ∧
      (e ∉ es → ((es.foldl (fun s e => s.enqueue c x e ent) s).core c).q e = (s.core c).q e) := by
  induction es generalizing s with
  | nil => exact ⟨.refl s c x, fun e _ => ⟨fun h => absurd h List.not_mem_nil, fun _ => rfl⟩⟩
  | cons a r ih =>
    obtain ⟨ha, hr⟩ := List.nodup_cons.mp hn
    have ha3 : a < 3 := hes a List.mem_cons_self
    obtain ⟨keeps, queues⟩ := ih hr (fun e he => hes e (List.mem_cons_of_mem a he)) (s.enqueue c x a ent)
    refine ⟨(s.enqueue_keeps c x a ent).trans keeps, fun e he => ?_⟩
    obtain ⟨fenced, kept⟩ := queues e he
    rw [List.foldl_cons]
    by_cases hea : e = a
    · subst hea
      refine ⟨fun _ => ⟨s.entered c x e ent, hf, ?_⟩, fun hne => absurd List.mem_cons_self hne⟩
      rw [kept ha, State.enqueue_q_self]
      rfl
    · have same : ((s.enqueue c x a ent).core c).q e = (s.core c).q e := s.enqueue_q_ne c x ent ha3 he hea
      rw [same] at fenced kept
      exact ⟨fun hm => fenced ((List.mem_cons.mp hm).resolve_left hea), fun hm => kept (fun hr => hm (List.mem_cons_of_mem a hr))⟩

theorem mem_maskQueues {e : Nat} : e ∈ maskQueues m ↔ e < 3 ∧ m.getLsbD e = true := by
  simp [maskQueues]

theorem maskQueues_nodup (m : BitVec 3) : (maskQueues m).Nodup := List.nodup_range.filter _

/-- The core has numbered one fence more. -/
def State.fenceOut (s : State) (c : Nat) (m : BitVec 3) : State :=
  s.updCore c (fun k => { k with fenceNo := (s.core c).fenceNo + 1, fences := k.fences ++ [((s.core c).fenceNo, m, 0)] })

theorem execEqf_enters (h : Issues 0 (.eqf y m) { Tk.none with y := y } s) (hst : s.now.stores = [])
    (hq : ∀ e ∈ maskQueues m, ((s.core s.cur.1).q e).enoted = false)
    (hroom : ∀ e ∈ maskQueues m, ((s.core s.cur.1).q e).count < 64) :
    execEqf y m s = .next (finishWord ((maskQueues m).foldl
      (fun t e => t.enqueue s.cur.1 s.cur.2 e { ins := .eqf y m, fence := some ((s.core s.cur.1).fenceNo, m) })
      (s.fenceOut s.cur.1 m)) s.cur.1 s.cur.2 { Tk.none with y := y }) := by
  have unclosed : (maskQueues m).any (fun e => ((s.core s.cur.1).q e).enoted) = false := by
    simpa using hq
  have room : (maskQueues m).find? (fun e => Config.queueLen ≤ ((s.core s.cur.1).q e).count) = none := by
    refine List.find?_eq_none.mpr fun e he => ?_
    rw [decide_eq_true_eq]
    exact Nat.not_le.2 (hroom e he)
  refine control_completes h ?_
  dsimp only
  rw [show s.issued { Tk.none with y := y } = s from issued_onlyY s { Tk.none with y := y }, unclosed, room, State.drainStores_none hst]
  rfl

@[simp] theorem State.fenceOut_q (s : State) (c : Nat) (m : BitVec 3) (e : Nat) : ((s.fenceOut c m).core c).q e = (s.core c).q e := by
  rw [State.fenceOut, State.core_updCore_self]
  rfl

/-- An `eqf` that enters the queues of its mask puts the same fence at the end of each, and leaves the others. -/
theorem execEqf_fences (h : Issues 0 (.eqf y m) { Tk.none with y := y } s) (hst : s.now.stores = [])
    (hq : ∀ e, e < 3 → m.getLsbD e = true →
      ((s.core s.cur.1).q e).enoted = false ∧ ((s.core s.cur.1).q e).count < 64) :
    ∃ t, execEqf y m s = .next t ∧ WentOn s t ∧ ∀ e, e < 3 →
      (m.getLsbD e = true → FencedBy ((s.core s.cur.1).fenceNo, m) ((s.core s.cur.1).q e) ((t.core s.cur.1).q e)) ∧
      (m.getLsbD e = false → (t.core s.cur.1).q e = (s.core s.cur.1).q e) := by
  have named (e : Nat) (he : e ∈ maskQueues m) := hq e (mem_maskQueues.mp he).1 (mem_maskQueues.mp he).2
  obtain ⟨keeps, queues⟩ := foldl_enqueue_fence (ent := { ins := .eqf y m, fence := some ((s.core s.cur.1).fenceNo, m) }) rfl
    (maskQueues m) (maskQueues_nodup m) (fun e he => (mem_maskQueues.mp he).1) (s.fenceOut s.cur.1 m) s.cur.1 s.cur.2
  refine ⟨_, execEqf_enters h hst (fun e he => (named e he).1) (fun e he => (named e he).2),
    finishWord_wentOn _ (.trans (.updCore rfl) keeps), fun e he => ?_⟩
  obtain ⟨fenced, kept⟩ := queues e he
  rw [State.fenceOut_q] at fenced kept
  rw [finishWord_q]
  refine ⟨fun hm => fenced (mem_maskQueues.mpr ⟨he, hm⟩), fun hm => kept fun hmem => ?_⟩
  exact Bool.false_ne_true (hm.symm.trans (mem_maskQueues.mp hmem).2)

end

/-! ### The checks of a vector word at issue (R186) -/

theorem vlsBad_iff {v : Word} {al n : Nat} : vlsBad v al n = true ↔ 2 ^ 25 ≤ v.toNat ∨ v.toNat % al ≠ 0 ∨ 2 ^ 25 < v.toNat + n := by
  simp [vlsBad, or_assoc]

/-- The checks of the model are those of R186. -/
theorem vlsCheck_eq (i : Instr) (t : Ctx) : vlsCheck i t = vlsTrap i t := by
  cases i
  case vld | vst | vldx | vstx | vldb => simp only [vlsCheck, vlsTrap, vlsBad_iff]
  case vlds k d a b | vsts k d a b =>
    have stride : (2 ^ 25 ≤ (t.rd b).toNat ∨ (t.rd b).toNat % 128 ≠ 0) ↔
        (2 ^ 25 ≤ (t.rd b).toNat ∨ (t.rd b).toNat % 128 ≠ 0 ∨ 2 ^ 25 < (t.rd b).toNat + 0) := by omega
    simp only [vlsCheck, vlsTrap, vlsBad_iff, ← stride]
  all_goals rfl

/-- The entry of a vector word: its X values and the rounding of its context go with it (R142, R170). -/
def vecEntry (i : Instr) (t : Ctx) : Entry :=
  { ins := i, va := (vecXs i t).1, vb := (vecXs i t).2, rm := t.vround.setWidth 3, sat := t.vround.getLsbD 4 }

theorem vecIssue_ok (h : vlsTrap i (s.ctx c x) = none) : vecIssue i c x s = .ok s (vecEntry i (s.ctx c x)) (vecSlot i) := by
  unfold vecIssue
  dsimp only
  rw [vlsCheck_eq, h]
  rfl

/-- A vector word is no copy and no matrix word: the slot of its entry is that of its row. -/
theorem entrySlot_of_vecRow {xa xb slot : Option Reg} (h : vecRow i = some (k, xa, xb, slot)) :
    entrySlot i = slot.map BitVec.toNat := by
  cases i
  case vbal | vlane =>
    cases h
    rfl
  all_goals cases h <;> rfl

/-! ### `egrd` and the word that it guards (R45, R111) -/

section
variable {d : Reg} {g : BitVec 1} {j : Instr} {wd : Code}

/-- The context behind the first word of its pair. -/
def Ctx.behind (t : Ctx) : Ctx := { t with pc := t.pc + 4 }

/-- The body of a guarded word: `execEgrd` of a pair is this word with this body. -/
def guardedBody (d : Reg) (g : BitVec 1) (e : Nat) (j : Instr) (k : Tk) (c x : Nat) (s : State) : Res :=
  if entrySlot j = some d.toNat then .trap Cause.ill (wordVal (.egrd d g))
  else match enqBody (wordVal j) e k (some (d.toNat, g = 1)) (engIssue e j) c x s with
    | .done s => .done (s.updCtx c x Ctx.behind)
    | r => r

theorem egrd_wf (hd : d.toNat < 16) : (Instr.egrd d g).wf = true := decide_eq_true (Nat.le_of_lt_succ hd)

theorem execEgrd_fetched (hd : d.toNat < 16) (hf : s.fetchCode s.cur.1 s.cur.2 (s.now.pc + 4) = some (t, wd))
    (he : engineOf wd = some e) (hj : decode wd = some j) :
    execEgrd d g s = control j (onlyY (tkOfWord wd)) t (guardedBody d g e j (tkOfWord wd)) := by
  unfold execEgrd
  dsimp only
  rw [egrd_wf hd, if_neg (by decide), ← State.now, hf]
  dsimp only
  rw [he, hj]
  rfl

/-- The next word is no engine's. -/
theorem execEgrd_noEngine (hd : d.toNat < 16) (hf : s.fetchCode s.cur.1 s.cur.2 (s.now.pc + 4) = some (t, wd)) (he : engineOf wd = none) :
    execEgrd d g s = .next (takeTrap t s.cur.1 s.cur.2 Cause.ill (wordVal (.egrd d g)) s.now.pc) := by
  unfold execEgrd
  dsimp only
  rw [egrd_wf hd, if_neg (by decide), ← State.now, hf]
  dsimp only
  rw [he]

/-- The next word's own slot is the guard. -/
theorem guarded_ownSlot (h : Issues 0 j (onlyY k) t) (hs : entrySlot j = some d.toNat) :
    control j (onlyY k) t (guardedBody d g e j k) = .next (t.raised Cause.ill (wordVal (.egrd d g))) :=
  control_raised h (if_pos hs)

/-- What the body of a pair leaves: the slot emptied, the entry in its queue, and the context behind the `egrd`. -/
def State.pairEntered (s : State) (c x e : Nat) (slot : Option Nat) (ent : Entry) : State :=
  ((s.emptied c slot).enqueue c x e ent).updCtx c x Ctx.behind

theorem State.pairEntered_keeps (s : State) (c x e : Nat) (slot : Option Nat) (ent : Entry) :
    KeepsCourse (s.updCtx c x Ctx.behind) (s.pairEntered c x e slot ent) c x := by
  obtain ⟨cur, mem, ctx⟩ := (s.emptied_keeps c x slot).trans ((s.emptied c slot).enqueue_keeps c x e ent)
  refine ⟨cur, mem, ?_⟩
  rw [State.pairEntered, State.ctx_updCtx_self, State.ctx_updCtx_self, ctx]
  rfl

theorem State.pairEntered_enqueued (s : State) (c x : Nat) (slot : Option Nat) (ent : Entry) (he : e < 3) (k : Tk) :
    Enqueued s (finishWord (s.pairEntered c x e slot ent) c x k) c e ((s.emptied c slot).entered c x e ent) := by
  refine ((s.emptied c slot).enqueue_enqueued c x ent he).congr (s.emptied_q c slot) fun e' => ?_
  rw [finishWord_q, State.pairEntered, State.core_updCtx_self, Core.setCtx_q]

theorem guardedBody_enters {slot : Option Nat} (hs : entrySlot j ≠ some d.toNat) (hq : ((s.core c).q e).enoted = false)
    (hc : engIssue e j c x s = .ok s ent slot) (hroom : ((s.core c).q e).count < 64)
    (hst : (s.ctx c x).stores = []) :
    guardedBody d g e j k c x s =
      .done (s.pairEntered c x e slot { ent with guard := some (d.toNat, decide (g = 1)), tk := k }) := by
  rw [guardedBody, if_neg hs, enqBody_enters hq hc hroom hst]
  rfl

/-- A pair that issues puts its second word into its queue as a guarded entry, and its context goes on behind it. -/
theorem guarded_enters {slot : Option Nat} (he : e < 3) (h : Issues 0 j (onlyY k) s) (hs : entrySlot j ≠ some d.toNat)
    (hq : ((s.core s.cur.1).q e).enoted = false) (hc : engIssue e j s.cur.1 s.cur.2 s = .ok s ent slot)
    (hroom : ((s.core s.cur.1).q e).count < 64) (hst : s.now.stores = []) :
    ∃ t e', control j (onlyY k) s (guardedBody d g e j k) = .next t ∧ Enqueued s t s.cur.1 e e' ∧ e'.ins = ent.ins ∧
      e'.guard = some (d.toNat, decide (g = 1)) ∧ t.now.x = s.now.x ∧
      (s.now.loopAt (s.now.pc + 4) = none → t.now.pc = s.now.pc + 8) := by
  have body : guardedBody d g e j k s.cur.1 s.cur.2 (s.issued (onlyY k)) =
      .done (s.pairEntered s.cur.1 s.cur.2 e slot { ent with guard := some (d.toNat, decide (g = 1)), tk := k }) := by
    rw [issued_onlyY]
    exact guardedBody_enters hs hq hc hroom hst
  have behind : (s.updCtx s.cur.1 s.cur.2 Ctx.behind).now = s.now.behind := State.ctx_updCtx_self s _ _ _
  obtain ⟨hx, -, -, hpc⟩ := finishWord_wentOn (onlyY k)
    (s.pairEntered_keeps s.cur.1 s.cur.2 e slot { ent with guard := some (d.toNat, decide (g = 1)), tk := k })
  rw [behind] at hx hpc
  refine ⟨_, _, control_completes h body, s.pairEntered_enqueued s.cur.1 s.cur.2 slot _ he _, rfl, rfl, hx, fun noLoop => ?_⟩
  exact (hpc noLoop).trans (BitVec.add_assoc s.now.pc 4 4)

end

end

/-- Settles O40: each word's body puts its entries at the end of their queues, and completing moves no queue. -/
theorem notesFencesAndGuardsEnterQueues : Obligations.NotesFencesAndGuardsEnterQueues := by
  unfold Obligations.NotesFencesAndGuardsEnterQueues
  refine ⟨fun s k d h => ⟨execEnote_ill h, execEnote_closes h⟩, fun s y m h hst hq => ?_,
    fun s s' d g w j k xa xb slot hd hf hcur => ⟨execEgrd_noEngine hd hf, ?_⟩⟩
  · obtain ⟨t, ht, wentOn, queues⟩ := execEqf_fences h hst hq
    refine ⟨t, ht, wentOn, fun e he => ?_⟩
    obtain ⟨fenced, kept⟩ := queues e he
    split
    · exact fenced ‹_›
    · exact kept (Bool.not_eq_true _ ▸ ‹_›)
  · rintro he hj rfl hrow h hq hvls
    dsimp only [exec]
    rw [execEgrd_fetched hd hf he hj]
    rw [← hcur] at hq ⊢
    refine ⟨fun n hs hn => ?_, fun hs hroom hst => ?_⟩
    · subst hn
      exact guarded_ownSlot h (by rw [entrySlot_of_vecRow hrow, hs]; rfl)
    · have other : entrySlot j ≠ some d.toNat := by
        rw [entrySlot_of_vecRow hrow]
        rintro hd'
        obtain ⟨n, hn, hnd⟩ := Option.map_eq_some_iff.mp hd'
        exact hs n hn (BitVec.eq_of_toNat_eq hnd)
      exact guarded_enters (e := 2) (by decide) h other hq (vecIssue_ok hvls) hroom hst

end Sys2Proof.Machine
end

section
/-!
SUPPORT. How a control word that issues ends, by what its body answers: a trap of its own, a transfer, a return, a parking, a store.
-/
namespace Sys2Proof.Machine
section

variable {s t : State} {c x : Nat} {k : Tk} {i : Instr} {a : Word}

/-! ### The answer settles -/

theorem settle_own {cz : BitVec 5} {v : Word} (h : NoNest i (s.ctx c x)) :
    settle s c x i k (.own cz v) = takeTrap s c x cz v (s.ctx c x).pc := by
  unfold settle
  simp only [h.eq_false]

theorem settle_stored (h : NoNest i (s.ctx c x)) : settle s c x i k (.stored t) = finishWord t c x Tk.none := by
  unfold settle
  simp only [h.eq_false]

theorem settle_sent {w : Wait} (h : NoNest i (s.ctx c x)) : settle s c x i k (.sent t w) = t.holdIssued c x k w := by
  unfold settle
  simp only [h.eq_false]

theorem settle_goto (h : NoNest i (s.ctx c x)) :
    settle s c x i k (.goto t a) = ((t.retire c x).updCtx c x (fun u => { u with pc := a })).signals c x (signalFifos k x) := by
  unfold settle
  simp only [h.eq_false]

theorem settle_jump (h : NoNest i (s.ctx c x)) :
    settle s c x i k (.jump t a) =
      ((t.retire c x).updCtx c x (fun u => { u.abandon a with pc := a })).signals c x (signalFifos k x) := by
  unfold settle
  simp only [h.eq_false]

theorem settle_ret (h : NoNest i (s.ctx c x)) :
    settle s c x i k (.ret t a) =
      ((t.retire c x).updCtx c x (fun u => u.returnTo a (s.preReq c))).signals c x (signalFifos k x) := by
  unfold settle
  simp only [h.eq_false]

theorem settle_park (h : NoNest i (s.ctx c x)) :
    settle s c x i k .park = s.updCtx c x (fun u => { u.unwait with run := .parked }) := by
  unfold settle
  simp only [h.eq_false]

/-! ### The whole word -/

/-- A word whose body names a trap of its own raises it. -/
theorem controlAt_own {lvl : BitVec 2} {body : Nat → Nat → State → Res} {cz : BitVec 5} {v : Word} (h : Issues lvl i k s)
    (hb : body s.cur.1 s.cur.2 (s.issued k) = .own cz v) : controlAt lvl i k s body = .next (s.raised cz v) := by
  rw [controlAt_issues h, hb, settle_own h.noNest]
  rfl

theorem control_wentTo {body : Nat → Nat → State → Res} (h : Issues 0 i k s)
    (hb : body s.cur.1 s.cur.2 (s.issued k) = .goto t a) (ht : t.cur = s.cur) : control i k s body = .next (t.wentTo k a) := by
  rw [control, controlAt_issues h, hb, settle_goto h.noNest, State.wentTo, ht]

theorem control_transferred {body : Nat → Nat → State → Res} (h : Issues 0 i k s)
    (hb : body s.cur.1 s.cur.2 (s.issued k) = .jump t a) (ht : t.cur = s.cur) :
    control i k s body = .next (t.transferred k a) := by
  rw [control, controlAt_issues h, hb, settle_jump h.noNest, State.transferred, ht]

/-- The pre-emption request of a core is nothing that a step of a context changes. -/
theorem CtxFrame.preReq (h : CtxFrame s t c x) : t.preReq c = s.preReq c := by
  unfold State.preReq
  rw [h.unit]

theorem control_returned {body : Nat → Nat → State → Res} (h : Issues 0 i k s)
    (hb : body s.cur.1 s.cur.2 (s.issued k) = .ret t a) (ht : CtxFrame s t s.cur.1 s.cur.2) :
    control i k s body = .next (t.returned k a) := by
  rw [control, controlAt_issues h, hb, settle_ret h.noNest, State.returned, ht.cur_eq, ht.preReq]

/-- A word whose body parks leaves its context parked at the word, with nothing of it executed (R80). -/
theorem control_parks {body : Nat → Nat → State → Res} (h : Issues 0 i k s)
    (hb : body s.cur.1 s.cur.2 (s.issued k) = .park) :
    control i k s body = .next (s.setNow { s.now.unwait with run := .parked }) := by
  rw [control, controlAt_issues h, hb, settle_park h.noNest]
  rfl

/-- The tokens that a word pops are of its own context. -/
theorem issued_frame (s : State) (k : Tk) : CtxFrame s (s.issued k) s.cur.1 s.cur.2 := CtxFrame.popAll s _ _ _ _

end

/-- Settles O21: each of the three words answers with its own trap, which leaves the state at issue. -/
theorem requestedTrapsAreTaken : Obligations.RequestedTrapsAreTaken := by
  unfold Obligations.RequestedTrapsAreTaken
  intro s i lvl k cz v hi h hp
  cases i
  case sys k n =>
    cases hi
    dsimp only [exec, execSys, control]
    refine controlAt_own h (if_neg ?_)
    rw [issued_penned, hp]
    decide
  case brk k n =>
    cases hi
    dsimp only [exec, execBrk, control]
    exact controlAt_own h rfl
  case trap k a n =>
    cases hi
    dsimp only [exec, execTrap]
    refine controlAt_own h ?_
    rw [issued_ctx, State.now]
  all_goals cases hi

/-- Settles O23: a `fret` outside a future handler and one to a misaligned pc trap; every other clears FIP and returns. -/
theorem fretReturns : Obligations.FretReturns := by
  unfold Obligations.FretReturns
  intro s k h
  dsimp only [exec, execFret]
  by_cases hu : s.now.pl ≠ 0 ∨ s.now.fip = false
  · rw [if_pos hu]
    refine control_raised h (if_pos ?_)
    rw [issued_ctx]
    exact hu
  · rw [if_neg hu]
    by_cases ha : s.now.fepc.toNat % 4 ≠ 0
    · rw [if_pos ha]
      refine control_raised h ?_
      rw [issued_ctx, ← State.now, if_neg hu, if_pos (by simp [aligned, ha])]
    · rw [if_neg ha]
      refine control_returned h ?_ ((issued_frame s k).trans ?_)
      · rw [issued_ctx, ← State.now, if_neg hu, if_neg (by simp_all [aligned]), State.setNow, issued_cur]
      · rw [State.setNow, issued_cur]
        exact CtxFrame.setCtx ..

end Sys2Proof.Machine
end

section
/-!
SUPPORT. The integer operations as the tables of R64 to R67 state them, and the words that write their results.
-/
namespace Sys2Proof.Machine
section

variable {s : State} {k : Tk} {i : Instr} {d : Reg}

/-! ### Comparisons and shifts -/

theorem ltS_eq (a b : Word) : ltS a b = decide (a.toInt < b.toInt) := rfl

theorem ltU_eq (a b : Word) : ltU a b = decide (a.toNat < b.toNat) := rfl

theorem flagWord_decide (p : Prop) [Decidable p] : flagWord (decide p) = oneIf p := by
  by_cases h : p <;> simp [flagWord, oneIf, h]

theorem flagWord_ltS (a b : Word) : flagWord (ltS a b) = oneIf (a.toInt < b.toInt) := flagWord_decide _

theorem flagWord_ltU (a b : Word) : flagWord (ltU a b) = oneIf (a.toNat < b.toNat) := flagWord_decide _

theorem shiftReg_eq (b : Word) : shiftReg b = b.toNat % 64 := by
  rw [shiftReg, wbits, bits, Nat.pow_zero, Nat.div_one]
  rfl

theorem ite_ltS_swap (a b u v : Word) : (if ltS a b then u else v) = if b.toInt ≤ a.toInt then v else u := by
  by_cases h : a.toInt < b.toInt
  · rw [ltS_eq, decide_eq_true h, if_pos rfl, if_neg (by omega)]
  · rw [ltS_eq, decide_eq_false h, if_neg (by decide), if_pos (by omega)]

theorem ite_ltU_swap (a b u v : Word) : (if ltU a b then u else v) = if b.toNat ≤ a.toNat then v else u := by
  by_cases h : a.toNat < b.toNat
  · rw [ltU_eq, decide_eq_true h, if_pos rfl, if_neg (by omega)]
  · rw [ltU_eq, decide_eq_false h, if_neg (by decide), if_pos (by omega)]

/-! ### Products, quotients and remainders (R64) -/

theorem mul_eq_ofInt (a b : Word) : a * b = BitVec.ofInt 64 (a.toInt * b.toInt) := by
  rw [BitVec.ofInt_mul, BitVec.ofInt_toInt, BitVec.ofInt_toInt]

theorem mulHigh_unsigned (a b : Word) : mulHigh a.toNat b.toNat = BitVec.ofNat 64 (a.toNat * b.toNat / 2 ^ 64) := by
  rw [mulHigh, ← BitVec.ofInt_natCast]
  rfl

/-- The quotient of the most negative number by −1 wraps to itself. -/
theorem divS_eq (a b : Word) : divS a b = if b = 0 then -1 else a.sdiv b := by
  have quotient : BitVec.ofInt 64 (a.toInt.tdiv b.toInt) = a.sdiv b := by
    rw [← BitVec.ofInt_toInt (x := a.sdiv b), BitVec.toInt_sdiv]
    refine BitVec.eq_of_toInt_eq ?_
    rw [BitVec.toInt_ofInt, BitVec.toInt_ofInt, Int.bmod_bmod]
  unfold divS
  by_cases hb : b = 0
  · rw [if_pos hb, if_pos hb]
    rfl
  · rw [if_neg hb, if_neg hb, quotient]
    split
    next h =>
      rw [h.1, h.2]
      rfl
    next => rfl

theorem divU_eq (a b : Word) : divU a b = if b = 0 then -1 else a / b := by
  unfold divU
  split
  · rfl
  · exact BitVec.eq_of_toNat_eq (by simp [Nat.mod_eq_of_lt (Nat.lt_of_le_of_lt (Nat.div_le_self _ _) a.isLt)])

theorem remS_eq (a b : Word) : remS a b = a.srem b := by
  have remainder : BitVec.ofInt 64 (a.toInt - b.toInt * a.toInt.tdiv b.toInt) = a.srem b := by
    rw [← BitVec.ofInt_toInt (x := a.srem b), BitVec.toInt_srem, Int.tmod_def]
  unfold remS
  split
  next h =>
    rw [h]
    exact BitVec.srem_zero.symm
  next =>
    rw [remainder]
    split
    next h =>
      rw [h.1, h.2]
      rfl
    next => rfl

theorem remU_eq (a b : Word) : remU a b = a % b := by
  unfold remU
  split
  next h =>
    rw [h]
    exact BitVec.umod_zero.symm
  next =>
    refine BitVec.eq_of_toNat_eq ?_
    have low := Nat.lt_of_le_of_lt (Nat.mod_le a.toNat b.toNat) a.isLt
    rw [BitVec.toNat_umod, ← Nat.mod_def, wnat, BitVec.toNat_ofNat, Nat.mod_eq_of_lt low]

/-! ### Counts of bits (R66) -/

theorem zerosAbove_eq (v n : Nat) :
    zerosAbove v n = ((List.range n).takeWhile (fun j => ! v.testBit (n - 1 - j))).length := by
  induction n with
  | zero => rfl
  | succ m ih =>
    rw [zerosAbove, List.range_succ_eq_map, List.takeWhile_cons]
    by_cases h : v.testBit m
    · simp [h]
    · have shift : ((fun j => ! v.testBit (m - j)) ∘ Nat.succ) = fun j => ! v.testBit (m - 1 - j) := by
        funext j
        simp [Nat.sub_sub, Nat.add_comm]
      simp [h, ih, List.takeWhile_map, shift]

theorem zerosFrom_eq (v i n : Nat) : zerosFrom v i n = ((List.range n).takeWhile (fun j => ! v.testBit (i + j))).length := by
  induction n generalizing i with
  | zero => rfl
  | succ m ih =>
    rw [zerosFrom, List.range_succ_eq_map, List.takeWhile_cons]
    by_cases h : v.testBit i
    · simp [h]
    · have shift : ((fun j => ! v.testBit (i + j)) ∘ Nat.succ) = fun j => ! v.testBit (i + 1 + j) := by
        funext j
        simp [Nat.add_assoc, Nat.add_comm 1]
      simp [h, ih, List.takeWhile_map, shift]

theorem onesBelow_eq (v n : Nat) : onesBelow v n = ((List.range n).filter (fun j => v.testBit j)).length := by
  induction n with
  | zero => rfl
  | succ m ih =>
    rw [onesBelow, ih, List.range_succ, List.filter_append, List.length_append]
    by_cases h : v.testBit m <;> simp [h]

/-! ### Fields of a register (R67) -/

theorem sx_setWidth (a : Word) {n : Nat} (h : n ≤ 64) : sx (a.setWidth n) = (a.extractLsb' 0 n).signExtend 64 := by
  rw [BitVec.setWidth_eq_extractLsb' h]

/-! ### The words -/

theorem regWord_finished {f : Ctx → Word} (h : Issues 0 i k s) :
    regWord i k d s f = .next (((s.issued k).put d (f s.now)).finished k) := by
  have written : (s.issued k).updCtx s.cur.1 s.cur.2 (fun t => t.wr d (f t)) = (s.issued k).put d (f s.now) := by
    rw [State.put, issued_cur, State.updCtx, State.updCtx, issued_ctx]
    rfl
  rw [regWord_done h, written, State.finished, State.put, State.updCtx_cur, issued_cur]

end

/-- Settles O9: each integer word writes what its row of the table says. -/
theorem integerResultsWritten : Obligations.IntegerResultsWritten := by
  unfold Obligations.IntegerResultsWritten
  intro s i k d v hi h
  cases i
  case add | sub | and | or | xor | andn | addi | andi | ori | xori | slli | srli | srai | lim | lis | mulh =>
    cases hi
    exact regWord_finished h
  case sll | srl | sra =>
    cases hi
    rw [← shiftReg_eq]
    exact regWord_finished h
  case slt | slti =>
    cases hi
    rw [← flagWord_ltS]
    exact regWord_finished h
  case sltu | sltiu =>
    cases hi
    rw [← flagWord_ltU]
    exact regWord_finished h
  case min | max =>
    cases hi
    rw [← ite_ltS_swap]
    exact regWord_finished h
  case minu | maxu =>
    cases hi
    rw [← ite_ltU_swap]
    exact regWord_finished h
  case mul | mulhu | div | divu | rem | remu =>
    cases hi
    simp only [← mul_eq_ofInt, ← mulHigh_unsigned, ← divS_eq, ← divU_eq, ← remS_eq, ← remU_eq]
    exact regWord_finished h
  case clz =>
    cases hi
    refine (regWord_finished h).trans ?_
    rw [clzW, zerosAbove_eq]
    rfl
  case ctz =>
    cases hi
    refine (regWord_finished h).trans ?_
    rw [ctzW, zerosFrom_eq]
    simp only [Nat.zero_add]
    rfl
  case popc =>
    cases hi
    refine (regWord_finished h).trans ?_
    rw [popcW, onesBelow_eq]
    rfl
  case sextb | sexth | sextw =>
    cases hi
    rw [← sx_setWidth _ (by decide)]
    exact regWord_finished h
  all_goals cases hi

end Sys2Proof.Machine
end

section
/-!
SUPPORT. Binary64 as R87 to R89 state it, and the words that read the context, the clocks, the task and a slot.
-/
namespace Sys2Proof.Machine
section

variable {s : State} {k : Tk} {i : Instr} {d a : Reg}

/-! ### Patterns (R87, R88) -/

theorem fmt64_sign (a : Word) : fmt64.sign a.toNat = a.getLsbD 63 := rfl

theorem fmt64_mag (a : Word) : fmt64.mag a.toNat = a.toNat % 2 ^ 63 := rfl

/-- The patterns above infinity are the NaNs. -/
theorem fmt64_isNan (a : Word) : fmt64.isNan a.toNat = isNan64 a := by
  have top : fmt64.maxCode = 0x7fefffffffffffff := rfl
  have inf : fmt64.infCode = some 0x7ff0000000000000 := rfl
  unfold Fmt.isNan Fmt.dec isNan64
  dsimp only
  rw [fmt64_mag, top, inf]
  simp only [Option.some_inj]
  by_cases hn : 0x7ff0000000000000 < a.toNat % 2 ^ 63
  · rw [if_pos (by omega), if_neg (by omega), decide_eq_true hn]
    rfl
  · rw [decide_eq_false hn]
    split
    · rw [if_pos (by omega)]
      rfl
    · split <;> rfl

/-- The key of a pattern tells its sign, but for the two zeros. -/
theorem key64_sign (a : Word) : if a.getLsbD 63 then key64 a ≤ 0 else 0 ≤ key64 a := by
  unfold key64
  split <;> omega

/-- The order of R88 with −0 below +0: by the keys, and by the signs where they are equal. -/
theorem fmt64_key0_lt (a b : Word) :
    fmt64.key0 a.toNat < fmt64.key0 b.toNat ↔
      key64 a < key64 b ∨ (key64 a = key64 b ∧ a.getLsbD 63 = true ∧ b.getLsbD 63 = false) := by
  have key0 (v : Word) : fmt64.key0 v.toNat = if v.getLsbD 63 then key64 v - 1 else key64 v := by
    rw [Fmt.key0, fmt64_sign, fmt64_mag, key64]
    split <;> rfl
  have ha := key64_sign a
  have hb := key64_sign b
  rw [key0, key0]
  cases hsa : a.getLsbD 63 <;> cases hsb : b.getLsbD 63 <;> simp only [hsa, hsb, if_true, Bool.false_eq_true, if_false] at ha hb ⊢ <;>
    simp <;> omega

/-- A pattern is its sign and its magnitude. -/
theorem eq_of_key64 {a b : Word} (hk : key64 a = key64 b) (hs : a.getLsbD 63 = b.getLsbD 63) : a = b := by
  have sign (v : Word) : v.getLsbD 63 = decide (2 ^ 63 ≤ v.toNat) := by
    rw [← BitVec.msb_eq_getLsbD_last]
    exact BitVec.msb_eq_decide v
  have := a.isLt
  have := b.isLt
  unfold key64 at hk
  rw [hs] at hk
  rw [sign, sign, decide_eq_decide] at hs
  refine BitVec.eq_of_toNat_eq ?_
  split at hk <;> omega

theorem wnat_toNat (a : Word) : wnat a.toNat = a := by rw [wnat, BitVec.ofNat_toNat, BitVec.setWidth_eq]

/-- Of two patterns that differ, equal keys mean the two zeros, of which the one with the sign goes first. -/
theorem fmt64_key0_lt_of_ne {a b : Word} (h : a ≠ b) :
    fmt64.key0 a.toNat < fmt64.key0 b.toNat ↔ key64 a < key64 b ∨ (key64 a = key64 b ∧ a.getLsbD 63 = true) := by
  rw [fmt64_key0_lt]
  refine or_congr_right (and_congr_right fun hk => and_iff_left_of_imp fun hs => ?_)
  rw [← Bool.not_eq_true]
  exact fun ht => h (eq_of_key64 hk (hs.trans ht.symm))

theorem fmt64_key0_gt_of_ne {a b : Word} (h : a ≠ b) :
    fmt64.key0 b.toNat < fmt64.key0 a.toNat ↔ ¬ (key64 a < key64 b ∨ (key64 a = key64 b ∧ a.getLsbD 63 = true)) := by
  rw [fmt64_key0_lt_of_ne h.symm]
  have signs (hk : key64 a = key64 b) : b.getLsbD 63 = true ↔ ¬ a.getLsbD 63 = true := by
    have differ : b.getLsbD 63 ≠ a.getLsbD 63 := fun hs => h (eq_of_key64 hk hs.symm)
    rw [Bool.eq_not.2 differ, Bool.not_eq_true', Bool.not_eq_true]
  rcases Int.lt_trichotomy (key64 a) (key64 b) with hk | hk | hk
  · simp only [hk, hk.ne', true_or, not_true, false_and, or_false, iff_false]
    omega
  · rw [signs hk, hk]
    simp
  · simp only [hk, hk.ne', true_or, true_iff, false_and, or_false]
    omega

/-- The choice that `min64` and `max64` make is one of the two operands, by one order. -/
theorem ite_key64 (a b u v : Word) :
    (if key64 a < key64 b then u else if key64 b < key64 a then v else if a.getLsbD 63 then u else v) =
      if key64 a < key64 b ∨ (key64 a = key64 b ∧ a.getLsbD 63 = true) then u else v := by
  rcases Int.lt_trichotomy (key64 a) (key64 b) with hk | hk | hk
  · rw [if_pos hk, if_pos (.inl hk)]
  · simp only [hk, lt_irrefl, if_false, false_or, true_and]
  · rw [if_neg (by omega), if_pos hk, if_neg (by omega)]

theorem fmt64_minNum (a b : Word) : wnat (fmt64.minNum a.toNat b.toNat) = min64 a b := by
  unfold Fmt.minNum Fmt.minN min64
  rw [fmt64_isNan, fmt64_isNan, ite_key64]
  cases isNan64 a <;> cases isNan64 b <;> simp only [Bool.false_eq_true, if_false, if_true, Bool.or_false, wnat_toNat]
  · rw [← apply_ite BitVec.toNat, wnat_toNat]
    by_cases h : a = b
    · rw [h, ite_self, ite_self]
    · simp only [fmt64_key0_gt_of_ne h, ite_not]
  · rfl

theorem fmt64_maxNum (a b : Word) : wnat (fmt64.maxNum a.toNat b.toNat) = max64 a b := by
  unfold Fmt.maxNum Fmt.maxN max64
  rw [fmt64_isNan, fmt64_isNan, ite_key64]
  cases isNan64 a <;> cases isNan64 b <;> simp only [Bool.false_eq_true, if_false, if_true, Bool.or_false, wnat_toNat]
  · rw [← apply_ite BitVec.toNat, wnat_toNat]
    by_cases h : a = b
    · rw [h, ite_self, ite_self]
    · simp only [fmt64_key0_lt_of_ne h]
  · rfl

/-- What a comparison of two patterns that are no NaN answers. -/
theorem fmt64_compare {p : Prop} [Decidable p] (a b : Word) :
    wnat (! fmt64.isNan a.toNat && ! fmt64.isNan b.toNat && decide p).toNat =
      oneIf (isNan64 a = false ∧ isNan64 b = false ∧ p) := by
  rw [fmt64_isNan, fmt64_isNan]
  cases isNan64 a <;> cases isNan64 b <;> by_cases hp : p <;> simp [oneIf, hp]

/-- A value toward zero in 64 bits (R89): its magnitude, cut at the ends of the range. -/
theorem toSat_rtz (v : FV) :
    v.toSat 64 .rtz = (match v with
      | .nan => 0
      | .inf s => if s then -(2 ^ 63) else 2 ^ 63 - 1
      | .fin s m e =>
        let n : Int := if 0 ≤ e then m * 2 ^ e.toNat else m / 2 ^ (-e).toNat
        if s then max (-(2 ^ 63)) (-n) else min (2 ^ 63 - 1) n) := by
  cases v with
  | nan => rfl
  | inf s => rfl
  | fin s m e =>
    have cut (sh : Nat) : roundShift s m sh .rtz = m / 2 ^ sh := by
      unfold roundShift
      dsimp only
      split <;> rfl
    have magnitude : (if 0 ≤ e then (m : Int) * 2 ^ e.toNat else m / 2 ^ (-e).toNat) =
        ((if 0 ≤ e then m * 2 ^ e.toNat else roundShift s m (-e).toNat .rtz : Nat) : Int) := by
      rw [cut]
      split <;> push_cast <;> rfl
    dsimp only [FV.toSat, FV.toInt]
    rw [magnitude]
    generalize (if 0 ≤ e then m * 2 ^ e.toNat else roundShift s m (-e).toNat .rtz) = n
    cases s
    · simp only [signed]
      simp
    · simp only [signed]
      simp

/-! ### Words that write a value they read -/

/-- A word whose body writes `v` to `x[d]` and completes. -/
theorem control_puts {body : Nat → Nat → State → Res} {v : Word} (h : Issues 0 i k s)
    (hb : body s.cur.1 s.cur.2 (s.issued k) = .done ((s.issued k).updCtx s.cur.1 s.cur.2 (fun t => t.wr d v))) :
    control i k s body = .next (((s.issued k).put d v).finished k) := by
  rw [control_finished h hb (by rw [State.updCtx_cur, issued_cur]), State.put, issued_cur]

theorem issued_time (s : State) (k : Tk) : (s.issued k).time = s.time := by rw [(issued_frame s k).rest]

theorem issued_task (s : State) (k : Tk) : ((s.issued k).core s.cur.1).task = (s.core s.cur.1).task := (issued_sameSpace s k).task

theorem issued_frameOf (s : State) (k : Tk) : (s.issued k).frameOf s.cur.1 = s.frameOf s.cur.1 := by
  rw [State.frameOf, (issued_sameSpace s k).pdk, (issued_sameSpace s k).coreBlk, State.frameOf]

theorem issued_slotVal (s : State) (k : Tk) (n : Nat) : ((s.issued k).core s.cur.1).slotVal n = (s.core s.cur.1).slotVal n := by
  rw [Core.slotVal, (issued_frame s k).unit, Core.slotVal]

/-- A field of the task's number (R132). -/
theorem widField_eq (w : Word) (ws : List Nat) (n : Nat) :
    widField w ws n = (w >>> (ws.take n).sum) &&& BitVec.ofNat 64 (2 ^ ws.getD n 0 - 1) := by
  refine BitVec.eq_of_getLsbD_eq fun j hj => ?_
  rw [widField, wnat, wbits, bits, BitVec.getLsbD_and, BitVec.getLsbD_ushiftRight, BitVec.getLsbD_ofNat, BitVec.getLsbD_ofNat,
    Nat.testBit_mod_two_pow, Nat.testBit_div_two_pow, Nat.testBit_two_pow_sub_one, BitVec.getLsbD, Nat.add_comm j]
  rw [decide_eq_true hj, Bool.true_and, Bool.true_and, Bool.and_comm]

theorem execTwid_puts {n : BitVec 8} (h : Issues 0 (.twid k d n) k s) :
    execTwid k d n s = .next (((s.issued k).put d (match (s.core s.cur.1).task with
      | none => 0
      | some tk =>
        if n = 6 then tk.wid
        else (tk.wid >>> (tk.widths.take n.toNat).sum) &&& BitVec.ofNat 64 (2 ^ tk.widths.getD n.toNat 0 - 1))).finished k) := by
  refine control_puts h ?_
  rw [issued_task]
  cases (s.core s.cur.1).task with
  | none => rfl
  | some tk =>
    dsimp only
    rw [widField_eq]

end

theorem fpWord_finished {s : State} {k : Tk} {i : Instr} {d : Reg} {v : Word} (hi : fpResult i s.now = some (k, d, v)) (h : Issues 0 i k s) :
    exec i s = .next (((s.issued k).put d v).finished k) := by
  cases i
  case faddD | fsubD | fmulD | fdivD | fsqrtD | fcvtDL =>
    cases hi
    exact regWord_finished h
  case fminD =>
    cases hi
    rw [← fmt64_minNum]
    exact regWord_finished h
  case fmaxD =>
    cases hi
    rw [← fmt64_maxNum]
    exact regWord_finished h
  case feqD | fltD | fleD =>
    cases hi
    rw [← fmt64_compare]
    exact regWord_finished h
  case fcvtLD =>
    cases hi
    refine (regWord_finished h).trans ?_
    rw [toSat_rtz]
    rfl
  all_goals cases hi

/-- Settles O10. -/
theorem scalarAndReadResultsWritten : Obligations.ScalarAndReadResultsWritten := by
  unfold Obligations.ScalarAndReadResultsWritten
  refine ⟨fun s i k d v => fpWord_finished, fun s i k d v hi h hfull => ?_⟩
  cases i
  case cid k d =>
    cases hi
    dsimp only [exec, execCid]
    exact control_puts h rfl
  case rtime k d =>
    cases hi
    rw [← issued_time s k]
    dsimp only [exec, execRtime]
    exact control_puts h rfl
  case rframe k d =>
    cases hi
    rw [show (s.pdk (s.coreBlk s.cur.1)).frame = s.frameOf s.cur.1 from rfl, ← issued_frameOf s k]
    dsimp only [exec, execRframe]
    exact control_puts h rfl
  case twid k d n =>
    cases hi
    exact execTwid_puts h
  case prd k d a =>
    cases hi
    dsimp only [exec, execPrd]
    refine control_puts h ((if_neg ?_).trans ?_)
    · rw [issued_slotFull, Core.slotFull, hfull a rfl]
      decide
    · rw [issued_slotVal]
      rfl
  all_goals cases hi

end Sys2Proof.Machine
end

section
/-!
SUPPORT. Completing a word and transferring control: the pc and the loop counters that each leaves (R11, R78, R81).
-/
namespace Sys2Proof.Machine
section

variable {s t : State} {c x n m : Nat} {k : Tk} {i : Instr} {a : Word} {u v : Ctx}

/-! ### Loop counters -/

theorem Ctx.Marks.lc (h : Ctx.Marks u v) : v.lc = u.lc := by
  unfold Ctx.Marks at h
  rw [h]

theorem Ctx.loopCtr_congr (h : v.lc = u.lc) (n : Nat) : v.loopCtr n = u.loopCtr n := by rw [Ctx.loopCtr, h, Ctx.loopCtr]

@[simp] theorem Ctx.loopCtr_setLoop_self (t : Ctx) (n : Nat) (l : LoopCtr) : (t.setLoop n l).loopCtr n = l := Map.get_set_self ..

theorem Ctx.loopCtr_setLoop_ne (t : Ctx) (l : LoopCtr) (h : n ≠ m) : (t.setLoop m l).loopCtr n = t.loopCtr n := Map.get_set_ne _ _ _ h

/-! ### Completing (R11, R78) -/

theorem State.retire_marks (s : State) (c x : Nat) : Ctx.Marks (s.ctx c x) ((s.retire c x).ctx c x) := State.retireAt_marks s c x _

/-- Where the kernel-boundary step of counter n leads, with `req` the pre-emption request. -/
theorem Ctx.kernelBoundary_spec (t : Ctx) (n : Nat) (req : Bool) :
    ((t.kernelBoundary n req).1.loopCtr n).iter = (t.loopCtr n).iter + 1 ∧
    (if (t.loopCtr n).iter + 1 < (t.loopCtr n).endAt ∧ (t.loopCtr n).pre = true ∧ req = true then
      ((t.kernelBoundary n req).1.loopCtr n).clamp = true ∧ ((t.kernelBoundary n req).1.loopCtr n).act = false ∧
        (t.kernelBoundary n req).2 = (t.loopCtr n).last + 4
    else if (t.loopCtr n).iter + 1 < (t.loopCtr n).endAt then
      ((t.kernelBoundary n req).1.loopCtr n).act = (t.loopCtr n).act ∧ (t.kernelBoundary n req).2 = (t.loopCtr n).start
    else ((t.kernelBoundary n req).1.loopCtr n).act = false ∧ (t.kernelBoundary n req).2 = (t.loopCtr n).last + 4) := by
  unfold Ctx.kernelBoundary
  dsimp only
  split
  · simp
  · split <;> simp

theorem Ctx.act_of_loopAt {t : Ctx} (h : t.loopAt a = some n) : (t.loopCtr n).act = true := by
  have found := List.find?_some h
  simp only [Bool.and_eq_true] at found
  exact found.1.1

theorem Ctx.advance_some {t : Ctx} (req : Bool) (h : t.loopAt t.pc = some n) :
    t.advance req = { (t.kernelBoundary n req).1 with pc := (t.kernelBoundary n req).2 } := by rw [Ctx.advance, h]

theorem Ctx.advance_none {t : Ctx} (req : Bool) (h : t.loopAt t.pc = none) : t.advance req = { t with pc := t.pc + 4 } := by
  rw [Ctx.advance, h]

/-- Counting a word leaves its loops, and its pc, to the kernel-boundary step. -/
theorem finishWord_advances (s : State) (c x : Nat) (k : Tk) :
    ∃ u, Ctx.Marks (s.ctx c x) u ∧ Ctx.Marks (u.advance (s.preReq c)) ((finishWord s c x k).ctx c x) := by
  refine ⟨(s.retire c x).ctx c x, s.retire_marks c x, ?_⟩
  unfold finishWord
  rw [← State.ctx_updCtx_self (s := s.retire c x) c x (fun t => t.advance (s.preReq c))]
  exact State.signals_marks ..

/-! ### Transfers (R81) -/

/-- A loop counter after a transfer to `a` at level `pl`. -/
def LoopCtr.left (l : LoopCtr) (pl : BitVec 2) (a : Word) : LoopCtr :=
  if l.act = true ∧ l.pl = pl ∧ ¬ (l.start ≤ a ∧ a ≤ l.last) then { l with act := false } else l

theorem LoopCtr.left_left (l : LoopCtr) (pl : BitVec 2) : (l.left pl a).left pl a = l.left pl a := by
  unfold LoopCtr.left
  split <;> simp_all

/-- The step of `Ctx.abandon` for one counter. -/
def Ctx.leave (a : Word) (t : Ctx) (m : Nat) : Ctx :=
  let l := t.loopCtr m
  if l.act ∧ l.pl = t.pl ∧ ¬ (l.start ≤ a ∧ a ≤ l.last) then t.setLoop m { l with act := false } else t

theorem Ctx.abandon_eq (t : Ctx) (a : Word) : t.abandon a = (List.range 4).foldl (Ctx.leave a) t := rfl

theorem Ctx.leave_pl (t : Ctx) (a : Word) (m : Nat) : (t.leave a m).pl = t.pl := by
  unfold Ctx.leave
  dsimp only
  split <;> rfl

theorem Ctx.leave_loopCtr (t : Ctx) (a : Word) (m n : Nat) :
    (t.leave a m).loopCtr n = if n = m then (t.loopCtr n).left t.pl a else t.loopCtr n := by
  unfold Ctx.leave LoopCtr.left
  dsimp only
  by_cases hn : n = m
  · subst hn
    split <;> simp
  · rw [if_neg hn]
    split
    · exact Ctx.loopCtr_setLoop_ne _ _ hn
    · rfl

/-- The steps of a list of counters clear each of them by its own field, in whatever order. -/
theorem Ctx.foldl_leave_loopCtr (t : Ctx) (ms : List Nat) (n : Nat) :
    (ms.foldl (Ctx.leave a) t).loopCtr n = if n ∈ ms then (t.loopCtr n).left t.pl a else t.loopCtr n := by
  induction ms generalizing t with
  | nil => rfl
  | cons m ms ih =>
    rw [List.foldl_cons, ih, t.leave_pl, t.leave_loopCtr]
    by_cases hn : n = m
    · simp [hn, LoopCtr.left_left]
    · simp [hn]

theorem Ctx.abandon_loopCtr (t : Ctx) (h : n < 4) : (t.abandon a).loopCtr n = (t.loopCtr n).left t.pl a := by
  rw [Ctx.abandon_eq, Ctx.foldl_leave_loopCtr, if_pos (List.mem_range.2 h)]

/-- What a transfer leaves of its context: the loops that it has left, and its target. -/
theorem transferred_now (s : State) (k : Tk) (a : Word) :
    ∃ u, Ctx.Marks s.now u ∧ Ctx.Marks { u.abandon a with pc := a } (s.transferred k a).now := by
  refine ⟨(s.retire s.cur.1 s.cur.2).ctx s.cur.1 s.cur.2, s.retire_marks s.cur.1 s.cur.2, ?_⟩
  have marks := State.signals_marks ((s.retire s.cur.1 s.cur.2).updCtx s.cur.1 s.cur.2 (fun u => { u.abandon a with pc := a })) s.cur.1 s.cur.2
    (signalFifos k s.cur.2)
  rw [State.ctx_updCtx_self] at marks
  unfold State.now State.transferred
  rw [State.signals_cur, State.updCtx_cur, State.retire, State.retireAt_cur]
  exact marks

theorem Ctx.Marks.pl (h : Ctx.Marks u v) : v.pl = u.pl := by
  unfold Ctx.Marks at h
  rw [h]
  rfl

theorem transferred_pc (s : State) (k : Tk) (a : Word) : (s.transferred k a).now.pc = a := by
  obtain ⟨u, -, moved⟩ := transferred_now s k a
  exact moved.sameRegs.2

/-- A taken transfer clears the loops of its level that do not hold its target, and no other (R81). -/
theorem transferred_loopCtr (s : State) (k : Tk) (a : Word) (h : n < 4) :
    (s.transferred k a).now.loopCtr n = (s.now.loopCtr n).left s.now.pl a := by
  obtain ⟨u, counted, moved⟩ := transferred_now s k a
  rw [Ctx.loopCtr_congr moved.lc, ← Ctx.loopCtr_congr counted.lc, ← counted.pl]
  exact u.abandon_loopCtr h

/-! ### Branches and jumps (R69 to R74) -/

/-- A branch that issues transfers where its condition holds, and completes otherwise. -/
theorem branchIf_ends {o : BitVec 8} {p : Ctx → Bool} {taken : Bool} (h : Issues 0 i k s) (hp : p s.now = taken) :
    branchIf i k o s p =
      .next (if taken then (s.issued k).transferred k (s.now.pc + 4 * o.signExtend 64) else (s.issued k).finished k) := by
  cases taken
  · refine control_finished h ?_ (issued_cur s k)
    dsimp only
    rw [issued_ctx, ← State.now, hp]
    rfl
  · refine control_transferred h ?_ (issued_cur s k)
    dsimp only
    rw [issued_ctx, ← State.now, hp]
    rfl

theorem branchSlot_ends {p : BitVec 4} {o : BitVec 16} {pol taken : Bool} (h : Issues 0 i k s)
    (hf : (s.core s.cur.1).slotFull p.toNat = true)
    (hp : ((s.core s.cur.1).slotVal p.toNat ≠ 0) = (pol = true) ↔ taken = true) :
    branchSlot i k p o s pol =
      .next (if taken then (s.issued k).transferred k (s.now.pc + 4 * o.signExtend 64) else (s.issued k).finished k) := by
  have full : ¬ ((s.issued k).core s.cur.1).slotFull p.toNat = false := by
    rw [issued_slotFull, hf]
    decide
  cases taken
  · refine control_finished h ?_ (issued_cur s k)
    dsimp only
    rw [if_neg full, issued_slotVal, if_neg (mt hp.1 Bool.false_ne_true)]
  · refine control_transferred h ?_ (issued_cur s k)
    dsimp only
    rw [if_neg full, issued_slotVal, if_pos (hp.2 rfl), issued_ctx]
    rfl

theorem execJal_links {d : Reg} {o : BitVec 16} (h : Issues 0 (.jal k d o) k s) :
    execJal k d o s = .next (((s.issued k).put d (s.now.pc + 4)).transferred k (s.now.pc + 4 * o.signExtend 64)) := by
  refine control_transferred h ?_ (by rw [State.put, State.updCtx_cur, issued_cur])
  dsimp only
  rw [State.put, issued_cur, State.updCtx, issued_ctx]
  rfl

/-- `jalr` reads its base before it links, and links nothing where its target is misaligned (R74). -/
theorem execJalr_links {d r : Reg} {o : BitVec 11} (h : Issues 0 (.jalr k d r o) k s) :
    execJalr k d r o s =
      .next (if (s.now.rd r + o.signExtend 64).toNat % 4 = 0
        then ((s.issued k).put d (s.now.pc + 4)).transferred k (s.now.rd r + o.signExtend 64)
        else s.raised Cause.misal (s.now.rd r + o.signExtend 64)) := by
  by_cases ha : (s.now.rd r + o.signExtend 64).toNat % 4 = 0
  · rw [if_pos ha]
    refine control_transferred h ?_ (by rw [State.put, State.updCtx_cur, issued_cur])
    dsimp only
    rw [State.put, issued_cur, State.updCtx, issued_ctx, ← State.now, if_pos (show aligned _ 4 = true from decide_eq_true ha)]
  · rw [if_neg ha]
    refine control_raised h ?_
    dsimp only
    rw [issued_ctx, ← State.now, if_neg (Bool.not_eq_true _ ▸ show aligned _ 4 = false from decide_eq_false ha)]

end
/-- Settles O12: the frame and the moves of a completed word, and the kernel-boundary step of a loop that ends at it. -/
theorem completionAdvances : Obligations.CompletionAdvances := by
  unfold Obligations.CompletionAdvances
  intro s k
  have now : (s.finished k).now = (finishWord s s.cur.1 s.cur.2 k).ctx s.cur.1 s.cur.2 := by
    rw [State.now, State.finished, finishWord_cur]
  obtain ⟨u, counted, moved⟩ := finishWord_advances s s.cur.1 s.cur.2 k
  have pc : u.pc = s.now.pc := counted.sameRegs.2
  have at_ : u.loopAt u.pc = s.now.loopAt s.now.pc := by rw [pc, counted.loopAt, State.now]
  have before (n : Nat) : u.loopCtr n = s.now.loopCtr n := Ctx.loopCtr_congr counted.lc n
  rw [now]
  refine ⟨CtxFrame.finishWord .., finishWord_moves .., finishWord_retired .., fun hl => ?_, fun n hl => ?_⟩
  · rw [moved.sameRegs.2, moved.lc, Ctx.advance_none _ (at_.trans hl), pc, counted.lc]
    exact ⟨rfl, rfl⟩
  · dsimp only
    rw [moved.sameRegs.2, Ctx.loopCtr_congr moved.lc, Ctx.advance_some _ (at_.trans hl)]
    obtain ⟨hiter, hstep⟩ := u.kernelBoundary_spec n (s.preReq s.cur.1)
    rw [before] at hiter hstep
    rw [Ctx.act_of_loopAt hl] at hstep
    exact ⟨hiter, hstep⟩

/-- Settles O13. -/
theorem transfersJumpLinkAndClearLoops : Obligations.TransfersJumpLinkAndClearLoops := by
  unfold Obligations.TransfersJumpLinkAndClearLoops
  refine ⟨fun s i k slot taken a hi h hfull => ?_, fun s k d a => ⟨fun o => execJal_links, fun o => execJalr_links⟩,
    fun s k a n hn => ⟨transferred_pc s k a, transferred_loopCtr s k a hn⟩⟩
  cases i
  case beq | blt | bltu | bbusy | bfree =>
    cases hi
    dsimp only [exec, execBeq, execBlt, execBltu, execBbusy, execBfree]
    exact branchIf_ends h rfl
  case bne =>
    cases hi
    dsimp only [exec, execBne]
    exact branchIf_ends h decide_not
  case bge | bgeu =>
    cases hi
    dsimp only [exec, execBge, execBgeu]
    refine branchIf_ends h (decide_not.symm.trans (decide_eq_decide.2 ?_))
    exact not_lt
  case bpt k p o =>
    cases hi
    refine branchSlot_ends h (hfull _ rfl) ?_
    simp [Core.slotVal]
  case bpf k p o =>
    cases hi
    refine branchSlot_ends h (hfull _ rfl) ?_
    simp [Core.slotVal]
  all_goals cases hi

end Sys2Proof.Machine
end

section
/-!
SUPPORT. The loop words and the capacity buckets (R76, R77, R80, R84).
-/
namespace Sys2Proof.Machine
section

variable {s : State} {k : Tk} {d a : Reg} {t : Ctx}

/-! ### `lpset` and `lpres` -/

/-- A trip count of 32 bits has no high bit. -/
theorem wbits_high_zero {v : Word} (h : v.toNat < 2 ^ 32) : wbits v 32 32 = 0 := by
  unfold wbits bits
  omega

/-- A kernel lies inside every active loop of its level (R81). -/
theorem Ctx.nestedOk_of {start last : Word}
    (h : ∀ m, m < 4 → (t.loopCtr m).act = true → (t.loopCtr m).pl = t.pl → (t.loopCtr m).start ≤ start ∧ last < (t.loopCtr m).last) :
    t.nestedOk start last = true := by
  unfold Ctx.nestedOk
  rw [List.all_eq_true]
  intro m hm
  by_cases ha : (t.loopCtr m).act = true ∧ (t.loopCtr m).pl = t.pl
  · have inside := h m (List.mem_range.1 hm) ha.1 ha.2
    simp [inside.1, inside.2]
  · have out : ((t.loopCtr m).act && decide ((t.loopCtr m).pl = t.pl)) = false := by simpa using ha
    simp only [out, Bool.not_false, Bool.true_or]

/-- The counter that `lpset` arms, or leaves at rest when no pass is left to run (R76). -/
def Ctx.armed (t : Ctx) (l : LoopCtr) (count : Word) (len : BitVec 8) : LoopCtr :=
  { l with
    iter := if l.bp then l.iter else 0, pre := l.bp, bp := false, clamp := false, endAt := count.setWidth 32, len := len
    start := t.pc + 4, pl := t.pl, act := decide ((if l.bp then l.iter else 0) < count.setWidth 32) }

theorem execLpset_arms {len : BitVec 8} (h : Issues 0 (.lpset k d a len) k s) (hact : (s.now.loopCtr d.toNat).act = false)
    (hcount : (s.now.rd a).toNat < 2 ^ 32) (hin : s.now.nestedOk (s.now.pc + 4) (s.now.pc + 4 * len.setWidth 64) = true) :
    execLpset k d a len s =
      .next (((s.issued k).setNow (s.now.setLoop d.toNat (s.now.armed (s.now.loopCtr d.toNat) (s.now.rd a) len))).wentTo k
        (if (s.now.armed (s.now.loopCtr d.toNat) (s.now.rd a) len).act then s.now.pc + 4
          else s.now.pc + 4 + 4 * len.setWidth 64)) := by
  refine control_wentTo h ?_ (by rw [State.setNow, State.setCtx_cur, issued_cur])
  dsimp only
  rw [issued_ctx, ← State.now, if_neg (by rw [hact]; decide), if_neg (by rw [wbits_high_zero hcount]; decide),
    if_neg (by rw [hin]; decide), State.setNow, issued_cur]
  unfold Ctx.armed
  by_cases hrun : (if (s.now.loopCtr d.toNat).bp = true then (s.now.loopCtr d.toNat).iter else 0) < (s.now.rd a).setWidth 32
  · rw [if_neg (BitVec.not_le.2 hrun)]
    simp only [decide_eq_true hrun, if_true]
  · rw [if_pos (BitVec.not_lt.1 hrun)]
    simp only [decide_eq_false hrun, Bool.false_eq_true, if_false]

/-- The counter that the entry form of `lpres` prepares, at the pc of the word (R77). -/
def LoopCtr.entered (l : LoopCtr) (pc : Word) : LoopCtr :=
  { l with iter := if l.rsv then l.iter else 0, rsv := false, clamp := false, bp := true, head := pc }

theorem execLpresEntry_enters (h : Issues 0 (.lpresEntry k d a) k s) (hact : (s.now.loopCtr a.toNat).act = false) :
    execLpresEntry k d a s =
      .next (((s.issued k).setNow ((s.now.setLoop a.toNat ((s.now.loopCtr a.toNat).entered s.now.pc)).wr d
        (((s.now.loopCtr a.toNat).entered s.now.pc).iter.setWidth 64))).wentTo k (s.now.pc + 4)) := by
  refine control_wentTo h ?_ (by rw [State.setNow, State.setCtx_cur, issued_cur])
  dsimp only
  rw [issued_ctx, ← State.now, if_neg (by rw [hact]; decide), State.setNow, issued_cur]
  rfl

theorem execLpresExit_goes (h : Issues 0 (.lpresExit k a) k s) (hact : (s.now.loopCtr a.toNat).act = false)
    (hclamp : (s.now.loopCtr a.toNat).clamp = false) : execLpresExit k a s = .next ((s.issued k).wentTo k (s.now.pc + 4)) := by
  refine control_wentTo h ?_ (issued_cur s k)
  dsimp only
  rw [issued_ctx, ← State.now, if_neg (by rw [hact]; decide), if_neg (by rw [hclamp]; decide)]

theorem execLpresExit_parks (h : Issues 0 (.lpresExit k a) k s) (hact : (s.now.loopCtr a.toNat).act = false)
    (hclamp : (s.now.loopCtr a.toNat).clamp = true) (hsig : s.now.heldSig = []) :
    execLpresExit k a s = .next (s.setNow { s.now.unwait with run := .parked }) := by
  refine control_parks h ?_
  dsimp only
  rw [issued_ctx, ← State.now, if_neg (by rw [hact]; decide), if_pos hclamp, hsig]

/-! ### The bucket of a count (R84) -/

/-- The bound of a bucket, and the buckets that hold a count. -/
def Ctx.bktSize (t : Ctx) (j : Nat) : Nat := (Map.get 0 t.bktBound j).toNat % 2 ^ 32
def Ctx.Fits (t : Ctx) (n j : Nat) : Prop := (Map.get 0 t.bktBound j).getLsbD 63 = true ∧ n ≤ t.bktSize j

theorem wbits_bktBound (t : Ctx) (j : Nat) : wbits (Map.get 0 t.bktBound j) 0 32 = t.bktSize j := by
  rw [wbits, bits, Nat.pow_zero, Nat.div_one, Ctx.bktSize]

/-- Bucket j of the first m holds n with the smallest bound, and with a smaller one than every lower bucket that holds n. -/
structure Ctx.Best (t : Ctx) (n m j : Nat) : Prop where
  inRange : j < m
  fits    : t.Fits n j
  least   : ∀ i, i < m → t.Fits n i → t.bktSize j ≤ t.bktSize i
  first   : ∀ i, i < j → t.Fits n i → t.bktSize j < t.bktSize i

theorem Ctx.Best.unique {n m i j : Nat} (hi : t.Best n m i) (hj : t.Best n m j) : i = j := by
  have same : t.bktSize i = t.bktSize j := Nat.le_antisymm (hi.least j hj.inRange hj.fits) (hj.least i hi.inRange hi.fits)
  rcases Nat.lt_trichotomy i j with h | h | h
  · have := hj.first i h hi.fits
    omega
  · exact h
  · have := hi.first j h hj.fits
    omega

/-- The step of the search for a bucket. -/
def Ctx.bestStep (t : Ctx) (n : Nat) (best : Option Nat) (i : Nat) : Option Nat :=
  let e := Map.get 0 t.bktBound i
  if e.getLsbD 63 ∧ n ≤ wbits e 0 32 then
    match best with
    | none => some i
    | some j => if wbits e 0 32 < wbits (Map.get 0 t.bktBound j) 0 32 then some i else best
  else best

theorem Ctx.bestStep_skips {n i : Nat} {best : Option Nat} (hf : ¬ t.Fits n i) : t.bestStep n best i = best := by
  unfold Ctx.bestStep
  dsimp only
  rw [wbits_bktBound]
  exact if_neg hf

theorem Ctx.bestStep_none {n i : Nat} (hf : t.Fits n i) : t.bestStep n none i = some i := by
  unfold Ctx.bestStep
  dsimp only
  rw [wbits_bktBound]
  exact if_pos hf

theorem Ctx.bestStep_some {n i j : Nat} (hf : t.Fits n i) :
    t.bestStep n (some j) i = if t.bktSize i < t.bktSize j then some i else some j := by
  unfold Ctx.bestStep
  dsimp only
  rw [wbits_bktBound, wbits_bktBound]
  exact if_pos hf

/-- What the search has found among the first m buckets. -/
def Ctx.Found (t : Ctx) (n m : Nat) : Option Nat → Prop
  | none => ∀ j, j < m → ¬ t.Fits n j
  | some j => t.Best n m j

theorem Ctx.bestStep_found {n m : Nat} {best : Option Nat} (h : t.Found n m best) : t.Found n (m + 1) (t.bestStep n best m) := by
  have upTo {p : Nat → Prop} (hp : ∀ i, i < m → p i) (hm : p m) (i : Nat) (hi : i < m + 1) : p i :=
    (Nat.lt_succ_iff_lt_or_eq.1 hi).elim (hp i) fun e => e ▸ hm
  by_cases hf : t.Fits n m
  · cases best with
    | none =>
      rw [Ctx.bestStep_none hf]
      have none_below (i : Nat) (hi : i < m) (hfi : t.Fits n i) : t.bktSize m < t.bktSize i := absurd hfi (h i hi)
      exact ⟨Nat.lt_succ_self m, hf, upTo (fun i hi hfi => (none_below i hi hfi).le) fun _ => Nat.le_refl _, none_below⟩
    | some j =>
      obtain ⟨hjm, hfj, hleast, hfirst⟩ := h
      rw [Ctx.bestStep_some hf]
      by_cases hlt : t.bktSize m < t.bktSize j
      · rw [if_pos hlt]
        have below (i : Nat) (hi : i < m) (hfi : t.Fits n i) : t.bktSize m < t.bktSize i := Nat.lt_of_lt_of_le hlt (hleast i hi hfi)
        exact ⟨Nat.lt_succ_self m, hf, upTo (fun i hi hfi => (below i hi hfi).le) fun _ => Nat.le_refl _, below⟩
      · rw [if_neg hlt]
        exact ⟨Nat.lt_succ_of_lt hjm, hfj, upTo hleast fun _ => Nat.not_lt.1 hlt, hfirst⟩
  · rw [Ctx.bestStep_skips hf]
    cases best with
    | none => exact upTo h hf
    | some j =>
      obtain ⟨hjm, hfj, hleast, hfirst⟩ := h
      exact ⟨Nat.lt_succ_of_lt hjm, hfj, upTo hleast fun hfm => absurd hfm hf, hfirst⟩

theorem Ctx.bucket_found (t : Ctx) (n : Nat) : t.Found n 8 (t.bucket n) := by
  have search (m : Nat) : t.Found n m ((List.range m).foldl (t.bestStep n) none) := by
    induction m with
    | zero => exact fun j hj => absurd hj (Nat.not_lt_zero j)
    | succ m ih =>
      rw [List.range_succ, List.foldl_append]
      exact Ctx.bestStep_found ih
  exact search 8

theorem Ctx.bucket_some {n j : Nat} (h : t.Best n 8 j) : t.bucket n = some j := by
  have found := t.bucket_found n
  cases hb : t.bucket n with
  | none =>
    rw [hb] at found
    exact absurd h.fits (found j h.inRange)
  | some i =>
    rw [hb] at found
    rw [found.unique h]

theorem Ctx.bucket_none {n : Nat} (h : ∀ j, j < 8 → ¬ t.Fits n j) : t.bucket n = none := by
  have found := t.bucket_found n
  cases hb : t.bucket n with
  | none => rfl
  | some i =>
    rw [hb] at found
    exact absurd found.fits (h i found.inRange)

theorem execBkt_fits {j : Nat} (h : Issues 0 (.bkt k d a) k s) (hb : s.now.bucket (s.now.rd a).toNat = some j) :
    execBkt k d a s =
      .next (((s.issued k).setNow { s.now.wr d (wnat (s.now.bktSize j)) with bz := false }).transferred k (Map.get 0 s.now.bktAddr j)) := by
  refine control_transferred h ?_ (by rw [State.setNow, State.setCtx_cur, issued_cur])
  dsimp only
  rw [issued_ctx, ← State.now, hb]
  dsimp only
  rw [wbits_bktBound, State.setNow, issued_cur]

theorem execBkt_overflows (h : Issues 0 (.bkt k d a) k s) (hb : s.now.bucket (s.now.rd a).toNat = none) :
    execBkt k d a s =
      .next (((s.issued k).setNow { s.now.wr d (s.now.rd a) with bz := true }).transferred k s.now.bktOvf) := by
  refine control_transferred h ?_ (by rw [State.setNow, State.setCtx_cur, issued_cur])
  dsimp only
  rw [issued_ctx, ← State.now, hb, State.setNow, issued_cur]

end

/-- Settles O14. -/
theorem loopWordsArmSkipAndPark : Obligations.LoopWordsArmSkipAndPark := by
  unfold Obligations.LoopWordsArmSkipAndPark
  refine ⟨fun s k d a len h => ?_, fun s k d a => ⟨fun h hact => ?_, fun h hact => ⟨fun hclamp => ?_, fun hclamp hsig => ?_⟩⟩⟩
  · intro l iter c hact hcount hin
    have armed := execLpset_arms h hact hcount (Ctx.nestedOk_of hin)
    rw [Ctx.armed] at armed
    exact armed
  · exact execLpresEntry_enters h hact
  · exact execLpresExit_goes h hact hclamp
  · exact execLpresExit_parks h hact hclamp hsig

/-- Settles O15: the search finds the one bucket that the statement describes, or none. -/
theorem bucketRoundsUp : Obligations.BucketRoundsUp := by
  unfold Obligations.BucketRoundsUp
  intro s k d a h
  dsimp only
  refine ⟨fun j ⟨hj, hv, hn⟩ hleast hfirst => ?_, fun hnone => ?_⟩
  · refine execBkt_fits h (Ctx.bucket_some ⟨hj, ⟨hv, hn⟩, fun i hi hf => hleast i ⟨hi, hf⟩, fun i hi hf => hfirst i ⟨by omega, hf⟩ hi⟩)
  · exact execBkt_overflows h (Ctx.bucket_none fun j hj hf => hnone j ⟨hj, hf⟩)

end Sys2Proof.Machine
end

section
/-!
SUPPORT. The CSRs that a program may write at their level, each as a field of its context (R52, R94), the writable fields of the status
(R26), and the bank that the trap registers name (R22).
-/
namespace Sys2Proof.Machine
section

variable {s : State} {c x : Nat} {t : Ctx} {v : Word}

/-! ### The registers of the table -/

/-- A register of `csrMask`. -/
inductive CsrReg where
  | fvec | fepc | slk | gwait | vseed | bktOvf
  | sk (j : Fin 16)
  | bktBound (j : Fin 8)
  | bktAddr (j : Fin 8)

namespace CsrReg

def num : CsrReg → Nat
  | fvec => 0x000
  | fepc => 0x001
  | slk => 0x002
  | gwait => 0x003
  | vseed => 0x009
  | bktOvf => 0x060
  | sk j => 0x040 + j
  | bktBound j => 0x050 + j
  | bktAddr j => 0x058 + j

def mask : CsrReg → Word
  | slk => 0xf
  | gwait => 0xffffff
  | vseed => 0xffff
  | sk _ => 0xfff0fff
  | bktBound _ => 0x80000000ffffffff
  | fvec | fepc | bktOvf | bktAddr _ => 0x0000fffffffffffc

/-- The value of a register in its context. -/
def read (t : Ctx) : CsrReg → Word
  | fvec => t.fvec
  | fepc => t.fepc
  | slk => t.slk.setWidth 64
  | gwait => t.gwait.setWidth 64
  | vseed => t.vseed.setWidth 64
  | bktOvf => t.bktOvf
  | sk j => (t.skEntry j).setWidth 64
  | bktBound j => Map.get 0 t.bktBound j
  | bktAddr j => Map.get 0 t.bktAddr j

/-- The context after a write of a register. -/
def write (t : Ctx) (v : Word) : CsrReg → Ctx
  | fvec => { t with fvec := v &&& addrMask }
  | fepc => { t with fepc := v &&& addrMask }
  | slk => { t with slk := v.setWidth 4 }
  | gwait => { t with gwait := v.setWidth 24 }
  | vseed => { t with vseed := v.setWidth 16, seedSet := true }
  | bktOvf => { t with bktOvf := v &&& addrMask }
  | sk j => { t with sk := Map.set 0x0400400 t.sk j (v.setWidth 28 &&& 0xfff0fff) }
  | bktBound j => { t with bktBound := Map.set 0 t.bktBound j (v &&& 0x80000000ffffffff) }
  | bktAddr j => { t with bktAddr := Map.set 0 t.bktAddr j (v &&& addrMask) }

theorem of_csrMask {n : Nat} {m : Word} (h : csrMask n = some m) : ∃ r : CsrReg, r.num = n ∧ r.mask = m := by
  unfold csrMask at h
  split_ifs at h with h1 h2 h3 h4 h5 h6 h7 <;> cases h
  · rcases h1 with rfl | rfl | rfl
    · exact ⟨fvec, rfl, rfl⟩
    · exact ⟨fepc, rfl, rfl⟩
    · exact ⟨bktOvf, rfl, rfl⟩
  · exact ⟨slk, h2.symm, rfl⟩
  · exact ⟨gwait, h3.symm, rfl⟩
  · exact ⟨vseed, h4.symm, rfl⟩
  · exact ⟨sk ⟨n - 0x040, by omega⟩, Nat.add_sub_cancel' h5.1, rfl⟩
  · exact ⟨bktBound ⟨n - 0x050, by omega⟩, Nat.add_sub_cancel' h6.1, rfl⟩
  · exact ⟨bktAddr ⟨n - 0x058, by omega⟩, Nat.add_sub_cancel' h7.1, rfl⟩

theorem csrValue_num (s : State) (c x : Nat) (r : CsrReg) : csrValue s c x r.num = r.read (s.ctx c x) := by
  cases r
  case sk j => fin_cases j <;> rfl
  case bktBound j => fin_cases j <;> rfl
  case bktAddr j => fin_cases j <;> rfl
  all_goals rfl

theorem csrWrite_num (s : State) (c x : Nat) (v : Word) (r : CsrReg) :
    csrWrite s c x r.num v = s.updCtx c x (fun t => r.write t v) := by
  cases r
  case sk j => fin_cases j <;> rfl
  case bktBound j => fin_cases j <;> rfl
  case bktAddr j => fin_cases j <;> rfl
  all_goals rfl

/-- The low bits of a word, back in a word. -/
theorem setWidth_setWidth_mask (v : Word) (n : Nat) :
    (v.setWidth n).setWidth 64 = v &&& BitVec.ofNat 64 (2 ^ n - 1) := by
  refine BitVec.eq_of_getLsbD_eq fun i hi => ?_
  rw [BitVec.getLsbD_setWidth, BitVec.getLsbD_setWidth, BitVec.getLsbD_and, BitVec.getLsbD_ofNat, Nat.testBit_two_pow_sub_one]
  simp [hi, Bool.and_comm]

/-- A written register reads its RW bits of the value, and 0 elsewhere. -/
theorem read_write_self (t : Ctx) (v : Word) (r : CsrReg) : r.read (r.write t v) = v &&& r.mask := by
  cases r
  case fvec | fepc | bktOvf => rfl
  case slk | gwait | vseed => exact setWidth_setWidth_mask v _
  case sk j =>
    dsimp only [read, write, mask, Ctx.skEntry]
    rw [Map.get_set_self, BitVec.setWidth_and, setWidth_setWidth_mask, BitVec.and_assoc]
    rfl
  case bktBound j => exact Map.get_set_self ..
  case bktAddr j => exact Map.get_set_self ..

/-- A write leaves every other register. -/
theorem read_write_ne (t : Ctx) (v : Word) {r q : CsrReg} (h : q.num ≠ r.num) : q.read (r.write t v) = q.read t := by
  cases r
  case sk j =>
    cases q
    case sk i =>
      dsimp only [read, write, Ctx.skEntry]
      rw [Map.get_set_ne _ _ _ fun e => h (by rw [num, num, e])]
    all_goals rfl
  case bktBound j =>
    cases q
    case bktBound i => exact Map.get_set_ne _ _ _ fun e => h (by rw [num, num, e])
    all_goals rfl
  case bktAddr j =>
    cases q
    case bktAddr i => exact Map.get_set_ne _ _ _ fun e => h (by rw [num, num, e])
    all_goals rfl
  all_goals cases q
  case fvec.fvec | fepc.fepc | slk.slk | gwait.gwait | vseed.vseed | bktOvf.bktOvf => exact absurd rfl h
  all_goals rfl

theorem write_keeps (t : Ctx) (v : Word) (r : CsrReg) : (r.write t v).x = t.x ∧ (r.write t v).status = t.status := by
  cases r <;> exact ⟨rfl, rfl⟩

end CsrReg

/-! ### The status at S (R26) -/

/-- One bit of a word as a field. -/
theorem getLsbD_putBits_wbit {w : Nat} (st : BitVec w) (v : Word) {i : Nat} (h : i < w) :
    (putBits st i 1 (wbits v i 1)).getLsbD i = v.getLsbD i := by
  rw [getLsbD_putBits, if_pos (by omega), Nat.sub_self, wbits, bits, Nat.testBit_mod_two_pow, Nat.testBit_div_two_pow]
  simp [BitVec.getLsbD]

/-- The fields that a write at S sets: SLE, SE and STIP. -/
def statusFlags (st : BitVec 12) (v : Word) : BitVec 12 :=
  putBits (putBits (putBits st 11 1 (wbits v 11 1)) 9 1 (wbits v 9 1)) 6 1 (wbits v 6 1)

theorem statusWrite_s (st : BitVec 12) (v : Word) :
    statusWrite 1 st v = if wbits v 2 2 ≤ 1 then putBits (statusFlags st v) 2 2 (wbits v 2 2) else statusFlags st v := by
  unfold statusWrite
  dsimp only
  exact if_neg (by decide)

theorem getLsbD_statusWrite_s (st : BitVec 12) (v : Word) {i : Nat} (h : i < 2 ∨ 4 ≤ i) :
    (statusWrite 1 st v).getLsbD i = (statusFlags st v).getLsbD i := by
  rw [statusWrite_s]
  split
  · exact getLsbD_putBits_apart _ (by omega)
  · rfl

theorem getLsbD_statusFlags_apart (st : BitVec 12) (v : Word) {i : Nat} (h : i ≠ 6 ∧ i ≠ 9 ∧ i ≠ 11) :
    (statusFlags st v).getLsbD i = st.getLsbD i := by
  rw [statusFlags, getLsbD_putBits_apart _ (by omega), getLsbD_putBits_apart _ (by omega), getLsbD_putBits_apart _ (by omega)]

theorem getLsbD_statusFlags (st : BitVec 12) (v : Word) {i : Nat} (h : i = 6 ∨ i = 9 ∨ i = 11) :
    (statusFlags st v).getLsbD i = v.getLsbD i := by
  rw [statusFlags]
  rcases h with rfl | rfl | rfl
  · exact getLsbD_putBits_wbit _ _ (by decide)
  · rw [getLsbD_putBits_apart _ (by decide)]
    exact getLsbD_putBits_wbit _ _ (by decide)
  · rw [getLsbD_putBits_apart _ (by decide), getLsbD_putBits_apart _ (by decide)]
    exact getLsbD_putBits_wbit _ _ (by decide)

/-- A bit that a write at S does not reach. -/
theorem getLsbD_statusWrite_kept (st : BitVec 12) (v : Word) {i : Nat} (h : i ≠ 6 ∧ i ≠ 9 ∧ i ≠ 11 ∧ (i < 2 ∨ 4 ≤ i)) :
    (statusWrite 1 st v).getLsbD i = st.getLsbD i := by
  rw [getLsbD_statusWrite_s st v h.2.2.2, getLsbD_statusFlags_apart st v (by tauto)]

theorem getLsbD_statusWrite_flag (st : BitVec 12) (v : Word) {i : Nat} (h : i = 6 ∨ i = 9 ∨ i = 11) :
    (statusWrite 1 st v).getLsbD i = v.getLsbD i := by
  rw [getLsbD_statusWrite_s st v (by omega), getLsbD_statusFlags st v h]

/-- A field of two bits that a write at S does not reach: PL and HPL. -/
theorem extractLsb'_statusWrite_kept (st : BitVec 12) (v : Word) {lo : Nat} (h : lo = 0 ∨ lo = 4) :
    (statusWrite 1 st v).extractLsb' lo 2 = st.extractLsb' lo 2 := by
  refine BitVec.eq_of_getLsbD_eq fun i hi => ?_
  rw [BitVec.getLsbD_extractLsb', BitVec.getLsbD_extractLsb', getLsbD_statusWrite_kept st v (by omega)]

/-- SPL takes a level that it accepts. -/
theorem statusWrite_spl (st : BitVec 12) (v : Word) :
    (statusWrite 1 st v).extractLsb' 2 2 = if v.toNat / 4 % 4 ≤ 1 then v.extractLsb' 2 2 else st.extractLsb' 2 2 := by
  have flags : (statusFlags st v).extractLsb' 2 2 = st.extractLsb' 2 2 := by
    rw [statusFlags, extractLsb'_putBits_apart _ (by decide), extractLsb'_putBits_apart _ (by decide), extractLsb'_putBits_apart _ (by decide)]
  rw [statusWrite_s, apply_ite (BitVec.extractLsb' 2 2), flags, extractLsb'_putBits_self _ _ _ _ (by decide), wbits, ofNat_bits]
  rfl

/-! ### The banks (R22) -/

theorem Ctx.bank_eq (t : Ctx) : t.bank = if t.pl = 2 ∧ t.vb = false then t.hBank else t.sBank := rfl

theorem Ctx.setBank_h (b : Bank) (h : t.pl = 2 ∧ t.vb = false) : t.setBank b = { t with hBank := b } := if_pos h

theorem Ctx.setBank_s (b : Bank) (h : ¬ (t.pl = 2 ∧ t.vb = false)) : t.setBank b = { t with sBank := b } := if_neg h

theorem csrWrite_tval (s : State) (c x : Nat) (v : Word) :
    (csrWrite s c x 0x084 v).ctx c x = (s.ctx c x).setBank { (s.ctx c x).bank with tval := v } := State.ctx_updCtx_self ..

theorem csrWrite_status (s : State) (c x : Nat) (v : Word) :
    (csrWrite s c x 0x080 v).ctx c x = { s.ctx c x with status := statusWrite (s.ctx c x).pl (s.ctx c x).status v } := State.ctx_updCtx_self ..

end

/-- Settles O25: a register of the table is a field of its context, and the status and the banks are written by their own rules. -/
theorem csrWritesKeepOtherRegisters : Obligations.CsrWritesKeepOtherRegisters := by
  unfold Obligations.CsrWritesKeepOtherRegisters
  refine ⟨fun s c x n m v hm => ?_, fun s c x v hpl => ?_, fun s c x v => ?_⟩
  · obtain ⟨r, rfl, rfl⟩ := CsrReg.of_csrMask hm
    rw [r.csrWrite_num]
    refine ⟨?_, fun n' m' hm' hne => ?_, ?_, ?_, fun a => rfl⟩
    · rw [r.csrValue_num, State.ctx_updCtx_self, r.read_write_self]
    · obtain ⟨q, rfl, -⟩ := CsrReg.of_csrMask hm'
      rw [q.csrValue_num, q.csrValue_num, State.ctx_updCtx_self, CsrReg.read_write_ne _ _ hne]
    · rw [State.ctx_updCtx_self, (r.write_keeps _ v).1]
    · rw [State.ctx_updCtx_self, (r.write_keeps _ v).2]
  · dsimp only
    rw [csrWrite_status, hpl]
    exact ⟨getLsbD_statusWrite_kept _ v (by decide), getLsbD_statusWrite_kept _ v (by decide), extractLsb'_statusWrite_kept _ v (.inr rfl),
      (extractLsb'_statusWrite_kept _ v (.inl rfl)).trans hpl, getLsbD_statusWrite_kept _ v (by decide),
      getLsbD_statusWrite_flag _ v (by decide), getLsbD_statusWrite_flag _ v (by decide), getLsbD_statusWrite_flag _ v (by decide),
      statusWrite_spl _ v⟩
  · have epc : csrValue s c x 0x082 = (s.ctx c x).bank.epc := rfl
    have tval : csrValue s c x 0x084 = (s.ctx c x).bank.tval := rfl
    dsimp only
    rw [epc, tval, csrWrite_tval, Ctx.bank_eq]
    refine ⟨apply_ite Bank.epc _ _ _, apply_ite Bank.tval _ _ _, fun h => ?_, fun h => ?_⟩
    · rw [Ctx.setBank_h _ h]
      exact ⟨rfl, rfl⟩
    · rw [Ctx.setBank_s _ h]
      exact ⟨rfl, rfl⟩

end Sys2Proof.Machine
end

section
/-!
SUPPORT. Loads: the value that a copy or the home gives, and what a load leaves of its context (R90, R106, R240, R245, R302, R345).
-/
namespace Sys2Proof.Machine
section

variable {s t : State} {c x : Nat} {k : Tk} {i : Instr} {d : Reg} {ea : Word} {w pa : Nat} {sg ms : Bool} {cls : BitVec 2}

/-! ### Widths and values (R90) -/

theorem loadOf_width {u : Ctx} (h : loadOf i u = some (k, d, ea, w, sg)) : w = 1 ∨ w = 2 ∨ w = 4 ∨ w = 8 := by
  cases i
  case lb | lh | lw | ld | lbu | lhu | lwu | ldx =>
    cases h
    decide
  all_goals cases h

/-- An aligned access of a scalar word stays in its line. -/
theorem inLine_of_aligned (hw : w = 1 ∨ w = 2 ∨ w = 4 ∨ w = 8) (ha : pa % w = 0) : pa % 128 + w ≤ 128 := by
  rcases hw with rfl | rfl | rfl | rfl <;> omega

/-- A loaded value is extended as R90 says. -/
theorem extend_eq_extended {v : Nat} (hw : 0 < w) (hv : v < 256 ^ w) : extend v w sg = extended v w sg := by
  have range : 256 ^ w = 2 * 2 ^ (8 * w - 1) := by
    rw [← Nat.pow_succ', Nat.succ_eq_add_one, Nat.sub_add_cancel (by omega), Nat.pow_mul]
  have pow : 2 ^ (8 * w) = 256 ^ w := Nat.pow_mul 2 8 w
  unfold extend extended
  cases sg
  · rfl
  · rw [if_pos rfl, if_pos rfl, BitVec.signExtend, BitVec.toInt_eq_toNat_cond, BitVec.toNat_ofNat, pow, Nat.mod_eq_of_lt hv]
    by_cases low : v < 2 ^ (8 * w - 1)
    · rw [if_pos low, if_pos (by omega)]
    · rw [if_neg low, if_neg (by omega)]
      rw [← pow]
      push_cast
      rfl

/-! ### Words of a line (R240) -/

/-- The words of a mask are ones over their 32 bits. -/
theorem getLsbD_word_ones {i : Nat} (j : Nat) (hi : i < 1024) :
    (BitVec.ofNat 1024 (0xffffffff * 2 ^ (32 * j))).getLsbD i = decide (i / 32 = j) := by
  rw [BitVec.getLsbD_ofNat, Nat.testBit_mul_two_pow, show (0xffffffff : Nat) = 2 ^ 32 - 1 from rfl, Nat.testBit_two_pow_sub_one]
  grind

theorem getLsbD_lineMask (m : BitVec 32) {i : Nat} (hi : i < 1024) : (lineMask m).getLsbD i = m.getLsbD (i / 32) := by
  have words (n : Nat) : ((List.range n).foldl (fun (l : Line) j =>
      if m.getLsbD j then l ||| BitVec.ofNat 1024 (0xffffffff * 2 ^ (32 * j)) else l) 0).getLsbD i = (decide (i / 32 < n) && m.getLsbD (i / 32)) := by
    induction n with
    | zero => simp
    | succ n ih =>
      rw [List.range_succ, List.foldl_append, List.foldl_cons, List.foldl_nil]
      by_cases hn : m.getLsbD n = true
      · rw [if_pos hn, BitVec.getLsbD_or, ih, getLsbD_word_ones n hi]
        by_cases he : i / 32 = n
        · rw [he, hn]
          simp
        · rw [decide_eq_false he, Bool.or_false]
          congr 1
          exact decide_eq_decide.2 (by omega)
      · rw [if_neg hn, ih]
        by_cases he : i / 32 = n
        · rw [he, Bool.eq_false_iff.2 hn, Bool.and_false, Bool.and_false]
        · congr 1
          exact decide_eq_decide.2 (by omega)
  rw [lineMask, words, decide_eq_true (by omega), Bool.true_and]

theorem getLsbD_wordMask {j : Nat} (hj : j < 32) :
    (wordMask pa w).getLsbD j = decide (pa % 128 / 4 ≤ j ∧ j < pa % 128 / 4 + (pa % 4 + w + 3) / 4) := by
  rw [wordMask, BitVec.getLsbD_ofNat, Nat.testBit_mul_two_pow, Nat.testBit_two_pow_sub_one]
  grind

/-- Bits of the words that a copy holds valid are its own. -/
theorem bits_mergeWords {old new : Line} {m : BitVec 32} (hin : pa % 128 + w ≤ 128) (hm : (m &&& wordMask pa w) = wordMask pa w) :
    bits (mergeWords old new m).toNat (8 * (pa % 128)) (8 * w) = bits new.toNat (8 * (pa % 128)) (8 * w) := by
  refine Nat.eq_of_testBit_eq fun i => ?_
  rw [bits, bits, Nat.testBit_mod_two_pow, Nat.testBit_mod_two_pow, Nat.testBit_div_two_pow, Nat.testBit_div_two_pow]
  by_cases hi : i < 8 * w
  · have covered : (wordMask pa w).getLsbD ((i + 8 * (pa % 128)) / 32) = true := by
      rw [getLsbD_wordMask (by omega)]
      exact decide_eq_true (by omega)
    have valid : m.getLsbD ((i + 8 * (pa % 128)) / 32) = true := by
      rw [← hm, BitVec.getLsbD_and] at covered
      exact (Bool.and_eq_true_iff.1 covered).1
    have merged : (mergeWords old new m).getLsbD (i + 8 * (pa % 128)) = new.getLsbD (i + 8 * (pa % 128)) := by
      rw [mergeWords, BitVec.getLsbD_or, BitVec.getLsbD_and, BitVec.getLsbD_and, BitVec.getLsbD_not, getLsbD_lineMask m (by omega), valid]
      simp
    exact congrArg (decide (i < 8 * w) && ·) merged
  · rw [decide_eq_false hi, Bool.false_and, Bool.false_and]

/-! ### What the issue of a load reads -/

theorem CtxFrame.holdsLot (h : CtxFrame s t c x) (key log : Nat) : t.holdsLot c key log = s.holdsLot c key log := by
  have lots : t.lots = s.lots := by rw [h.rest]
  rw [State.holdsLot, State.holdsLot, lots]

theorem CtxFrame.lotStep (h : CtxFrame s t c x) (va : Word) : t.lotStep c va cls ms = s.lotStep c va cls ms := by
  unfold State.lotStep
  rw [h.sameSpace.task]
  simp only [h.sameSpace.translate, h.holdsLot]

theorem CtxFrame.line (h : CtxFrame s t c x) (ln : Nat) : (t.core c).line ln = (s.core c).line ln := by
  rw [Core.line, h.unit, Core.line]

theorem CtxFrame.pen (h : CtxFrame s t c x) : (t.core c).pen = (s.core c).pen := by rw [h.unit]

theorem CtxFrame.linePoison (h : CtxFrame s t c x) (ln : Nat) : t.linePoison ln = s.linePoison ln := by
  simp only [State.linePoison, h.sameSpace.wordPoison]

theorem CtxFrame.penCovers (h : CtxFrame s t c x) (ln : Nat) (m : BitVec 32) : (t.core c).penCovers ln m = (s.core c).penCovers ln m := by
  rw [Core.penCovers, Core.penWords, h.pen, Core.penCovers, Core.penWords]

theorem issued_l1Hit (s : State) (k : Tk) (ln : Nat) (m : BitVec 32) :
    (s.issued k).l1Hit s.cur.1 s.cur.2 ln m = s.l1Hit s.cur.1 s.cur.2 ln m := by
  rw [State.l1Hit, State.l1Hit, (issued_frame s k).line, issued_ctx]

theorem issued_ready (s : State) (k : Tk) : (s.issued k).ready s.cur.1 s.cur.2 pa w cls ms = s.ready s.cur.1 s.cur.2 pa w cls ms := by
  rw [State.ready, State.ready, issued_l1Hit, (issued_frame s k).penCovers]

/-- A load whose checks pass goes on to its value, or to its home. -/
theorem loadBody_goes (ha : ea.toNat % w = 0) (ht : s.translate c ea .read ((s.ctx c x).pl = 0) = .ok (.phys pa cls ms))
    (hl : s.lotStep c ea cls ms = .go) :
    loadBody d ea w sg c x s =
      if s.ready c x pa w cls ms then loadDone s c x d ea w sg pa cls ms else sendIt s c x (.load d.toNat ea w sg (.phys pa cls ms)) := by
  unfold loadBody
  dsimp only
  rw [if_neg (by simp [aligned, ha]), ht]
  dsimp only
  rw [hl]

/-- A load that issues and passes its checks settles as its value, or as an access on its way. -/
theorem exec_load_goes (hl : loadOf i s.now = some (k, d, ea, w, sg)) (h : Issues 0 i k s) (ha : ea.toNat % w = 0)
    (ht : s.translate s.cur.1 ea .read (s.now.pl = 0) = .ok (.phys pa cls ms)) (hlot : s.lotStep s.cur.1 ea cls ms = .go) :
    exec i s = .next (settle s s.cur.1 s.cur.2 i k
      (if s.ready s.cur.1 s.cur.2 pa w cls ms then loadDone (s.issued k) s.cur.1 s.cur.2 d ea w sg pa cls ms
        else sendIt (s.issued k) s.cur.1 s.cur.2 (.load d.toNat ea w sg (.phys pa cls ms)))) := by
  rw [exec_loadOf hl h, loadBody_goes ha (by rw [(issued_sameSpace s k).translate, issued_ctx]; exact ht)
    (by rw [(issued_frame s k).lotStep]; exact hlot), issued_ready]

/-! ### A load that hits (R240) -/

/-- What an access that a context performs leaves of it: whose turn it is, and the context but for its timestamp (R247). -/
structure OnlyPts (s t : State) (c x : Nat) : Prop where
  cur : t.cur = s.cur
  ctx : ∃ pts, t.ctx c x = { s.ctx c x with pts := pts }

theorem OnlyPts.trans {u : State} (h : OnlyPts s t c x) (g : OnlyPts t u c x) : OnlyPts s u c x := by
  obtain ⟨p, hp⟩ := h.ctx
  obtain ⟨q, hq⟩ := g.ctx
  exact ⟨g.cur.trans h.cur, q, by rw [hq, hp]⟩

theorem OnlyPts.updCore {f : Core → Core} (h : (f (s.core c)).ctx = (s.core c).ctx) : OnlyPts s (s.updCore c f) c x :=
  ⟨rfl, (s.ctx c x).pts, by rw [State.updCore_ctx h]⟩

theorem OnlyPts.updPts (s : State) (c x : Nat) (p : Ctx → Word) : OnlyPts s (s.updCtx c x (fun t => { t with pts := p t })) c x :=
  ⟨rfl, p (s.ctx c x), by rw [State.ctx_updCtx_self]⟩

/-- A load that hits leaves the memory too. -/
structure KeepsButPts (s t : State) (c x : Nat) : Prop extends OnlyPts s t c x where
  mem : t.mem = s.mem

theorem KeepsButPts.trans {u : State} (h : KeepsButPts s t c x) (g : KeepsButPts t u c x) : KeepsButPts s u c x :=
  ⟨h.toOnlyPts.trans g.toOnlyPts, g.mem.trans h.mem⟩

theorem touch_kept (k : Core) (b : Nat) : (k.touch b).ctx = k.ctx ∧ (k.touch b).pen = k.pen ∧ ∀ ln, (k.touch b).line ln = k.line ln := by
  unfold Core.touch
  split <;> exact ⟨rfl, rfl, fun _ => rfl⟩

/-- A hit uses the block of the line and, on an HC page, raises the timestamp; it changes no copy (R240, R247). -/
theorem loadFill_hits {l : L1Line} (hline : (s.core c).line (pa / 128) = some l) (hhit : s.l1Hit c x (pa / 128) (wordMask pa w) = true)
    (hpen : Map.get none (s.core c).pen (pa / 128) = none) (hst : (s.ctx c x).stores = []) (hcls : cls ≠ 3) :
    KeepsButPts s (s.loadFill c x pa w cls false) c x ∧ LineKept s (s.loadFill c x pa w cls false) c x (pa / 128) := by
  have pen : (s.core c).penCovers (pa / 128) (wordMask pa w) = false := by rw [Core.penCovers, hpen, Option.isSome_none, Bool.and_false]
  have drained : (if cls = 0 then s.drainStores c x else s) = s := by rw [State.drainStores_none hst, ite_self]
  obtain ⟨hctx, hpn, hln⟩ := touch_kept (s.core c) l.blk
  have touched : KeepsButPts s (s.updCore c (fun k => k.touch l.blk)) c x := ⟨.updCore hctx, rfl⟩
  have line : LineKept s (s.updCore c (fun k => k.touch l.blk)) c x (pa / 128) := .updCore (hln _) (by rw [hpn]) hctx
  unfold State.loadFill
  dsimp only
  rw [drained, pen, if_neg (by decide), if_neg (not_or.2 ⟨Bool.false_ne_true, hcls⟩), hhit, if_pos rfl, hline]
  dsimp only
  split
  · exact ⟨touched.trans ⟨.updPts .., rfl⟩,
      line.trans (updPts_lineKept (pts := maxW ((s.updCore c (fun k => k.touch l.blk)).ctx c x).pts l.wts))⟩
  · exact ⟨touched, line⟩

/-- The value of a load that hits is its copy's. -/
theorem loadNow_hits {l : L1Line} (hline : (s.core c).line (pa / 128) = some l) (hhit : s.l1Hit c x (pa / 128) (wordMask pa w) = true)
    (hv : (l.valid &&& wordMask pa w) = wordMask pa w) (hlp : l.poison = 0) (hpoi : s.linePoison (pa / 128) = 0)
    (hpen : Map.get none (s.core c).pen (pa / 128) = none) (hst : (s.ctx c x).stores = []) (hcls : cls ≠ 3)
    (hin : pa % 128 + w ≤ 128) :
    ∃ t, s.loadNow c x pa w cls false = (t, bits l.data.toNat (8 * (pa % 128)) (8 * w), false) ∧ KeepsButPts s t c x := by
  obtain ⟨kept, line⟩ := loadFill_hits (w := w) hline hhit hpen hst hcls
  refine ⟨s.loadFill c x pa w cls false, ?_, kept⟩
  have copies : (! false && decide (cls ≠ 3)) = true := by rw [decide_eq_true hcls]; rfl
  have view : (s.core c).viewLine s (pa / 128) = (mergeWords (s.homeLine (pa / 128)) l.data l.valid, 0) := by
    rw [Core.viewLine, hline]
    dsimp only
    rw [hlp, hpoi]
    show (_, (0#32 &&& l.valid) ||| (0#32 &&& ~~~ l.valid)) = (_, 0#32)
    rw [BitVec.zero_and, BitVec.zero_and, BitVec.or_zero]
  unfold State.loadNow
  dsimp only
  rw [copies, readView_of_line (by rw [if_pos rfl, line.viewLine, view]) (line.pen.trans hpen) (line.stores.trans hst), bits_mergeWords hin hv]

/-- What a word leaves that completes after its value is in `x[d]`. -/
theorem finishWord_loaded {v : Word} (h : KeepsButPts s t c x) :
    (finishWord (t.updCtx c x (fun u => u.wr d v)) c x k).cur = s.cur ∧
    ((finishWord (t.updCtx c x (fun u => u.wr d v)) c x k).ctx c x).rd d = (if d = 0 then 0 else v) ∧
    (∀ r, r ≠ d → ((finishWord (t.updCtx c x (fun u => u.wr d v)) c x k).ctx c x).rd r = (s.ctx c x).rd r) ∧
    (∀ a, (finishWord (t.updCtx c x (fun u => u.wr d v)) c x k).byteAt a = s.byteAt a) ∧
    ((s.ctx c x).loopAt (s.ctx c x).pc = none →
      ((finishWord (t.updCtx c x (fun u => u.wr d v)) c x k).ctx c x).pc = (s.ctx c x).pc + 4) := by
  obtain ⟨pts, hctx⟩ := h.ctx
  have regs : ((finishWord (t.updCtx c x (fun u => u.wr d v)) c x k).ctx c x).x = ((s.ctx c x).wr d v).x := by
    rw [finishWord_x, State.ctx_updCtx_self, hctx]
    unfold Ctx.wr
    split <;> rfl
  have course : ((t.updCtx c x (fun u => u.wr d v)).ctx c x).pc = (s.ctx c x).pc ∧
      ∀ a, ((t.updCtx c x (fun u => u.wr d v)).ctx c x).loopAt a = (s.ctx c x).loopAt a := by
    rw [State.ctx_updCtx_self, hctx]
    unfold Ctx.wr
    split <;> exact ⟨rfl, fun _ => rfl⟩
  refine ⟨by rw [finishWord_cur, State.updCtx_cur, h.cur], ?_, fun r hr => ?_, fun a => ?_, fun hl => ?_⟩
  · rw [Ctx.rd_congr regs, Ctx.rd_wr_self]
    rfl
  · rw [Ctx.rd_congr regs, Ctx.rd_wr_ne _ _ hr]
  · rw [State.byteAt, finishWord_mem, State.updCtx_mem, h.mem, State.byteAt]
  · rw [finishWord_pc k (by rw [course.2, course.1]; exact hl), course.1]

/-! ### The reply from a memory-side home (R245, R345) -/

/-- A load at a memory-side home reads the bytes of memory, and brings no copy. -/
theorem loadNow_home (hin : pa % 128 + w ≤ 128) (hpoi : s.linePoison (pa / 128) = 0)
    (hpen : Map.get none (s.core c).pen (pa / 128) = none) (hst : (s.ctx c x).stores = []) :
    s.loadNow c x pa w 1 true = (s, s.homeRead pa w, false) := by
  have pen : (s.core c).penCovers (pa / 128) (wordMask pa w) = false := by rw [Core.penCovers, hpen, Option.isSome_none, Bool.and_false]
  have fill : s.loadFill c x pa w 1 true = s := by
    have drained : (if (1 : BitVec 2) = 0 then s.drainStores c x else s) = s := if_neg (by decide)
    unfold State.loadFill
    dsimp only
    rw [drained, pen, if_neg Bool.false_ne_true, if_pos (.inl rfl), if_neg (by decide)]
  unfold State.loadNow
  dsimp only
  rw [fill, readView_of_line (l := s.homeLine (pa / 128)) (by rw [if_neg (by decide), hpoi]) hpen hst, State.bits_homeLine s hin]

/-- The home's data complete a load that waits for them. -/
theorem replyTo_load (hin : pa % 128 + w ≤ 128) (hpoi : s.linePoison (pa / 128) = 0)
    (hpen : Map.get none (s.core c).pen (pa / 128) = none) (hst : (s.ctx c x).stores = [])
    (hwait : (s.ctx c x).wait = some (.load d.toNat ea w sg (.phys pa 1 true))) :
    s.replyTo c x .home = (s.updCtx c x (fun u => u.wr d (extend (s.homeRead pa w) w sg))).complete c x id := by
  unfold State.replyTo
  dsimp only
  rw [hwait]
  dsimp only
  rw [if_neg (fun h => Reply.noConfusion h.1), if_pos rfl, loadDone, loadNow_home hin hpoi hpen hst]
  dsimp only
  rw [if_neg (by decide), BitVec.ofNat_toNat, BitVec.setWidth_eq]

theorem State.complete_x (s : State) (c x : Nat) : ((s.complete c x id).ctx c x).x = (s.ctx c x).x := by
  unfold State.complete
  dsimp only
  rw [finishWord_x, State.ctx_updCtx_self, State.popAll_ctx]
  rfl

/-- The state in which an access of a context runs: it names whose access it is, and of what class (R302). -/
def State.caused (s : State) (c x : Nat) : State :=
  { s with cause := some (c, x, (s.ctx c x).slk.toNat, (s.ctx c x).skEntry (s.ctx c x).slk.toNat) }

theorem State.caused_homeRead (s : State) (c x pa n : Nat) : (s.caused c x).homeRead pa n = s.homeRead pa n :=
  State.homeRead_congr s fun _ _ => rfl

/-- The reply to the word of a running context is one access of that context. -/
theorem exec_loadReply {rep : Reply} (hx : x < 4) (hr : (s.ctx c x).run = .running) :
    exec (.loadReply c x rep) s = .next { (s.caused c x).replyTo c x rep with cause := s.cause } := by
  show execLoadReply c x rep s = _
  unfold execLoadReply
  rw [if_pos hx]
  dsimp only
  rw [if_pos hr]
  rfl

end
/-- Settles O28: a load is its copy, its request, or the reply to it, by what is at hand. -/
theorem loadsReadCopyOrWaitForHome : Obligations.LoadsReadCopyOrWaitForHome := by
  unfold Obligations.LoadsReadCopyOrWaitForHome
  refine ⟨?_, ?_, ?_⟩
  · intro s i k d ea w sg pa cls l hl h ha hpa ht hcls hlot hline hv hlease hlp hpoi hpen hst
    have width := loadOf_width hl
    have hin := inLine_of_aligned width hpa
    have hit : s.l1Hit s.cur.1 s.cur.2 (pa / 128) (wordMask pa w) = true := by
      rw [State.l1Hit, hline]
      refine Bool.and_eq_true_iff.2 ⟨decide_eq_true hv, Bool.or_eq_true_iff.2 ?_⟩
      exact hlease.imp (decide_eq_true ·) (decide_eq_true ·)
    have ready : s.ready s.cur.1 s.cur.2 pa w cls false = true := by
      rw [State.ready, hit, decide_eq_true hcls]
      exact Bool.or_true _
    have frame := issued_frame s k
    obtain ⟨t, hnow, kept⟩ := loadNow_hits (s := s.issued k) (cls := cls) ((frame.line _).trans hline) ((issued_l1Hit ..).trans hit) hv hlp
      ((frame.linePoison _).trans hpoi) ((congrArg (Map.get none · _) frame.pen).trans hpen) (by rw [issued_ctx]; exact hst) hcls hin
    have fromIssue : KeepsButPts s t s.cur.1 s.cur.2 := .trans ⟨⟨issued_cur s k, s.now.pts, issued_ctx s k _ _⟩, frame.mem_eq⟩ kept
    have value : extend (bits l.data.toNat (8 * (pa % 128)) (8 * w)) w sg = extended (l.data.toNat / 256 ^ (pa % 128) % 256 ^ w) w sg := by
      rw [bits, Nat.pow_mul, Nat.pow_mul]
      exact extend_eq_extended (by omega) (Nat.mod_lt _ (Nat.pow_pos (by decide)))
    obtain ⟨turn, reg, others, bytes, goesOn⟩ :=
      finishWord_loaded (k := k) (d := d) (v := extend (bits l.data.toNat (8 * (pa % 128)) (8 * w)) w sg) fromIssue
    rw [exec_load_goes hl h ha ht hlot, ready, if_pos rfl, loadDone, hnow]
    refine ⟨_, congrArg _ (settle_done h.noNest), ?_⟩
    rw [State.now, turn]
    exact ⟨by rw [reg, value], others, bytes, goesOn⟩
  · intro s i k d ea w sg pa cls ms hl h ha ht hlot hready wt
    rw [exec_load_goes hl h ha ht hlot, hready, if_neg (by decide), sendIt, settle_sent h.noNest]
  · intro s c x d ea w sg pa hx hwait hrun hpos hpa hdvd hpoi hpen hst
    have width : w = 1 ∨ w = 2 ∨ w = 4 ∨ w = 8 := by
      have := Nat.le_of_dvd (by decide) hdvd
      interval_cases w <;> omega
    have hin := inLine_of_aligned width hpa
    have replied := replyTo_load (s := s.caused c x) (d := d) (ea := ea) (sg := sg) hin hpoi hpen hst hwait
    rw [s.caused_homeRead, extend_eq_extended hpos (s.homeRead_lt pa w)] at replied
    have regs : (((s.caused c x).replyTo c x .home).ctx c x).x = ((s.ctx c x).wr d (extended (s.homeRead pa w) w sg)).x := by
      rw [replied, State.complete_x, State.ctx_updCtx_self]
      rfl
    have mem : ((s.caused c x).replyTo c x .home).mem = s.mem := by
      rw [replied, State.complete_mem, State.updCtx_mem]
      rfl
    refine ⟨_, exec_loadReply hx hrun, (Ctx.rd_congr regs d).trans (Ctx.rd_wr_self ..), fun r hr => ?_, fun a => ?_⟩
    · exact (Ctx.rd_congr regs r).trans (Ctx.rd_wr_ne _ _ hr)
    · exact congrArg (Map.get 0 · a) mem

end Sys2Proof.Machine
end

section
/-!
SUPPORT. What performing a store leaves of its context: the copies in the L1, the write-backs and the packets are no part of it (R240, R246, R247).
-/
namespace Sys2Proof.Machine
section

variable {s t : State} {c x ln : Nat} {cls : BitVec 2}

/-! ### Steps that no context's state enters -/

theorem OnlyPts.refl (s : State) (c x : Nat) : OnlyPts s s c x := ⟨rfl, (s.ctx c x).pts, rfl⟩

/-- A step outside the cores leaves every context. -/
theorem OnlyPts.of_cores (hcur : t.cur = s.cur) (hc : t.cores = s.cores) : OnlyPts s t c x :=
  ⟨hcur, (s.ctx c x).pts, by rw [State.ctx, State.core, hc]; rfl⟩

theorem OnlyPts.foldl {β : Type} {f : State → β → State} (h : ∀ t b, OnlyPts t (f t b) c x) (l : List β) (s : State) :
    OnlyPts s (l.foldl f s) c x := by
  induction l generalizing s with
  | nil => exact .refl ..
  | cons b r ih => exact (h s b).trans (ih _)

theorem homeWrite_onlyPts (s : State) (a n v : Nat) : OnlyPts s (s.homeWrite a n v) c x := by
  induction n generalizing s a v with
  | zero => exact .refl ..
  | succ m ih => exact OnlyPts.trans (t := s.setByte a (BitVec.ofNat 8 v)) (.of_cores rfl rfl) (ih _ (a + 1) (v / 256))

theorem homeWords_onlyPts (s : State) (ln : Nat) (l : Line) (m : BitVec 32) : OnlyPts s (s.homeWords ln l m) c x := by
  refine OnlyPts.foldl (fun t j => ?_) _ s
  split
  · exact homeWrite_onlyPts ..
  · exact .refl ..

theorem setPoison_onlyPts (s : State) (ln : Nat) (m : BitVec 32) (b : Bool) : OnlyPts s (s.setPoison ln m b) c x := by
  unfold State.setPoison
  split
  · exact .refl ..
  · exact .of_cores rfl rfl

theorem forcedPkt_onlyPts (s : State) (d a : Nat) (p : PtPkt) : OnlyPts s (s.forcedPkt d a p) c x := .of_cores rfl rfl

theorem setHcLine_onlyPts (s : State) (ln : Nat) (h : HcLine) : OnlyPts s (s.setHcLine ln h) c x := by
  unfold State.setHcLine
  split
  · exact .of_cores rfl rfl
  · dsimp only
    split
    · exact .of_cores rfl rfl
    · split <;> exact .of_cores rfl rfl

theorem hcFetch_onlyPts (s : State) (ln : Nat) (pts : Word) : OnlyPts s (s.hcFetch ln pts).1 c x :=
  (setHcLine_onlyPts s ln _).trans (.of_cores rfl rfl)

theorem hcStore_onlyPts (s : State) (ln : Nat) (pts : Word) : OnlyPts s (s.hcStore ln pts).1 c x := setHcLine_onlyPts ..

/-! ### Lines that come, go and are written back -/

theorem writeBackLine_onlyPts (s : State) (ln : Nat) : OnlyPts s (s.writeBackLine c ln) c x := by
  unfold State.writeBackLine
  split
  · exact .refl ..
  · split
    · exact .refl ..
    · exact (((homeWords_onlyPts ..).trans (setPoison_onlyPts ..)).trans (forcedPkt_onlyPts ..)).trans (.updCore rfl)

theorem evictLine_onlyPts (s : State) (ln : Nat) : OnlyPts s (s.evictLine c ln) c x := (writeBackLine_onlyPts ..).trans (.updCore rfl)

theorem evictBlk_onlyPts (s : State) (b : Nat) : OnlyPts s (s.evictBlk c b) c x := by
  refine (OnlyPts.foldl (fun t ln => ?_) _ s).trans (.updCore rfl)
  split
  · split
    · exact evictLine_onlyPts ..
    · exact .refl ..
  · exact .refl ..

theorem clearWay_onlyPts (s : State) (b w : Nat) : OnlyPts s (s.clearWay c b w) c x := by
  refine OnlyPts.foldl (fun t ln => ?_) _ s
  split
  · split
    · exact .refl ..
    · exact evictBlk_onlyPts ..
  · exact .refl ..

theorem makeRoom_onlyPts (s : State) (b : Nat) : OnlyPts s (s.makeRoom c b).1 c x := by
  unfold State.makeRoom
  split
  · exact .refl ..
  · exact OnlyPts.trans (t := { s with free := s.free + 1 }) (.of_cores rfl rfl) (clearWay_onlyPts ..)

theorem setLine_onlyPts (s : State) (ln : Nat) (l : Option L1Line) : OnlyPts s (s.updCore c (fun k => k.setLine ln l)) c x := .updCore rfl

theorem touch_onlyPts (s : State) (b : Nat) : OnlyPts s (s.updCore c (fun k => k.touch b)) c x := .updCore (touch_kept _ b).1

theorem foldl_setLine_ctx (f : Core → Nat → Option L1Line) (l : List Nat) (k : Core) :
    (l.foldl (fun (k : Core) ln => k.setLine ln (f k ln)) k).ctx = k.ctx := by
  induction l generalizing k with
  | nil => rfl
  | cons b r ih => exact ih _

theorem allocLine_onlyPts (s : State) (ln : Nat) (cls : BitVec 2) : OnlyPts s (s.allocLine c ln cls) c x := by
  unfold State.allocLine
  split
  · exact .refl ..
  · unfold State.allocBlk
    dsimp only
    exact (makeRoom_onlyPts s (singleBlk ln)).trans (.updCore (foldl_setLine_ctx _ _ _))

theorem fillLine_onlyPts (s : State) (ln : Nat) (cls : BitVec 2) (pts : Word) : OnlyPts s (s.fillLine c ln cls pts).1 c x := by
  unfold State.fillLine
  refine (allocLine_onlyPts s ln cls).trans ?_
  generalize s.allocLine c ln cls = u
  dsimp only
  split
  · exact .refl ..
  · split
    · refine (hcFetch_onlyPts u ln pts).trans ?_
      exact setLine_onlyPts ..
    · exact setLine_onlyPts ..

theorem foldl_fillLine_onlyPts (cls : BitVec 2) (l : List Nat) (r : State × Word) :
    OnlyPts r.1 (l.foldl (fun (r : State × Word) ln => r.1.fillLine c ln cls r.2) r).1 c x := by
  induction l generalizing r with
  | nil => exact .refl ..
  | cons ln l ih => exact (fillLine_onlyPts ..).trans (ih _)

theorem fillBlk_onlyPts (s : State) (ln : Nat) (cls : BitVec 2) : OnlyPts s (s.fillBlk c x ln cls) c x := by
  unfold State.fillBlk
  refine OnlyPts.trans ?_ (.updPts ..)
  refine OnlyPts.trans ?_ (foldl_fillLine_onlyPts cls _ (_, _))
  exact touch_onlyPts ..

/-- A request for another package changes the packets alone. -/
theorem sendReq_onlyPts (s : State) (d y k : Nat) (e : BitVec 28) (p : PtPkt) (lvl pkg off : Nat) (data : List Word) (fwd : Nat) :
    OnlyPts s (s.sendReq d y k e p lvl pkg off data (fwd := fwd)) c x := by
  unfold State.sendReq
  dsimp only
  split
  · exact .refl ..
  · exact .of_cores rfl rfl

theorem writeBackWin_onlyPts (s : State) (w i : Nat) : OnlyPts s (s.writeBackWin c w i) c x := by
  unfold State.writeBackWin
  dsimp only
  split
  · exact .refl ..
  · split
    · exact .refl ..
    · split
      · exact .refl ..
      · refine OnlyPts.trans ?_ (.updCore rfl)
        split
        · exact (homeWords_onlyPts ..).trans (forcedPkt_onlyPts ..)
        · exact (sendReq_onlyPts ..).trans (.updCore rfl)

theorem drainEntry_onlyPts (s : State) (e : Nat) : OnlyPts s (s.drainEntry c e) c x := by
  unfold State.drainEntry
  split
  · exact writeBackLine_onlyPts ..
  · exact writeBackWin_onlyPts ..

theorem enterFifo_onlyPts (s : State) (e : Nat) : OnlyPts s (s.enterFifo c e (fun s e => s.drainEntry c e)) c x := by
  unfold State.enterFifo
  split
  · exact .refl ..
  · refine OnlyPts.trans ?_ (.updCore rfl)
    split
    · exact .refl ..
    · split
      · exact (drainEntry_onlyPts ..).trans (.updCore rfl)
      · exact .refl ..

/-! ### A store at its place -/

/-- The L1 with a place for a store of `w` bytes: after a merging fill, where a part of a word that is not valid is written (R240). -/
def State.l1Placed (s : State) (c x pa w : Nat) (cls : BitVec 2) : State :=
  if w < 4 ∧ (match (s.core c).line (pa / 128) with
      | some l => decide ((l.valid &&& wordMask pa w) = wordMask pa w)
      | none => false) = false
  then (s.forcedPkt c pa { kind := 1, rlen := 128 }).fillBlk c x (pa / 128) cls
  else s.allocLine c (pa / 128) cls

/-- A line of the L1 that takes `w` bytes of a store (R240). -/
def L1Line.stored (l : L1Line) (pa w v : Nat) : L1Line :=
  { l with
    data := putBits l.data (8 * (pa % 128)) (8 * w) v
    valid := l.valid ||| wordMask pa w, dirty := l.dirty ||| wordMask pa w
    poison := if w < 4 then l.poison else l.poison &&& ~~~ wordMask pa w }

/-- The L1 in which a line has taken `w` bytes of a store, in the dirty-line FIFO where its page is SW (R246). -/
def State.l1Taken (s : State) (c pa w v : Nat) (cls : BitVec 2) (l : L1Line) : State :=
  let u := s.updCore c (fun k => (k.setLine (pa / 128) (some (l.stored pa w v))).touch l.blk)
  if cls = 1 then u.enterFifo c (2 * (pa / 128)) (fun s e => s.drainEntry c e) else u

theorem l1Store_eq (s : State) (c x pa w v : Nat) (cls : BitVec 2) :
    s.l1Store c x pa w v cls = match ((s.l1Placed c x pa w cls).core c).line (pa / 128) with
      | none => s.l1Placed c x pa w cls
      | some l => (s.l1Placed c x pa w cls).l1Taken c pa w v cls l := rfl

theorem l1Store_onlyPts (s : State) (pa w v : Nat) (cls : BitVec 2) : OnlyPts s (s.l1Store c x pa w v cls) c x := by
  have placed : OnlyPts s (s.l1Placed c x pa w cls) c x := by
    unfold State.l1Placed
    refine iteInduction (motive := fun u => OnlyPts s u c x) (fun _ => ?_) (fun _ => ?_)
    · exact (forcedPkt_onlyPts ..).trans (fillBlk_onlyPts ..)
    · exact allocLine_onlyPts ..
  rw [l1Store_eq]
  refine placed.trans ?_
  split
  · exact .refl ..
  · next l _ =>
    unfold State.l1Taken
    dsimp only
    have taken := OnlyPts.updCore (s := s.l1Placed c x pa w cls) (c := c) (x := x)
      (f := fun k => (k.setLine (pa / 128) (some (l.stored pa w v))).touch l.blk) (touch_kept _ l.blk).1
    split
    · exact taken.trans (enterFifo_onlyPts ..)
    · exact taken

theorem hcCopy_onlyPts (s : State) (ln : Nat) (m : BitVec 32) (wts : Word) : OnlyPts s (s.hcCopy c ln m wts) c x := by
  unfold State.hcCopy
  split
  · exact .refl ..
  · next l _ => exact .updCore (touch_kept _ l.blk).1

theorem directStore_onlyPts (s : State) (pa w v : Nat) : OnlyPts s (s.directStore c pa w v) c x := by
  unfold State.directStore
  refine (homeWrite_onlyPts s pa w v).trans ?_
  dsimp only
  split
  · exact .refl ..
  · next l _ => exact .updCore (touch_kept _ l.blk).1

/-- A store at the home of which no copy is kept. -/
theorem homeStore_plain (s : State) (c x pa w v : Nat) (ms alloc : Bool) (h : cls ≠ 0) :
    s.homeStore c x pa w v cls ms alloc = s.homeWrite pa w v := if_pos h

/-- The L1 as a store at the home of an HC page finds it: a part of a word that is not valid comes with a merging fill (R240). -/
def State.hcPlaced (s : State) (c x pa w : Nat) (ms : Bool) : State :=
  if true && ! ms && w < 4 && ! (match (s.core c).line (pa / 128) with
      | some l => decide ((l.valid &&& wordMask pa w) = wordMask pa w)
      | none => false)
  then (s.forcedPkt c pa { kind := 1, rlen := 128 }).fillBlk c x (pa / 128) 0 else s

/-- A store at the home of an HC page, with its timestamp; the context has that timestamp (R247). -/
def State.hcStored (s : State) (c x pa w v : Nat) : State :=
  ((s.homeWrite pa w v).hcStore (pa / 128) (s.ctx c x).pts).1.updCtx c x
    (fun t => { t with pts := ((s.homeWrite pa w v).hcStore (pa / 128) (s.ctx c x).pts).2 })

theorem homeStore_hc (s : State) (c x pa w v : Nat) (ms : Bool) : ∃ wts, s.homeStore c x pa w v 0 ms true =
    if ms then (s.hcPlaced c x pa w ms).hcStored c x pa w v
    else (((s.hcPlaced c x pa w ms).hcStored c x pa w v).allocLine c (pa / 128) 0).hcCopy c (pa / 128) (wordMask pa w) wts := by
  unfold State.homeStore
  dsimp only
  rw [if_neg (not_not.2 rfl)]
  simp only [if_true]
  exact ⟨_, rfl⟩

theorem hcPlaced_onlyPts (s : State) (pa w : Nat) (ms : Bool) : OnlyPts s (s.hcPlaced c x pa w ms) c x := by
  unfold State.hcPlaced
  refine iteInduction (motive := fun u => OnlyPts s u c x) (fun _ => ?_) (fun _ => ?_)
  · exact (forcedPkt_onlyPts ..).trans (fillBlk_onlyPts ..)
  · exact .refl ..

theorem hcStored_onlyPts (s : State) (pa w v : Nat) : OnlyPts s (s.hcStored c x pa w v) c x :=
  ((homeWrite_onlyPts ..).trans (hcStore_onlyPts ..)).trans (.updPts ..)

theorem homeStore_onlyPts (s : State) (pa w v : Nat) (cls : BitVec 2) (ms : Bool) : OnlyPts s (s.homeStore c x pa w v cls ms true) c x := by
  by_cases h : cls = 0
  · subst h
    obtain ⟨wts, he⟩ := homeStore_hc s c x pa w v ms
    have stored := (hcPlaced_onlyPts s pa w ms).trans (hcStored_onlyPts (c := c) (x := x) _ pa w v)
    rw [he]
    split
    · exact stored
    · exact (stored.trans (allocLine_onlyPts ..)).trans (hcCopy_onlyPts ..)
  · rw [homeStore_plain _ _ _ _ _ _ _ _ h]
    exact homeWrite_onlyPts ..

theorem placeStore_onlyPts (s : State) (p : Place) (w v : Nat) : OnlyPts s (s.placeStore c x p w v) c x := by
  unfold State.placeStore
  cases p with
  | remote _ _ => exact .refl ..
  | phys pa cls ms =>
    dsimp only
    split
    · exact homeStore_onlyPts ..
    · split
      · exact directStore_onlyPts ..
      · exact l1Store_onlyPts ..

theorem noteVa_onlyPts (s : State) (p : Place) (va : Word) : OnlyPts s (s.noteVa c p va) c x := by
  unfold State.noteVa
  cases p with
  | remote _ _ => exact .refl ..
  | phys pa _ _ =>
    dsimp only
    split
    · exact .refl ..
    · split
      · exact setLine_onlyPts ..
      · exact .refl ..

end
end Sys2Proof.Machine
end

section
/-!
SUPPORT. The bytes that a performed store writes: at its home, or in the line of the L1 (R240, R246, R247).
-/
namespace Sys2Proof.Machine
section

variable {s t : State} {c x ln pa w v : Nat} {cls : BitVec 2} {ms : Bool} {p : PStore} {r : List PStore} {u y : Ctx}

/-! ### Performing the oldest store -/

/-- The registers, the bucket status and the class of a context stay. -/
def Ctx.SameWords (u v : Ctx) : Prop := v.x = u.x ∧ v.bz = u.bz ∧ v.slk = u.slk

theorem Ctx.SameWords.trans {z : Ctx} (h : Ctx.SameWords u y) (g : Ctx.SameWords y z) : Ctx.SameWords u z :=
  ⟨g.1.trans h.1, g.2.1.trans h.2.1, g.2.2.trans h.2.2⟩

theorem Ctx.Moves.sameWords (h : Ctx.Moves u y) : Ctx.SameWords u y := by
  unfold Ctx.Moves at h
  rw [h]
  exact ⟨rfl, rfl, rfl⟩

theorem OnlyPts.sameWords (h : OnlyPts s t c x) : Ctx.SameWords (s.ctx c x) (t.ctx c x) := by
  obtain ⟨q, hq⟩ := h.ctx
  rw [hq]
  exact ⟨rfl, rfl, rfl⟩

theorem OnlyPts.stores (h : OnlyPts s t c x) : (t.ctx c x).stores = (s.ctx c x).stores := by
  obtain ⟨q, hq⟩ := h.ctx
  rw [hq]

theorem Ctx.Marks.stores (h : Ctx.Marks u y) : y.stores = u.stores := by
  unfold Ctx.Marks at h
  rw [h]

/-- The state after the oldest pending store has its bytes, before its signals act. -/
def State.performed (s : State) (c x : Nat) (p : PStore) (r : List PStore) : State :=
  ((s.updCtx c x (fun t => { t with stores := r })).placeStore c x p.place p.w p.data.toNat).noteVa c p.place p.va

theorem performStore_cons (h : (s.ctx c x).stores = p :: r) :
    s.performStore c x = (s.performed c x p r).signals c x (signalFifos p.tk x) := by
  unfold State.performStore
  rw [h]
  rfl

theorem performed_onlyPts (s : State) (c x : Nat) (p : PStore) (r : List PStore) :
    OnlyPts (s.updCtx c x (fun t => { t with stores := r })) (s.performed c x p r) c x :=
  (placeStore_onlyPts ..).trans (noteVa_onlyPts ..)

theorem performStore_stores (h : (s.ctx c x).stores = p :: r) : ((s.performStore c x).ctx c x).stores = r := by
  rw [performStore_cons h, (State.signals_marks ..).stores, (performed_onlyPts ..).stores, State.ctx_updCtx_self]

theorem performStore_sameWords (s : State) (c x : Nat) : Ctx.SameWords (s.ctx c x) ((s.performStore c x).ctx c x) := by
  cases h : (s.ctx c x).stores with
  | nil =>
    unfold State.performStore
    rw [h]
    exact ⟨rfl, rfl, rfl⟩
  | cons p r =>
    rw [performStore_cons h]
    refine .trans ?_ (State.signals_marks ..).moves.sameWords
    refine .trans ?_ (performed_onlyPts ..).sameWords
    rw [State.ctx_updCtx_self]
    exact ⟨rfl, rfl, rfl⟩

theorem performStore_cur (s : State) (c x : Nat) : (s.performStore c x).cur = s.cur := by
  cases h : (s.ctx c x).stores with
  | nil =>
    unfold State.performStore
    rw [h]
  | cons p r =>
    rw [performStore_cons h, (CtxFrame.signals ..).cur_eq, (performed_onlyPts ..).cur, State.updCtx_cur]

/-- A store that is performed is one access of its context (R302). -/
theorem exec_storePerform (h : (s.ctx c x).stores = p :: r) :
    ∃ e, exec (.storePerform c x) s = .next { State.performStore { s with cause := e } c x with cause := s.cause } := by
  refine ⟨some (c, x, p.slk, p.ske), ?_⟩
  show execStorePerform c x s = _
  unfold execStorePerform
  rw [h]
  rfl

theorem performStore_mem (h : (s.ctx c x).stores = p :: r) :
    (s.performStore c x).mem = ((s.updCtx c x (fun t => { t with stores := r })).placeStore c x p.place p.w p.data.toNat).mem := by
  rw [performStore_cons h, State.signals_mem, State.performed, State.noteVa_mem]

/-! ### At the home -/

theorem hcStored_byteAt (s : State) (a : Nat) : (s.hcStored c x pa w v).byteAt a = (s.homeWrite pa w v).byteAt a := by
  rw [State.byteAt, State.hcStored, State.updCtx_mem, State.hcStore_mem, State.byteAt]

/-- A line that gets its place in the L1 takes no byte of the home's line with it. -/
theorem allocLine_homeKept (s : State) (c x ln : Nat) (cls : BitVec 2) : HomeKept s (s.allocLine c ln cls) c x ln := by
  cases h : (s.core c).line ln with
  | none => exact (allocLine_fresh cls h).1
  | some l =>
    unfold State.allocLine
    rw [h]
    exact (LineKept.refl ..).toHomeKept

/-- The bytes of a store are at its home. -/
theorem homeStore_bytes (hin : pa % 128 + w ≤ 128) {j : Nat} (hj : j < w) :
    ((s.homeStore c x pa w v cls ms true).byteAt (pa + j)).toNat = v / 256 ^ j % 256 := by
  have written (s : State) : ((s.homeWrite pa w v).byteAt (pa + j)).toNat = v / 256 ^ j % 256 := by
    rw [State.byteAt_homeWrite s hj, BitVec.toNat_ofNat]
  by_cases h : cls = 0
  · subst h
    obtain ⟨wts, he⟩ := homeStore_hc s c x pa w v ms
    rw [he]
    split
    · rw [hcStored_byteAt, written]
    · rw [State.byteAt, State.hcCopy_mem, ← State.byteAt, (allocLine_homeKept _ c x _ _).bytes _ (by omega), hcStored_byteAt, written]
  · rw [homeStore_plain _ _ _ _ _ _ _ _ h, written]

theorem homeWrite_core (s : State) (a n v c : Nat) : (s.homeWrite a n v).core c = s.core c := by
  induction n generalizing s a v with
  | zero => rfl
  | succ m ih => exact (ih (s.setByte a (BitVec.ofNat 8 v)) (a + 1) (v / 256)).trans rfl

theorem hcStored_line (s : State) : ((s.hcStored c x pa w v).core c).line ln = (s.core c).line ln := by
  unfold State.hcStored State.hcStore
  rw [updPts_lineKept.line, (setHcLine_lineKept (x := x)).line, homeWrite_core]

/-- Where no line must make room for it, a store changes no other byte. -/
theorem homeStore_others (h : ms = true ∨ ((s.core c).line (pa / 128) ≠ none ∧ 4 ≤ w)) {a : Nat} (ha : a < pa ∨ pa + w ≤ a) :
    (s.homeStore c x pa w v cls ms true).byteAt a = s.byteAt a := by
  by_cases hc : cls = 0
  · subst hc
    have placed : s.hcPlaced c x pa w ms = s := by
      unfold State.hcPlaced
      rcases h with rfl | ⟨-, hw⟩
      · exact if_neg (by simp)
      · rw [decide_eq_false (by omega : ¬ w < 4)]
        exact if_neg (by simp)
    obtain ⟨wts, he⟩ := homeStore_hc s c x pa w v ms
    rw [he, placed]
    split
    · rw [hcStored_byteAt, State.byteAt_homeWrite_ne _ ha]
    · next hms =>
      obtain ⟨l, hl⟩ := Option.ne_none_iff_exists'.1 (h.resolve_left hms).1
      have noRoom : (s.hcStored c x pa w v).allocLine c (pa / 128) 0 = s.hcStored c x pa w v := by
        unfold State.allocLine
        rw [hcStored_line, hl]
      rw [noRoom, State.byteAt, State.hcCopy_mem, ← State.byteAt, hcStored_byteAt, State.byteAt_homeWrite_ne _ ha]
  · rw [homeStore_plain _ _ _ _ _ _ _ _ hc, State.byteAt_homeWrite_ne _ ha]

/-! ### In the L1 -/

theorem toNat_bytes {n : Nat} (z : BitVec n) (k m : Nat) : z.toNat / 256 ^ k % 256 ^ m = (z.extractLsb' (8 * k) (8 * m)).toNat := by
  rw [BitVec.extractLsb'_toNat, Nat.shiftRight_eq_div_pow, Nat.pow_mul, Nat.pow_mul]

/-- The bytes that a line takes are the store's. -/
theorem L1Line.stored_bytes (l : L1Line) (hin : pa % 128 + w ≤ 128) :
    (l.stored pa w v).data.toNat / 256 ^ (pa % 128) % 256 ^ w = v % 256 ^ w := by
  have taken : (l.stored pa w v).data.extractLsb' (8 * (pa % 128)) (8 * w) = BitVec.ofNat (8 * w) v :=
    extractLsb'_putBits_self l.data _ _ v (by omega)
  rw [toNat_bytes, taken, BitVec.toNat_ofNat, Nat.pow_mul]

/-- Every other byte of the line stays. -/
theorem L1Line.stored_others (l : L1Line) {j : Nat} (hj : j < pa % 128 ∨ pa % 128 + w ≤ j) :
    (l.stored pa w v).data.toNat / 256 ^ j % 256 = l.data.toNat / 256 ^ j % 256 := by
  have stays : (l.stored pa w v).data.extractLsb' (8 * j) (8 * 1) = l.data.extractLsb' (8 * j) (8 * 1) :=
    extractLsb'_putBits_apart l.data (by omega)
  have one (z : Line) := toNat_bytes z j 1
  rw [Nat.pow_one] at one
  rw [one, one, stays]

/-- A line enters a dirty-line FIFO that is not full without a write-back (R246). -/
theorem enterFifo_room {f : State → Nat → State} {e : Nat} (h : (s.core c).dfifo.length < 256) :
    (∀ m, ((s.enterFifo c e f).core c).line m = (s.core c).line m) ∧ (s.enterFifo c e f).mem = s.mem ∧
    ((s.enterFifo c e f).core c).dfifo.contains e = true := by
  unfold State.enterFifo
  split
  · next hc => exact ⟨fun _ => rfl, rfl, hc⟩
  · have room : (s.core c).dfifo.length < Config.dirtyFifoLen := h
    dsimp only
    rw [if_pos room, State.core_updCore_self]
    exact ⟨fun _ => rfl, rfl, by simp⟩

theorem touch_dfifo (k : Core) (b : Nat) : (k.touch b).dfifo = k.dfifo := by
  unfold Core.touch
  split <;> rfl

theorem l1Taken_room (l : L1Line) (h : (s.core c).dfifo.length < 256) :
    ((s.l1Taken c pa w v cls l).core c).line (pa / 128) = some (l.stored pa w v) ∧ (s.l1Taken c pa w v cls l).mem = s.mem ∧
    (cls = 1 → ((s.l1Taken c pa w v cls l).core c).dfifo.contains (2 * (pa / 128)) = true) := by
  have line : ((s.updCore c (fun k => (k.setLine (pa / 128) (some (l.stored pa w v))).touch l.blk)).core c).line (pa / 128) =
      some (l.stored pa w v) := by
    rw [State.core_updCore_self, (touch_kept ..).2.2, Core.line_setLine_self]
  have room : ((s.updCore c (fun k => (k.setLine (pa / 128) (some (l.stored pa w v))).touch l.blk)).core c).dfifo.length < 256 := by
    rw [State.core_updCore_self, touch_dfifo]
    exact h
  unfold State.l1Taken
  dsimp only
  split
  · obtain ⟨lines, mem, entered⟩ := enterFifo_room (f := fun s e => s.drainEntry c e) (e := 2 * (pa / 128)) room
    exact ⟨(lines _).trans line, mem, fun _ => entered⟩
  · next hc => exact ⟨line, rfl, fun h => absurd h hc⟩

/-- A store of whole words into a line that the L1 holds. -/
theorem placeStore_held {l : L1Line} (hc : cls = 1 ∨ cls = 2) (hw : 4 ≤ w) (hd : (s.core c).direct = false)
    (hl : (s.core c).line (pa / 128) = some l) : s.placeStore c x (.phys pa cls false) w v = s.l1Taken c pa w v cls l := by
  have away : ¬ (false = true ∨ cls = 0 ∨ cls = 3) := by rcases hc with rfl | rfl <;> decide
  have placed : s.l1Placed c x pa w cls = s := by
    unfold State.l1Placed
    rw [if_neg (by omega), State.allocLine, hl]
  unfold State.placeStore
  dsimp only
  rw [if_neg away, hd, if_neg Bool.false_ne_true, l1Store_eq, placed, hl]

/-- A virtual address that is noted changes nothing else of a line (R416). -/
theorem noteVa_line {l : L1Line} (va : Word) (hl : (s.core c).line (pa / 128) = some l) :
    (∃ a, ((s.noteVa c (.phys pa cls ms) va).core c).line (pa / 128) = some { l with va := a }) ∧
    ((s.noteVa c (.phys pa cls ms) va).core c).dfifo = (s.core c).dfifo := by
  unfold State.noteVa
  dsimp only
  rw [hl]
  dsimp only
  split
  · exact ⟨⟨l.va, hl⟩, rfl⟩
  · rw [State.core_updCore_self]
    exact ⟨⟨va, Core.line_setLine_self ..⟩, rfl⟩

theorem CtxFrame.dfifo (h : CtxFrame s t c x) : (t.core c).dfifo = (s.core c).dfifo := by rw [h.unit]

/-- A store of whole words that is performed in a line of the L1 writes its bytes there. -/
theorem performStore_held {l : L1Line} (hst : (s.ctx c x).stores = p :: r) (hp : p.place = .phys pa cls false) (hc : cls = 1 ∨ cls = 2)
    (hw : 4 ≤ p.w) (hd : (s.core c).direct = false) (hl : (s.core c).line (pa / 128) = some l) (hf : (s.core c).dfifo.length < 256) :
    (s.performStore c x).mem = s.mem ∧
    (∃ a, ((s.performStore c x).core c).line (pa / 128) = some { l.stored pa p.w p.data.toNat with va := a }) ∧
    (cls = 1 → ((s.performStore c x).core c).dfifo.contains (2 * (pa / 128)) = true) := by
  have core : (s.updCtx c x (fun t => { t with stores := r })).core c = (s.core c).setCtx x { s.ctx c x with stores := r } :=
    State.core_updCtx_self ..
  have held : (s.updCtx c x (fun t => { t with stores := r })).placeStore c x p.place p.w p.data.toNat =
      (s.updCtx c x (fun t => { t with stores := r })).l1Taken c pa p.w p.data.toNat cls l := by
    rw [hp]
    refine placeStore_held hc hw ?_ ?_
    · rw [core]
      exact hd
    · rw [core]
      exact hl
  obtain ⟨line, mem, entered⟩ := l1Taken_room (s := s.updCtx c x (fun t => { t with stores := r })) (c := c) (pa := pa) (w := p.w)
    (v := p.data.toNat) (cls := cls) l (by rw [core]; exact hf)
  obtain ⟨noted, fifo⟩ := noteVa_line (cls := cls) (ms := false) p.va line
  have frame := CtxFrame.signals (s.performed c x p r) c x (signalFifos p.tk x)
  have whole : s.performed c x p r =
      ((s.updCtx c x (fun t => { t with stores := r })).l1Taken c pa p.w p.data.toNat cls l).noteVa c (.phys pa cls false) p.va := by
    rw [State.performed, held, hp]
  refine ⟨?_, ?_, fun h1 => ?_⟩
  · rw [performStore_mem hst, held, mem, State.updCtx_mem]
  · rw [performStore_cons hst, frame.line, whole]
    exact noted
  · rw [performStore_cons hst, frame.dfifo, whole, fifo]
    exact entered h1

end
end Sys2Proof.Machine
end

section
/-!
SUPPORT. The step of a store word: what its body answers, and what of the package it changes (R91, R106, R258, R302, R345).
-/
namespace Sys2Proof.Machine
section

variable {s t : State} {c x w pa : Nat} {k : Tk} {i : Instr} {v ea : Word} {cls : BitVec 2} {ms : Bool} {Q : Prop}

/-! ### A store that passes its checks is pending (R345) -/

/-- The packet of a store for a home of this package waits at the core's port. -/
theorem storePkt_phys (s : State) (c x : Nat) (ea : Word) (w pa : Nat) (cls : BitVec 2) (ms : Bool) :
    ∃ pts, s.storePkt c x ea w (.phys pa cls ms) = { s with points := pts } := by
  unfold State.storePkt
  dsimp only
  split
  · exact ⟨_, rfl⟩
  · exact ⟨s.points, rfl⟩

/-- The pending store of a word that issues, with the class and the slack entry of its context. -/
def Ctx.pending (u : Ctx) (ea : Word) (w : Nat) (v : Word) (p : Place) (k : Tk) : PStore :=
  ⟨ea, w, v, p, k, u.slk.toNat, u.skEntry u.slk.toNat⟩

theorem storeBody_pends (ha : ea.toNat % w = 0) (ht : s.translate c ea .write ((s.ctx c x).pl = 0) = .ok (.phys pa cls ms))
    (hl : s.lotStep c ea cls ms = .go) (hp : (s.core c).penned = false) (hpoi : s.linePoison (pa / 128) = 0)
    (hh : pa < 2 ^ 47 ∨ (cls ≠ 0 ∧ cls ≠ 3 ∧ ms = false)) :
    storeBody k v ea w c x s = .stored ((s.storePkt c x ea w (.phys pa cls ms)).updCtx c x
      (fun t => { t with stores := t.stores ++ [(s.ctx c x).pending ea w v (.phys pa cls ms) k] })) := by
  have near : ¬ (2 ^ 47 ≤ pa ∧ homeSide cls ms = true) := by
    rintro ⟨hb, hs⟩
    rcases hh with hh | ⟨h0, h3, rfl⟩
    · omega
    · simp only [homeSide, Bool.false_or, Bool.or_eq_true, decide_eq_true_eq] at hs
      exact hs.elim h0 h3
  have clean : s.linePoison (pa / 128) &&& wordMask pa w = 0 := by
    rw [hpoi]
    exact BitVec.zero_and
  unfold storeBody
  dsimp only
  rw [if_neg (by simp [aligned, ha]), ht]
  dsimp only
  rw [hl]
  dsimp only
  rw [hp, if_neg (fun h => Bool.false_ne_true h.1), if_neg Bool.false_ne_true, if_neg (not_not.2 clean), if_neg near]
  rfl

/-! ### What a step changes of the package -/

/-- The packets of one state in another. -/
def State.withPackets (s t : State) : State := { s with points := t.points, outbox := t.outbox, farReqs := t.farReqs }

theorem CtxFrame.withPackets (h : CtxFrame s t c x) (u : State) : CtxFrame (s.withPackets u) (t.withPackets u) c x where
  rest := by
    obtain ⟨hr, -⟩ := h.toCoreFrame
    rw [hr]
    rfl
  asks := h.asks
  others := h.others
  unit := h.unit
  ctxs := h.ctxs

/-- A step of a context: its words stay, and of the package only the context and the packets change, as long as `Q` keeps it from
performing earlier stores. -/
structure StoreStep (Q : Prop) (s t : State) (c x : Nat) : Prop where
  leaves : Q → CtxFrame (s.withPackets t) t c x
  cur    : t.cur = s.cur
  words  : Ctx.SameWords (s.ctx c x) (t.ctx c x)

theorem StoreStep.trans {u : State} (h : StoreStep Q s t c x) (g : StoreStep Q t u c x) : StoreStep Q s u c x where
  leaves hq := ((h.leaves hq).withPackets u).trans (g.leaves hq)
  cur := g.cur.trans h.cur
  words := h.words.trans g.words

theorem CtxFrame.storeStep (h : CtxFrame s t c x) (hw : Ctx.SameWords (s.ctx c x) (t.ctx c x)) : StoreStep Q s t c x where
  leaves _ := by
    have packets : s.withPackets t = s := by
      rw [h.rest]
      rfl
    rwa [packets]
  cur := h.cur_eq
  words := hw

theorem storeStep_packets (s : State) (a b d) : StoreStep Q s { s with points := a, outbox := b, farReqs := d } c x :=
  ⟨fun _ => .refl .., rfl, rfl, rfl, rfl⟩

theorem drainStores_words (s : State) (c x : Nat) :
    (s.drainStores c x).cur = s.cur ∧ Ctx.SameWords (s.ctx c x) ((s.drainStores c x).ctx c x) := by
  refine List.foldlRecOn (motive := fun (t : State) => t.cur = s.cur ∧ Ctx.SameWords (s.ctx c x) (t.ctx c x)) _ _ ⟨rfl, rfl, rfl, rfl⟩
    fun t ht _ _ => ⟨?_, ?_⟩
  · exact (performStore_cur ..).trans ht.1
  · exact ht.2.trans (performStore_sameWords ..)

theorem sendReq_storeStep (s : State) (y n : Nat) (e : BitVec 28) (p : PtPkt) (lvl pkg off : Nat) (data : List Word) (fwd : Nat) :
    StoreStep Q s (s.sendReq c y n e p lvl pkg off data (fwd := fwd)) c x := by
  unfold State.sendReq
  dsimp only
  split
  · exact (CtxFrame.refl ..).storeStep ⟨rfl, rfl, rfl⟩
  · exact storeStep_packets s _ _ _

/-- An access leaves as packets; one for another package first performs the earlier stores (R258). -/
theorem sendAccess_storeStep (s : State) (p : PtPkt) (place : Place) (data : List Word)
    (hq : Q → (s.ctx c x).stores = [] ∨ ∀ pkg off, place ≠ .remote pkg off) : StoreStep Q s (s.sendAccess c x p place data) c x := by
  cases place with
  | phys pa cls ms => exact storeStep_packets s _ _ _
  | remote pkg off =>
    obtain ⟨cur, words⟩ := drainStores_words s c x
    refine StoreStep.trans (t := s.drainStores c x) ⟨fun h => ?_, cur, words⟩ (sendReq_storeStep ..)
    have none := (hq h).resolve_right fun no => no pkg off rfl
    rw [State.drainStores_none none]
    exact .refl ..

theorem Ctx.Trapped.sameWords {u y : Ctx} (h : Ctx.Trapped u y) : Ctx.SameWords u y := by
  obtain ⟨hx, hb, hs⟩ := Ctx.Moves.sameWords h
  exact ⟨hx, hb, hs⟩

theorem takeTrap_storeStep (s : State) (cz : BitVec 5) (v pc : Word) : StoreStep Q s (takeTrap s c x cz v pc) c x := by
  refine (CtxFrame.takeTrap s c x cz v pc).storeStep ?_
  rw [takeTrap_ctx]
  exact (Ctx.taken_moves _ cz v pc).2.sameWords

theorem holdAt_storeStep (s : State) (k : Tk) (wt : Wait) (b : Nat) : StoreStep Q s (s.holdAt c x k wt b) c x :=
  (CtxFrame.holdAt ..).storeStep (State.holdAt_marks ..).moves.sameWords

theorem holdIssued_storeStep (s : State) (k : Tk) (wt : Wait) : StoreStep Q s (s.holdIssued c x k wt) c x := by
  refine (holdAt_storeStep s k wt 0).trans ((CtxFrame.updCtx ..).storeStep ?_)
  rw [State.ctx_updCtx_self]
  exact ⟨rfl, rfl, rfl⟩

theorem finishWord_storeStep (s : State) (k : Tk) : StoreStep Q s (finishWord s c x k) c x :=
  (CtxFrame.finishWord ..).storeStep (finishWord_moves ..).sameWords

/-! ### What the body of a store answers -/

/-- The answers of a store's body in a task that declares no sets: a trap, a wait, an access on its way, or a pending store. -/
def StoreAnswer (s : State) (c x : Nat) (ea : Word) (r : Res) : Prop :=
  match r with
  | .trap _ _ | .hold _ _ => True
  | .sent t _ => ∃ p place data, s.translate c ea .write ((s.ctx c x).pl = 0) = .ok place ∧ t = s.sendAccess c x p place data
  | .stored t => ∃ w pa cls ms p, t = (s.storePkt c x ea w (.phys pa cls ms)).updCtx c x (fun t => { t with stores := t.stores ++ [p] })
  | _ => False

theorem storeBody_answers (hp : (s.core c).penned = false) : StoreAnswer s c x ea (storeBody k v ea w c x s) := by
  unfold storeBody
  dsimp only
  split
  · trivial
  · split
    · trivial
    · next pkg off ht =>
      split
      · trivial
      · rw [hp, if_neg Bool.false_ne_true]
        exact ⟨_, _, [v], ht, rfl⟩
    · next pa cls ms ht =>
      split
      · trivial
      · trivial
      · trivial
      · rw [hp, if_neg (fun h => Bool.false_ne_true h.1), if_neg Bool.false_ne_true]
        split
        · trivial
        · split
          · exact ⟨_, _, [v], ht, rfl⟩
          · exact ⟨_, _, _, _, _, rfl⟩

/-- A store word is a control word whose body is a store's. -/
theorem exec_storeWord (h : storeOf i s.now = some (k, v, ea, w)) :
    ∃ body, exec i s = control i k s body ∧
      ∀ u : State, u.ctx s.cur.1 s.cur.2 = s.now → body s.cur.1 s.cur.2 u = storeBody k v ea w s.cur.1 s.cur.2 u := by
  cases i
  case sb =>
    cases h
    dsimp only [exec, execSb, storeWord]
    refine ⟨_, rfl, fun u hu => ?_⟩
    rw [hu, offsetAddr_one]
  case sh | sw | sd =>
    cases h
    dsimp only [exec, execSh, execSw, execSd, storeWord]
    refine ⟨_, rfl, fun u hu => ?_⟩
    rw [hu, offsetAddr_eq]
    rfl
  case stx =>
    cases h
    dsimp only [exec, execStx]
    refine ⟨_, rfl, fun u hu => ?_⟩
    rw [hu]
    rfl
  all_goals cases h

/-- A transfer at LAST of an active loop traps, whatever its body answers (R83). -/
theorem settle_nests (s : State) (i : Instr) (k : Tk) (r : Res) : NoNest i (s.ctx c x) ∨
    ∃ cz v, settle s c x i k r = takeTrap s c x cz v (s.ctx c x).pc := by
  cases hn : (isTransfer i && ((s.ctx c x).loopAt (s.ctx c x).pc).isSome) with
  | false =>
    refine .inl ((Bool.and_eq_false_iff.1 hn).imp_right fun h => ?_)
    rwa [Option.isSome_eq_false_iff, Option.isNone_iff_eq_none] at h
  | true =>
    refine .inr ?_
    unfold settle
    dsimp only
    rw [hn]
    split
    · split <;> exact ⟨_, _, rfl⟩
    · exact ⟨_, _, rfl⟩
    all_goals contradiction

/-- The answer of a store's body settles as a step that changes its own context and the packets. -/
theorem settle_storeStep {u : State} {r : Res} (hu : StoreStep Q s u c x) (hr : StoreAnswer u c x ea r)
    (hq : Q → (u.ctx c x).stores = [] ∨ ∀ pkg off, u.translate c ea .write ((u.ctx c x).pl = 0) ≠ .ok (.remote pkg off)) :
    StoreStep Q s (settle s c x i k r) c x := by
  rcases settle_nests s i k r with noNest | ⟨cz, val, ht⟩
  case inr =>
    rw [ht]
    exact takeTrap_storeStep ..
  cases r
  case trap cz v =>
    rw [settle_trap (.inr noNest)]
    exact takeTrap_storeStep ..
  case hold wt b =>
    unfold settle
    simp only [noNest.eq_false]
    exact holdAt_storeStep ..
  case sent t wt =>
    obtain ⟨p, place, data, ht, rfl⟩ := hr
    rw [settle_sent noNest]
    refine (hu.trans (sendAccess_storeStep u p place data fun h => ?_)).trans (holdIssued_storeStep ..)
    exact (hq h).imp_right fun no pkg off hpl => no pkg off (hpl ▸ ht)
  case stored t =>
    obtain ⟨n, pa, cls, ms, p, rfl⟩ := hr
    rw [settle_stored noNest]
    refine (hu.trans ?_).trans (finishWord_storeStep ..)
    obtain ⟨pts, hpts⟩ := storePkt_phys u c x ea n pa cls ms
    rw [hpts]
    refine (storeStep_packets u pts u.outbox u.farReqs).trans ((CtxFrame.updCtx ..).storeStep ?_)
    rw [State.ctx_updCtx_self]
    exact ⟨rfl, rfl, rfl⟩
  all_goals exact hr.elim

/-- What a control word changes, from what the answers of its body change: a word that waits, at its tokens or its rendezvous,
changes its own context alone. -/
theorem controlAt_storeStep {lvl : BitVec 2} {body : Nat → Nat → State → Res}
    (hb : ∀ u, u = s ∨ u = s.issued k → StoreStep Q s (settle s s.cur.1 s.cur.2 i k (body s.cur.1 s.cur.2 u)) s.cur.1 s.cur.2)
    (h : controlAt lvl i k s body = .next t) : StoreStep Q s t s.cur.1 s.cur.2 := by
  have traps (cz : BitVec 5) (val : Word) : StoreStep Q s (settle s s.cur.1 s.cur.2 i k (.trap cz val)) s.cur.1 s.cur.2 := by
    obtain ⟨cz', val', ht⟩ := settle_trap_cases s s.cur.1 s.cur.2 i k cz val
    rw [ht]
    exact takeTrap_storeStep ..
  unfold controlAt at h
  dsimp only at h
  split at h
  · cases h
    exact traps ..
  · split at h
    · cases h
      exact traps ..
    · split at h
      · cases h
        split
        · exact hb s (.inl rfl)
        · exact holdAt_storeStep ..
      · split at h
        · split at h
          · cases h
            exact hb s (.inl rfl)
          · cases h
            refine StoreStep.trans ((CtxFrame.updCtx ..).storeStep ?_) (holdAt_storeStep ..)
            rw [State.ctx_updCtx_self]
            exact ⟨rfl, rfl, rfl⟩
        · cases h
          exact hb (s.issued k) (.inr rfl)

/-- The step of a store word in a task that declares no sets. -/
theorem exec_store_storeStep (hst : storeOf i s.now = some (k, v, ea, w)) (hp : (s.core s.cur.1).penned = false) (he : exec i s = .next t) :
    StoreStep (s.now.stores = [] ∨ ∀ pkg off, s.translate s.cur.1 ea .write (s.now.pl = 0) ≠ .ok (.remote pkg off)) s t s.cur.1 s.cur.2 := by
  obtain ⟨body, hb, hbody⟩ := exec_storeWord hst
  rw [hb, control] at he
  refine controlAt_storeStep (fun u hu => ?_) he
  have frame : CtxFrame s u s.cur.1 s.cur.2 := by
    rcases hu with rfl | rfl
    · exact .refl ..
    · exact issued_frame s k
  have ctx : u.ctx s.cur.1 s.cur.2 = s.now := by
    rcases hu with rfl | rfl
    · rfl
    · exact issued_ctx ..
  rw [hbody u ctx]
  refine settle_storeStep (frame.storeStep ?_) (storeBody_answers ?_) ?_
  · rw [ctx]
    exact ⟨rfl, rfl, rfl⟩
  · rw [Core.penned, frame.unit, ← Core.penned]
    exact hp
  · rw [ctx, frame.sameSpace.translate]
    exact id

end
/-- Settles O30: the word that issues, the frame of every step of it, and the performance at the home and in the L1. -/
theorem storesPendThenWriteTheirBytes : Obligations.StoresPendThenWriteTheirBytes := by
  unfold Obligations.StoresPendThenWriteTheirBytes
  refine ⟨⟨?_, ?_⟩, ?_, ?_⟩
  · intro s i k v ea w pa cls ms hst h ha ht hl hp hpoi hh
    have pends := storeBody_pends (s := s.issued k) (k := k) (v := v) ha (by rw [(issued_sameSpace s k).translate, issued_ctx]; exact ht)
      (by rw [(issued_frame s k).lotStep]; exact hl) (by rw [issued_penned]; exact hp) (by rw [(issued_frame s k).linePoison]; exact hpoi) hh
    obtain ⟨pts, hpts⟩ := storePkt_phys (s.issued k) s.cur.1 s.cur.2 ea w pa cls ms
    have turn : ({ s.issued k with points := pts } : State).cur = s.cur := issued_cur s k
    have now : ({ s.issued k with points := pts } : State).ctx s.cur.1 s.cur.2 = s.now := issued_ctx s k ..
    rw [exec_storeOf hst h, pends, settle_stored h.noNest, hpts, State.updCtx, now, issued_ctx, State.finished, State.setNow,
      State.setCtx_cur, turn]
    rfl
  · intro s t i k v ea w hst hp he
    have step := exec_store_storeStep hst hp he
    obtain ⟨hx, hb, hs⟩ := step.words
    have now : t.now = t.ctx s.cur.1 s.cur.2 := by rw [State.now, step.cur]
    rw [now]
    exact ⟨fun hq => ⟨step.leaves hq, fun a => congrArg (Map.get 0 · a) (step.leaves hq).mem_eq⟩, hx, hb, hs⟩
  · intro s c x p r pa cls ms hst hp hc hin
    obtain ⟨e, he⟩ := exec_storePerform hst
    have mem := performStore_mem (s := { s with cause := e }) hst
    have home (u : State) : u.placeStore c x p.place p.w p.data.toNat = u.homeStore c x pa p.w p.data.toNat cls ms true := by
      rw [hp]
      exact if_pos (by tauto)
    rw [home] at mem
    refine ⟨_, he, performStore_stores (s := { s with cause := e }) hst, (performStore_sameWords { s with cause := e } c x).1,
      fun j hj => ?_, fun hroom a ha => ?_⟩
    · exact (congrArg (fun m => (Map.get 0 m (pa + j)).toNat) mem).trans (homeStore_bytes hin hj)
    · refine (congrArg (Map.get 0 · a) mem).trans (homeStore_others (hroom.imp_right fun h => ⟨?_, h.2⟩) ha)
      rw [State.core_updCtx_self]
      exact h.1
  · intro s c x p r pa cls l hst hp hc hw ha hd hl hf
    obtain ⟨e, he⟩ := exec_storePerform hst
    obtain ⟨mem, ⟨va, line⟩, fifo⟩ := performStore_held (s := { s with cause := e }) hst hp hc (by omega) hd hl hf
    have hin : pa % 128 + p.w ≤ 128 := inLine_of_aligned (by omega) ha
    exact ⟨_, _, he, performStore_stores (s := { s with cause := e }) hst, fun a => congrArg (Map.get 0 · a) mem, line, l.stored_bytes hin,
      fun j _ hj => l.stored_others hj, rfl, rfl, fifo⟩

end Sys2Proof.Machine
end

section
/-!
SUPPORT. The turn of a context, words that wait, and words of the context and time groups (R49, R102, R106, R131, R133).
-/
namespace Sys2Proof.Machine
section

variable {s t : State} {c x : Nat} {k : Tk} {i : Instr} {d : Reg}

/-! ### The turn of a context (R102) -/

/-- A context that can issue, that nothing asks to stop and that has no event to take, issues its next word. -/
theorem State.turn_issues (h : s.canIssue s.cur.1 s.cur.2 = true) (hs : (s.ctx s.cur.1 s.cur.2).stopReq = false)
    (hp : ¬ (s.takesPending s.cur.1 s.cur.2 = true ∧ s.pendingAt s.cur.1 s.cur.2 = true)) : s.turn = s.issue s.cur.1 s.cur.2 := by
  have boundary : s.atBoundary s.cur.1 s.cur.2 = true := (Bool.and_eq_true_iff.mp h).1
  unfold State.turn
  simp only [boundary, hs, hp, h, Bool.true_eq_false, Bool.false_eq_true, if_false, if_true, and_true, ite_self]

/-- With nothing on the agenda, a context that can issue and has not issued in this clock moves next (log 1). -/
theorem State.plan_issues (ha : s.agenda = []) (hr : s.ran = false) (h : s.canIssue s.cur.1 s.cur.2 = true) (hs : s.now.stopReq = false)
    (hp : ¬ (s.takesPending s.cur.1 s.cur.2 = true ∧ s.pendingAt s.cur.1 s.cur.2 = true)) :
    s.plan = ({ s with ran := true } : State).issue s.cur.1 s.cur.2 := by
  have turn : ({ s with ran := true } : State).turn = ({ s with ran := true } : State).issue s.cur.1 s.cur.2 :=
    State.turn_issues h hs hp
  rw [← turn, State.plan]
  split
  case h_3 => rw [if_pos ⟨hr, h⟩]
  all_goals simp_all

theorem issue_decoded {u : State} {w : Code} (hf : s.fetchCode c x (s.ctx c x).pc = some (u, w)) (hd : decode w = some i) :
    s.issue c x = if u.hasSlot c x (engineWord w i) then .run i (u.takeSlot c x (engineWord w i)) else .out (.next s) := by
  rw [State.issue, hf]
  dsimp only
  rw [hd]

theorem issue_undecoded {u : State} {w : Code} (hf : s.fetchCode c x (s.ctx c x).pc = some (u, w)) (hd : decode w = none) :
    s.issue c x = .out (execIllegalWord w u) := by
  rw [State.issue, hf]
  dsimp only
  rw [hd]

/-! ### Words that wait for a token (R106) -/

/-- A word of a major that R81 does not list is no control transfer. -/
theorem isTransfer_of_fld {m : BitVec 6} (h : fld (encode i) 21 6 = m) (hm : ((0x06#6 ≤ m && m ≤ 0x0a#6) || m = 0x19#6) = false) :
    isTransfer i = false := by
  unfold isTransfer
  unfold fld at h
  dsimp only
  rw [h, hm]

theorem isTransfer_of_intResult {u : Ctx} {v : Word} (h : intResult i u = some (k, d, v)) : isTransfer i = false := by
  cases i
  case add | sub | and | or | xor | andn | sll | srl | sra | slt | sltu | min | max | minu | maxu | mul | mulh | mulhu | div |
      divu | rem | remu | clz | ctz | popc | sextb | sexth | sextw =>
    exact isTransfer_of_fld (encQ_m ..) rfl
  case andi | ori | xori | slli | srli | srai | slti | sltiu => exact isTransfer_of_fld (encK_m ..) rfl
  case addi => exact isTransfer_of_fld (encI_m ..) rfl
  case lim | lis => exact isTransfer_of_fld (encW_m ..) rfl
  all_goals cases h

theorem exec_regWord_of_intResult {v : Word} {u : Ctx} (h : intResult i u = some (k, d, v)) : ∃ f, exec i s = regWord i k d s f := by
  cases i
  case add | sub | and | or | xor | andn | sll | srl | sra | slt | sltu | min | max | minu | maxu | mul | mulh | mulhu | div |
      divu | rem | remu | clz | ctz | popc | sextb | sexth | sextw | addi | andi | ori | xori | slli | srli | srai | slti | sltiu |
      lim | lis =>
    cases h
    exact ⟨_, rfl⟩
  all_goals cases h

/-- A register word whose wait FIFO is empty is held at its word. -/
theorem regWord_held {f : Nat} {g : Ctx → Word} (hw : i.wf = true) (ht : isTransfer i = false)
    (he : emptyWait (s.core s.cur.1) (waitFifos k s.cur.2) = some f) :
    regWord i k d s g = .next (s.waits k (.token f) s.now.gc) := by
  have late (u : Ctx) (t : State) : earlyTrap u i (.done t) = false := by simp [earlyTrap, ht]
  have level : ¬ (s.ctx s.cur.1 s.cur.2).pl < 0 := BitVec.not_lt_zero
  unfold regWord control controlAt
  dsimp only
  rw [hw, if_neg (by decide), if_neg level, he]
  dsimp only
  rw [late, if_neg (by decide)]
  rfl

theorem waits_now_of_token (s : State) (k : Tk) (f b : Nat) :
    (s.waits k (.token f) b).now = { s.now with
      wait := some (.token f), waitTk := k, bound := b, stall := 0, waitAt := s.cc
      popped := false } := State.ctx_updCtx_self ..

/-! ### Words that wait for what has not come (R116) -/

theorem settle_hold {w : Wait} {b : Nat} (h : NoNest i (s.ctx c x)) : settle s c x i k (.hold w b) = s.holdAt c x k w b := by
  unfold settle
  simp only [h.eq_false]

/-- A word whose body waits, waits, and its tokens are not popped. -/
theorem control_waits {body : Nat → Nat → State → Res} {w : Wait} {b : Nat} (h : Issues 0 i k s)
    (hb : body s.cur.1 s.cur.2 (s.issued k) = .hold w b) : control i k s body = .next (s.waits k w b) := by
  rw [control, controlAt_issues h, hb, settle_hold h.noNest]
  rfl

/-- A word that waits unless what it waits for has come. -/
theorem control_waitsUnless {body : Nat → Nat → State → Res} {w : Wait} {b : Nat} {ready : Bool} (h : Issues 0 i k s)
    (hb : body s.cur.1 s.cur.2 (s.issued k) = if ready then .done (s.issued k) else .hold w b) :
    control i k s body = .next (if ready then (s.issued k).finished k else s.waits k w b) := by
  cases ready
  · exact control_waits h hb
  · exact control_finished h hb (issued_cur s k)

theorem inSet_iff (u : Ctx) : u.inSet = ! decide (u.run ≠ .running ∧ u.run ≠ .failed) := by
  unfold Ctx.inSet
  cases u.run <;> decide

theorem waitBound_of_fields {e m : Nat} (he : e < 16) (hm : m < 16) : waitBound (16 * e + m) = (m + 16) * 2 ^ e := by
  rw [waitBound, show (16 * e + m) % 16 = m by omega, show (16 * e + m) / 16 % 16 = e by omega]

theorem exec_waitWord {w : Wait} {b : Nat} {ready : Bool} (hw : waitWord i s = some (k, w, b, ready)) (h : Issues 0 i k s)
    (other : ∀ d v, i = .cwait k d v → d.toNat ≠ s.cur.2) :
    exec i s = .next (if ready then (s.issued k).finished k else s.waits k w b) := by
  cases i
  case wtime k a v =>
    cases hw
    dsimp only [exec, execWtime]
    refine control_waitsUnless h ?_
    rw [issued_ctx, State.timeNs, issued_time, ← State.now]
    simp only [decide_eq_true_eq]
    rfl
  case wframe k a v =>
    cases hw
    dsimp only [exec, execWframe]
    refine control_waitsUnless h ?_
    rw [issued_ctx, issued_frameOf, ← State.now]
    simp only [decide_eq_true_eq]
    rfl
  case cwait k n v =>
    cases hw
    dsimp only [exec, execCwait]
    refine control_waitsUnless h ?_
    rw [if_neg (other n v rfl), issued_ctx, inSet_iff]
    by_cases hr : (s.ctx s.cur.1 n.toNat).run ≠ .running ∧ (s.ctx s.cur.1 n.toNat).run ≠ .failed
    · rw [decide_eq_true hr]
      rfl
    · rw [decide_eq_false hr]
      rfl
  case pwait k n v =>
    cases hw
    dsimp only [exec, execPwait]
    refine control_waitsUnless h ?_
    rw [issued_slotFull]
    rfl
  all_goals cases hw

/-! ### Words of the context group (R131) and `slk` (R133) -/

theorem controlAt_finished {lvl : BitVec 2} {body : Nat → Nat → State → Res} (h : Issues lvl i k s)
    (hb : body s.cur.1 s.cur.2 (s.issued k) = .done t) (ht : t.cur = s.cur) : controlAt lvl i k s body = .next (t.finished k) := by
  rw [control_done h hb, State.finished, ht]

theorem controlAt_raised {lvl : BitVec 2} {body : Nat → Nat → State → Res} {cz : BitVec 5} {v : Word} (h : Issues lvl i k s)
    (hb : body s.cur.1 s.cur.2 (s.issued k) = .trap cz v) : controlAt lvl i k s body = .next (s.raised cz v) := by
  rw [controlAt_issues h, hb, settle_trap (.inr h.noNest)]
  rfl

section
variable {a : Reg}

theorem execCstart_misaligned (h : Issues 1 (.cstart k d a) k s) (ha : (s.now.rd a).toNat % 4 ≠ 0) :
    execCstart k d a s = .next (s.raised Cause.misal (s.now.rd a)) := by
  refine controlAt_raised h ?_
  dsimp only
  rw [issued_ctx, ← State.now, if_pos (by simp [aligned, ha])]

theorem execCstart_starts (h : Issues 1 (.cstart k d a) k s) (ha : (s.now.rd a).toNat % 4 = 0)
    (hr : (s.ctx s.cur.1 d.toNat).run = .stopped) :
    execCstart k d a s = .next (((s.issued k).setCtx s.cur.1 d.toNat
      { (s.ctx s.cur.1 d.toNat).setPl 1 with run := .running, pc := s.now.rd a, stopReq := false }).finished k) := by
  refine controlAt_finished h ?_ (issued_cur s k)
  dsimp only
  rw [issued_ctx, issued_ctx, ← State.now, if_neg (by simp [aligned, ha]), if_pos hr, State.updCtx, issued_ctx]

theorem execCstart_leaves (h : Issues 1 (.cstart k d a) k s) (ha : (s.now.rd a).toNat % 4 = 0)
    (hr : (s.ctx s.cur.1 d.toNat).run ≠ .stopped) : execCstart k d a s = .next ((s.issued k).finished k) := by
  refine controlAt_finished h ?_ (issued_cur s k)
  dsimp only
  rw [issued_ctx, issued_ctx, ← State.now, if_neg (by simp [aligned, ha]), if_neg hr]

theorem execCstop_asks (h : Issues 1 (.cstop k d) k s) :
    execCstop k d s = .next ((if (s.ctx s.cur.1 d.toNat).run = .running
      then (s.issued k).setCtx s.cur.1 d.toNat { s.ctx s.cur.1 d.toNat with stopReq := true } else s.issued k).finished k) := by
  refine controlAt_finished h ?_ ?_
  · dsimp only
    rw [issued_ctx, State.updCtx, issued_ctx, apply_ite Res.done]
  · split
    · exact issued_cur s k
    · exact issued_cur s k

/-- A word whose body changes its own context and completes. -/
theorem control_setNow {body : Nat → Nat → State → Res} {f : Ctx → Ctx} (h : Issues 0 i k s)
    (hb : body s.cur.1 s.cur.2 (s.issued k) = .done ((s.issued k).updCtx s.cur.1 s.cur.2 f)) :
    control i k s body = .next (((s.issued k).setNow (f s.now)).finished k) := by
  rw [control_finished h hb (issued_cur s k), State.updCtx, issued_ctx, State.setNow, issued_cur, State.now]

end

end

/-- Settles O3: the plan of a step is the issue of the current context, which runs what the fetched word decodes to. -/
theorem stepRunsDecoded : Obligations.StepRunsDecoded := by
  unfold Obligations.StepRunsDecoded
  refine ⟨fun s u w i ha hr hi hs hp hf hd => ?_, fun s u w ha hr hi hs hp hf hd => ?_, fun s i r ha => ?_⟩
  · rw [step, State.plan_issues ha hr hi hs hp, issue_decoded hf hd]
    exact ⟨fun hslot => by rw [if_pos hslot], fun hslot => by rw [if_neg (by rw [hslot]; decide)]⟩
  · rw [step, State.plan_issues ha hr hi hs hp, issue_undecoded hf hd]
    rfl
  · rw [step, State.plan, ha]

/-- Settles O18: an integer word traps for nothing that it reads, so that its empty FIFO holds it. -/
theorem emptyFifoHolds : Obligations.EmptyFifoHolds := by
  unfold Obligations.EmptyFifoHolds
  intro s i k d v f hi hw he
  obtain ⟨g, hg⟩ := exec_regWord_of_intResult hi
  exact ⟨hg.trans (regWord_held hw (isTransfer_of_intResult hi) he), waits_now_of_token s k f _⟩

/-- Settles O27, by what the body of each word that waits answers. -/
theorem waitWordsCompleteOrWait : Obligations.WaitWordsCompleteOrWait := by
  unfold Obligations.WaitWordsCompleteOrWait
  exact ⟨fun s i k w b ready hw h other => exec_waitWord hw h other, fun e m he hm => waitBound_of_fields he hm⟩

/-- Settles O26. A context that has ended or failed is not stopped, so that `cstart` leaves it alone too (log 37). -/
theorem contextWordsStartStopAndYield : Obligations.ContextWordsStartStopAndYield := by
  unfold Obligations.ContextWordsStartStopAndYield
  intro s k d a n
  refine ⟨fun h => ⟨execCstart_misaligned h, execCstart_starts h, execCstart_leaves h⟩, execCstop_asks, fun h => ?_, fun h => ?_⟩
  · dsimp only [exec, execCyield]
    exact control_setNow (f := fun t => { t with yieldFor := n.toNat + 2 }) h rfl
  · dsimp only [exec, execSlk]
    exact control_setNow (f := fun t => { t with slk := n.setWidth 4 }) h rfl

end Sys2Proof.Machine
end

section
/-!
SUPPORT. What an engine word leaves at its core: its queue, its slot, and the registers and the tiles of the engines (R108, R110, R111, R170).
-/
namespace Sys2Proof.Machine
section

variable {s t u : State} {c x e : Nat} {k : Tk} {i : Instr} {ent : Entry} {slot : Option Nat} {wv : Word}
  {chk : Nat → Nat → State → EnqRes}

/-! ### What queues and slots leave of a core -/

/-- What a queue's own bookkeeping leaves of a core: the slots, the vector registers and the tiles. -/
def Core.SameData (k k' : Core) : Prop := k'.pfull = k.pfull ∧ k'.vxe.v = k.vxe.v ∧ k'.mxe.t = k.mxe.t

theorem Core.SameData.trans {k k' k'' : Core} (h : Core.SameData k k') (g : Core.SameData k' k'') : Core.SameData k k'' :=
  ⟨g.1.trans h.1, g.2.1.trans h.2.1, g.2.2.trans h.2.2⟩

theorem Core.updQ_sameData (k : Core) (e : Nat) (f : EngQ → EngQ) : Core.SameData k (k.updQ e f) := by
  unfold Core.updQ Core.setQ
  split <;> exact ⟨rfl, rfl, rfl⟩

theorem State.seedTaken_sameData (s : State) (c x e : Nat) : Core.SameData (s.core c) ((s.seedTaken c x e).core c) := by
  unfold State.seedTaken
  split
  · rw [State.core_setCtx_self]
    exact ⟨rfl, rfl, rfl⟩
  · exact ⟨rfl, rfl, rfl⟩

theorem State.enqueue_sameData (s : State) (c x e : Nat) (ent : Entry) : Core.SameData (s.core c) ((s.enqueue c x e ent).core c) := by
  rw [State.enqueue_eq, State.core_updCore_self]
  exact (s.seedTaken_sameData c x e).trans (Core.updQ_sameData { ((s.seedTaken c x e).core c) with enqNo := _ } e _)

theorem CtxFrame.sameData (h : CtxFrame s t c x) : Core.SameData (s.core c) (t.core c) := by
  unfold Core.SameData
  rw [h.unit]
  exact ⟨rfl, rfl, rfl⟩

theorem Core.slotFull_emptySlot_self (k : Core) (n : Nat) : (k.emptySlot n).slotFull n = false := by
  unfold Core.slotFull Core.emptySlot
  dsimp only
  rw [BitVec.getLsbD_and, BitVec.getLsbD_not, BitVec.getLsbD_ofNat, Nat.testBit_two_pow_self]
  by_cases hn : n < 16 <;> simp [hn]

theorem State.emptied_slotFull (s : State) (c n : Nat) : ((s.emptied c (some n)).core c).slotFull n = false := by
  rw [State.emptied, State.emptySlot, State.core_updCore_self, Core.slotFull_emptySlot_self]

theorem State.emptied_engines (s : State) (c : Nat) (slot : Option Nat) :
    ((s.emptied c slot).core c).vxe.v = (s.core c).vxe.v ∧ ((s.emptied c slot).core c).mxe.t = (s.core c).mxe.t := by
  cases slot with
  | none => exact ⟨rfl, rfl⟩
  | some n =>
    rw [State.emptied, State.emptySlot, State.core_updCore_self]
    exact ⟨rfl, rfl⟩

/-- The value that an entry takes with it, of the register that a row names (R170). -/
def Ctx.rdOf (t : Ctx) (r : Option Reg) : Word :=
  match r with
  | some a => t.rd a
  | none => 0

/-! ### How an engine word issues (R108, R110) -/

/-- What an entry that has entered leaves: its queue, the course of its context, its slot, and no register and no tile changed. -/
structure Entered (s t : State) (e : Nat) (slot : Option Nat) (ent : Entry) : Prop where
  enqueued : Enqueued s t s.cur.1 e ent
  wentOn   : WentOn s t
  vregs    : (t.core s.cur.1).vxe.v = (s.core s.cur.1).vxe.v
  tiles    : (t.core s.cur.1).mxe.t = (s.core s.cur.1).mxe.t
  emptied  : ∀ n, slot = some n → (t.core s.cur.1).slotFull n = false

theorem finishWord_entered (s : State) (slot : Option Nat) (ent : Entry) (k : Tk) (he : e < 3) :
    Entered s (finishWord ((s.emptied s.cur.1 slot).enqueue s.cur.1 s.cur.2 e ent) s.cur.1 s.cur.2 k) e slot
      ((s.emptied s.cur.1 slot).entered s.cur.1 s.cur.2 e ent) := by
  obtain ⟨full, vregs, tiles⟩ :=
    (State.enqueue_sameData (s.emptied s.cur.1 slot) s.cur.1 s.cur.2 e ent).trans (CtxFrame.finishWord _ s.cur.1 s.cur.2 k).sameData
  obtain ⟨vregs', tiles'⟩ := s.emptied_engines s.cur.1 slot
  refine ⟨?_, ?_, vregs.trans vregs', tiles.trans tiles', fun n hn => ?_⟩
  · exact ((s.emptied s.cur.1 slot).enqueue_enqueued s.cur.1 s.cur.2 ent he).congr (s.emptied_q s.cur.1 slot) fun e' =>
      finishWord_q _ s.cur.1 s.cur.2 k e'
  · exact finishWord_wentOn k ((s.emptied_keeps _ _ slot).trans ((s.emptied s.cur.1 slot).enqueue_keeps _ _ e ent))
  · subst hn
    rw [Core.slotFull, full]
    exact s.emptied_slotFull s.cur.1 n

theorem engineWord_enoted (h : Issues 0 i (onlyY k) s) (hq : ((s.core s.cur.1).q e).enoted = true) :
    control i (onlyY k) s (enqBody wv e k none chk) = .next (s.raised Cause.ill wv) := by
  refine control_raised h ?_
  rw [issued_onlyY, enqBody_enoted hq]

theorem engineWord_traps {cz : BitVec 5} {v : Word} (h : Issues 0 i (onlyY k) s) (hq : ((s.core s.cur.1).q e).enoted = false)
    (hc : chk s.cur.1 s.cur.2 s = .trap cz v) :
    control i (onlyY k) s (enqBody wv e k none chk) = .next (s.raised cz v) := by
  refine control_raised h ?_
  rw [issued_onlyY, enqBody, hq, hc]
  rfl

/-- A full queue holds the word. -/
theorem engineWord_waits (h : Issues 0 i (onlyY k) s) (hq : ((s.core s.cur.1).q e).enoted = false)
    (hc : chk s.cur.1 s.cur.2 s = .ok t ent slot) (hfull : 64 ≤ ((s.core s.cur.1).q e).count) :
    control i (onlyY k) s (enqBody wv e k none chk) = .next (s.waits (onlyY k) (.queueFull e) s.now.gq) := by
  have full : Config.queueLen ≤ ((s.core s.cur.1).q e).count := hfull
  refine control_waits h ?_
  rw [issued_onlyY, enqBody, hq, hc, if_neg (by decide)]
  dsimp only
  rw [if_pos full]
  rfl

/-- An engine word whose checks pass enters its queue; `u` is what the state is behind the block that the checks have read. -/
theorem engineWord_enters (he : e < 3) (h : Issues 0 i (onlyY k) s) (hq : ((s.core s.cur.1).q e).enoted = false)
    (hc : chk s.cur.1 s.cur.2 s = .ok u ent slot) (hroom : ((s.core s.cur.1).q e).count < 64) (hst : u.now.stores = [])
    (hcur : u.cur = s.cur) :
    ∃ t, control i (onlyY k) s (enqBody wv e k none chk) = .next t ∧
      Entered u t e slot ((u.emptied u.cur.1 slot).entered u.cur.1 u.cur.2 e { ent with guard := none, tk := k }) := by
  have room : ¬ Config.queueLen ≤ ((s.core s.cur.1).q e).count := Nat.not_le.2 hroom
  have body : enqBody wv e k none chk s.cur.1 s.cur.2 (s.issued (onlyY k)) =
      .done ((u.emptied u.cur.1 slot).enqueue u.cur.1 u.cur.2 e { ent with guard := none, tk := k }) := by
    rw [State.now, hcur] at hst
    rw [issued_onlyY, enqBody, hq, hc, if_neg (by decide), hcur]
    dsimp only
    rw [if_neg room, State.drainStores_none hst]
    rfl
  refine ⟨_, control_completes h body, ?_⟩
  rw [← hcur]
  exact finishWord_entered u slot _ (onlyY k) he

end

/-! ### Vector words -/

section
variable {s : State} {i : Instr} {k : Tk} {xa xb slot : Option Reg}

theorem exec_vecRow (h : vecRow i = some (k, xa, xb, slot)) (s : State) :
    exec i s = control i (onlyY k) s (enqBody (wordVal i) 2 k none (vecIssue i)) := by
  cases i
  case vadd | vsub | vmul | vfma | vmax | vmin | vabs | vneg | vand | vor | vxor | vsll | vsra | vsrl | vcmplt | vcmpeq | vexp2 |
      vlog2 | vrcp | vrsqrt | vcvt | vbmax | vq | vdq | vredmax | vredsum | vredmin | vbcast | vperm | vld | vst | vlds | vsts | vldx |
      vstx | vldb | vpushc | vpopc | vbal | vsoftk | vhist | vmov | vsplat | vlane | vsel | vmset | vidx =>
    cases h
    rfl
  all_goals cases h

theorem vecXs_of_vecRow (h : vecRow i = some (k, xa, xb, slot)) (t : Ctx) : vecXs i t = (t.rdOf xa, t.rdOf xb) := by
  cases i
  case vadd | vsub | vmul | vfma | vmax | vmin | vabs | vneg | vand | vor | vxor | vsll | vsra | vsrl | vcmplt | vcmpeq | vexp2 |
      vlog2 | vrcp | vrsqrt | vcvt | vbmax | vq | vdq | vredmax | vredsum | vredmin | vbcast | vperm | vld | vst | vlds | vsts | vldx |
      vstx | vldb | vpushc | vpopc | vbal | vsoftk | vhist | vmov | vsplat | vlane | vsel | vmset | vidx =>
    cases h
    rfl
  all_goals cases h

theorem vecSlot_of_vecRow (h : vecRow i = some (k, xa, xb, slot)) : vecSlot i = slot.map BitVec.toNat := by
  cases i
  case vbal | vlane =>
    cases h
    rfl
  all_goals cases h <;> rfl

theorem vecIssue_misal {c x : Nat} {v : Word} (h : vlsTrap i (s.ctx c x) = some v) : vecIssue i c x s = .trap Cause.misal v := by
  unfold vecIssue
  dsimp only
  rw [vlsCheck_eq, h]

end

/-- Settles O37: the body of every vector word is that of an engine word at the VXE, with the row's registers. -/
theorem vectorWordsEnterTheirQueue : Obligations.VectorWordsEnterTheirQueue := by
  unfold Obligations.VectorWordsEnterTheirQueue
  intro s i k xa xb slot hrow h
  rw [exec_vecRow hrow]
  refine ⟨engineWord_enoted (e := 2) h, fun v hq hv => engineWord_traps (e := 2) h hq (vecIssue_misal hv),
    fun hq hv => engineWord_waits (e := 2) h hq (vecIssue_ok hv), fun hq hv hroom hst => ?_⟩
  obtain ⟨t, ht, entered⟩ :=
    engineWord_enters (e := 2) (wv := wordVal i) (by decide) h hq (vecIssue_ok (s := s) hv) hroom hst rfl
  have xs := vecXs_of_vecRow hrow s.now
  refine ⟨t, _, ht, entered.enqueued, entered.wentOn, rfl, rfl, rfl, rfl, congrArg Prod.fst xs, congrArg Prod.snd xs, rfl, rfl,
    entered.vregs, fun d hd => entered.emptied d.toNat ?_⟩
  rw [vecSlot_of_vecRow hrow, hd, Option.map_some]

end Sys2Proof.Machine
end

section
/-!
SUPPORT. What an access of memory leaves of its core: the engines, their queues, the slots and the scratchpad are no part of it (R240, R246, R247).
-/
namespace Sys2Proof.Machine
section

variable {s t u : State} {c x ln : Nat} {cls : BitVec 2} {k k' k'' : Core}

/-! ### The parts of a core that an access may move -/

/-- An access moves its context, the token counts, the counters, the L1 with its dirty-line FIFO, and the windows' lines. -/
def Core.Accessed (k k' : Core) : Prop :=
  k' = { k with
    ctx := k'.ctx, fifo := k'.fifo, fresh := k'.fresh, perf := k'.perf, hypPerf := k'.hypPerf, ringWait := k'.ringWait, l1 := k'.l1
    dfifo := k'.dfifo, blkUse := k'.blkUse, wins := k'.wins, away := k'.away }

theorem Core.Accessed.refl (k : Core) : Core.Accessed k k := rfl

theorem Core.Accessed.trans (h : Core.Accessed k k') (g : Core.Accessed k' k'') : Core.Accessed k k'' := by
  unfold Core.Accessed at *
  rw [g, h]

theorem Core.Accessed.q (h : Core.Accessed k k') (e : Nat) : k'.q e = k.q e := by
  rw [h]
  rfl

theorem Core.touch_accessed (k : Core) (b : Nat) : Core.Accessed k (k.touch b) := by
  unfold Core.touch
  split
  · exact .refl k
  · rfl

theorem Core.foldl_setLine_accessed (f : Core → Nat → Option L1Line) (l : List Nat) (k : Core) :
    Core.Accessed k (l.foldl (fun (k : Core) ln => k.setLine ln (f k ln)) k) := by
  induction l generalizing k with
  | nil => exact .refl k
  | cons b r ih => exact Core.Accessed.trans (k' := k.setLine b (f k b)) rfl (ih _)

/-- The step is an access of core `c`: it moves no engine of that core. -/
def Accesses (s t : State) (c : Nat) : Prop := Core.Accessed (s.core c) (t.core c)

theorem Accesses.refl (s : State) (c : Nat) : Accesses s s c := Core.Accessed.refl _

theorem Accesses.trans (h : Accesses s t c) (g : Accesses t u c) : Accesses s u c := Core.Accessed.trans h g

theorem Accesses.of_cores (h : t.cores = s.cores) : Accesses s t c := by
  have same : t.core c = s.core c := by rw [State.core, h, State.core]
  rw [Accesses, same]
  exact .refl _

theorem Accesses.updCore {f : Core → Core} (h : Core.Accessed (s.core c) (f (s.core c))) : Accesses s (s.updCore c f) c := by
  unfold Accesses
  rw [State.core_updCore_self]
  exact h

theorem Accesses.updCtx (s : State) (c x : Nat) (f : Ctx → Ctx) : Accesses s (s.updCtx c x f) c := by
  unfold Accesses
  rw [State.core_updCtx_self]
  rfl

theorem CtxFrame.accesses (h : CtxFrame s t c x) : Accesses s t c := by
  unfold Accesses Core.Accessed
  rw [h.unit]

theorem Accesses.foldl {β : Type} {f : State → β → State} (h : ∀ t b, Accesses t (f t b) c) (l : List β) (s : State) :
    Accesses s (l.foldl f s) c := by
  induction l generalizing s with
  | nil => exact .refl ..
  | cons b r ih => exact (h s b).trans (ih _)

/-! ### The home -/

theorem homeWrite_accesses (s : State) (a n v : Nat) : Accesses s (s.homeWrite a n v) c := by
  unfold Accesses
  rw [homeWrite_core]
  exact .refl _

theorem homeWords_accesses (s : State) (ln : Nat) (l : Line) (m : BitVec 32) : Accesses s (s.homeWords ln l m) c := by
  refine Accesses.foldl (fun t j => ?_) _ s
  split
  · exact homeWrite_accesses ..
  · exact .refl ..

theorem setPoison_accesses (s : State) (ln : Nat) (m : BitVec 32) (b : Bool) : Accesses s (s.setPoison ln m b) c := by
  unfold State.setPoison
  split
  · exact .refl ..
  · exact .of_cores rfl

theorem forcedPkt_accesses (s : State) (d a : Nat) (p : PtPkt) : Accesses s (s.forcedPkt d a p) c := .of_cores rfl

theorem setHcLine_accesses (s : State) (ln : Nat) (h : HcLine) : Accesses s (s.setHcLine ln h) c := by
  unfold State.setHcLine
  split
  · exact .of_cores rfl
  · dsimp only
    split
    · exact .of_cores rfl
    · split <;> exact .of_cores rfl

theorem hcFetch_accesses (s : State) (ln : Nat) (pts : Word) : Accesses s (s.hcFetch ln pts).1 c :=
  (setHcLine_accesses s ln _).trans (.of_cores rfl)

theorem hcStore_accesses (s : State) (ln : Nat) (pts : Word) : Accesses s (s.hcStore ln pts).1 c := setHcLine_accesses ..

/-! ### Lines of the L1 -/

theorem setLine_accesses (s : State) (ln : Nat) (l : Option L1Line) : Accesses s (s.updCore c (fun k => k.setLine ln l)) c := .updCore rfl

theorem touch_accesses (s : State) (b : Nat) : Accesses s (s.updCore c (fun k => k.touch b)) c := .updCore (Core.touch_accessed ..)

theorem writeBackLine_accesses (s : State) (ln : Nat) : Accesses s (s.writeBackLine c ln) c := by
  unfold State.writeBackLine
  split
  · exact .refl ..
  · split
    · exact .refl ..
    · exact (((homeWords_accesses ..).trans (setPoison_accesses ..)).trans (forcedPkt_accesses ..)).trans (.updCore rfl)

theorem evictLine_accesses (s : State) (ln : Nat) : Accesses s (s.evictLine c ln) c := (writeBackLine_accesses ..).trans (.updCore rfl)

theorem evictBlk_accesses (s : State) (b : Nat) : Accesses s (s.evictBlk c b) c := by
  refine (Accesses.foldl (fun t ln => ?_) _ s).trans (.updCore rfl)
  split
  · split
    · exact evictLine_accesses ..
    · exact .refl ..
  · exact .refl ..

theorem clearWay_accesses (s : State) (b w : Nat) : Accesses s (s.clearWay c b w) c := by
  refine Accesses.foldl (fun t ln => ?_) _ s
  split
  · split
    · exact .refl ..
    · exact evictBlk_accesses ..
  · exact .refl ..

theorem makeRoom_accesses (s : State) (b : Nat) : Accesses s (s.makeRoom c b).1 c := by
  unfold State.makeRoom
  split
  · exact .refl ..
  · exact Accesses.trans (t := { s with free := s.free + 1 }) (.of_cores rfl) (clearWay_accesses ..)

theorem allocLine_accesses (s : State) (ln : Nat) (cls : BitVec 2) : Accesses s (s.allocLine c ln cls) c := by
  unfold State.allocLine
  split
  · exact .refl ..
  · unfold State.allocBlk
    dsimp only
    exact (makeRoom_accesses s (singleBlk ln)).trans (.updCore (Core.foldl_setLine_accessed _ _ _))

theorem fillLine_accesses (s : State) (ln : Nat) (cls : BitVec 2) (pts : Word) : Accesses s (s.fillLine c ln cls pts).1 c := by
  unfold State.fillLine
  refine (allocLine_accesses s ln cls).trans ?_
  generalize s.allocLine c ln cls = u
  dsimp only
  split
  · exact .refl ..
  · split
    · exact (hcFetch_accesses u ln pts).trans (setLine_accesses ..)
    · exact setLine_accesses ..

theorem foldl_fillLine_accesses (cls : BitVec 2) (l : List Nat) (r : State × Word) :
    Accesses r.1 (l.foldl (fun (r : State × Word) ln => r.1.fillLine c ln cls r.2) r).1 c := by
  induction l generalizing r with
  | nil => exact .refl ..
  | cons ln l ih => exact (fillLine_accesses ..).trans (ih _)

theorem fillBlk_accesses (s : State) (ln : Nat) (cls : BitVec 2) : Accesses s (s.fillBlk c x ln cls) c := by
  unfold State.fillBlk
  refine Accesses.trans ?_ (.updCtx ..)
  refine Accesses.trans ?_ (foldl_fillLine_accesses cls _ (_, _))
  exact touch_accesses ..

/-! ### Windows and the dirty-line FIFO -/

theorem sendReq_accesses (s : State) (d y k : Nat) (e : BitVec 28) (p : PtPkt) (lvl pkg off : Nat) (data : List Word) (fwd : Nat) :
    Accesses s (s.sendReq d y k e p lvl pkg off data (fwd := fwd)) c := by
  unfold State.sendReq
  dsimp only
  split
  · exact .refl ..
  · exact .of_cores rfl

theorem writeBackWin_accesses (s : State) (w i : Nat) : Accesses s (s.writeBackWin c w i) c := by
  unfold State.writeBackWin
  dsimp only
  split
  · exact .refl ..
  · split
    · exact .refl ..
    · split
      · exact .refl ..
      · refine Accesses.trans ?_ (.updCore rfl)
        split
        · exact (homeWords_accesses ..).trans (forcedPkt_accesses ..)
        · exact (sendReq_accesses ..).trans (.updCore rfl)

theorem drainEntry_accesses (s : State) (e : Nat) : Accesses s (s.drainEntry c e) c := by
  unfold State.drainEntry
  split
  · exact writeBackLine_accesses ..
  · exact writeBackWin_accesses ..

theorem enterFifo_accesses (s : State) (e : Nat) : Accesses s (s.enterFifo c e (fun s e => s.drainEntry c e)) c := by
  unfold State.enterFifo
  split
  · exact .refl ..
  · refine Accesses.trans ?_ (.updCore rfl)
    split
    · exact .refl ..
    · split
      · exact (drainEntry_accesses ..).trans (.updCore rfl)
      · exact .refl ..

/-! ### Stores -/

theorem Core.setLine_touch_accessed (k : Core) (ln b : Nat) (l : Option L1Line) : Core.Accessed k ((k.setLine ln l).touch b) :=
  Core.Accessed.trans (k' := k.setLine ln l) rfl (Core.touch_accessed _ b)

theorem setLine_touch_accesses (s : State) (ln b : Nat) (l : Option L1Line) :
    Accesses s (s.updCore c (fun k => (k.setLine ln l).touch b)) c :=
  .updCore (Core.setLine_touch_accessed ..)

theorem l1Store_accesses (s : State) (pa w v : Nat) (cls : BitVec 2) : Accesses s (s.l1Store c x pa w v cls) c := by
  have placed : Accesses s (s.l1Placed c x pa w cls) c := by
    unfold State.l1Placed
    refine iteInduction (motive := fun u => Accesses s u c) (fun _ => ?_) (fun _ => ?_)
    · exact (forcedPkt_accesses ..).trans (fillBlk_accesses ..)
    · exact allocLine_accesses ..
  rw [l1Store_eq]
  refine placed.trans ?_
  split
  · exact .refl ..
  · next l _ =>
    unfold State.l1Taken
    dsimp only
    split
    · exact (setLine_touch_accesses ..).trans (enterFifo_accesses ..)
    · exact setLine_touch_accesses ..

theorem hcCopy_accesses (s : State) (ln : Nat) (m : BitVec 32) (wts : Word) : Accesses s (s.hcCopy c ln m wts) c := by
  unfold State.hcCopy
  split
  · exact .refl ..
  · exact setLine_touch_accesses ..

theorem directStore_accesses (s : State) (pa w v : Nat) : Accesses s (s.directStore c pa w v) c := by
  unfold State.directStore
  refine (homeWrite_accesses s pa w v).trans ?_
  dsimp only
  split
  · exact .refl ..
  · exact .updCore ((Core.setLine_touch_accessed ..).trans rfl)

theorem homeStore_accesses (s : State) (pa w v : Nat) (cls : BitVec 2) (ms : Bool) : Accesses s (s.homeStore c x pa w v cls ms true) c := by
  by_cases h : cls = 0
  · subst h
    obtain ⟨wts, he⟩ := homeStore_hc s c x pa w v ms
    have placed : Accesses s (s.hcPlaced c x pa w ms) c := by
      unfold State.hcPlaced
      refine iteInduction (motive := fun u => Accesses s u c) (fun _ => ?_) (fun _ => ?_)
      · exact (forcedPkt_accesses ..).trans (fillBlk_accesses ..)
      · exact .refl ..
    have stored : Accesses s ((s.hcPlaced c x pa w ms).hcStored c x pa w v) c :=
      placed.trans (((homeWrite_accesses ..).trans (hcStore_accesses ..)).trans (.updCtx ..))
    rw [he]
    split
    · exact stored
    · exact (stored.trans (allocLine_accesses ..)).trans (hcCopy_accesses ..)
  · rw [homeStore_plain _ _ _ _ _ _ _ _ h]
    exact homeWrite_accesses ..

theorem placeStore_accesses (s : State) (p : Place) (w v : Nat) : Accesses s (s.placeStore c x p w v) c := by
  unfold State.placeStore
  cases p with
  | remote _ _ => exact .refl ..
  | phys pa cls ms =>
    dsimp only
    split
    · exact homeStore_accesses ..
    · split
      · exact directStore_accesses ..
      · exact l1Store_accesses ..

theorem noteVa_accesses (s : State) (p : Place) (va : Word) : Accesses s (s.noteVa c p va) c := by
  unfold State.noteVa
  cases p with
  | remote _ _ => exact .refl ..
  | phys pa _ _ =>
    dsimp only
    split
    · exact .refl ..
    · split
      · exact setLine_accesses ..
      · exact .refl ..

theorem performStore_accesses (s : State) (x : Nat) : Accesses s (s.performStore c x) c := by
  unfold State.performStore
  split
  · exact .refl ..
  · exact (((Accesses.updCtx ..).trans (placeStore_accesses ..)).trans (noteVa_accesses ..)).trans (CtxFrame.signals ..).accesses

theorem drainStores_accesses (s : State) (x : Nat) : Accesses s (s.drainStores c x) c :=
  Accesses.foldl (fun t _ => performStore_accesses t x) _ s

/-! ### Loads, and blocks read at issue (R281) -/

theorem loadFill_accesses (s : State) (x pa w : Nat) (cls : BitVec 2) (ms : Bool) : Accesses s (s.loadFill c x pa w cls ms) c := by
  have drained : Accesses s (if cls = 0 then s.drainStores c x else s) c := by
    split
    · exact drainStores_accesses ..
    · exact .refl ..
  unfold State.loadFill
  refine drained.trans ?_
  dsimp only
  generalize (if cls = 0 then s.drainStores c x else s) = u
  split
  · exact .refl ..
  · split
    · split
      · exact (hcFetch_accesses ..).trans (.updCtx ..)
      · exact .refl ..
    · split
      · split
        · split
          · exact (touch_accesses ..).trans (.updCtx ..)
          · exact touch_accesses ..
        · exact .refl ..
      · exact (fillBlk_accesses ..).trans (CtxFrame.count _ c x ..).accesses

theorem readBlock_accesses {va : Word} {n : Nat} {ws : List Word} (h : s.readBlock c x va n = .ok t ws) : Accesses s t c := by
  induction n generalizing s va ws with
  | zero =>
    cases h
    exact .refl ..
  | succ m ih =>
    have next {u : State} {v : Word} (h : (match u.readBlock c x (va + 8) m with
        | .ok s' ws => .ok s' (v :: ws)
        | r => r) = BlkRes.ok t ws) : Accesses u t c := by
      split at h
      · next heq =>
        cases h
        exact ih heq
      · next hne => exact ih h
    unfold State.readBlock at h
    dsimp only at h
    split at h
    · cases h
    · split at h
      · cases h
      · split at h
        · exact next h
        · cases h
    · split at h
      · cases h
      · cases h
      · cases h
      · split at h
        · split at h
          · exact next h
          · cases h
        · split at h
          · cases h
          · exact (loadFill_accesses ..).trans (next h)

/-- A block read at issue leaves every queue of the core. -/
theorem readBlock_q {va : Word} {n : Nat} {ws : List Word} (h : s.readBlock c x va n = .ok t ws) (e : Nat) :
    (t.core c).q e = (s.core c).q e :=
  Core.Accessed.q (readBlock_accesses h) e

end
end Sys2Proof.Machine
end

section
/-!
SUPPORT. The checks of matrix words at issue, for operand words that keep their layout (R203, R214 to R221).
-/
namespace Sys2Proof.Machine
section

variable {s u : State} {c x : Nat} {k : Tk} {i : Instr} {w : Word} {slot xa xb : Option Reg} {ok : Prop}

/-! ### Operand words (R203) -/

/-- The layout that a word of R203 keeps; `m` has the options that the check allows, among them every option up to `n`. -/
theorem opLayout_of_operandOk {n m : Nat} {oq oq' int int' : Bool} (h : operandOk w n oq int)
    (hm : ∀ v, v ≤ n → v &&& (15 - m) = 0) (hq : oq = true → oq' = true) (hi : int = true → int' = true) :
    opLayout w m oq' int' = true := by
  obtain ⟨h59, h53, h25, -, hopt, hint, hoq, hqn⟩ := h
  have inside : (int' || ! opInt w) = true := by
    cases hc : int with
    | true => rw [hi hc, Bool.true_or]
    | false => rw [opInt, hint hc, Bool.not_false, Bool.or_true]
  have source : (if opOq w = true then oq' && decide (opAddr w = 0) else decide (opQn w = 0)) = true := by
    unfold opOq opAddr opQn
    cases hc : w.getLsbD 63 with
    | true => rw [if_pos rfl, hq (hoq hc).1, (hoq hc).2, Bool.true_and, decide_eq_true rfl]
    | false => rw [if_neg Bool.false_ne_true, hqn hc, decide_eq_true rfl]
  unfold opLayout
  rw [inside, source, h59, h53, h25, opOpt, hm _ hopt]
  rfl

theorem opLow_of_operandOk {n : Nat} {oq int : Bool} (h : operandOk w n oq int) : opLow w = false := by
  obtain ⟨-, -, -, low, -⟩ := h
  have : opAddr w % 128 = wbits w 0 7 := by
    unfold opAddr wbits bits
    omega
  rw [opLow, this, low]
  rfl

/-- Operand words that keep their layout pass the checks. -/
theorem opCheck_passes {wv : Word} {ws : List Word} {lay : Bool} {go : EnqRes} (hl : lay = true) (hw : ∀ w ∈ ws, opLow w = false) :
    opCheck wv lay ws go = go := by
  have low : opMisal ws = none := by
    rw [opMisal, List.find?_eq_none.mpr fun w hm => by rw [hw w hm]; decide]
    rfl
  unfold opCheck
  rw [hl, low, if_neg (by decide)]

theorem opCheck_two {a b wv : Word} {n m : Nat} {go : EnqRes} (ha : operandOk a n true false) (hb : operandOk b m true false)
    (hn : ∀ v, v ≤ n → v &&& (15 - n) = 0) (hm : ∀ v, v ≤ m → v &&& (15 - m) = 0) :
    opCheck wv (opLayout a n true false && opLayout b m true false) [a, b] go = go := by
  refine opCheck_passes ?_ ?_
  · rw [opLayout_of_operandOk ha hn id id, opLayout_of_operandOk hb hm id id]
    rfl
  · simp [opLow_of_operandOk ha, opLow_of_operandOk hb]

/-- A word that may name no operand queue names none, and its range ends in the scratchpad. -/
theorem not_misal_of_operandOk {n z : Nat} {int : Bool} (h : operandOk w n false int) (hz : z ≤ 2 ^ 25) :
    ¬ (opOq w = true ∨ 2 ^ 25 < z) := by
  obtain ⟨-, -, -, -, -, -, hoq, -⟩ := h
  rintro (queue | far)
  · exact Bool.false_ne_true (hoq queue).1
  · exact Nat.not_lt.mpr hz far

/-- A store's word: INT goes with the formats 4 and 5 alone (R219). -/
theorem storeFormat_ok (h : operandOk w 5 false true) (hint : w.getLsbD 52 = true → 4 ≤ wbits w 48 4) :
    (decide (opOpt w ≤ 5) && (! opInt w || decide (opOpt w = 4) || decide (opOpt w = 5))) = true := by
  obtain ⟨-, -, -, -, hopt, -⟩ := h
  unfold opOpt opInt
  cases hc : w.getLsbD 52 with
  | false => simp [hopt]
  | true =>
    have := hint hc
    simp only [hopt, decide_true, Bool.not_true, Bool.false_or, Bool.true_and, Bool.or_eq_true, decide_eq_true_eq]
    omega

/-! ### Issue -/

/-- The entry of a matrix word that reads no block. -/
def matEntry (i : Instr) (t : Ctx) (xa xb : Option Reg) : Entry := { ins := i, va := t.rdOf xa, vb := t.rdOf xb }

theorem exec_matRow {t : Ctx} (h : matRow i t = some (k, slot, xa, xb, ok)) (s : State) : exec i s = matWord i k s := by
  cases i
  case mxfmt | mxzero | mxstat | mxmm | mxbin | mxrank | mxsp | mxst | mxld | mxtov | mxfromv =>
    cases h
    rfl
  all_goals cases h

theorem le_options {n : Nat} (h : n = 0 ∨ n = 1 ∨ n = 15) (v : Nat) (hv : v ≤ n) : v &&& (15 - n) = 0 := by
  obtain rfl | rfl | rfl := h
  · rw [Nat.le_zero.mp hv, Nat.zero_and]
  · interval_cases v <;> rfl
  · exact Nat.and_zero v

theorem matIssue_ok (h : matRow i (s.ctx c x) = some (k, slot, xa, xb, ok)) (hok : ok) :
    matIssue i c x s = .ok s (matEntry i (s.ctx c x) xa xb) (slot.map BitVec.toNat) := by
  cases i
  case mxzero | mxstat | mxrank | mxtov | mxfromv =>
    cases h
    rfl
  case mxfmt =>
    cases h
    obtain ⟨high, fmt⟩ := hok
    exact if_neg (by simp [high, fmt])
  case mxmm | mxsp =>
    cases h
    obtain ⟨ha, hb⟩ := hok
    exact opCheck_two ha hb (le_options (by decide)) (le_options (by decide))
  case mxbin =>
    cases h
    obtain ⟨ha, hb⟩ := hok
    exact opCheck_two ha hb (le_options (by decide)) (le_options (by decide))
  case mxst k d a b =>
    cases h
    obtain ⟨ha, hint, hend⟩ := hok
    refine (opCheck_passes ?_ (by simp [opLow_of_operandOk ha])).trans (if_neg (not_misal_of_operandOk ha hend))
    rw [opLayout_of_operandOk ha (fun v _ => Nat.and_zero v) (fun _ => rfl) id, Bool.true_and, storeFormat_ok ha hint]
  case mxld k d a b =>
    cases h
    obtain ⟨ha, hend⟩ := hok
    refine (opCheck_passes (opLayout_of_operandOk ha (le_options (by decide)) (fun _ => rfl) id)
      (by simp [opLow_of_operandOk ha])).trans (if_neg (not_misal_of_operandOk ha hend))
  all_goals cases h

/-! ### Words that read a block (R215, R217) -/

theorem withBlock_ok {va : Word} {al n : Nat} {f : State → List Word → EnqRes} {ws : List Word} (ha : va.toNat % al = 0)
    (hr : s.readBlock c x va n = .ok u ws) : withBlock s c x va al n f = f u ws := by
  unfold withBlock
  rw [aligned, decide_eq_true ha, if_neg (by decide), hr]

theorem matIssue_mxcfg {a : Reg} {ws : List Word} (ha : ((s.ctx c x).rd a).toNat % 16 = 0)
    (hr : s.readBlock c x ((s.ctx c x).rd a) 12 = .ok u ws) (hn : nestLevels ws ≠ none) :
    matIssue (.mxcfg k a) c x s = .ok u { ins := .mxcfg k a, tab := ws } none := by
  refine (withBlock_ok ha hr).trans ?_
  split
  · exact absurd ‹_› hn
  · rfl

/-- A go block in the layout of R217 passes the checks. -/
theorem goCheck_passes {ws : List Word} {wv : Word} {go : EnqRes} (hctl : wbits (ws.getD 3 0) 8 56 = 0)
    (hkind : wbits (ws.getD 3 0) 2 2 ≠ 3)
    (ha : operandOk (ws.getD 0 0) (if wbits (ws.getD 3 0) 2 2 = 2 then 1 else 0) true false)
    (hb : operandOk (ws.getD 1 0) (if wbits (ws.getD 3 0) 2 2 = 2 then 1 else 0) true false)
    (hc : operandOk (ws.getD 2 0) 0 false false) : goCheck wv ws go = go := by
  have options : ∀ v, v ≤ (if wbits (ws.getD 3 0) 2 2 = 2 then 1 else 0) →
      v &&& (15 - if wbits (ws.getD 3 0) 2 2 = 2 then 1 else 0) = 0 := le_options (by split <;> decide)
  refine (opCheck_passes ?_ ?_).trans (if_neg (not_or.mpr ⟨not_not.mpr hctl, hkind⟩))
  · rw [opLayout_of_operandOk ha options id id, opLayout_of_operandOk hb options id id,
      opLayout_of_operandOk hc (le_options (by decide)) id id]
    rfl
  · simp only [List.forall_mem_cons]
    exact ⟨opLow_of_operandOk ha, opLow_of_operandOk hb, opLow_of_operandOk hc, fun _ h => absurd h List.not_mem_nil⟩

theorem matIssue_mxgo {a d : Reg} {ws : List Word} (ha : ((s.ctx c x).rd a).toNat % 32 = 0)
    (hr : s.readBlock c x ((s.ctx c x).rd a) 4 = .ok u ws) (hgo : ∀ {wv : Word} {go : EnqRes}, goCheck wv ws go = go) :
    matIssue (.mxgo k d a) c x s = .ok u { ins := .mxgo k d a, tab := ws } (some d.toNat) :=
  (withBlock_ok ha hr).trans hgo

end

/-- Settles O38: the checks of a matrix word pass for the operand words of R203, and its body is then that of an engine word at the MXE. -/
theorem matrixWordsEnterTheirQueue : Obligations.MatrixWordsEnterTheirQueue := by
  unfold Obligations.MatrixWordsEnterTheirQueue
  refine ⟨fun s i k slot xa xb ok hrow h => ?_, fun s s' k d a ws hq hroom hst hcur => ?_⟩
  · rw [exec_matRow hrow]
    refine ⟨engineWord_enoted (e := 1) h, fun hq hok => engineWord_waits (e := 1) h hq (matIssue_ok hrow hok), fun hq hok hroom hst => ?_⟩
    obtain ⟨t, ht, entered⟩ := engineWord_enters (e := 1) (wv := wordVal i) (by decide) h hq (matIssue_ok hrow hok) hroom hst rfl
    refine ⟨t, _, ht, entered.enqueued, entered.wentOn, rfl, rfl, rfl, rfl, rfl, entered.tiles, fun d hd => entered.emptied d.toNat ?_⟩
    rw [hd, Option.map_some]
  · refine ⟨fun h ha hr hn => ?_, fun h ha hr hctl hkind hoa hob hoc => ?_⟩
    · have room := readBlock_q hr 1 ▸ hroom
      obtain ⟨t, ht, entered⟩ := engineWord_enters (e := 1) (wv := wordVal (.mxcfg k a)) (by decide) h hq
        (matIssue_mxcfg (k := k) ha hr hn) room hst hcur
      exact ⟨t, _, ht, hcur ▸ entered.enqueued, rfl, rfl, entered.wentOn.1⟩
    · have room := readBlock_q hr 1 ▸ hroom
      obtain ⟨t, ht, entered⟩ := engineWord_enters (e := 1) (wv := wordVal (.mxgo k d a)) (by decide) h hq
        (matIssue_mxgo (k := k) (d := d) ha hr (goCheck_passes hctl hkind hoa hob hoc)) room hst hcur
      exact ⟨t, _, ht, hcur ▸ entered.enqueued, rfl, rfl, hcur ▸ entered.emptied d.toNat rfl, entered.wentOn.1⟩

end Sys2Proof.Machine
end

section
/-!
SUPPORT. The checks of copy words at issue, for operands that keep R44 and R310 (R309 to R317).
-/
namespace Sys2Proof.Machine
section

variable {s u : State} {c x : Nat} {k : Tk} {i : Instr} {f p : BitVec 4} {a b : Reg} {v : Word} {ok : Prop}

/-! ### Spad words, global ranges and rows -/

theorem wbits_mod_low (v : Word) : wbits v 0 25 % 128 = wbits v 0 7 := by
  unfold wbits bits
  omega

theorem spadOpt_mod_four (v : Word) : spadOpt v % 4 = wbits v 48 2 := by
  unfold spadOpt wbits bits
  omega

theorem spadCheck_passes {opts : Nat} (h : spadOk v opts) : spadCheck v opts = none := by
  obtain ⟨high, options, low, inside⟩ := h
  unfold spadCheck
  dsimp only
  rw [if_neg (not_or.mpr ⟨not_not.mpr high, not_not.mpr options⟩),
    if_neg (not_or.mpr ⟨not_not.mpr ((wbits_mod_low v).trans low), Nat.not_lt.mpr inside⟩)]

/-- A row form has no other option than its two direction bits, so that 3 is the form that does not exist (R313). -/
theorem spadOpt_ne_three (hd : wbits v 48 2 ≠ 3) : spadOpt v ≠ 3 := fun h3 => by
  have := spadOpt_mod_four v
  rw [h3] at this
  exact hd this.symm

theorem checkGlobal_passes {n : Nat} (h : globalOk v n) : checkGlobal v n = none := by
  obtain ⟨low, he, hv, half, package⟩ := h
  have line : v.toNat % 128 = 0 := by
    simpa [wbits, bits] using low
  have sameHalf : (v.toNat + n - 1).testBit 47 = v.toNat.testBit 47 := by
    rw [Nat.testBit_eq_decide_div_mod_eq, Nat.testBit_eq_decide_div_mod_eq, half]
  have samePackage : ¬ (v.toNat.testBit 47 = true ∧ bits (v.toNat + n - 1) 41 6 ≠ bits v.toNat 41 6) := by
    rintro ⟨upper, differ⟩
    refine differ ?_
    rw [bits, bits, package (Nat.ge_two_pow_of_testBit upper)]
  unfold checkGlobal
  dsimp only
  rw [if_neg (by simp [line, sameHalf, samePackage]), if_neg (not_or.mpr ⟨Nat.not_le.mpr hv, Nat.not_le.mpr he⟩)]

theorem rowBad_none {z : Int} {n : Nat} (h : 0 ≤ z) (h' : z + 128 * n ≤ 2 ^ 25) : rowBad z n = none :=
  if_neg (by omega)

/-- What the scratchpad sides of row `r` of a descriptor raise. -/
def rowFault (v : Word) (ds : List Word) (r : Nat) : Option (BitVec 5 × Word) :=
  match rowBad (rowSide (spadAddr v) r (ds.getD 2 0)) (rowLen ds) with
  | some b => some b
  | none => if spadOpt v % 4 = 0 then rowBad (rowSide (ds.getD 0 0).toNat r (ds.getD 3 0)) (rowLen ds) else none

/-- A descriptor in the layout of R313, with rows that lie where they may, passes the checks. -/
theorem rowsCheck_passes {ds : List Word} {wv xb : Word} (hlen : rowCount ds * rowLen ds = wbits v 32 16)
    (hz : wbits (ds.getD 1 0) 32 32 = 0) (h2 : (ds.getD 2 0).toNat % 128 = 0) (h3 : (ds.getD 3 0).toNat % 128 = 0)
    (hrows : ∀ r, r < rowCount ds → 0 ≤ rowSide (wbits v 0 25) r (ds.getD 2 0) ∧
      rowSide (wbits v 0 25) r (ds.getD 2 0) + 128 * rowLen ds ≤ 2 ^ 25 ∧
      (if wbits v 48 2 = 0 then 0 ≤ rowSide (ds.getD 0 0).toNat r (ds.getD 3 0) ∧
          rowSide (ds.getD 0 0).toNat r (ds.getD 3 0) + 128 * rowLen ds ≤ 2 ^ 25
        else globalOk (rowGlob ds r) (128 * rowLen ds))) : rowsCheck wv xb v ds = none := by
  have layout : ¬ (rowCount ds * rowLen ds ≠ spadLen v ∨ wbits (ds.getD 1 0) 32 32 ≠ 0) :=
    not_or.mpr ⟨not_not.mpr hlen, not_not.mpr hz⟩
  have strides : ¬ ((ds.getD 2 0).toNat % 128 ≠ 0 ∨ (ds.getD 3 0).toNat % 128 ≠ 0) := not_or.mpr ⟨not_not.mpr h2, not_not.mpr h3⟩
  have sides : (List.range (rowCount ds)).findSome? (rowFault v ds) = none := by
    refine List.findSome?_eq_none_iff.mpr fun r hr => ?_
    obtain ⟨lo, hi, other⟩ := hrows r (List.mem_range.mp hr)
    rw [rowFault, spadAddr, rowBad_none lo hi]
    dsimp only
    rw [spadOpt_mod_four]
    split
    · rw [if_pos ‹_›] at other
      exact rowBad_none other.1 other.2
    · rfl
  unfold rowsCheck
  dsimp only
  rw [if_neg layout, if_neg strides]
  change (match (List.range (rowCount ds)).findSome? (rowFault v ds) with
    | some b => some b
    | none => _) = none
  rw [sides]
  dsimp only
  rw [spadOpt_mod_four]
  split
  · rfl
  · next hk =>
    refine List.findSome?_eq_none_iff.mpr fun r hr => ?_
    obtain ⟨-, -, other⟩ := hrows r (List.mem_range.mp hr)
    rw [if_neg hk] at other
    exact checkGlobal_passes other

/-! ### Issue (R310) -/

/-- The entry of a copy word: its operand values and its slack class (R302). -/
def copyEntry (i : Instr) (t : Ctx) (f : BitVec 4) (a b : Reg) : Entry := { ins := i, va := t.rd a, vb := t.rd b, slk := classOf t f }

/-- The checks that a reduction makes behind those of its operands (R315, R286). -/
def copyFinish (i : Instr) (p : BitVec 4) (c : Nat) (gc : Nat) (s : State) (ent : Entry) : EnqRes :=
  if isCpred i ∧ s.mayReduce c = false then .trap Cause.pred (wordVal i)
  else if isCpred i ∧ (s.core c).penned then .hold .token286 gc
  else .ok s ent (some p.toNat)

theorem copyFinish_goes {gc : Nat} {ent : Entry} (h : isCpred i = true → s.mayReduce c = true ∧ (s.core c).penned = false) :
    copyFinish i p c gc s ent = .ok s ent (some p.toNat) := by
  have lets : ¬ (isCpred i = true ∧ s.mayReduce c = false) := fun ⟨hi, hm⟩ => Bool.false_ne_true (hm.symm.trans (h hi).1)
  have free : ¬ (isCpred i = true ∧ (s.core c).penned = true) := fun ⟨hi, hp⟩ => Bool.false_ne_true ((h hi).2.symm.trans hp)
  rw [copyFinish, if_neg lets, if_neg free]

theorem copyFinish_traps {gc : Nat} {ent : Entry} (hi : isCpred i = true) (hm : s.mayReduce c = false) :
    copyFinish i p c gc s ent = .trap Cause.pred (wordVal i) := if_pos ⟨hi, hm⟩

/-- A copy without rows, whose spad word and global range are good. -/
theorem copyIssue_plain {opts : Nat} (hs : spadOk ((s.ctx c x).rd a) opts)
    (hbad : ¬ ((isRowCopy (copyEntry i (s.ctx c x) f a b) = true ∧ spadOpt ((s.ctx c x).rd a) = 3) ∨
      (isCpred i = true ∧ 2 < spadOpt ((s.ctx c x).rd a))))
    (hrow : wbits ((s.ctx c x).rd a) 32 16 ≠ 0 → isRowCopy (copyEntry i (s.ctx c x) f a b) = false ∧
      globalOk ((s.ctx c x).rd b) (128 * wbits ((s.ctx c x).rd a) 32 16)) :
    copyIssue i f p a b opts c x s = copyFinish i p c (s.ctx c x).gc s (copyEntry i (s.ctx c x) f a b) := by
  unfold copyIssue
  dsimp only
  rw [spadCheck_passes hs]
  dsimp only [copyEntry] at *
  rw [if_neg hbad]
  split
  · rfl
  · next hlen =>
    obtain ⟨plain, range⟩ := hrow hlen
    rw [if_neg (Bool.eq_false_iff.mp plain), spadLen, checkGlobal_passes range]
    rfl

/-- The rows of a copy, whose descriptor is read at issue (R313). -/
theorem copyIssue_rows {ds : List Word} (hs : spadOk ((s.ctx c x).rd a) 3) (hd : wbits ((s.ctx c x).rd a) 48 2 ≠ 3)
    (hlen : wbits ((s.ctx c x).rd a) 32 16 ≠ 0) (ha : ((s.ctx c x).rd b).toNat % 32 = 0)
    (hr : s.readBlock c x ((s.ctx c x).rd b) 4 = .ok u ds)
    (hrows : ∀ {wv xb : Word}, rowsCheck wv xb ((s.ctx c x).rd a) ds = none) :
    copyIssue (.cpss k f p a b) f p a b 3 c x s =
      .ok u { copyEntry (.cpss k f p a b) (s.ctx c x) f a b with tab := ds } (some p.toNat) := by
  have good : ¬ ((isRowCopy (copyEntry (.cpss k f p a b) (s.ctx c x) f a b) = true ∧ spadOpt ((s.ctx c x).rd a) = 3) ∨
      (isCpred (.cpss k f p a b) = true ∧ 2 < spadOpt ((s.ctx c x).rd a))) := by
    rintro (⟨-, h⟩ | ⟨h, -⟩)
    · exact spadOpt_ne_three hd h
    · cases h
  have row : isRowCopy (copyEntry (.cpss k f p a b) (s.ctx c x) f a b) = true := rfl
  unfold copyIssue
  dsimp only
  rw [spadCheck_passes hs]
  dsimp only [copyEntry] at *
  rw [if_neg good, spadLen, if_neg hlen, if_pos row, aligned, decide_eq_true ha, if_neg (by decide), hr]
  dsimp only
  rw [hrows]
  rfl

/-- A copy word whose operands are good comes to the checks of a reduction. -/
theorem copyChk_row (h : copyRow i (s.ctx c x) = some (k, f, p, a, b, ok)) (hok : ok) :
    copyChk i c x s = copyFinish i p c (s.ctx c x).gc s (copyEntry i (s.ctx c x) f a b) := by
  cases i
  case cpin | cpout =>
    cases h
    obtain ⟨spad, range⟩ := hok
    exact copyIssue_plain spad (by simp [isRowCopy, copyEntry, isCpred]) fun hlen => ⟨rfl, range hlen⟩
  case cpss =>
    cases h
    obtain ⟨spad, form, empty⟩ := hok
    refine copyIssue_plain spad ?_ fun hlen => absurd empty hlen
    rintro (⟨-, bad⟩ | ⟨bad, -⟩)
    · exact spadOpt_ne_three form bad
    · cases bad
  case cpred =>
    cases h
    obtain ⟨spad, form, range⟩ := hok
    refine copyIssue_plain spad ?_ fun hlen => ⟨rfl, range hlen⟩
    rintro (⟨bad, -⟩ | ⟨-, bad⟩)
    · cases bad
    · exact Nat.not_lt.mpr form bad
  case cpoq k f p a b =>
    cases h
    have noReduction : isCpred (.cpoq k f p a b) = false := rfl
    obtain ⟨high, mid, lo, hi, range⟩ := hok
    rw [copyFinish_goes (fun h => absurd (noReduction.symm.trans h) Bool.false_ne_true)]
    dsimp only [copyChk]
    unfold cpoqIssue
    dsimp only
    rw [if_neg (by omega), checkGlobal_passes range]
    rfl
  all_goals cases h

theorem exec_copyRow {t : Ctx} (h : copyRow i t = some (k, f, p, a, b, ok)) (s : State) : exec i s = copyWord i k s := by
  cases i
  case cpin | cpout | cpss | cpred | cpoq =>
    cases h
    rfl
  all_goals cases h

/-- The class of an entry is that of its field, or that of its context (R302). -/
theorem emptied_entered_slk {e : Nat} {slot : Option Nat} {ent : Entry} (h : ent.slk = classOf (s.ctx c x) f) :
    ((s.emptied c slot).entered c x e ent).slk = if f = 0 then (s.ctx c x).slk.toNat else f.toNat := by
  have same : ((s.emptied c slot).ctx c x).slk = (s.ctx c x).slk := by rw [(s.emptied_keeps c x slot).ctx]
  show (if ent.slk = 0 then ((s.emptied c slot).ctx c x).slk.toNat else ent.slk) = _
  rw [same, h, classOf]
  by_cases hf : f = 0
  · rw [if_pos hf, ite_self]
  · have number : f.toNat ≠ 0 := fun h => hf (BitVec.eq_of_toNat_eq h)
    rw [if_neg hf, if_neg number]

theorem mayReduce_true {tk : Task} (h : (s.core c).task = some tk) : s.mayReduce c = tk.rc := by
  rw [State.mayReduce, h]

theorem mayReduce_false (h : ∀ tk, (s.core c).task = some tk → tk.rc = false) : s.mayReduce c = false := by
  cases ht : (s.core c).task with
  | none => rw [State.mayReduce, ht]
  | some tk => rw [mayReduce_true ht, h tk ht]

end

/-- Settles O39: the checks of a copy word pass for good operands, and its body is then that of an engine word at the CPE. -/
theorem copyWordsEnterTheirQueue : Obligations.CopyWordsEnterTheirQueue := by
  unfold Obligations.CopyWordsEnterTheirQueue
  refine ⟨fun s i k f p a b ok hrow h hok => ?_, fun s s' k f p a b ds h hq hroom hst hcur spad form hlen hb hr rows hz h2 h3 sides => ?_⟩
  · have checked := copyChk_row (c := s.cur.1) (x := s.cur.2) hrow hok
    rw [exec_copyRow hrow]
    refine ⟨engineWord_enoted (e := 0) h, fun hq hi hrc => ?_, fun hq hred => ?_⟩
    · exact engineWord_traps (e := 0) h hq (checked.trans (copyFinish_traps hi (mayReduce_false hrc)))
    · have goes := checked.trans (copyFinish_goes fun hi => by
        obtain ⟨⟨tk, ht, hrc⟩, free⟩ := hred hi
        exact ⟨(mayReduce_true ht).trans hrc, free⟩)
      refine ⟨engineWord_waits (e := 0) h hq goes, fun hroom hst => ?_⟩
      obtain ⟨t, ht, entered⟩ := engineWord_enters (e := 0) (wv := wordVal i) (by decide) h hq goes hroom hst rfl
      refine ⟨t, _, ht, entered.enqueued, entered.wentOn, rfl, rfl, rfl, rfl, rfl, ?_, entered.emptied p.toNat rfl⟩
      exact emptied_entered_slk (f := f) rfl
  · have room := readBlock_q hr 0 ▸ hroom
    obtain ⟨t, ht, entered⟩ := engineWord_enters (e := 0) (wv := wordVal (.cpss k f p a b)) (chk := copyChk (.cpss k f p a b)) (by decide)
      h hq (copyIssue_rows (k := k) (f := f) (p := p) spad form hlen hb hr (rowsCheck_passes rows hz h2 h3 sides)) room hst hcur
    exact ⟨t, _, ht, hcur ▸ entered.enqueued, rfl, rfl, rfl, hcur ▸ entered.emptied p.toNat rfl, entered.wentOn.1⟩

end Sys2Proof.Machine
end

section
/-!
SUPPORT. Tokens, slots and barrier cells: what a word moves of them, and what completing leaves (R105 to R107, R114, R119).
-/
namespace Sys2Proof.Machine
section

variable {s t u : State} {c x f n : Nat} {k : Tk} {i : Instr} {a d : Reg}

/-! ### What completing leaves -/

theorem State.count_fifo (s : State) (c x y ev n : Nat) : ((s.count c y ev n).core x).fifo = (s.core x).fifo := by
  unfold State.count
  split
  · rfl
  · by_cases h : x = c
    · subst h
      rw [State.core_updCore_self]
      unfold Core.count
      split
      · rfl
      · split <;> rfl
    · rw [State.core_updCore_ne s _ h]

theorem State.updCtx_fifo (s : State) (c x : Nat) (g : Ctx → Ctx) : ((s.updCtx c x g).core c).fifo = (s.core c).fifo := by
  rw [State.core_updCtx_self]
  rfl

/-- A signal's token can be popped from the next clock on. -/
theorem State.signal_fifo (s : State) (c x f : Nat) : ((s.signal c x f).core c).fifo = (s.core c).fifo := by
  unfold State.signal
  dsimp only
  split
  · rw [State.core_updCore_self]
    rfl
  · rw [State.core_setCtx_self]
    rfl

theorem State.signals_fifo (s : State) (c x : Nat) (fs : List Nat) : ((s.signals c x fs).core c).fifo = (s.core c).fifo := by
  have held (t : State) : ((t.holdSignals c x).core c).fifo = (t.core c).fifo := by
    unfold State.holdSignals
    dsimp only
    split
    · split
      · rw [State.core_setCtx_self]
        rfl
      · rfl
    · rfl
  rw [State.signals, held]
  induction fs generalizing s with
  | nil => rfl
  | cons f r ih => exact (ih _).trans (s.signal_fifo c x f)

theorem finishWord_avail (s : State) (c x : Nat) (k : Tk) (f : Nat) : ((finishWord s c x k).core c).avail f = (s.core c).avail f := by
  unfold finishWord Core.avail
  rw [State.signals_fifo, State.updCtx_fifo, State.retire, State.retireAt, State.count_fifo, State.updCtx_fifo]

theorem finishWord_now (hc : u.cur = s.cur) (k : Tk) :
    (finishWord u s.cur.1 s.cur.2 k).now = (finishWord u s.cur.1 s.cur.2 k).ctx s.cur.1 s.cur.2 := by
  rw [State.now, finishWord_cur, hc]

theorem finishWord_rd (hc : u.cur = s.cur) (k : Tk) (d : Reg) :
    (finishWord u s.cur.1 s.cur.2 k).now.rd d = (u.ctx s.cur.1 s.cur.2).rd d := by
  rw [finishWord_now hc, Ctx.rd, finishWord_x, Ctx.rd]

theorem finishWord_bz (hc : u.cur = s.cur) (k : Tk) : (finishWord u s.cur.1 s.cur.2 k).now.bz = (u.ctx s.cur.1 s.cur.2).bz := by
  rw [finishWord_now hc]
  exact (finishWord_moves u s.cur.1 s.cur.2 k).sameWords.2.1

theorem finishWord_pdk (u : State) (c x : Nat) (k : Tk) (b : Nat) : (finishWord u c x k).pdk b = u.pdk b := by
  rw [State.pdk, (CtxFrame.finishWord u c x k).rest]
  rfl

theorem issued_keeps (s : State) (k : Tk) : KeepsCourse s (s.issued k) s.cur.1 s.cur.2 where
  cur := issued_cur s k
  mem := (issued_frame s k).mem_eq
  ctx := by rw [issued_ctx]

theorem KeepsCourse.count (s : State) (c x y ev n : Nat) : KeepsCourse s (s.count c y ev n) c x where
  cur := (CtxFrame.count s c x y ev n).cur_eq
  mem := (CtxFrame.count s c x y ev n).mem_eq
  ctx := by rw [State.count_ctx]

theorem State.issued_pdkCores (s : State) (k : Tk) (b : Nat) : (s.issued k).pdkCores b = s.pdkCores b := by
  rw [State.pdkCores, (issued_sameSpace s k).pdk, (issued_frame s k).rest, State.pdkCores]

/-! ### Tokens (R107) -/

/-- The tokens on their way and the places that are promised to them. -/
def SameTokens (s t : State) : Prop := t.toks = s.toks ∧ t.cc = s.cc ∧ ∀ d, (t.core d).promised = (s.core d).promised

theorem SameTokens.trans (h : SameTokens s t) (g : SameTokens t u) : SameTokens s u :=
  ⟨g.1.trans h.1, g.2.1.trans h.2.1, fun d => (g.2.2 d).trans (h.2.2 d)⟩

theorem CtxFrame.sameTokens (h : CtxFrame s t c x) : SameTokens s t := by
  refine ⟨by rw [h.rest], by rw [h.rest], fun d => ?_⟩
  by_cases hd : d = c
  · rw [hd, h.unit]
  · rw [h.others d hd]

theorem State.formAs_sameTokens (s : State) (c x : Nat) (p : PtPkt) : SameTokens s (s.formAs c x p) := ⟨rfl, rfl, fun _ => rfl⟩

/-- A place is promised, and the token is on its way (R107). -/
def State.tokenSent (s : State) (tc f : Nat) : State :=
  let u := s.updCore tc (fun kc => { kc with promised := Map.upd 0 kc.promised f (· + 1) })
  { u with toks := u.toks ++ [TokFlight.mk tc f (u.core tc).starts u.cc] }

/-- A token for another core is a packet of the send request's class (R298, R337). -/
def State.tokenPacket (s : State) (c x tc : Nat) (v : Word) : State :=
  if tc = c then s
  else ((s.countAdm c x 3 1).count c x 8 1).formAs c x { ty := 9, kind := 11, dst := tc / 4, noted := true, arg0 := v }

theorem State.tokenPacket_sameTokens (s : State) (c x tc : Nat) (v : Word) : SameTokens s (s.tokenPacket c x tc v) := by
  unfold State.tokenPacket
  split
  · exact (CtxFrame.refl s c x).sameTokens
  · exact (CtxFrame.trans (.updCtx s c x _) (.count _ c x x 8 1)).sameTokens.trans (State.formAs_sameTokens ..)

theorem State.tokenPacket_cur (s : State) (c x tc : Nat) (v : Word) : (s.tokenPacket c x tc v).cur = s.cur := by
  unfold State.tokenPacket
  split
  · rfl
  · exact (CtxFrame.trans (.updCtx s c x _) (.count _ c x x 8 1)).cur_eq

theorem State.tokenSent_promised (s : State) (tc f : Nat) :
    Map.get 0 ((s.tokenSent tc f).core tc).promised f = Map.get 0 (s.core tc).promised f + 1 := by
  show Map.get 0 ((s.updCore tc (fun kc => { kc with promised := Map.upd 0 kc.promised f (· + 1) })).core tc).promised f = _
  rw [State.core_updCore_self, Map.get_upd_self]

theorem State.tokenSent_toks (s : State) (tc f : Nat) : ∃ n, (s.tokenSent tc f).toks = s.toks ++ [⟨tc, f, n, s.cc⟩] := ⟨_, rfl⟩

theorem tokenFifo_eq (v : Word) (h : wbits v 4 2 ≠ 3) : tokenFifo v = tokenTarget v := by
  have kinds : wbits v 4 2 < 4 := Nat.mod_lt _ (by decide)
  unfold tokenFifo tokenTarget
  dsimp only
  generalize wbits v 4 2 = kind at *
  interval_cases kind <;> rfl

theorem tokenBad_false {v : Word} (h13 : wbits v 13 51 = 0) (h6 : wbits v 6 2 = 0) (hk : wbits v 4 2 ≠ 3) (hs : wbits v 0 2 ≤ 1)
    (he : ¬ (wbits v 4 2 = 1 ∧ wbits v 2 2 = 3)) (hr : wbits v 4 2 = 2 → wbits v 0 2 = 0) : tokenBad v = false := by
  have side : ¬ 1 < wbits v 0 2 := Nat.not_lt.mpr hs
  have remote : ¬ (wbits v 4 2 = 2 ∧ wbits v 0 2 ≠ 0) := fun ⟨h, hne⟩ => hne (hr h)
  unfold tokenBad
  dsimp only
  simp only [h13, h6, hk, side, ne_eq, not_true, decide_false, Bool.or_self, Bool.false_or, Bool.or_eq_false_iff, Bool.and_eq_false_iff,
    decide_eq_false_iff_not]
  tauto

theorem ownFifo_eq (x : Nat) (f : Reg) : ownFifo x f.toNat = ringFifo x f := by
  have : f.toNat = 2 ↔ f = 2 := ⟨fun h => BitVec.eq_of_toNat_eq h, fun h => h ▸ rfl⟩
  simp only [ownFifo, ringFifo, this]

/-- A token is popped, and the pop counts (R367). -/
def State.tokenPopped (s : State) (c x f : Nat) : State := (s.updCore c (fun kc => kc.pop f)).count c x 13 1

theorem State.tokenPopped_avail (s : State) (c x f : Nat) : ((s.tokenPopped c x f).core c).avail f = (s.core c).avail f - 1 := by
  unfold State.tokenPopped Core.avail
  rw [State.count_fifo, State.core_updCore_self, Core.pop, Map.get_upd_self]

theorem State.tokenPopped_keeps (s : State) (c x f : Nat) : KeepsCourse s (s.tokenPopped c x f) c x :=
  (KeepsCourse.updCore (f := fun kc => kc.pop f) rfl).trans (.count ..)

/-! ### `tksnd` (R107) -/

section
variable {v : Word}

/-- A place for a token on its way, or none. -/
def State.tokenAnswered (s : State) (c x tc f : Nat) (v : Word) : State :=
  if (s.core tc).fifoRoom f then ((s.tokenSent tc f).tokenPacket c x tc v).setBz c x false
  else ((s.countAdm c x 3 0).count c x 9 1).setBz c x true

theorem execTksnd_prot (h : Issues 0 (.tksnd k a) k s) (hb : tokenBad (s.now.rd a) = false)
    (hp : wbits (s.now.rd a) 8 5 ∉ s.pdkCores (s.coreBlk s.cur.1) ∨ (wbits (s.now.rd a) 4 2 ≠ 2 ∧ wbits (s.now.rd a) 8 5 ≠ s.cur.1)) :
    execTksnd k a s = .next (s.raised Cause.prot (s.now.rd a)) := by
  refine control_raised h ?_
  dsimp only
  rw [issued_ctx, ← State.now, hb, if_neg (by decide), (issued_sameSpace s k).coreBlk, State.issued_pdkCores, if_pos]
  simpa using hp

theorem execTksnd_answers (h : Issues 0 (.tksnd k a) k s) (hb : tokenBad (s.now.rd a) = false)
    (hin : wbits (s.now.rd a) 8 5 ∈ s.pdkCores (s.coreBlk s.cur.1))
    (hown : wbits (s.now.rd a) 4 2 ≠ 2 → wbits (s.now.rd a) 8 5 = s.cur.1) (hpen : (s.core s.cur.1).penned = false) :
    execTksnd k a s = .next (finishWord ((s.issued k).tokenAnswered s.cur.1 s.cur.2 (wbits (s.now.rd a) 8 5) (tokenFifo (s.now.rd a))
      (s.now.rd a)) s.cur.1 s.cur.2 k) := by
  refine control_completes h ?_
  dsimp only
  rw [issued_ctx, ← State.now, hb, if_neg (by decide), (issued_sameSpace s k).coreBlk, State.issued_pdkCores, if_neg, issued_penned, hpen,
    if_neg (by decide), State.tokenAnswered]
  · split <;> rfl
  · simp [hin]
    tauto

/-- The sender's `bz` tells whether the FIFO had room. -/
theorem tokenAnswered_bz (u : State) (c x tc f : Nat) (v : Word) :
    ((u.tokenAnswered c x tc f v).ctx c x).bz = ! (u.core tc).fifoRoom f := by
  unfold State.tokenAnswered
  split
  · next room => rw [room, State.setBz, State.ctx_updCtx_self]; rfl
  · next full => rw [Bool.eq_false_iff.mpr full, State.setBz, State.ctx_updCtx_self]; rfl

theorem tokenAnswered_cur (u : State) (c x tc f : Nat) (v : Word) : (u.tokenAnswered c x tc f v).cur = u.cur := by
  unfold State.tokenAnswered
  split
  · exact State.tokenPacket_cur ..
  · exact (CtxFrame.trans (.updCtx u c x _) (.count _ c x x 9 1)).cur_eq

theorem tokenAnswered_room {tc : Nat} (h : (u.core tc).fifoRoom f = true) :
    SameTokens (u.tokenSent tc f) (u.tokenAnswered c x tc f v) := by
  rw [State.tokenAnswered, if_pos h]
  exact (State.tokenPacket_sameTokens ..).trans (CtxFrame.updCtx _ c x _).sameTokens

theorem tokenAnswered_full {tc : Nat} (h : (u.core tc).fifoRoom f = false) : SameTokens u (u.tokenAnswered c x tc f v) := by
  rw [State.tokenAnswered, if_neg (by rw [h]; decide)]
  exact ((CtxFrame.updCtx u c x _).trans ((CtxFrame.count _ c x x 9 1).trans (.updCtx _ c x _))).sameTokens

/-- What `tksnd` answers to a core of the paddock. -/
theorem execTksnd_tokens (h : Issues 0 (.tksnd k a) k s) (hb : tokenBad (s.now.rd a) = false) (hk : wbits (s.now.rd a) 4 2 ≠ 3)
    (hin : wbits (s.now.rd a) 8 5 ∈ s.pdkCores (s.coreBlk s.cur.1))
    (hown : wbits (s.now.rd a) 4 2 ≠ 2 → wbits (s.now.rd a) 8 5 = s.cur.1) (hpen : (s.core s.cur.1).penned = false) :
    let tc := wbits (s.now.rd a) 8 5
    let f := tokenTarget (s.now.rd a)
    ∃ t, execTksnd k a s = .next t ∧ t.now.bz = ! ((s.issued k).core tc).fifoRoom f ∧
      if ((s.issued k).core tc).fifoRoom f then
        Map.get 0 (t.core tc).promised f = Map.get 0 (s.core tc).promised f + 1 ∧ ∃ n, t.toks = s.toks ++ [⟨tc, f, n, s.cc⟩]
      else t.toks = s.toks ∧ Map.get 0 (t.core tc).promised f = Map.get 0 (s.core tc).promised f := by
  intro tc f
  obtain ⟨toks, cc, promised⟩ := (issued_frame s k).sameTokens
  refine ⟨_, execTksnd_answers h hb hin hown hpen, ?_, ?_⟩
  · rw [finishWord_bz ((tokenAnswered_cur ..).trans (issued_cur s k)), tokenAnswered_bz, tokenFifo_eq _ hk]
  · rw [tokenFifo_eq _ hk]
    have finished := (CtxFrame.finishWord ((s.issued k).tokenAnswered s.cur.1 s.cur.2 tc f (s.now.rd a)) s.cur.1 s.cur.2 k).sameTokens
    split
    · next room =>
      obtain ⟨toks', -, promised'⟩ := (tokenAnswered_room (x := s.cur.2) (c := s.cur.1) (v := s.now.rd a) room).trans finished
      obtain ⟨n, sent⟩ := (s.issued k).tokenSent_toks tc f
      exact ⟨by rw [promised', State.tokenSent_promised, promised], n, by rw [toks', sent, toks, cc]⟩
    · next full =>
      obtain ⟨toks', -, promised'⟩ := (tokenAnswered_full (x := s.cur.2) (c := s.cur.1) (v := s.now.rd a)
        (Bool.eq_false_iff.mpr full)).trans finished
      exact ⟨toks'.trans toks, by rw [promised', promised]⟩

end

/-! ### Slots and cells (R114, R119) -/

theorem Core.filledIn_fillSlot (k : Core) {n : Nat} (hn : n < 16) (v : Word) :
    (k.fillSlot n v).slotFull n = true ∧ (k.fillSlot n v).slotVal n = v ∧
      ∀ m, m < 16 → m ≠ n → (k.fillSlot n v).slotFull m = k.slotFull m ∧ (k.fillSlot n v).slotVal m = k.slotVal m := by
  unfold Core.slotFull Core.slotVal Core.fillSlot
  dsimp only
  refine ⟨?_, Map.get_set_self .., fun m hm hne => ⟨?_, Map.get_set_ne _ _ _ hne⟩⟩
  · rw [BitVec.getLsbD_or, BitVec.getLsbD_ofNat, Nat.testBit_two_pow_self, decide_eq_true hn, Bool.true_and, Bool.or_true]
  · rw [BitVec.getLsbD_or, BitVec.getLsbD_ofNat, Nat.testBit_two_pow_of_ne (Ne.symm hne), Bool.and_false, Bool.or_false]

theorem CtxFrame.slots (h : CtxFrame s t c x) (m : Nat) :
    (t.core c).slotFull m = (s.core c).slotFull m ∧ (t.core c).slotVal m = (s.core c).slotVal m := by
  unfold Core.slotFull Core.slotVal
  rw [h.unit]
  exact ⟨rfl, rfl⟩

theorem execPwr_fills (h : Issues 0 (.pwr k d a) k s) :
    ∃ t, execPwr k d a s = .next t ∧ FilledIn s t s.cur.1 d.toNat (s.now.rd a) ∧ WentOn s t := by
  have slot : d.toNat < 16 := Nat.lt_succ_of_le (BitVec.le_def.mp (of_decide_eq_true h.fields))
  have body : execPwr k d a s = .next (finishWord ((s.issued k).fillSlot s.cur.1 d.toNat (s.now.rd a)) s.cur.1 s.cur.2 k) := by
    refine control_completes h ?_
    rw [issued_ctx, State.now]
  have fin := (CtxFrame.finishWord ((s.issued k).fillSlot s.cur.1 d.toNat (s.now.rd a)) s.cur.1 s.cur.2 k).slots
  have own := (issued_frame s k).slots
  obtain ⟨full, val, others⟩ := ((s.issued k).core s.cur.1).filledIn_fillSlot slot (s.now.rd a)
  have core : ((s.issued k).fillSlot s.cur.1 d.toNat (s.now.rd a)).core s.cur.1 =
      ((s.issued k).core s.cur.1).fillSlot d.toNat (s.now.rd a) := State.core_updCore_self ..
  refine ⟨_, body, ⟨?_, ?_, fun m hm hne => ?_⟩, finishWord_wentOn k ((issued_keeps s k).trans (.updCore rfl))⟩
  · rw [(fin _).1, core, full]
  · rw [(fin _).2, core, val]
  · obtain ⟨full', val'⟩ := others m hm hne
    rw [(fin m).1, (fin m).2, core, full', val', (own m).1, (own m).2]
    exact ⟨rfl, rfl⟩

theorem execPclr_empties (h : Issues 0 (.pclr k d) k s) :
    ∃ t, execPclr k d s = .next t ∧ (t.core s.cur.1).slotFull d.toNat = false ∧
      (t.core s.cur.1).slotVal d.toNat = (s.core s.cur.1).slotVal d.toNat ∧ WentOn s t := by
  have core : ((s.issued k).emptySlot s.cur.1 d.toNat).core s.cur.1 = ((s.issued k).core s.cur.1).emptySlot d.toNat :=
    State.core_updCore_self ..
  have fin := (CtxFrame.finishWord ((s.issued k).emptySlot s.cur.1 d.toNat) s.cur.1 s.cur.2 k).slots d.toNat
  refine ⟨_, control_completes h rfl, ?_, ?_, finishWord_wentOn k ((issued_keeps s k).trans (.updCore rfl))⟩
  · rw [fin.1, core, Core.slotFull_emptySlot_self]
  · rw [fin.2, core]
    exact ((issued_frame s k).slots d.toNat).2

theorem Paddock.cell_setCell_self (p : Paddock) (n : Nat) (b : BarCell) : (p.setCell n b).cell n = b := Map.get_set_self ..

theorem Paddock.cell_setCell_ne (p : Paddock) {n m : Nat} (b : BarCell) (h : m ≠ n) : (p.setCell n b).cell m = p.cell m :=
  Map.get_set_ne _ _ _ h

/-- A word that changes a paddock leaves its own course. -/
theorem KeepsCourse.updPdk (s : State) (c x b : Nat) (g : Paddock → Paddock) : KeepsCourse s (s.updPdk b g) c x := ⟨rfl, rfl, rfl⟩

/-- The count that `barinit` expects, of a register. -/
def barExp (v : Word) : BitVec 16 := if 1 ≤ v.toNat ∧ v.toNat ≤ 65535 then v.setWidth 16 else 0

theorem execBarinit_sets {n : BitVec 8} (h : Issues 0 (.barinit k a n) k s) :
    ∃ t, execBarinit k a n s = .next t ∧ WentOn s t ∧
      (t.pdk (s.coreBlk s.cur.1)).cell n.toNat = { (s.pdk (s.coreBlk s.cur.1)).cell n.toNat with arr := 0, exp := barExp (s.now.rd a) } ∧
      ∀ m, m ≠ n.toNat → (t.pdk (s.coreBlk s.cur.1)).cell m = (s.pdk (s.coreBlk s.cur.1)).cell m := by
  have blk := (issued_sameSpace s k).coreBlk
  have pdk := (issued_sameSpace s k).pdk (s.coreBlk s.cur.1)
  have body : execBarinit k a n s = .next (finishWord ((s.issued k).updPdk (s.coreBlk s.cur.1) (fun p =>
      p.setCell n.toNat { p.cell n.toNat with exp := barExp (s.now.rd a), arr := 0 })) s.cur.1 s.cur.2 k) := by
    refine control_completes h ?_
    dsimp only
    rw [issued_ctx, ← State.now, blk]
    rfl
  refine ⟨_, body, finishWord_wentOn k ((issued_keeps s k).trans (.updPdk ..)), ?_, fun m hm => ?_⟩
  · rw [finishWord_pdk, State.pdk_updPdk_self, Paddock.cell_setCell_self, pdk]
  · rw [finishWord_pdk, State.pdk_updPdk_self, Paddock.cell_setCell_ne _ _ hm, pdk]

/-- A release with nothing to write back. -/
theorem release_clean {sc : Nat} (hs : (s.ctx c x).stores = []) (hd : (s.core c).dfifo = []) (hw : (s.core c).swDirty = []) :
    s.release c x sc = (s, none) := by
  unfold State.release
  rw [State.drainStores_none hs]
  dsimp only
  rw [hd, hw]
  split <;> rfl

theorem execBararr_arrives {n : BitVec 8} (h : Issues 0 (.bararr k d n) k s) (hp : (s.core s.cur.1).penned = false)
    (hs : s.now.stores = []) (hd : (s.core s.cur.1).dfifo = []) (hw : (s.core s.cur.1).swDirty = []) (ha : (s.core s.cur.1).away = []) :
    let cell := (s.pdk (s.coreBlk s.cur.1)).cell n.toNat
    ∃ t, execBararr k d n s = .next t ∧ t.now.rd d = (if d = 0 then 0 else BitVec.ofNat 64 (n.toNat * 2 ^ 32 + cell.gen.toNat)) ∧
      (t.pdk (s.coreBlk s.cur.1)).cell n.toNat = cell.arrive := by
  intro cell
  have blk := (issued_sameSpace s k).coreBlk
  have pdk := (issued_sameSpace s k).pdk (s.coreBlk s.cur.1)
  have unit := (issued_frame s k).unit
  have released : (s.issued k).release s.cur.1 s.cur.2 2 = (s.issued k, none) := by
    refine release_clean (by rw [issued_ctx]; exact hs) ?_ ?_
    · rw [unit, hd]
    · rw [unit]
      exact hw
  have away : ((s.issued k).core s.cur.1).away = [] := by rw [unit, ha]
  have body : execBararr k d n s = .next (finishWord (((s.issued k).updPdk (s.coreBlk s.cur.1) (fun p =>
      p.setCell n.toNat cell.arrive)).updCtx s.cur.1 s.cur.2 (fun t => t.wr d (wnat (n.toNat * 2 ^ 32 + cell.gen.toNat))))
      s.cur.1 s.cur.2 k) := by
    refine control_completes h ?_
    dsimp only
    rw [issued_penned, hp, if_neg (by decide), released, farDone, if_pos away, blk, pdk]
  refine ⟨_, body, ?_, ?_⟩
  · rw [finishWord_rd (by exact issued_cur s k), State.ctx_updCtx_self, Ctx.rd_wr_self]
    rfl
  · rw [finishWord_pdk]
    show (((s.issued k).updPdk (s.coreBlk s.cur.1) (fun p => p.setCell n.toNat cell.arrive)).pdk (s.coreBlk s.cur.1)).cell n.toNat = _
    rw [State.pdk_updPdk_self, Paddock.cell_setCell_self]

/-! ### The acquire of `barwait` (R261, R270) -/

/-- What the model leaves of a line of the L1 whose place is not kept: its dirty words, and of a clean line nothing (R261). -/
def cleanedLine (keep : Nat → Bool) (ln : Nat) (l : L1Line) : Option L1Line :=
  if l.cls = 1 ∧ keep (128 * ln) = false then (if l.dirty = 0 then l.dropped else some l.onlyDirty) else some l

def cleanedEntry (keep : Nat → Bool) (e : Nat × Option L1Line) : Option (Nat × Option L1Line) :=
  match e.2 with
  | some l => (cleanedLine keep e.1 l).map (fun l' => (e.1, some l'))
  | none => some e

theorem dropped_clean {l l' : L1Line} (h : l.dropped = some l') : l'.dirty = 0 := by
  unfold L1Line.dropped at h
  split at h
  · cases h
  · cases h
    rfl

theorem dropClean_l1 (k : Core) (keep : Nat → Bool) (wins : Bool) : (k.dropClean keep wins).l1 = k.l1.filterMap (cleanedEntry keep) := by
  unfold Core.dropClean Core.dropLines
  dsimp only
  rw [List.map_filterMap]
  refine List.filterMap_congr fun e _ => ?_
  obtain ⟨ln, _ | l⟩ := e
  · rfl
  · unfold cleanedEntry cleanedLine
    dsimp only
    simp only [Bool.and_eq_true, decide_eq_true_eq, Bool.not_eq_true', and_assoc]
    by_cases hk : l.cls = 1 ∧ keep (128 * ln) = false
    · obtain ⟨hc, hkeep⟩ := hk
      rw [if_pos (⟨hc, hkeep⟩ : l.cls = 1 ∧ keep (128 * ln) = false)]
      by_cases hd : l.dirty = 0
      · rw [if_pos hd, if_pos ⟨hc, hd, hkeep⟩]
        cases hl : l.dropped with
        | none => rfl
        | some l' =>
          dsimp only [Option.map_some]
          rw [if_neg fun h => h.2.1 (dropped_clean hl)]
      · rw [if_neg hd, if_neg fun h => hd h.2.1, Option.map_some]
        dsimp only
        rw [if_pos ⟨hc, hd, hkeep⟩]
        rfl
    · rw [if_neg hk, if_neg fun h => hk ⟨h.1, h.2.2⟩, Option.map_some]
      dsimp only
      rw [if_neg fun h => hk ⟨h.1, h.2.2⟩]
      rfl

theorem cleanedLine_acquired (sc ln : Nat) (l : L1Line) : cleanedLine (fun pa => ! homeInScope sc pa) ln l = acquired sc ln l := by
  have inScope : (! homeInScope sc (128 * ln)) = false ↔ if 2 ^ 47 ≤ 128 * ln then 3 ≤ sc else 1 ≤ sc := by
    unfold homeInScope
    split <;> simp
  unfold cleanedLine acquired
  simp only [inScope, ite_not]
  rfl

theorem acquire_acquires (s : State) (c : Nat) {sc : Nat} (hsc : sc ≠ 0) : Acquires s (s.acquire c sc) c sc := by
  intro ln l'
  rw [State.acquire, if_neg hsc, State.core_updCore_self, dropClean_l1, List.mem_filterMap]
  constructor
  · rintro ⟨⟨ln', _ | l⟩, hmem, he⟩
    · cases he
    · obtain ⟨m, hm, heq⟩ := Option.map_eq_some_iff.mp he
      cases heq
      exact ⟨l, hmem, (cleanedLine_acquired ..).symm.trans hm⟩
  · rintro ⟨l, hmem, ha⟩
    refine ⟨(ln, some l), hmem, ?_⟩
    unfold cleanedEntry
    dsimp only
    rw [cleanedLine_acquired, ha, Option.map_some]

theorem State.acquire_keeps (s : State) (c x sc : Nat) : KeepsCourse s (s.acquire c sc) c x := by
  unfold State.acquire
  split
  · exact .refl s c x
  · exact .updCore rfl

/-- Completing leaves the L1, so that what an acquire has left stays. -/
theorem CtxFrame.acquires {sc : Nat} (h : CtxFrame t u c x) (g : Acquires s t c sc) : Acquires s u c sc := by
  have same : (u.core c).l1 = (t.core c).l1 := by rw [h.unit]
  unfold Acquires
  rw [same]
  exact g

theorem Acquires.of_l1 {sc : Nat} (h : (t.core c).l1 = (s.core c).l1) (g : Acquires t u c sc) : Acquires s u c sc := by
  unfold Acquires at *
  rw [← h]
  exact g

section
variable {w : BitVec 8}

theorem execBarwait_ill (h : Issues 0 (.barwait k a w) k s) (hb : wbits (s.now.rd a) 40 24 ≠ 0 ∨ wbits (s.now.rd a) 16 16 ≠ 0) :
    execBarwait k a w s = .next (s.raised Cause.ill (wordVal (.barwait k a w))) := by
  refine control_raised h ?_
  dsimp only
  rw [issued_ctx, ← State.now, if_pos hb]

theorem execBarwait_waits (h : Issues 0 (.barwait k a w) k s) (hb : ¬ (wbits (s.now.rd a) 40 24 ≠ 0 ∨ wbits (s.now.rd a) 16 16 ≠ 0))
    (hg : ((s.pdk (s.coreBlk s.cur.1)).cell (wbits (s.now.rd a) 32 8)).gen = (s.now.rd a).setWidth 16) :
    execBarwait k a w s =
      .next (s.waits k (.barrier (wbits (s.now.rd a) 32 8) ((s.now.rd a).setWidth 16)) (waitBound w.toNat)) := by
  refine control_waits h ?_
  dsimp only
  rw [issued_ctx, ← State.now, if_neg hb, (issued_sameSpace s k).coreBlk, (issued_sameSpace s k).pdk, if_pos hg]

theorem execBarwait_acquires (h : Issues 0 (.barwait k a w) k s)
    (hb : ¬ (wbits (s.now.rd a) 40 24 ≠ 0 ∨ wbits (s.now.rd a) 16 16 ≠ 0))
    (hg : ((s.pdk (s.coreBlk s.cur.1)).cell (wbits (s.now.rd a) 32 8)).gen ≠ (s.now.rd a).setWidth 16) :
    ∃ t, execBarwait k a w s = .next t ∧ WentOn s t ∧ Acquires s t s.cur.1 2 := by
  have body : execBarwait k a w s = .next (finishWord ((s.issued k).acquire s.cur.1 2) s.cur.1 s.cur.2 k) := by
    refine control_completes h ?_
    dsimp only
    rw [issued_ctx, ← State.now, if_neg hb, (issued_sameSpace s k).coreBlk, (issued_sameSpace s k).pdk, if_neg hg]
  refine ⟨_, body, finishWord_wentOn k ((issued_keeps s k).trans (State.acquire_keeps ..)), ?_⟩
  refine (CtxFrame.finishWord _ s.cur.1 s.cur.2 k).acquires (.of_l1 ?_ (acquire_acquires (s.issued k) s.cur.1 (by decide)))
  rw [(issued_frame s k).unit]

/-! ### `tkrcv` and `tktry` (R107) -/

theorem execTkrcv_waits (h : Issues 0 (.tkrcv k a w) k s) (hn : ((s.issued k).core s.cur.1).avail (ringFifo s.cur.2 a) = 0) :
    execTkrcv k a w s = .next (s.waits k (.tkrcv (ringFifo s.cur.2 a)) (waitBound w.toNat)) := by
  refine control_waits h ?_
  dsimp only
  rw [ownFifo_eq, if_pos hn]

theorem execTkrcv_pops (h : Issues 0 (.tkrcv k a w) k s) (hn : ((s.issued k).core s.cur.1).avail (ringFifo s.cur.2 a) ≠ 0) :
    ∃ t, execTkrcv k a w s = .next t ∧
      (t.core s.cur.1).avail (ringFifo s.cur.2 a) = ((s.issued k).core s.cur.1).avail (ringFifo s.cur.2 a) - 1 ∧ WentOn s t := by
  have body : execTkrcv k a w s =
      .next (finishWord ((s.issued k).tokenPopped s.cur.1 s.cur.2 (ringFifo s.cur.2 a)) s.cur.1 s.cur.2 k) := by
    refine control_completes h ?_
    dsimp only
    rw [ownFifo_eq, if_neg hn, State.tokenPopped]
  refine ⟨_, body, ?_, finishWord_wentOn k ((issued_keeps s k).trans (State.tokenPopped_keeps ..))⟩
  rw [finishWord_avail, State.tokenPopped_avail]

theorem execTktry_empty (h : Issues 0 (.tktry k d a) k s) (hn : ((s.issued k).core s.cur.1).avail (ringFifo s.cur.2 a) = 0) :
    execTktry k d a s = .next (((s.issued k).put d 0).finished k) := by
  refine control_finished h ?_ (issued_cur s k)
  dsimp only
  rw [ownFifo_eq, if_pos hn, State.put, issued_cur]

theorem execTktry_pops (h : Issues 0 (.tktry k d a) k s) (hn : ((s.issued k).core s.cur.1).avail (ringFifo s.cur.2 a) ≠ 0) :
    ∃ t, execTktry k d a s = .next t ∧
      (t.core s.cur.1).avail (ringFifo s.cur.2 a) = ((s.issued k).core s.cur.1).avail (ringFifo s.cur.2 a) - 1 ∧
      t.now.rd d = (if d = 0 then 0 else 1) := by
  have body : execTktry k d a s = .next (finishWord (((s.issued k).tokenPopped s.cur.1 s.cur.2 (ringFifo s.cur.2 a)).updCtx
      s.cur.1 s.cur.2 (fun t => t.wr d 1)) s.cur.1 s.cur.2 k) := by
    refine control_completes h ?_
    dsimp only
    rw [ownFifo_eq, if_neg hn, State.tokenPopped]
  refine ⟨_, body, ?_, ?_⟩
  · rw [finishWord_avail, Core.avail, State.updCtx_fifo]
    exact State.tokenPopped_avail ..
  · rw [finishWord_rd, State.ctx_updCtx_self, Ctx.rd_wr_self]
    · rfl
    · exact (State.tokenPopped_keeps (s.issued k) s.cur.1 s.cur.2 (ringFifo s.cur.2 a)).cur.trans (issued_cur s k)

end

end

/-- Settles O43, by what each word's body leaves; completing moves no popped token, no slot, no cell and no line of the L1. -/
theorem tokenSlotAndBarrierWordsAct : Obligations.TokenSlotAndBarrierWordsAct := by
  unfold Obligations.TokenSlotAndBarrierWordsAct
  refine ⟨fun s k d a w => ⟨fun h h13 h6 hk hs he hr => ?_, fun h => ⟨execTkrcv_waits h, execTkrcv_pops h⟩,
    fun h => ⟨execTktry_empty h, execTktry_pops h⟩⟩, fun s k d a n w => ⟨execPwr_fills, execPclr_empties, execBarinit_sets,
    fun h hp hs hd hw ha => execBararr_arrives h hp hs hd hw ha, fun h => ⟨execBarwait_ill h, fun hi hj => ?_, fun hi hj => ?_⟩⟩⟩
  · have good := tokenBad_false h13 h6 hk hs he hr
    exact ⟨execTksnd_prot h good, fun hin hown hpen => execTksnd_tokens h good hk hin hown hpen⟩
  · exact execBarwait_waits h (not_or.mpr ⟨not_not.mpr hi, not_not.mpr hj⟩)
  · exact execBarwait_acquires h (not_or.mpr ⟨not_not.mpr hi, not_not.mpr hj⟩)

end Sys2Proof.Machine
end

section
/-!
SUPPORT. Words that end a context's part of a task, launch a packet and read the task's sets (R120, R132, R292 to R294).
-/
namespace Sys2Proof.Machine
section

variable {s t u : State} {c x n : Nat} {k : Tk} {i : Instr} {a d : Reg}

theorem finishWord_run (hc : u.cur = s.cur) (k : Tk) : (finishWord u s.cur.1 s.cur.2 k).now.run = (u.ctx s.cur.1 s.cur.2).run := by
  have moves := finishWord_moves u s.cur.1 s.cur.2 k
  unfold Ctx.Moves at moves
  rw [finishWord_now hc, moves]

theorem finishWord_byteAt (u : State) (c x : Nat) (k : Tk) (b : Nat) : (finishWord u c x k).byteAt b = u.byteAt b := by
  rw [State.byteAt, (CtxFrame.finishWord u c x k).mem_eq, State.byteAt]

theorem issued_byteAt (s : State) (k : Tk) (b : Nat) : (s.issued k).byteAt b = s.byteAt b := by
  rw [State.byteAt, (issued_frame s k).mem_eq, State.byteAt]

/-! ### `tend` (R132) -/

/-- A `tend` that runs again pops the tokens of its own word, and pushes no signal that its word has not (R109). -/
theorem unpaid_waits (t : Ctx) (k : Tk) (x y : Nat) : waitFifos (t.unpaid k x) y = waitFifos k y ∧ (t.unpaid k x).y = k.y := by
  unfold Ctx.unpaid
  split <;> exact ⟨rfl, rfl⟩

theorem mem_signalFifos_unpaid {t : Ctx} {f : Nat} (h : f ∈ signalFifos (t.unpaid k x) n) : f ∈ signalFifos k n := by
  unfold Ctx.unpaid at h
  split at h
  · unfold signalFifos at h ⊢
    dsimp only at h
    cases hp : k.sp <;> cases hn : k.sn <;> simp_all
    all_goals grind
  · exact h

/-- No word of major 0x1a transfers control. -/
theorem isTransfer_tend (k : Tk) : isTransfer (.tend k) = false := isTransfer_of_fld (encK_m ..) rfl

/-- The repeated `tend` issues where the word itself does. -/
theorem Issues.unpaid (h : Issues 0 (.tend k) k s) (t : Ctx) (x : Nat) : Issues 0 (.tend (t.unpaid k x)) (t.unpaid k x) s where
  fields := rfl
  level := h.level
  tokens := by rw [(unpaid_waits t k x s.cur.2).1, h.tokens]
  meets := by rw [(unpaid_waits t k x s.cur.2).2]; exact h.meets
  noNest := .inl (isTransfer_tend _)

theorem issued_outstanding (s : State) (k : Tk) (c x : Nat) : (s.issued k).outstanding c x = s.outstanding c x := by
  rw [State.outstanding, (issued_frame s k).rest, State.outstanding]

/-- The context whose `tend` has issued. -/
def Ctx.taskEnded (t : Ctx) (k : Tk) : Ctx := { t with run := .ended, tendPc := t.pc, tendTk := k }

theorem execTend_ends (h : Issues 0 (.tend k) k s) (ho : s.outstanding s.cur.1 s.cur.2 = none) (hh : s.now.heldSig = [])
    (hs : s.now.stores = []) (hr : ∀ f ∈ signalFifos k s.cur.2, ((s.issued k).core s.cur.1).fifoRoom f = true) :
    ∃ k', execTend k s =
      .next (finishWord ((s.issued k).updCtx s.cur.1 s.cur.2 (fun t => t.taskEnded k')) s.cur.1 s.cur.2 k') := by
  have same : s.issued (s.now.unpaid k s.cur.2) = s.issued k := by rw [State.issued, (unpaid_waits ..).1, State.issued]
  have room : ((s.issued k).core s.cur.1).lacksRoom (signalFifos (s.now.unpaid k s.cur.2) s.cur.2) = false := by
    refine List.any_eq_false.mpr fun f hf => ?_
    rw [hr f (mem_signalFifos_unpaid hf)]
    decide
  have none' : (s.issued k).outstanding s.cur.1 s.cur.2 = none := (issued_outstanding ..).trans ho
  have stores : ((s.issued k).ctx s.cur.1 s.cur.2).stores = [] := by rw [issued_ctx]; exact hs
  have held : ((s.issued k).ctx s.cur.1 s.cur.2).heldSig = [] := by rw [issued_ctx]; exact hh
  refine ⟨s.now.unpaid k s.cur.2, ?_⟩
  unfold execTend
  dsimp only
  refine control_completes (h.unpaid ..) ?_
  rw [← State.now, same]
  rw [none', State.drainStores_none stores, held]
  dsimp only
  rw [room]
  rfl

/-! ### `tlnc` (R120, R132) -/

theorem Paddock.setEntry_queue (p : Paddock) (e q : Nat) (t : TtEntry) : (p.setEntry e t).queue q = p.queue q := rfl

/-- A packet that the paddock refuses enters no queue. -/
theorem arrive_rejected {blk q vf info : Nat} {pk : List Word} {src : Option (Nat × Nat × Word)} (hc : pktCheck (s.pdk blk) q pk = some info)
    (hp : wbits (s.pdk blk).pctl 60 2 = 0) (hr : s.inReset vf = false) : s.arrive blk q vf pk src = .error info := by
  have serves : ¬ (wbits (s.pdk blk).pctl 60 2 ≠ 0 ∨ (s.func vf).vfctl.getLsbD 62 = true) :=
    not_or.mpr ⟨not_not.mpr hp, Bool.eq_false_iff.mp hr⟩
  unfold State.arrive
  dsimp only
  rw [if_neg serves, hc]

/-- A packet without sets that the paddock takes stands at the end of its queue. -/
theorem arrive_enqueues {blk q vf : Nat} {pk : List Word} {src : Option (Nat × Nat × Word)} (hc : pktCheck (s.pdk blk) q pk = none)
    (hp : wbits (s.pdk blk).pctl 60 2 = 0) (hr : s.inReset vf = false) (hroom : ((s.pdk blk).queue q).length < 64)
    (hn : pktNset pk = 0) :
    ∃ p : Paddock, ∃ e : Packet, s.arrive blk q vf pk src = .ok (({ s with free := s.free + 1 } : State).setPdk blk p) ∧
      p.queue q = (s.pdk blk).queue q ++ [e] ∧ e.d = pk := by
  have serves : ¬ (wbits (s.pdk blk).pctl 60 2 ≠ 0 ∨ (s.func vf).vfctl.getLsbD 62 = true) :=
    not_or.mpr ⟨not_not.mpr hp, Bool.eq_false_iff.mp hr⟩
  have room : ¬ Config.launchQueueLen ≤ ((s.pdk blk).queue q).length := Nat.not_le.mpr hroom
  have sets : s.readSets blk vf (pktWord pk 2).toNat (pktNset pk) = some [] := by rw [hn]; rfl
  unfold State.arrive
  dsimp only
  rw [if_neg serves, hc]
  dsimp only
  rw [if_neg room, sets]
  refine ⟨_, ⟨pk, vf, src, [], s.cc⟩, rfl, ?_, rfl⟩
  split
  · exact Map.get_set_self ..
  · rw [Paddock.setEntry_queue]
    exact Map.get_set_self ..

section
variable {q : BitVec 8} {pk : List Word}

/-- The state of a `tlnc` whose queue has room: `bz` clear and the slot empty (R132). -/
def State.launching (s : State) (c x n : Nat) : State := (s.setBz c x false).emptySlot c n

/-- What a launch packet of a slot brings with it: the slot and the stamp of the task that launches (R120). -/
def State.launchSrc (s : State) (c n : Nat) : Nat × Nat × Word :=
  (c, n, match (s.core c).task with
    | some tk => tk.stamp
    | none => 0)

/-- What the body of `tlnc` does with its packet: a rejected one, or one of a task that may not raise its priority, fills the slot (R132). -/
def State.launchAnswer (s : State) (c n blk : Nat) (t : Ctx) (pk : List Word) (r : Except Nat State) : State :=
  match r with
  | .error info => s.fillSlot c n (completion codeFault info)
  | .ok s2 => if t.pl = 0 ∧ s.taskPrio c < pktEffPrio (s.pdk blk) pk then s.fillSlot c n (completion codeFault 24) else s2

theorem State.fillSlot_keeps (s : State) (c x n : Nat) (v : Word) : KeepsCourse s (s.fillSlot c n v) c x :=
  .updCore (f := fun k => k.fillSlot n v) rfl

theorem launchAnswer_error {blk info : Nat} {y : Ctx} :
    s.launchAnswer c n blk y pk (.error info) = s.fillSlot c n (completion codeFault info) := rfl

theorem execTlnc_full (h : Issues 0 (.tlnc k d a q) k s) (ha : (s.now.rd a).toNat % 64 = 0)
    (hr : (s.issued k).readBlock s.cur.1 s.cur.2 (s.now.rd a) 8 = .ok u pk) (hp : (s.core s.cur.1).penned = false)
    (hq : 64 ≤ ((u.pdk (s.coreBlk s.cur.1)).queue q.toNat).length) :
    execTlnc k d a q s = .next (finishWord (u.setBz s.cur.1 s.cur.2 true) s.cur.1 s.cur.2 k) := by
  have full : Config.launchQueueLen ≤ ((u.pdk (s.coreBlk s.cur.1)).queue q.toNat).length := hq
  refine control_completes h ?_
  dsimp only
  rw [issued_ctx, ← State.now, aligned, decide_eq_true ha, if_neg (by decide), hr, issued_penned, hp, (issued_sameSpace s k).coreBlk]
  dsimp only
  rw [if_neg (by decide), if_pos full]

theorem execTlnc_room (h : Issues 0 (.tlnc k d a q) k s) (ha : (s.now.rd a).toNat % 64 = 0)
    (hr : (s.issued k).readBlock s.cur.1 s.cur.2 (s.now.rd a) 8 = .ok u pk) (hp : (s.core s.cur.1).penned = false)
    (hq : ((u.pdk (s.coreBlk s.cur.1)).queue q.toNat).length < 64) {r : Except Nat State}
    (harr : (u.launching s.cur.1 s.cur.2 d.toNat).arrive (s.coreBlk s.cur.1) q.toNat ((u.launching s.cur.1 s.cur.2 d.toNat).coreVf s.cur.1) pk
      (some ((u.launching s.cur.1 s.cur.2 d.toNat).launchSrc s.cur.1 d.toNat)) = r) :
    execTlnc k d a q s = .next (finishWord ((u.launching s.cur.1 s.cur.2 d.toNat).launchAnswer s.cur.1 d.toNat (s.coreBlk s.cur.1) s.now pk r)
      s.cur.1 s.cur.2 k) := by
  have room : ¬ Config.launchQueueLen ≤ ((u.pdk (s.coreBlk s.cur.1)).queue q.toNat).length := Nat.not_le.mpr hq
  unfold State.launchSrc State.launching at harr
  refine control_completes h ?_
  dsimp only
  rw [issued_ctx, ← State.now, aligned, decide_eq_true ha, if_neg (by decide), hr, issued_penned, hp, (issued_sameSpace s k).coreBlk]
  dsimp only
  rw [if_neg (by decide), if_neg room]
  split
  · next heq =>
    obtain rfl := harr.symm.trans heq
    rfl
  · next s2 heq =>
    obtain rfl := harr.symm.trans heq
    exact (apply_ite Res.done _ _ _).symm

theorem launching_core (u : State) (c x n : Nat) :
    (u.launching c x n).core c = ((u.core c).setCtx x { u.ctx c x with bz := false }).emptySlot n := by
  rw [State.launching, State.emptySlot, State.core_updCore_self, State.setBz, State.core_updCtx_self]

theorem launching_task (u : State) (c x n : Nat) : ((u.launching c x n).core c).task = (u.core c).task := by
  rw [launching_core]
  rfl

theorem launching_coreVf (u : State) (c x n : Nat) : (u.launching c x n).coreVf c = u.coreVf c := by
  rw [State.coreVf, launching_task, State.coreVf]

theorem launching_taskPrio (u : State) (c x n : Nat) : (u.launching c x n).taskPrio c = u.taskPrio c := by
  rw [State.taskPrio, launching_task, State.taskPrio]

theorem launching_bz (u : State) (c x n : Nat) : ((u.launching c x n).ctx c x).bz = false := by
  rw [State.ctx, launching_core]
  exact congrArg Ctx.bz (Core.getCtx_setCtx_self ..)

theorem Core.emptySlot_others (k : Core) {n m : Nat} (hm : m < 16) (hne : m ≠ n) :
    (k.emptySlot n).slotFull m = k.slotFull m ∧ (k.emptySlot n).slotVal m = k.slotVal m := by
  refine ⟨?_, rfl⟩
  unfold Core.slotFull Core.emptySlot
  dsimp only
  rw [BitVec.getLsbD_and, BitVec.getLsbD_not, BitVec.getLsbD_ofNat, Nat.testBit_two_pow_of_ne (Ne.symm hne)]
  simp [hm]

/-- A slot that is emptied and then filled is filled. -/
theorem launching_filledIn {v : Word} (hn : n < 16) (k : Tk) :
    FilledIn u (finishWord ((u.launching c x n).fillSlot c n v) c x k) c n v := by
  have fin := (CtxFrame.finishWord ((u.launching c x n).fillSlot c n v) c x k).slots
  have core : ((u.launching c x n).fillSlot c n v).core c = ((u.launching c x n).core c).fillSlot n v := State.core_updCore_self ..
  obtain ⟨full, val, others⟩ := ((u.launching c x n).core c).filledIn_fillSlot hn v
  refine ⟨by rw [(fin n).1, core, full], by rw [(fin n).2, core, val], fun m hm hne => ?_⟩
  obtain ⟨full', val'⟩ := others m hm hne
  obtain ⟨full'', val''⟩ := ((u.core c).setCtx x { u.ctx c x with bz := false }).emptySlot_others hm hne
  rw [(fin m).1, (fin m).2, core, full', val', launching_core, full'', val'']
  exact ⟨rfl, rfl⟩

theorem execTlnc_answersFull (h : Issues 0 (.tlnc k d a q) k s) (ha : (s.now.rd a).toNat % 64 = 0)
    (hr : (s.issued k).readBlock s.cur.1 s.cur.2 (s.now.rd a) 8 = .ok u pk) (hcur : u.cur = s.cur) (hp : (s.core s.cur.1).penned = false)
    (hq : 64 ≤ ((u.pdk (s.coreBlk s.cur.1)).queue q.toNat).length) :
    ∃ t, execTlnc k d a q s = .next t ∧ t.now.bz = true ∧
      ∀ m, (t.pdk (s.coreBlk s.cur.1)).queue m = (u.pdk (s.coreBlk s.cur.1)).queue m := by
  refine ⟨_, execTlnc_full h ha hr hp hq, ?_, fun m => ?_⟩
  · rw [finishWord_bz (by exact hcur), State.setBz, State.ctx_updCtx_self]
  · rw [finishWord_pdk]
    rfl

theorem execTlnc_rejects (h : Issues 0 (.tlnc k d a q) k s) (ha : (s.now.rd a).toNat % 64 = 0)
    (hr : (s.issued k).readBlock s.cur.1 s.cur.2 (s.now.rd a) 8 = .ok u pk) (hcur : u.cur = s.cur) (hp : (s.core s.cur.1).penned = false)
    (hq : ((u.pdk (s.coreBlk s.cur.1)).queue q.toNat).length < 64) {info : Nat}
    (hc : pktCheck (u.pdk (s.coreBlk s.cur.1)) q.toNat pk = some info) (hs : wbits (u.pdk (s.coreBlk s.cur.1)).pctl 60 2 = 0)
    (hf : u.inReset (u.coreVf s.cur.1) = false) :
    ∃ t, execTlnc k d a q s = .next t ∧ t.now.bz = false ∧ FilledIn u t s.cur.1 d.toNat (completion codeFault info) ∧
      ∀ m, (t.pdk (s.coreBlk s.cur.1)).queue m = (u.pdk (s.coreBlk s.cur.1)).queue m := by
  obtain ⟨wf, -⟩ : d ≤ 15 ∧ q ≤ 15 := of_decide_eq_true h.fields
  have slot : d.toNat < 16 := Nat.lt_succ_of_le (BitVec.le_def.mp wf)
  have body := execTlnc_room h ha hr hp hq (arrive_rejected hc hs (by rw [launching_coreVf]; exact hf))
  rw [launchAnswer_error] at body
  refine ⟨_, body, ?_, launching_filledIn slot k, fun m => ?_⟩
  · have keeps := State.fillSlot_keeps (u.launching s.cur.1 s.cur.2 d.toNat) s.cur.1 s.cur.2 d.toNat (completion codeFault info)
    rw [finishWord_bz (keeps.cur.trans hcur), keeps.ctx]
    exact launching_bz ..
  · rw [finishWord_pdk]
    rfl

theorem execTlnc_enqueues (h : Issues 0 (.tlnc k d a q) k s) (ha : (s.now.rd a).toNat % 64 = 0)
    (hr : (s.issued k).readBlock s.cur.1 s.cur.2 (s.now.rd a) 8 = .ok u pk) (hcur : u.cur = s.cur) (hp : (s.core s.cur.1).penned = false)
    (hq : ((u.pdk (s.coreBlk s.cur.1)).queue q.toNat).length < 64) (hc : pktCheck (u.pdk (s.coreBlk s.cur.1)) q.toNat pk = none)
    (hs : wbits (u.pdk (s.coreBlk s.cur.1)).pctl 60 2 = 0) (hf : u.inReset (u.coreVf s.cur.1) = false) (hn : pktNset pk = 0)
    (hprio : s.now.pl ≠ 0 ∨ u.taskPrio s.cur.1 ≥ pktEffPrio (u.pdk (s.coreBlk s.cur.1)) pk) :
    ∃ t p, execTlnc k d a q s = .next t ∧ t.now.bz = false ∧ (t.core s.cur.1).slotFull d.toNat = false ∧
      (t.pdk (s.coreBlk s.cur.1)).queue q.toNat = (u.pdk (s.coreBlk s.cur.1)).queue q.toNat ++ [p] ∧ p.d = pk := by
  obtain ⟨p, e, harr, hqueue, hd⟩ := arrive_enqueues (s := u.launching s.cur.1 s.cur.2 d.toNat) (blk := s.coreBlk s.cur.1)
    (vf := (u.launching s.cur.1 s.cur.2 d.toNat).coreVf s.cur.1) (src := some ((u.launching s.cur.1 s.cur.2 d.toNat).launchSrc s.cur.1 d.toNat)) hc hs
    (by rw [launching_coreVf]; exact hf) hq hn
  have mayLaunch : ¬ (s.now.pl = 0 ∧ (u.launching s.cur.1 s.cur.2 d.toNat).taskPrio s.cur.1 <
      pktEffPrio ((u.launching s.cur.1 s.cur.2 d.toNat).pdk (s.coreBlk s.cur.1)) pk) := by
    rintro ⟨hpl, hlt⟩
    rw [launching_taskPrio] at hlt
    exact hprio.elim (fun h => h hpl) (fun h => Nat.not_lt.mpr h hlt)
  refine ⟨_, e, execTlnc_room h ha hr hp hq harr, ?_, ?_, ?_, hd⟩
  · rw [State.launchAnswer, if_neg mayLaunch, finishWord_bz (by exact hcur)]
    exact launching_bz ..
  · rw [State.launchAnswer, if_neg mayLaunch, ((CtxFrame.finishWord _ s.cur.1 s.cur.2 k).slots _).1]
    show ((u.launching s.cur.1 s.cur.2 d.toNat).core s.cur.1).slotFull d.toNat = false
    rw [launching_core, Core.slotFull_emptySlot_self]
  · rw [State.launchAnswer, if_neg mayLaunch, finishWord_pdk, State.pdk_setPdk_self, hqueue]
    rfl

end

/-! ### The words of a task's sets (R292 to R294) -/

/-- What `aage` reads of a task: its restarts, and whether a context waits for the token, the task holds it, and it declares sets (R292). -/
def ageWord (tk : Task) (waits : Bool) : Word :=
  wnat (min tk.restarts 255 * 256 + (if waits then 4 else 0) + (if tk.irrev then 2 else 0) + (if tk.sets = [] then 0 else 1))

theorem ageWord_fields (tk : Task) (waits : Bool) : wbits (ageWord tk waits) 8 56 = min tk.restarts 255 ∧
    (ageWord tk waits).getLsbD 1 = tk.irrev ∧ (ageWord tk waits).getLsbD 0 = decide (tk.sets ≠ []) := by
  have small : min tk.restarts 255 ≤ 255 := Nat.min_le_right ..
  unfold ageWord
  generalize min tk.restarts 255 = r at *
  refine ⟨?_, ?_, ?_⟩
  · unfold wbits bits
    rw [BitVec.toNat_ofNat]
    split <;> split <;> split <;> omega
  · rw [BitVec.getLsbD_ofNat, Nat.testBit_eq_decide_div_mod_eq]
    cases tk.irrev
    all_goals
      simp only [Bool.false_eq_true, if_false, if_true]
      split <;> split <;> simp <;> omega
  · rw [BitVec.getLsbD_ofNat, Nat.testBit_eq_decide_div_mod_eq]
    by_cases hs : tk.sets = []
    · rw [if_pos hs, decide_eq_false (not_not.mpr hs)]
      split <;> split <;> simp <;> omega
    · rw [if_neg hs, decide_eq_true hs]
      split <;> split <;> simp <;> omega

/-- What `aage` answers. -/
def State.ageOf (s : State) (c : Nat) : Word :=
  match (s.core c).task with
  | some tk => ageWord tk ((List.range 4).any (fun y => ((s.core c).getCtx y).wait = some .token286))
  | none => 0

theorem execAage_reads (h : Issues 0 (.aage k d) k s) :
    execAage k d s = .next (((s.issued k).put d ((s.issued k).ageOf s.cur.1)).finished k) := by
  refine control_finished h ?_ (issued_cur s k)
  rw [State.put, issued_cur]
  rfl

/-- What `aheld` answers of an address in set `j`: the lot's index, whether the task holds it, and the set (R293). -/
def heldWord (index j : Nat) (held : Bool) : Word := wnat (index * 2 ^ 32 + (if held then 16 else 0) + 8 + j)

theorem heldWord_fields (index : Nat) {j : Nat} (held : Bool) (hj : j < 8) : wbits (heldWord index j held) 0 3 = j ∧
    (heldWord index j held).getLsbD 3 = true ∧ wbits (heldWord index j held) 32 32 = index % 2 ^ 32 := by
  unfold heldWord
  refine ⟨?_, ?_, ?_⟩
  · unfold wbits bits
    rw [BitVec.toNat_ofNat]
    split <;> omega
  · rw [BitVec.getLsbD_ofNat, Nat.testBit_eq_decide_div_mod_eq]
    split <;> simp <;> omega
  · unfold wbits bits
    rw [BitVec.toNat_ofNat]
    split <;> omega

theorem execAheld_outside (h : Issues 0 (.aheld k d a) k s) (ht : ∀ tk, (s.core s.cur.1).task = some tk → tk.setOf (s.now.rd a) = none) :
    execAheld k d a s = .next (((s.issued k).put d 0).finished k) := by
  refine control_finished h ?_ (issued_cur s k)
  dsimp only
  rw [issued_ctx, ← State.now, issued_task, State.put, issued_cur, State.updCtx, issued_ctx]
  cases hc : (s.core s.cur.1).task with
  | none => rfl
  | some tk =>
    dsimp only
    rw [ht tk hc]
    rfl

/-- The task of core `c` holds the lot at an address of its own (R293). -/
def State.lotHeld (s : State) (c va lg : Nat) : Bool :=
  match s.translate c (wnat va) .read false with
  | .ok (.phys pa _ _) => s.holdsLot c pa lg
  | _ => false

/-- The answer for an address of a set whose place needs no question at another port. -/
theorem execAheld_inside {tk : Task} {j : Nat} {set : ASet} {pa : Nat} {cls : BitVec 2} {ms : Bool} (h : Issues 0 (.aheld k d a) k s)
    (ht : (s.core s.cur.1).task = some tk) (hj : tk.setOf (s.now.rd a) = some j) (hset : tk.sets[j]? = some set)
    (htr : s.translate s.cur.1 (s.now.rd a) .read (s.now.pl = 0) = .ok (.phys pa cls ms))
    (hgot : hostPlace pa cls = false ∨ (Map.get none s.now.gotten (s.now.rd a).toNat).isSome) :
    ∃ held, execAheld k d a s = .next (((s.issued k).put d
      (heldWord (((s.now.rd a).toNat - set.base) / 2 ^ set.lotlog) j held)).finished k) := by
  have lot : (tk.lotOf j (s.now.rd a)).2 = set.lotlog := by rw [Task.lotOf, hset]
  have known : hostPlace pa cls = false ∨ (Map.get none ((s.issued k).ctx s.cur.1 s.cur.2).gotten (s.now.rd a).toNat).isSome = true ∨
      (s.issued k).ready s.cur.1 s.cur.2 (pa / 8 * 8) 8 cls ms = true := by
    rw [issued_ctx]
    exact hgot.imp_right .inl
  refine ⟨(s.issued k).lotHeld s.cur.1 (tk.lotOf j (s.now.rd a)).1 set.lotlog, control_finished h ?_ (issued_cur s k)⟩
  dsimp only
  rw [issued_ctx, ← State.now, issued_task, ht]
  dsimp only
  rw [hj, (issued_sameSpace s k).translate, htr]
  dsimp only
  rw [hostProbe, if_pos known, State.put, issued_cur, State.updCtx, issued_ctx, hset, lot]
  rfl

theorem execAirrev_goes (h : Issues 0 (.airrev k) k s) (hp : (s.core s.cur.1).penned = false) :
    execAirrev k s = .next ((s.issued k).finished k) := by
  refine control_finished h ?_ (issued_cur s k)
  rw [issued_penned, hp, if_neg (by decide)]

theorem execAirrev_waits (h : Issues 0 (.airrev k) k s) (hp : (s.core s.cur.1).penned = true) :
    execAirrev k s = .next (s.waits k .token286 s.now.gc) := by
  refine control_waits h ?_
  rw [issued_penned, hp, if_pos rfl, issued_ctx, State.now]

/-- A word that writes a register of its own context, and what it leaves. -/
theorem put_finished {v : Word} (k : Tk) : (((s.issued k).put d v).finished k).now.rd d = (if d = 0 then 0 else v) ∧
    (∀ r, r ≠ d → (((s.issued k).put d v).finished k).now.rd r = s.now.rd r) ∧
    ∀ b, (((s.issued k).put d v).finished k).byteAt b = s.byteAt b := by
  have cur : ((s.issued k).put d v).cur = s.cur := issued_cur s k
  have ctx : ((s.issued k).put d v).ctx s.cur.1 s.cur.2 = s.now.wr d v := by
    rw [State.put, issued_cur, State.ctx_updCtx_self, issued_ctx, State.now]
  unfold State.finished
  rw [cur]
  refine ⟨?_, fun r hr => ?_, fun b => ?_⟩
  · rw [finishWord_rd cur, ctx, Ctx.rd_wr_self]
    rfl
  · rw [finishWord_rd cur, ctx, Ctx.rd_wr_ne _ v hr]
  · rw [finishWord_byteAt]
    exact issued_byteAt s k b

end

/-- Settles O45, by what the body of each word leaves; completing moves no queue of a paddock, no slot and no register. -/
theorem taskWordsEndLaunchAndReport : Obligations.TaskWordsEndLaunchAndReport := by
  unfold Obligations.TaskWordsEndLaunchAndReport
  intro s k d a n
  refine ⟨fun h ho hh hs hr => ?_, fun u pk h ha hr hcur hp => ⟨fun hq => ?_, fun hq info hc hs hf => ?_, fun hq hc hs hf hn hprio => ?_⟩,
    fun h => ?_, fun h => ⟨fun ht => ?_, fun tk ht hset => ?_, fun tk j set pa cls ms ht hj hset hd hj8 htr hgot => ?_⟩,
    fun h => ⟨execAirrev_goes h, execAirrev_waits h⟩⟩
  · obtain ⟨k', hk⟩ := execTend_ends h ho hh hs hr
    have cur : ((s.issued k).updCtx s.cur.1 s.cur.2 (fun t => t.taskEnded k')).cur = s.cur := issued_cur s k
    refine ⟨_, hk, ?_, ?_, fun b => ?_⟩
    · rw [finishWord_run cur, State.ctx_updCtx_self]
      rfl
    · rw [finishWord_now cur, finishWord_x, State.ctx_updCtx_self, issued_ctx]
      rfl
    · rw [finishWord_byteAt]
      exact issued_byteAt s k b
  · exact execTlnc_answersFull h ha hr hcur hp hq
  · exact execTlnc_rejects h ha hr hcur hp hq hc hs hf
  · exact execTlnc_enqueues h ha hr hcur hp hq hc hs hf hn hprio
  · obtain ⟨value, others, bytes⟩ := put_finished (s := s) (d := d) (v := (s.issued k).ageOf s.cur.1) k
    refine ⟨_, execAage_reads h, others, bytes, fun ht => ?_, fun tk ht hd => ?_⟩
    · rw [value, State.ageOf, issued_task, ht]
      exact ite_self _
    · rw [value, if_neg hd, State.ageOf, issued_task, ht]
      exact ageWord_fields tk _
  · exact execAheld_outside h fun tk htk => absurd (ht.symm.trans htk) nofun
  · exact execAheld_outside h fun tk' htk => (Option.some.inj (ht.symm.trans htk)) ▸ hset
  · obtain ⟨held, he⟩ := execAheld_inside h ht hj hset htr hgot
    obtain ⟨value, -, -⟩ := put_finished (s := s) (d := d) (v := heldWord (((s.now.rd a).toNat - set.base) / 2 ^ set.lotlog) j held) k
    refine ⟨_, he, ?_⟩
    rw [value, if_neg hd]
    exact heldWord_fields _ held hj8

end Sys2Proof.Machine
end

section
/-!
SUPPORT. The lanes of vector results (R167, R168, R178, R195).
-/
namespace Sys2Proof.Machine
section

/-! ### Lanes of a register made from its lanes -/

theorem catLanes_lane (l : List Nat) (i : Nat) : catLanes l / 2 ^ (32 * i) % 2 ^ 32 = l.getD i 0 % 2 ^ 32 := by
  induction l generalizing i with
  | nil => simp [catLanes]
  | cons x r ih =>
    cases i with
    | zero =>
      unfold catLanes
      rw [Nat.mul_zero, Nat.pow_zero, Nat.div_one, Nat.add_mul_mod_self_left, Nat.mod_mod]
      rfl
    | succ i =>
      have low : (x % 2 ^ 32 + 2 ^ 32 * catLanes r) / 2 ^ 32 = catLanes r := by omega
      unfold catLanes
      rw [show 32 * (i + 1) = 32 + 32 * i by omega, Nat.pow_add, ← Nat.div_div_eq_div_mul, low, ih]
      rfl

theorem laneOf_ofNat (n : Nat) {i : Nat} (hi : i < 1024) : laneOf (BitVec.ofNat 32768 n) i = n / 2 ^ (32 * i) % 2 ^ 32 := by
  unfold laneOf bits
  rw [BitVec.toNat_ofNat]
  refine Nat.eq_of_testBit_eq fun j => ?_
  simp only [Nat.testBit_mod_two_pow, Nat.testBit_div_two_pow]
  by_cases hj : j < 32
  · have : j + 32 * i < 32768 := by omega
    simp [hj, this]
  · simp [hj]

theorem laneOf_ofLanes (l : List Nat) {i : Nat} (hi : i < 1024) : laneOf (ofLanes l) i = l.getD i 0 % 2 ^ 32 :=
  (laneOf_ofNat _ hi).trans (catLanes_lane l i)

theorem lanesOf_length (a : VReg) : (lanesOf a).length = 1024 := by simp [lanesOf]

theorem lanesOf_get (a : VReg) {i : Nat} (hi : i < (lanesOf a).length) : (lanesOf a)[i] = laneOf a i := by
  simp [lanesOf, laneOf]

theorem laneOf_lt (a : VReg) (i : Nat) : laneOf a i < 2 ^ 32 := Nat.mod_lt _ (by decide)

theorem laneOf_zipWith (f : Nat → Nat → Nat) (a b : VReg) {i : Nat} (hi : i < 1024) :
    laneOf (ofLanes (List.zipWith f (lanesOf a) (lanesOf b))) i = f (laneOf a i) (laneOf b i) % 2 ^ 32 := by
  have inside : i < (List.zipWith f (lanesOf a) (lanesOf b)).length := by simpa [lanesOf_length] using hi
  rw [laneOf_ofLanes _ hi, List.getD_eq_getElem _ _ inside, List.getElem_zipWith, lanesOf_get, lanesOf_get]

theorem laneOf_mapLanes (f : Nat → Nat) (a : VReg) {i : Nat} (hi : i < 1024) :
    laneOf (ofLanes ((lanesOf a).map f)) i = f (laneOf a i) % 2 ^ 32 := by
  have inside : i < ((lanesOf a).map f).length := by simpa [lanesOf_length] using hi
  rw [laneOf_ofLanes _ hi, List.getD_eq_getElem _ _ inside, List.getElem_map, lanesOf_get]

theorem laneOf_mapRange (f : Nat → Nat) {i : Nat} (hi : i < 1024) :
    laneOf (ofLanes ((List.range 1024).map f)) i = f i % 2 ^ 32 := by
  have inside : i < ((List.range 1024).map f).length := by rwa [List.length_map, List.length_range]
  rw [laneOf_ofLanes _ hi, List.getD_eq_getElem _ _ inside, List.getElem_map, List.getElem_range]

theorem laneOf_replicate (x : Nat) {i : Nat} (hi : i < 1024) : laneOf (ofLanes (List.replicate 1024 x)) i = x % 2 ^ 32 := by
  have inside : i < (List.replicate 1024 x).length := by rwa [List.length_replicate]
  rw [laneOf_ofLanes _ hi, List.getD_eq_getElem _ _ inside, List.getElem_replicate]

/-! ### Lane functions (R141, R178) -/

theorem sInt_eq_toInt (x : Nat) : sInt 32 x = (BitVec.ofNat 32 x).toInt := by
  rw [sInt, BitVec.toInt_eq_toNat_cond, BitVec.toNat_ofNat]
  split <;> split <;> omega

theorem uInt_toInt (z : BitVec 32) : uInt 32 z.toInt = z.toNat := by
  have := z.isLt
  rw [uInt, BitVec.toInt_eq_toNat_cond]
  split <;> omega

/-- The arithmetic shift of R141. -/
theorem laneSra_eq (a b : Nat) : laneSra a b = ((BitVec.ofNat 32 a).sshiftRight (b % 32)).toNat := by
  rw [← uInt_toInt, BitVec.toInt_sshiftRight, Int.shiftRight_eq_div_pow, laneSra, sInt_eq_toInt]
  norm_cast

/-! ### What a lane-wise command's start gives (R178, R195) -/

/-- The start of a command that writes a register whose lanes are `g`. -/
def GivesLanes (v : Vxe) (d : Reg) (lat : Nat) (g : Nat → Nat) (r : VxeRes) : Prop :=
  ∃ w, r = .ok { vxe := v, lat := lat, writes := [.vreg d.toNat w 0] } ∧ ∀ i, i < 1024 → laneOf w i = g i % 2 ^ 32

variable {v : Vxe} {d a b : Reg} {lat : Nat} {g : Nat → Nat} {e : BitVec 2}

theorem lanes2_gives {f : Nat → Nat → Nat}
    (h : ∀ i, i < 1024 → f (laneOf (v.vr a) i) (laneOf (v.vr b) i) % 2 ^ 32 = g i % 2 ^ 32) :
    GivesLanes v d lat g (v.lanes2 d a b lat f) :=
  ⟨_, rfl, fun i hi => (laneOf_zipWith f _ _ hi).trans (h i hi)⟩

theorem viewOp_float {f : Fmt → Nat → Nat → Nat} {o : Nat → Nat → Nat} (he : e.toNat < 2) (x y : Nat) :
    viewOp e f o x y = if e = 0 then f fmt32 x y else f fmtBf (x / 2 ^ 16) (y / 2 ^ 16) * 2 ^ 16 := by
  have cases : e = 0 ∨ e = 1 := by
    have : e.toNat = 0 ∨ e.toNat = 1 := by omega
    exact this.imp (fun h => BitVec.eq_of_toNat_eq h) (fun h => BitVec.eq_of_toNat_eq h)
  unfold viewOp
  obtain rfl | rfl := cases
  · rfl
  · rfl

theorem viewOp_int {f : Fmt → Nat → Nat → Nat} {o : Nat → Nat → Nat} (he : ¬ e.toNat < 2) (x y : Nat) :
    viewOp e f o x y = o x y % 2 ^ 32 := by
  have h0 : e ≠ 0 := fun h => he (by rw [h]; decide)
  have h1 : e ≠ 1 := fun h => he (by rw [h]; decide)
  rw [viewOp, if_neg h0, if_neg h1]

/-- The float views of a lane-wise word, and its view as i32. -/
theorem view_lane {f : Fmt → Nat → Nat → Nat} {op : FV → FV → FV} {o o' : Nat → Nat → Nat} (x y : Nat)
    (hf : ∀ fmt p q, f fmt p q = fmt.round .rne false (op (fmt.dec p) (fmt.dec q))) (ho : o x y % 2 ^ 32 = o' x y % 2 ^ 32) :
    viewOp e f o x y % 2 ^ 32 = (if e.toNat < 2 then
      (if e = 0 then fmt32.round .rne false (op (fmt32.dec x) (fmt32.dec y))
        else fmtBf.round .rne false (op (fmtBf.dec (x / 2 ^ 16)) (fmtBf.dec (y / 2 ^ 16))) * 2 ^ 16)
      else o' x y % 2 ^ 32) % 2 ^ 32 := by
  by_cases he : e.toNat < 2
  · rw [if_pos he, viewOp_float he, hf, hf]
  · rw [if_neg he, viewOp_int he, ho]

/-- `vmax` and `vmin` have a row in the view of i32 alone. -/
theorem laneRow_max {row r : Reg × Nat × (Nat → Nat)} (h : (if e = 2 then some r else none) = some row) : e = 2 ∧ some r = some row := by
  split at h
  · exact ⟨‹_›, h⟩
  · cases h

theorem vecRun_gives (k : Core) {ent : Entry} (late : Bool) (h : laneRow k.vxe ent = some (d, lat, g)) :
    GivesLanes k.vxe d lat g (k.vecRun ent late) := by
  obtain ⟨ins⟩ := ent
  cases ins
  case vadd =>
    cases h
    exact lanes2_gives fun i _ => view_lane _ _ (fun _ _ _ => rfl) rfl
  case vsub k' d' a b e =>
    cases h
    refine lanes2_gives fun i _ => view_lane (o' := fun x y => x + (2 ^ 32 - y)) _ _ (fun _ _ _ => rfl) ?_
    have := laneOf_lt (k.vxe.vr b) i
    omega
  case vmul =>
    cases h
    exact lanes2_gives fun i _ => view_lane _ _ (fun _ _ _ => rfl) rfl
  case vand | vor | vxor | vsll | vsrl =>
    cases h
    exact lanes2_gives fun i _ => rfl
  case vsra =>
    cases h
    exact lanes2_gives fun i _ => by rw [laneSra_eq]
  case vmov =>
    cases h
    exact ⟨_, rfl, fun i _ => (Nat.mod_eq_of_lt (laneOf_lt _ i)).symm⟩
  case vsplat =>
    cases h
    exact ⟨_, rfl, fun i hi => (laneOf_replicate _ hi).trans (Nat.mod_mod _ _).symm⟩
  case vsel =>
    cases h
    exact ⟨_, rfl, fun i hi => laneOf_mapRange _ hi⟩
  case vidx =>
    cases h
    exact ⟨_, rfl, fun i hi => by rw [laneOf_ofLanes _ hi, List.getD_eq_getElem _ _ (by rwa [List.length_range]), List.getElem_range]⟩
  case vbcast =>
    cases h
    exact ⟨_, rfl, fun i hi => laneOf_replicate _ hi⟩
  case vperm =>
    cases h
    exact ⟨_, rfl, fun i hi => laneOf_mapLanes _ _ hi⟩
  case vmax k' d' a b e =>
    obtain ⟨he, row⟩ := laneRow_max h
    subst he
    cases row
    exact lanes2_gives fun i _ => by rw [viewMax, viewOp_int (by decide), Nat.mod_mod, sInt_eq_toInt, sInt_eq_toInt]
  case vmin k' d' a b e =>
    obtain ⟨he, row⟩ := laneRow_max h
    subst he
    cases row
    exact lanes2_gives fun i _ => by rw [viewMin, viewOp_int (by decide), Nat.mod_mod, sInt_eq_toInt, sInt_eq_toInt]
  all_goals cases h

end
end Sys2Proof.Machine
end

section
/-!
SUPPORT. The heads of the engines' queues, results that are written, and entries that retire (R106, R111, R113, R171).
-/
namespace Sys2Proof.Machine
section

variable {s t : State} {c e : Nat} {ent : Entry} {r : List Entry} {f : Flight} {k : Core}

/-! ### Steps that leave the queues of a core -/

theorem foldl_pop_q (fs : List Nat) (k : Core) (e : Nat) : (fs.foldl Core.pop k).q e = k.q e := by
  rw [foldl_pop]
  rfl

theorem foldl_push (fs : List Nat) (k : Core) : fs.foldl Core.push k = { k with fresh := (fs.foldl Core.push k).fresh } := by
  induction fs generalizing k with
  | nil => rfl
  | cons f r ih =>
    show r.foldl Core.push (k.push f) = { k with fresh := (r.foldl Core.push (k.push f)).fresh }
    rw [ih]
    rfl

/-- The queue behind a head that has started. -/
def EngQ.startedBy (q : EngQ) (f : Flight) (clk : Nat) : EngQ :=
  { q with q := q.q.tail, fl := q.fl ++ [{ f with at_ := clk }], lastClk := some clk, stall := 0, stallOf := none }

theorem startEntry_core (s : State) (c e : Nat) (h : f.cause = none) :
    (s.startEntry c e f).core c =
      ((engWaitFifos f.ent.tk e).foldl Core.pop (s.core c)).updQ e (fun q => q.startedBy f (s.core c).clk) := by
  have clk : ((engWaitFifos f.ent.tk e).foldl Core.pop (s.core c)).clk = (s.core c).clk := by rw [foldl_pop]
  have quiet : f.cause.isSome = false := by rw [h]; rfl
  rw [State.startEntry, State.core_setCore_self]
  rw [quiet, if_neg Bool.false_ne_true, clk]
  rfl

theorem startEntry_started (s : State) (c e : Nat) (h : f.cause = none) (hq : ((s.core c).q e).q = ent :: r) :
    Started s (s.startEntry c e f) c e r { f with at_ := (s.core c).clk } := by
  unfold Started
  rw [startEntry_core s c e h, Core.q_updQ_self, foldl_pop_q, EngQ.startedBy, hq]
  exact ⟨rfl, rfl⟩

theorem startEntry_vxe (s : State) (c e : Nat) (h : f.cause = none) :
    ((s.startEntry c e f).core c).vxe.v = (s.core c).vxe.v := by
  rw [startEntry_core s c e h, (Core.updQ_sameData _ e _).2.1, foldl_pop]

/-! ### The head of a queue (R106, R111) -/

theorem headStep_runs {slotOf : Instr → Option Nat} {go : State → Entry → State} (h : AtHead s c e ent r)
    (hn : ∀ k d, ent.ins ≠ .enote k d) : s.headStep c e slotOf go = go s ent := by
  obtain ⟨hq, hm, hf, ht, hg⟩ := h
  unfold State.headStep
  dsimp only
  rw [hm, if_neg (by decide), hq]
  dsimp only
  rw [hf]
  dsimp only
  rw [ht, if_neg (by decide), hg]
  dsimp only
  split
  · exact absurd ‹_› (hn _ _)
  · rfl

/-- A head whose guard skips it starts as a no-op that fills its slot with SKIPPED. -/
theorem headStep_skips {slotOf : Instr → Option Nat} {go : State → Entry → State} (hq : ((s.core c).q e).q = ent :: r)
    (hm : (s.core c).mayStart e = true) (hf : ent.fence = none) (ht : (s.core c).headTokens e ent = true)
    (hg : (s.core c).guardOf ent = .skip) :
    s.headStep c e slotOf go = s.startEntry c e (idleFlight (s.core c) ent (skipFill (slotOf ent.ins))) := by
  unfold State.headStep
  dsimp only
  rw [hm, if_neg (by decide), hq]
  dsimp only
  rw [hf]
  dsimp only
  rw [ht, if_neg (by decide), hg]

theorem skipFill_code {slot : Option Nat} {p : Nat} {v : Word} (h : skipFill slot = some (p, v)) : v = 2 := by
  obtain ⟨n, -, hn⟩ := Option.map_eq_some_iff.mp h
  cases hn
  rfl

/-- No entry at the head carries a `vseed` write (R149). -/
theorem reseed_none (hq : k.vxe.q.q = ent :: r) (hs : ent.seed = none) : k.reseed = k := by
  rw [Core.reseed, hq]
  dsimp only
  rw [hs]

theorem updCore_reseed (hq : ((s.core c).q 2).q = ent :: r) (hs : ent.seed = none) : (s.updCore c Core.reseed).core c = s.core c := by
  rw [State.core_updCore_self, reseed_none hq hs]

/-! ### A vector command starts (R171) -/

theorem Started.of_core {u : State} (h : s.core c = t.core c) (g : Started t u c e r f) : Started s u c e r f := by
  unfold Started at *
  rw [h]
  exact g

theorem CtxFrame.started {x : Nat} {u : State} (h : CtxFrame t u c x) (g : Started s t c e r f) : Started s u c e r f := by
  have same : (u.core c).q e = (t.core c).q e := by
    rw [h.unit]
    rfl
  unfold Started at *
  rw [same]
  exact g

/-- The started command of a lane-wise word. -/
def laneFlight (k : Core) (ent : Entry) (d : Reg) (lat : Nat) (w : VReg) : Flight :=
  { ent := ent, wclk := k.clk + lat, rclk := k.clk + lat, writes := [.vreg d.toNat w 0], done := false
    pushed := k.vxe.stream.length - k.vxe.stream.length }

theorem startVxe_lanes {d : Reg} {lat : Nat} {w : VReg}
    (h : (s.core c).vecRun ent false = .ok { vxe := (s.core c).vxe, lat := lat, writes := [.vreg d.toNat w 0] }) :
    s.startVxe c ent none = ((s.updCore c (fun k => { k with vxe := (s.core c).vxe })).startEntry c 2
      (laneFlight (s.core c) ent d lat w)).count c ent.ctx 3 1 := by
  unfold State.startVxe
  dsimp only
  rw [show (Option.isSome (none : Option Freeze)) = false from rfl, h]
  rfl

theorem startVxe_starts {d : Reg} {lat : Nat} {w : VReg} (hq : ((s.core c).q 2).q = ent :: r)
    (h : (s.core c).vecRun ent false = .ok { vxe := (s.core c).vxe, lat := lat, writes := [.vreg d.toNat w 0] }) :
    Started s (s.startVxe c ent none) c 2 r { laneFlight (s.core c) ent d lat w with at_ := (s.core c).clk } ∧
      ((s.startVxe c ent none).core c).vxe.v = (s.core c).vxe.v := by
  have same : (s.updCore c (fun k => { k with vxe := (s.core c).vxe })).core c = s.core c := State.core_updCore_self ..
  rw [startVxe_lanes h]
  constructor
  · have started := startEntry_started (f := laneFlight (s.core c) ent d lat w) (s.updCore c (fun k => { k with vxe := (s.core c).vxe }))
      c 2 rfl (same ▸ hq)
    rw [same] at started
    exact (CtxFrame.count _ c 0 ent.ctx 3 1).started (started.of_core same.symm)
  · rw [(CtxFrame.count _ c 0 ent.ctx 3 1).sameData.2.1, startEntry_vxe _ _ _ rfl, same]

/-! ### Results reach the register file (R168, R175) -/

/-- A write that keeps no bit of the register. -/
theorem keepMasked_none {n : Nat} (w : BitVec n) {o : BitVec n} : (o &&& 0#n) ||| (w &&& ~~~0#n) = w := by
  rw [BitVec.and_zero, BitVec.zero_or, BitVec.not_zero, BitVec.and_allOnes]

theorem writeDue_vreg {d : Reg} {w : VReg} (h : dueFlight k.vxe.q.fl k.clk = some f) (hw : f.writes = [.vreg d.toNat w 0]) :
    (k.writeDue 2).vxe.vr d = w ∧ (∀ e, e ≠ d → (k.writeDue 2).vxe.vr e = k.vxe.vr e) ∧
      ∀ g ∈ (k.writeDue 2).vxe.q.fl, g.ent.seq = f.ent.seq → g.done = true := by
  have due : k.writeDue 2 = ({ k with vxe := { k.vxe with v := Map.upd 0 k.vxe.v d.toNat (fun o => (o &&& 0) ||| (w &&& ~~~ 0)) } } : Core).updQ 2
      (fun q => { q with fl := q.fl.map (fun g => if g.ent.seq = f.ent.seq then { g with done := true } else g) }) := by
    unfold Core.writeDue
    rw [show (k.q 2).fl = k.vxe.q.fl from rfl, h]
    dsimp only
    rw [hw]
    rfl
  have regs : (k.writeDue 2).vxe.v = Map.upd 0 k.vxe.v d.toNat (fun o => (o &&& 0) ||| (w &&& ~~~ 0)) := by
    rw [due, (Core.updQ_sameData _ 2 _).2.1]
  unfold Vxe.vr
  refine ⟨?_, fun e he => ?_, fun g hg hseq => ?_⟩
  · rw [regs, Map.get_upd_self]
    exact keepMasked_none w
  · rw [regs, Map.get_upd_ne _ _ _ fun h => he (BitVec.eq_of_toNat_eq h)]
  · have fl : (k.writeDue 2).vxe.q.fl = k.vxe.q.fl.map (fun g => if g.ent.seq = f.ent.seq then { g with done := true } else g) := by
      rw [due]
      rfl
    rw [fl] at hg
    obtain ⟨g', -, rfl⟩ := List.mem_map.mp hg
    split at hseq
    · rw [if_pos ‹_›]
    · exact absurd hseq ‹_›

end
end Sys2Proof.Machine
end

section
/-!
SUPPORT. Commands that retire, and the events of the engines (R106, R111, R113, R168, R171).
-/
namespace Sys2Proof.Machine
section

variable {s t u : State} {c e : Nat} {ent : Entry} {r : List Entry} {f : Flight} {k : Core}

/-! ### An entry retires (R113) -/

theorem foldl_updCtx (g : Ctx → Ctx) (xs : List Nat) (k : Core) :
    xs.foldl (fun k x => k.updCtx x g) k = { k with ctx := (xs.foldl (fun k x => k.updCtx x g) k).ctx } := by
  induction xs generalizing k with
  | nil => rfl
  | cons x r ih =>
    rw [List.foldl_cons, ih]
    rfl

theorem raisePts_core (s : State) (c : Nat) (ts : Word) :
    (s.raisePts c ts).core c = { s.core c with ctx := ((s.raisePts c ts).core c).ctx } := by
  rw [State.raisePts, State.core_updCore_self]
  exact foldl_updCtx _ _ _

/-- What stands when a retiring command's timestamp has reached its contexts (R247). -/
def State.timestamped (s : State) (c : Nat) (f : Flight) : State := if f.ts = 0 then s else s.raisePts c f.ts

theorem timestamped_core (s : State) (c : Nat) (f : Flight) :
    (s.timestamped c f).core c = { s.core c with ctx := ((s.timestamped c f).core c).ctx } := by
  unfold State.timestamped
  split
  · rfl
  · exact raisePts_core s c f.ts

/-- What stands when a retiring command has filled its slot. -/
def State.slotted (s : State) (c : Nat) (f : Flight) : State :=
  match f.fill with
  | some (n, v) => s.engineFill c n v
  | none => s

theorem slotted_q (s : State) (c e : Nat) (f : Flight) : ((s.slotted c f).core c).q e = (s.core c).q e := by
  unfold State.slotted
  split
  · rw [State.engineFill, State.core_updCore_self, State.fillSlot, State.core_updCore_self]
    rfl
  · rfl

theorem slotted_fills {p : Nat} {v : Word} (h : f.fill = some (p, v)) :
    ((s.slotted c f).core c).pfull = ((s.core c).fillSlot p v).pfull ∧ ((s.slotted c f).core c).pval = ((s.core c).fillSlot p v).pval := by
  rw [State.slotted, h]
  dsimp only
  rw [State.engineFill, State.core_updCore_self, State.fillSlot, State.core_updCore_self]
  exact ⟨rfl, rfl⟩

theorem Core.updQ_slots (k : Core) (e : Nat) (g : EngQ → EngQ) : (k.updQ e g).pfull = k.pfull ∧ (k.updQ e g).pval = k.pval := by
  unfold Core.updQ Core.setQ
  split <;> exact ⟨rfl, rfl⟩

/-- The queue behind the entry that retires from it. -/
def EngQ.retiredBy (q : EngQ) (f : Flight) : EngQ :=
  { q with
    fl := q.fl.tail, last := some f.ent.seq, stall := 0, stallOf := none
    noted := q.noted || (match f.ent.ins with
      | .enote _ _ => true
      | _ => false) }

/-- A command with no failure and no scratchpad write retires: its timestamp, its slot, its signals and its queue. -/
theorem retireFlight_quiet (s : State) (c e : Nat) (hc : f.cause = none) (hp : f.post = []) :
    s.retireFlight c e f = ((s.timestamped c f).slotted c f).updCore c
      (fun k => ((engSignalFifos f.ent.tk e).foldl Core.push k).updQ e (·.retiredBy f)) := by
  unfold State.retireFlight
  rw [hc, hp]
  rfl

theorem retireFlight_core (s : State) (c e : Nat) (hc : f.cause = none) (hp : f.post = []) :
    (s.retireFlight c e f).core c =
      ((engSignalFifos f.ent.tk e).foldl Core.push (((s.timestamped c f).slotted c f).core c)).updQ e (·.retiredBy f) := by
  rw [retireFlight_quiet s c e hc hp, State.core_updCore_self]

theorem retireFlight_queue {l : List Flight} (hq : ((s.core c).q e).fl = f :: l) (hc : f.cause = none) (hp : f.post = []) :
    (((s.retireFlight c e f).core c).q e).fl = l ∧ (((s.retireFlight c e f).core c).q e).last = some f.ent.seq := by
  have same : ((engSignalFifos f.ent.tk e).foldl Core.push (((s.timestamped c f).slotted c f).core c)).q e = (s.core c).q e := by
    rw [foldl_push]
    refine (slotted_q (s.timestamped c f) c e f).trans ?_
    rw [timestamped_core]
    rfl
  rw [retireFlight_core s c e hc hp, Core.q_updQ_self, same, EngQ.retiredBy, hq]
  exact ⟨rfl, rfl⟩

theorem FilledIn.of_slots {p : Nat} {v : Word} (hp : p < 16) (hf : (t.core c).pfull = ((s.core c).fillSlot p v).pfull)
    (hv : (t.core c).pval = ((s.core c).fillSlot p v).pval) : FilledIn s t c p v := by
  have filled := Core.filledIn_fillSlot (s.core c) hp v
  unfold FilledIn Core.slotFull Core.slotVal at *
  rw [hf, hv]
  exact filled

theorem retireFlight_fills {p : Nat} {v : Word} (hc : f.cause = none) (hp : f.post = []) (hf : f.fill = some (p, v)) (h : p < 16) :
    FilledIn s (s.retireFlight c e f) c p v := by
  obtain ⟨full, val⟩ := Core.updQ_slots ((engSignalFifos f.ent.tk e).foldl Core.push (((s.timestamped c f).slotted c f).core c)) e (·.retiredBy f)
  obtain ⟨full', val'⟩ := slotted_fills (s := s.timestamped c f) (c := c) hf
  refine FilledIn.of_slots h ?_ ?_
  · rw [retireFlight_core s c e hc hp, full, foldl_push]
    refine full'.trans ?_
    rw [timestamped_core]
    rfl
  · rw [retireFlight_core s c e hc hp, val, foldl_push]
    refine val'.trans ?_
    rw [timestamped_core]
    rfl

theorem noteHeld_clear (h : k.hold = []) (e : Nat) (f : Flight) : k.noteHeld e f = false := by
  unfold Core.noteHeld
  split
  · rw [h]
    simp
  · rfl

theorem exec_retire {l : List Flight} (he : e < 3) (hq : ((s.core c).q e).fl = f :: l) (hd : f.done = true) (ht : f.rclk ≤ (s.core c).clk)
    (hz : (s.core c).frozen = none) (hp : f.post = []) (hh : (s.core c).hold = [])
    (hs : (s.core c).signalFull e f.ent = none) :
    exec (.engineCommandRetire c e) s =
      .next (s.under c f.ent.ctx f.ent.cslk f.ent.cske (fun s => s.retireFlight c e f)) := by
  show execEngineCommandRetire c e s = _
  have ready : (s.core c).retirable e = some f := by
    unfold Core.retirable
    rw [hq]
    exact if_pos ⟨hd, ht, hz, noteHeld_clear hh e f⟩
  have need : (s.core c).postNeed f = none := by
    unfold Core.postNeed
    rw [hp]
    split <;> rfl
  unfold execEngineCommandRetire
  dsimp only
  rw [Nat.mod_eq_of_lt he, ready]
  dsimp only
  rw [hs, need]
  rfl

/-! ### The events of the VXE (R168, R171) -/

theorem laneRow_runs {v : Vxe} {row : Reg × Nat × (Nat → Nat)} (h : laneRow v ent = some row) (k : Tk) (d : Reg) : ent.ins ≠ .enote k d := by
  intro note
  unfold laneRow at h
  rw [note] at h
  cases h

theorem exec_vecStart {d : Reg} {lat : Nat} {g : Nat → Nat} (h : AtHead s c 2 ent r) (hs : ent.seed = none)
    (hl : laneRow (s.core c).vxe ent = some (d, lat, g)) :
    exec (.vxeCommandStart c) s = .next ((s.updCore c Core.reseed).startVxe c ent none) := by
  have same := updCore_reseed h.1 hs
  refine congrArg Host.Outcome.next (headStep_runs (r := r) ?_ (laneRow_runs hl))
  unfold AtHead at *
  rw [same]
  exact h

theorem vecStart_starts {d : Reg} {lat : Nat} {g : Nat → Nat} (h : AtHead s c 2 ent r) (hs : ent.seed = none)
    (hl : laneRow (s.core c).vxe ent = some (d, lat, g)) :
    ∃ t f v, exec (.vxeCommandStart c) s = .next t ∧ Started s t c 2 r f ∧ f.ent = ent ∧ f.wclk = (s.core c).clk + lat ∧
      f.done = false ∧ f.writes = [.vreg d.toNat v 0] ∧ (∀ i, i < 1024 → laneOf v i = g i % 2 ^ 32) ∧ (t.core c).vxe.v = (s.core c).vxe.v := by
  have same := updCore_reseed h.1 hs
  obtain ⟨w, run, lanes⟩ := vecRun_gives (s.core c) false hl
  rw [← same] at run
  obtain ⟨started, regs⟩ := startVxe_starts (by rw [same]; exact h.1) run
  refine ⟨_, _, w, exec_vecStart h hs hl, started.of_core same.symm, rfl, ?_, rfl, rfl, lanes, ?_⟩
  · exact congrArg (·.clk + lat) same
  · rw [regs, same]

theorem vecWrite_writes {d : Reg} {v : VReg} (h : dueFlight (s.core c).vxe.q.fl (s.core c).clk = some f)
    (hw : f.writes = [.vreg d.toNat v 0]) :
    ∃ t, exec (.vxeWriteback c) s = .next t ∧ (t.core c).vxe.vr d = v ∧ (∀ e, e ≠ d → (t.core c).vxe.vr e = (s.core c).vxe.vr e) ∧
      ∀ g ∈ (t.core c).vxe.q.fl, g.ent.seq = f.ent.seq → g.done = true := by
  refine ⟨_, rfl, ?_⟩
  rw [State.core_updCore_self]
  exact writeDue_vreg h hw

/-! ### A guard that skips (R111) -/

theorem skipped_starts {slot : Option Nat} {u : State} (hu : u.core c = s.core c) (hq : ((s.core c).q e).q = ent :: r) :
    ∃ f, Started s (u.startEntry c e (idleFlight (u.core c) ent (skipFill slot))) c e r f ∧ f.ent = ent ∧ f.done = true ∧ f.writes = [] ∧
      ∀ p v, f.fill = some (p, v) → v = 2 :=
  ⟨_, (startEntry_started u c e rfl (by rw [hu]; exact hq)).of_core hu.symm, rfl, rfl, rfl, fun _ _ h => skipFill_code h⟩

end

/-- Settles O47: a head's step, the writes of the command that is due, and the retirement of the oldest entry. -/
theorem vectorCommandsStartWriteAndRetire : Obligations.VectorCommandsStartWriteAndRetire := by
  unfold Obligations.VectorCommandsStartWriteAndRetire
  refine ⟨?starts, ?writes, ?retires, ?skips⟩
  case starts =>
    intro s c ent r d lat g h hs hl
    exact vecStart_starts h hs hl
  case writes =>
    intro s c f d v h hw
    exact vecWrite_writes h hw
  case retires =>
    intro s c e f r he hq hd ht hz hc hp hh hs
    have queue := retireFlight_queue (s := { s with cause := some (c, f.ent.ctx, f.ent.cslk, f.ent.cske) }) hq hc hp
    exact ⟨_, exec_retire he hq hd ht hz hp hh hs, queue.1, queue.2, fun p v hf h =>
      retireFlight_fills (s := { s with cause := some (c, f.ent.ctx, f.ent.cslk, f.ent.cske) }) hc hp hf h⟩
  case skips =>
    intro s c e ent r i hi hq hm hf hs ht hg
    rcases hi with ⟨rfl, rfl⟩ | ⟨rfl, rfl⟩ | ⟨rfl, rfl⟩
    · obtain ⟨f, skipped⟩ := skipped_starts (slot := copySlot ent.ins) (u := s) rfl hq
      exact ⟨_, f, congrArg Host.Outcome.next (headStep_skips hq hm hf ht hg), skipped⟩
    · obtain ⟨f, skipped⟩ := skipped_starts (slot := matSlot ent.ins) (u := s) rfl hq
      exact ⟨_, f, congrArg Host.Outcome.next (headStep_skips hq hm hf ht hg), skipped⟩
    · have same := updCore_reseed hq hs
      obtain ⟨f, skipped⟩ := skipped_starts (slot := vecSlot ent.ins) (u := s.updCore c Core.reseed) same hq
      exact ⟨_, f, congrArg Host.Outcome.next (headStep_skips (r := r) (by rwa [same]) (by rwa [same]) hf (by rwa [same]) (by rwa [same])), skipped⟩

end Sys2Proof.Machine
end

section
/-!
SUPPORT. The time of the package: what a clock's accesses, writes and counts leave of it, and of memory (R206, R234, R345, R406).
-/
namespace Sys2Proof.Machine
section

variable {s t u : State} {c x e : Nat} {k : Core}

/-! ### What stands of time (R406) -/

/-- The clock, the time counter, its step and its hold, and INC. -/
def State.times (s : State) : Nat × Nat × Int × Nat × BitVec 48 := (s.cc, s.time, s.timeStep, s.timeHold, s.tack.tminc)

theorem foldl_times {α : Type} {f : State → α → State} (h : ∀ s a, (f s a).times = s.times) (l : List α) (s : State) :
    (l.foldl f s).times = s.times := by
  induction l generalizing s with
  | nil => rfl
  | cons a r ih => exact (ih _).trans (h s a)

@[simp] theorem updCore_times (s : State) (c : Nat) (f : Core → Core) : (s.updCore c f).times = s.times := rfl

/-! ### Homes and packets -/

@[simp] theorem homeWrite_times (s : State) (a n v : Nat) : (s.homeWrite a n v).times = s.times := by
  induction n generalizing s a v with
  | zero => rfl
  | succ m ih => exact ih ..

@[simp] theorem homeWords_times (s : State) (ln : Nat) (l : Line) (m : BitVec 32) : (s.homeWords ln l m).times = s.times := by
  refine foldl_times (fun t j => ?_) _ s
  split
  · exact homeWrite_times ..
  · rfl

@[simp] theorem homeBytes_times (s : State) (ln : Nat) (l keep : Line) : (s.homeBytes ln l keep).times = s.times := by
  refine foldl_times (fun t j => ?_) _ s
  split <;> rfl

@[simp] theorem setPoison_times (s : State) (ln : Nat) (m : BitVec 32) (b : Bool) : (s.setPoison ln m b).times = s.times := by
  unfold State.setPoison
  split <;> rfl

@[simp] theorem setHcLine_times (s : State) (ln : Nat) (h : HcLine) : (s.setHcLine ln h).times = s.times := by
  unfold State.setHcLine
  dsimp only
  split
  · rfl
  · split
    · rfl
    · split <;> rfl

@[simp] theorem hcFetch_times (s : State) (ln : Nat) (pts : Word) : (s.hcFetch ln pts).1.times = s.times := setHcLine_times ..

@[simp] theorem hcStore_times (s : State) (ln : Nat) (pts : Word) : (s.hcStore ln pts).1.times = s.times := setHcLine_times ..

@[simp] theorem forcedPkt_times (s : State) (c pa : Nat) (p : PtPkt) : (s.forcedPkt c pa p).times = s.times := rfl

@[simp] theorem sendReq_times (s : State) (d y k : Nat) (e : BitVec 28) (p : PtPkt) (lvl pkg off : Nat) (data : List Word) (mark fwd : Nat) :
    (s.sendReq d y k e p lvl pkg off data mark fwd none).times = s.times := by
  unfold State.sendReq
  dsimp only
  split <;> rfl

@[simp] theorem lineReq_times (s : State) (c : Nat) (va : Word) (pkg off : Nat) (data keep : Line) :
    (s.lineReq c va pkg off data keep).times = s.times := by
  unfold State.lineReq
  dsimp only
  rw [sendReq_times]

@[simp] theorem sendLine_times (s : State) (c w i : Nat) (va : Word) (pkg off : Nat) (data keep : Line) :
    (s.sendLine c w i va pkg off data keep).times = s.times := by
  rw [State.sendLine, updCore_times, lineReq_times]

@[simp] theorem raisePts_times (s : State) (c : Nat) (ts : Word) : (s.raisePts c ts).times = s.times := by
  rw [State.raisePts, updCore_times]

/-! ### Lines that are written back -/

@[simp] theorem writeBackLine_times (s : State) (c ln : Nat) : (s.writeBackLine c ln).times = s.times := by
  unfold State.writeBackLine
  split
  · rfl
  · split
    · rfl
    · dsimp only
      rw [updCore_times, forcedPkt_times, setPoison_times, homeWords_times]

@[simp] theorem writeBackWin_times (s : State) (c w i : Nat) : (s.writeBackWin c w i).times = s.times := by
  unfold State.writeBackWin
  dsimp only
  split
  · rfl
  · split
    · rfl
    · split
      · rfl
      · rw [updCore_times]
        split
        · rw [forcedPkt_times, homeWords_times]
        · rw [sendLine_times]

@[simp] theorem drainEntry_times (s : State) (c e : Nat) : (s.drainEntry c e).times = s.times := by
  unfold State.drainEntry
  split
  · exact writeBackLine_times ..
  · exact writeBackWin_times ..

@[simp] theorem enterFifo_times (s : State) (c e : Nat) : (s.enterFifo c e (fun s e => s.drainEntry c e)).times = s.times := by
  unfold State.enterFifo
  dsimp only
  split
  · rfl
  · rw [updCore_times]
    split
    · rfl
    · split
      · exact drainEntry_times ..
      · rfl

/-! ### Scratchpad writes (R234) -/

theorem fillWin_times {w i : Nat} {b : Bool} (h : s.fillWin c w i b = .ok t) : t.times = s.times := by
  unfold State.fillWin at h
  dsimp only at h
  split at h
  · cases h
  · cases h
  · split at h
    · cases h
      rw [updCore_times, raisePts_times, hcFetch_times]
    · cases h
      rw [updCore_times]

@[simp] theorem fillFirst_times (s : State) (c ln : Nat) : (s.fillFirst c ln).times = s.times := by
  unfold State.fillFirst
  split
  · rfl
  · split
    · exact fillWin_times ‹_›
    · rfl

@[simp] theorem spadWrite_times (s : State) (c : Nat) (w : SpadWrite) : (s.spadWrite c w).times = s.times := by
  have filled := fillFirst_times s c w.ln
  unfold State.spadWrite
  generalize s.fillFirst c w.ln = u at filled
  dsimp only
  split
  · rw [updCore_times, updCore_times, filled]
  · split
    · rw [updCore_times, updCore_times, filled]
    · split
      · split
        · split
          · rw [updCore_times, filled]
          · split
            · rw [updCore_times, homeBytes_times, updCore_times, filled]
            · rw [updCore_times, raisePts_times, hcStore_times, homeBytes_times, updCore_times, filled]
        · split
          · rw [enterFifo_times, updCore_times, updCore_times, filled]
          · rw [updCore_times, updCore_times, filled]
      · rw [updCore_times, sendLine_times, updCore_times, filled]
      · split
        · rw [enterFifo_times, updCore_times, updCore_times, filled]
        · rw [updCore_times, updCore_times, filled]

@[simp] theorem spadWrites_times (s : State) (c : Nat) (ws : List SpadWrite) : (s.spadWrites c ws).times = s.times :=
  foldl_times (fun t w => spadWrite_times t c w) ws s

/-! ### The accesses of a clock (R206, R345) -/

@[simp] theorem metPoison_times (s : State) (c e : Nat) : (s.metPoison c e).times = s.times := by
  unfold State.metPoison
  dsimp only
  split <;> rfl

@[simp] theorem movesLand_times (s : State) (c : Nat) : (s.movesLand c).times = s.times := by
  unfold State.movesLand
  dsimp only
  split
  · rfl
  · rw [spadWrites_times, updCore_times, metPoison_times]

@[simp] theorem engineAccess_times (s : State) (c : Nat) : (s.engineAccess c).times = s.times := by
  unfold State.engineAccess
  extract_lets k now pend looked
  have kept : looked.times = s.times := updCore_times ..
  clear_value looked
  split
  · rfl
  · rw [updCore_times, movesLand_times, kept]

@[simp] theorem fillPkt_times (s : State) (c : Nat) (ent : Entry) (f : Freeze) : (s.fillPkt c ent f).times = s.times := by
  unfold State.fillPkt
  split
  · rfl
  · split
    · rfl
    · unfold State.sendBy
      split
      · rfl
      · rw [sendReq_times]

theorem accessWait_times (h : s.accessWait c = some t) : t.times = s.times := by
  unfold State.accessWait at h
  dsimp only at h
  split at h
  · cases h
  · obtain ⟨r, -, rfl⟩ := Option.map_eq_some_iff.mp h
    rw [State.freezeOwn, State.freeze, updCore_times, fillPkt_times]

/-! ### What a clock counts (R116, R368) -/

@[simp] theorem count_times (s : State) (c x ev n : Nat) : (s.count c x ev n).times = s.times := by
  unfold State.count
  split <;> rfl

@[simp] theorem countLots_times (s : State) (c : Nat) : (s.countLots c).times = s.times := by
  refine foldl_times (fun t x => ?_) _ s
  split
  · exact count_times ..
  · rfl

@[simp] theorem tickStalls_times (s : State) (c : Nat) : (s.tickStalls c).times = s.times := by
  unfold State.tickStalls
  dsimp only
  split
  · refine foldl_times (fun t x => ?_) _ s
    split
    · rfl
    · split <;> rfl
  · refine (updCore_times ..).trans (foldl_times (fun t x => ?_) _ s)
    split
    · rfl
    · split <;> rfl

/-! ### One clock of a core, and the links (R385, R406) -/

theorem waited_times (s : State) (c : Nat) : ((s.accessWait c).getD ((s.tickStalls c).engineAccess c)).times = s.times := by
  cases h : s.accessWait c with
  | none => rw [Option.getD_none, engineAccess_times, tickStalls_times]
  | some t => exact accessWait_times h

/-- The clocks that a core's contexts and the hypervisor count (R368). -/
def State.clocked (s : State) (c : Nat) : State :=
  if (s.core c).offTask then s.count c 0 0 1
  else if (s.core c).perfBind = [] then s
  else (List.range 4).foldl (fun s x => s.count c x 0 1) s

@[simp] theorem clocked_times (s : State) (c : Nat) : (s.clocked c).times = s.times := by
  unfold State.clocked
  split
  · exact count_times ..
  · split
    · rfl
    · exact foldl_times (fun t x => count_times ..) _ s

/-- The accesses of a core in a clock that it is not frozen in. -/
def State.worked (s : State) (c : Nat) (frozen : Option Freeze) : State :=
  match frozen with
  | some f => s.count c f.ctx 6 1
  | none => (s.accessWait c).getD ((s.tickStalls c).engineAccess c)

@[simp] theorem worked_times (s : State) (c : Nat) (f : Option Freeze) : (s.worked c f).times = s.times := by
  cases f with
  | none => exact waited_times s c
  | some f => exact count_times ..

/-- The tokens that a core has pushed can be popped. -/
def State.ripened (s : State) (c : Nat) : State := if (s.core c).fresh = [] then s else s.updCore c Core.ripen

@[simp] theorem ripened_times (s : State) (c : Nat) : (s.ripened c).times = s.times := by
  unfold State.ripened
  split <;> rfl

/-- A core's own clock, its progress and the yields of its contexts, when the clock of the package is `cc`. -/
def Core.clocked (k : Core) (cc : Nat) : Core :=
  let k := if k.frozen = none then { k with clk := k.clk + 1 } else k
  let k := if k.progress = k.progN then k else { k with progN := k.progress, progAt := cc }
  (List.range 4).foldl (fun (k : Core) x =>
    if (k.getCtx x).yieldFor = 0 then k else k.updCtx x (fun t => { t with yieldFor := t.yieldFor - 1 })) k

theorem tickCore_eq (s : State) (c : Nat) : s.tickCore c =
    if ((s.ripened c).core c).awake = false then s.ripened c
    else
      let t := (((s.ripened c).clocked c).countLots c).worked c ((s.ripened c).core c).frozen
      t.updCore c (fun k => k.clocked t.cc) := rfl

@[simp] theorem tickCore_times (s : State) (c : Nat) : (s.tickCore c).times = s.times := by
  rw [tickCore_eq]
  split
  · exact ripened_times s c
  · dsimp only
    rw [updCore_times, worked_times, countLots_times, clocked_times, ripened_times]

@[simp] theorem idleLinks_times (s : State) : s.idleLinks.times = s.times := by
  refine foldl_times (fun t p => ?_) _ s
  split <;> rfl

/-! ### The clock that goes on (R406) -/

/-- Every core has had the present clock. -/
def State.ticked (s : State) : State := (List.range Config.numCores).foldl (fun s c => s.tickCore c) s

theorem ticked_times (s : State) : s.ticked.times = s.times := foldl_times tickCore_times _ s

/-- The state in another clock, with other registers of the tack. -/
def State.inClock (s : State) (cc : Nat) (t : Tack) : State := { s with cc := cc, tack := t }

theorem inClock_times (s : State) (cc : Nat) (t : Tack) :
    (s.inClock cc t).cc = cc ∧ (s.inClock cc t).time = s.time ∧ (s.inClock cc t).timeStep = s.timeStep ∧
      (s.inClock cc t).timeHold = s.timeHold ∧ (s.inClock cc t).mem = s.mem := ⟨rfl, rfl, rfl, rfl, rfl⟩

/-- The clock and the time counter go on behind the cores' clocks. -/
def State.clockOn (s : State) : State :=
  s.idleLinks.advanceTime.inClock (s.cc + 1) (if s.tack.capped then { s.tack with cappedCc := s.tack.cappedCc + 1 } else s.tack)

theorem exec_timeCounterStep (h : s.clockBusy = false) : exec .timeCounterStep s = .next s.ticked.clockOn := by
  show execTimeCounterStep s = _
  unfold execTimeCounterStep
  rw [h, if_neg Bool.false_ne_true]
  unfold State.ticked State.clockOn State.inClock
  dsimp only

theorem exec_timeCounterStep_busy (h : s.clockBusy = true) : exec .timeCounterStep s = .next s := by
  show execTimeCounterStep s = _
  unfold execTimeCounterStep
  rw [h, if_pos rfl]

/-- A step forward, with no hold, is added beside INC. -/
theorem advanceTime_forward (hs : 0 ≤ s.timeStep) (hh : s.timeHold = 0) :
    s.advanceTime.time = (s.time + s.timeStep.toNat * 2 ^ 32 + s.tack.tminc.toNat) % 2 ^ 96 ∧ s.advanceTime.timeStep = 0 ∧
      s.advanceTime.timeHold = 0 := by
  have back : (-s.timeStep).toNat = 0 := Int.toNat_of_nonpos (by omega)
  unfold State.advanceTime
  rw [hh, back]
  exact ⟨by simp, rfl, by simp⟩

theorem clockOn_advances (h : t.times = s.times) (hs : 0 ≤ s.timeStep) (hh : s.timeHold = 0) :
    t.clockOn.cc = s.cc + 1 ∧ t.clockOn.time = (s.time + s.timeStep.toNat * 2 ^ 32 + s.tack.tminc.toNat) % 2 ^ 96 ∧
      t.clockOn.timeStep = 0 ∧ t.clockOn.timeHold = 0 ∧ t.clockOn.mem = t.mem := by
  have linked := (idleLinks_times t).trans h
  unfold State.times at h linked
  simp only [Prod.mk.injEq] at h linked
  obtain ⟨-, time, step, hold, inc⟩ := linked
  obtain ⟨advanced, step', hold'⟩ := advanceTime_forward (s := t.idleLinks) (by rwa [step]) (hold.trans hh)
  rw [time, step, inc] at advanced
  unfold State.clockOn
  obtain ⟨now, time', kept, held, mem⟩ := inClock_times t.idleLinks.advanceTime (t.cc + 1)
    (if t.tack.capped then { t.tack with cappedCc := t.tack.cappedCc + 1 } else t.tack)
  rw [now, time', kept, held, mem, h.1]
  exact ⟨rfl, advanced, step', hold', State.advanceTime_mem.trans State.idleLinks_mem⟩

theorem timeCounterStep_advances (h : s.clockBusy = false) (hs : 0 ≤ s.timeStep) (hh : s.timeHold = 0) :
    ∃ u, exec .timeCounterStep s = .next u ∧ u.cc = s.cc + 1 ∧
      u.time = (s.time + s.timeStep.toNat * 2 ^ 32 + s.tack.tminc.toNat) % 2 ^ 96 ∧ u.timeStep = 0 ∧ u.timeHold = 0 ∧
      u.mem = s.ticked.mem :=
  ⟨_, exec_timeCounterStep h, clockOn_advances (ticked_times s) hs hh⟩

end
end Sys2Proof.Machine
end

section
/-!
SUPPORT. A clock in which no move of the MXE has scratchpad writes to land leaves memory as it was (R206, R406).
-/
namespace Sys2Proof.Machine
section

variable {s t u : State} {c x e : Nat} {k : Core}

/-! ### No scratchpad write is to land: a core -/

/-- No started command of a queue has scratchpad writes left. -/
def EngQ.Landed (q : EngQ) : Prop := ∀ f ∈ q.fl, f.post = []

theorem EngQ.Landed.stopping {q : EngQ} {b : Bool} {n : Nat} (h : q.Landed) : (if b then q.stopFrom n else q).Landed := by
  split <;> exact h

/-- Started commands of which some take another state. -/
theorem EngQ.Landed.map {q q' : EngQ} {g : Flight → Flight} (h : q.Landed) (hq : q'.fl = q.fl.map g)
    (hg : ∀ f ∈ q.fl, (g f).post = f.post) : q'.Landed := by
  intro f hf
  rw [hq] at hf
  obtain ⟨f', hf', rfl⟩ := List.mem_map.mp hf
  rw [hg f' hf', h f' hf']

/-- No started command of the MXE has scratchpad writes left. -/
def Core.Landed (k : Core) : Prop := k.mxe.q.Landed

theorem Core.Landed.updQ {g : EngQ → EngQ} (h : k.Landed) (hg : e = 1 → (g k.mxe.q).Landed) : (k.updQ e g).Landed := by
  unfold Core.updQ Core.setQ
  split
  · exact h
  · exact hg rfl
  · exact h

theorem Core.look_post (k : Core) (ws : List SpadWrite) (line : Nat → Line) (f : Flight) : (k.look ws line f).post = f.post := by
  unfold Core.look
  split <;> rfl

theorem Core.Landed.lookAll (h : k.Landed) (line : Nat → Line) : (k.lookAll e line).Landed := by
  unfold Core.lookAll
  split
  · exact h
  · refine h.updQ fun he => ?_
    subst he
    exact EngQ.Landed.stopping (EngQ.Landed.map h rfl fun f _ => Core.look_post ..)

theorem Core.Landed.stepMade (h : k.Landed) : k.stepMade.Landed := by
  unfold Core.stepMade
  split
  next => exact h
  next f hf =>
    split
    next => exact h
    next p hp =>
      have made : f.post = [] := h f (List.mem_of_find?_eq_some hf)
      refine Core.Landed.updQ (k := (k.stepOut p (k.tileNow p.tile)).core) h fun _ => ?_
      refine EngQ.Landed.stopping (EngQ.Landed.map (q := k.mxe.q) h rfl fun f' hf' => ?_)
      split
      · exact made.trans (h f' hf').symm
      · rfl

theorem Core.Landed.nestCause (h : k.Landed) (n : Nest) (cause : Option (BitVec 5 × Word)) : (k.nestCause n cause).Landed := by
  unfold Core.nestCause
  split
  · exact h
  · refine h.updQ fun _ => EngQ.Landed.map h rfl fun f _ => ?_
    split <;> rfl

theorem Core.Landed.nestMade (h : k.Landed) : k.nestMade.Landed := by
  unfold Core.nestMade
  split
  · exact h
  · split
    · exact h
    · dsimp only
      split
      · refine Core.Landed.nestCause ?_ _ _
        exact h
      · have noted (k : Core) (n : Nat) (b : BitVec 32) (hk : k.Landed) : (k.updQ 1 (fun q => { q with fl := q.fl.map (fun f =>
            if f.ent.seq = b then { f with wclk := n, rclk := n } else f) })).Landed := by
          refine hk.updQ fun _ => EngQ.Landed.map hk rfl fun f _ => ?_
          split <;> rfl
        refine noted _ _ _ (Core.Landed.nestCause ?_ _ _)
        exact h

theorem Core.Landed.foldl {α : Type} {f : Core → α → Core} (h : k.Landed) (hf : ∀ k a, k.Landed → (f k a).Landed) (l : List α) :
    (l.foldl f k).Landed := by
  induction l generalizing k with
  | nil => exact h
  | cons a r ih => exact ih (hf k a h)

theorem Core.Landed.clocked (h : k.Landed) (cc : Nat) : (k.clocked cc).Landed := by
  have walked (k : Core) (hk : k.Landed) : ((List.range 4).foldl (fun (k : Core) x =>
      if (k.getCtx x).yieldFor = 0 then k else k.updCtx x (fun t => { t with yieldFor := t.yieldFor - 1 })) k).Landed := by
    refine hk.foldl (fun k x hk => ?_) _
    split <;> exact hk
  unfold Core.clocked
  refine walked _ ?_
  (repeat' split) <;> exact h

theorem Core.Landed.count (h : k.Landed) (x ev n : Nat) : (k.count x ev n).Landed := by
  unfold Core.count
  (repeat' split) <;> exact h

/-! ### No scratchpad write is to land: the package -/

def State.Landed (s : State) : Prop := ∀ c, (s.core c).Landed

theorem State.Landed.of_cores (h : s.Landed) (ht : t.cores = s.cores) : t.Landed := by
  intro c
  rw [State.core, ht]
  exact h c

theorem State.Landed.updCore {f : Core → Core} (h : s.Landed) (hf : ∀ k : Core, k.Landed → (f k).Landed) : (s.updCore c f).Landed := by
  intro d
  by_cases hd : d = c
  · rw [hd, State.core_updCore_self]
    exact hf _ (h c)
  · rw [State.core_updCore_ne _ _ hd]
    exact h d

theorem State.Landed.foldl {α : Type} {f : State → α → State} (h : s.Landed) (hf : ∀ s a, s.Landed → (f s a).Landed) (l : List α) :
    (l.foldl f s).Landed := by
  induction l generalizing s with
  | nil => exact h
  | cons a r ih => exact ih (hf s a h)

theorem State.Landed.updCtx (h : s.Landed) (c x : Nat) (f : Ctx → Ctx) : (s.updCtx c x f).Landed :=
  State.Landed.updCore (f := fun k => k.setCtx x (f (s.ctx c x))) h fun _ hk => hk

theorem State.Landed.count (h : s.Landed) (c x ev n : Nat) : (s.count c x ev n).Landed := by
  unfold State.count
  split
  · exact h
  · exact h.updCore fun k hk => hk.count _ _ _

theorem State.Landed.countLots (h : s.Landed) (c : Nat) : (s.countLots c).Landed := by
  refine h.foldl (fun t x ht => ?_) _
  split
  · exact ht.count _ _ _ _
  · exact ht

theorem stalls_fl (s : State) (c e : Nat) (q : EngQ) : (s.stalls c e q).fl = q.fl := by
  unfold State.stalls
  split <;> rfl

theorem State.Landed.tickStalls (h : s.Landed) (c : Nat) : (s.tickStalls c).Landed := by
  have walked : ((List.range 4).foldl (fun (u : State) x =>
      match ((s.core c).getCtx x).wait with
      | none => u
      | some w =>
        if ((s.core c).getCtx x).run = .running ∧ (s.core c).free x ∧ (u.waitReport c x w).isSome then
          u.updCtx c x (fun t => { t with stall := t.stall + 1 })
        else u) s).Landed := by
    refine h.foldl (fun t x ht => ?_) _
    split
    · exact ht
    · split
      · exact ht.updCtx _ _ _
      · exact ht
  unfold State.tickStalls
  dsimp only
  split
  · exact walked
  · refine walked.updCore fun k hk => ?_
    intro f hf
    change f ∈ (State.stalls _ c 1 ((s.core c).q 1)).fl at hf
    rw [stalls_fl] at hf
    exact h c f hf

theorem State.Landed.movesLand (h : s.Landed) (c : Nat) : s.movesLand c = s := by
  unfold State.movesLand
  exact if_pos (List.flatMap_eq_nil_iff.mpr (h c))

theorem State.Landed.engineAccess (h : s.Landed) (c : Nat) : (s.engineAccess c).Landed ∧ (s.engineAccess c).mem = s.mem := by
  unfold State.engineAccess
  extract_lets k now pend looked
  have landed : looked.Landed := h.updCore fun k hk => ((hk.lookAll _).lookAll _).stepMade.nestMade
  have mem : looked.mem = s.mem := (State.updCore_mem ..)
  clear_value looked
  split
  · exact ⟨h, rfl⟩
  · rw [landed.movesLand]
    exact ⟨landed.updCore fun _ hk => hk, mem⟩

theorem fillPkt_cores (s : State) (c : Nat) (ent : Entry) (f : Freeze) : (s.fillPkt c ent f).cores = s.cores := by
  unfold State.fillPkt
  split
  · rfl
  · split
    · rfl
    · unfold State.sendBy
      split
      · rfl
      · unfold State.sendReq
        dsimp only
        split <;> rfl

theorem State.Landed.accessWait (h : s.Landed) (ht : s.accessWait c = some t) : t.Landed := by
  unfold State.accessWait at ht
  dsimp only at ht
  split at ht
  · cases ht
  · obtain ⟨r, -, rfl⟩ := Option.map_eq_some_iff.mp ht
    refine (h.of_cores (fillPkt_cores ..)).updCore fun k hk => ?_
    split <;> exact hk

/-! ### One clock -/

theorem State.Landed.ripened (h : s.Landed) (c : Nat) : (s.ripened c).Landed ∧ (s.ripened c).mem = s.mem := by
  unfold State.ripened
  split
  · exact ⟨h, rfl⟩
  · refine ⟨h.updCore fun k hk => ?_, (State.updCore_mem ..)⟩
    unfold Core.ripen
    split <;> exact hk

theorem State.Landed.clocked (h : s.Landed) (c : Nat) : (s.clocked c).Landed ∧ (s.clocked c).mem = s.mem := by
  unfold State.clocked
  split
  · exact ⟨h.count _ _ _ _, State.count_mem⟩
  · split
    · exact ⟨h, rfl⟩
    · exact ⟨h.foldl (fun t x ht => ht.count _ _ _ _) _, foldl_mem (fun _ _ => State.count_mem) _ s⟩

theorem State.Landed.worked (h : s.Landed) (c : Nat) (f : Option Freeze) : (s.worked c f).Landed ∧ (s.worked c f).mem = s.mem := by
  unfold State.worked
  cases f with
  | some f => exact ⟨h.count _ _ _ _, State.count_mem⟩
  | none =>
    dsimp only
    cases ht : s.accessWait c with
    | none =>
      obtain ⟨landed, mem⟩ := (h.tickStalls c).engineAccess c
      exact ⟨landed, mem.trans State.tickStalls_mem⟩
    | some t => exact ⟨h.accessWait ht, State.accessWait_mem ht⟩

theorem State.Landed.tickCore (h : s.Landed) (c : Nat) : (s.tickCore c).Landed ∧ (s.tickCore c).mem = s.mem := by
  obtain ⟨ripe, ripeMem⟩ := h.ripened c
  rw [tickCore_eq]
  split
  · exact ⟨ripe, ripeMem⟩
  · obtain ⟨counted, countedMem⟩ := ripe.clocked c
    obtain ⟨worked, workedMem⟩ := (counted.countLots c).worked c ((s.ripened c).core c).frozen
    exact ⟨worked.updCore fun _ hk => hk.clocked _,
      (State.updCore_mem ..).trans (workedMem.trans (State.countLots_mem.trans (countedMem.trans ripeMem)))⟩

/-- A clock in which nothing lands in the scratchpads leaves memory as it was. -/
theorem State.Landed.ticked (h : s.Landed) : s.ticked.mem = s.mem := by
  unfold State.ticked
  refine (List.foldlRecOn (motive := fun (t : State) => t.Landed ∧ t.mem = s.mem) _ _ ⟨h, rfl⟩ fun t ht c _ => ?_).2
  obtain ⟨landed, mem⟩ := ht.1.tickCore c
  exact ⟨landed, mem.trans ht.2⟩

end
end Sys2Proof.Machine
end

section
/-!
SUPPORT. Frame counters, slips, releases, the sources of the time counter, and the power cap (R129, R130, R407, R408, R427).
-/
namespace Sys2Proof.Machine
section

variable {s t u : State} {b c e n q : Nat} {p : Paddock}

/-! ### What keeps the paddocks -/

theorem foldl_pdks {α : Type} {f : State → α → State} (h : ∀ s a, (f s a).pdks = s.pdks) (l : List α) (s : State) :
    (l.foldl f s).pdks = s.pdks := by
  induction l generalizing s with
  | nil => rfl
  | cons a r ih => exact (ih _).trans (h s a)

theorem homeWrite_pdks (s : State) (a n v : Nat) : (s.homeWrite a n v).pdks = s.pdks := by
  induction n generalizing s a v with
  | zero => rfl
  | succ m ih => exact ih ..

theorem logEntry_pdks (s : State) (fn src vec info : Nat) : (s.logEntry fn src vec info).pdks = s.pdks := by
  unfold State.logEntry
  dsimp only
  rw [State.updFunc_pdks, homeWrite_pdks, homeWrite_pdks]

theorem interrupt_pdks (s : State) (fn src info : Nat) : (s.interrupt fn src info).pdks = s.pdks := by
  unfold State.interrupt
  dsimp only
  split
  · rw [State.updFunc_pdks]
  · split
    · rw [State.updFunc_pdks]
    · rw [State.updFunc_pdks, logEntry_pdks]

theorem raiseSlip_pdks (s : State) (b e : Nat) (dl : Word) : (s.raiseSlip b e dl).pdks = s.pdks := by
  refine foldl_pdks (fun t c => ?_) _ s
  split
  · split
    · split <;> rfl
    · rfl
  · rfl

theorem State.pdk_of_pdks (h : t.pdks = s.pdks) (b : Nat) : t.pdk b = s.pdk b := by rw [State.pdk, h, State.pdk]

/-! ### A frame counter ticks (R408) -/

theorem deadline_frame (s : State) (b e : Nat) : ((s.deadline b e).pdk b).frame = (s.pdk b).frame := by
  unfold State.deadline
  dsimp only
  split
  · rw [State.pdk_setPdk_self]
    rfl
  · split
    · rw [State.pdk_of_pdks (raiseSlip_pdks ..), State.pdk_setPdk_self]
    · rw [State.pdk_setPdk_self]
      rfl

theorem foldl_deadline_frame (l : List Nat) (s : State) (b : Nat) :
    ((l.foldl (fun s e => s.deadline b e) s).pdk b).frame = (s.pdk b).frame := by
  induction l generalizing s with
  | nil => rfl
  | cons e r ih => exact (ih _).trans (deadline_frame s b e)

theorem frameTick_waits (h : s.tickDue b = false) : exec (.frameTick b) s = .next s := by
  show execFrameTick b s = _
  unfold execFrameTick
  rw [h, if_neg Bool.false_ne_true]

theorem frameTick_ticks (h : s.tickDue b = true) :
    ∃ u, exec (.frameTick b) s = .next u ∧ (u.pdk b).frame = (s.pdk b).frame + 1 := by
  have ticks : ∃ l : List Nat, execFrameTick b s =
      .next (l.foldl (fun s e => s.deadline b e) (s.updPdk b (fun p => { p with frame := p.frame + 1 }))) := by
    unfold execFrameTick
    rw [h, if_pos rfl]
    exact ⟨_, rfl⟩
  obtain ⟨l, next⟩ := ticks
  refine ⟨_, next, ?_⟩
  rw [foldl_deadline_frame, State.pdk_updPdk_self]

/-! ### A slip ends (R130) -/

/-- The paddock whose entries stand armed as `arm` says. -/
def Paddock.rearm (p : Paddock) (arm : Nat → Bool) (l : List (Nat × Nat)) : Paddock :=
  l.foldl (fun (p : Paddock) e => p.setEntry e.1 { p.entry e.1 with armed := arm e.1 }) p

theorem Paddock.rearm_keeps (p : Paddock) (arm : Nat → Bool) (l : List (Nat × Nat)) :
    (p.rearm arm l).frame = p.frame ∧ (p.rearm arm l).heldNs = p.heldNs := by
  unfold Paddock.rearm
  induction l generalizing p with
  | nil => exact ⟨rfl, rfl⟩
  | cons e r ih => exact ih _

theorem slipEnd_ends {sl : Slip} (h : (s.pdk b).slip = some sl) (he : ∀ e ∈ sl.entries, s.entryVf b e.1 sl.cc = none) :
    ∃ u, exec (.slipEnd b) s = .next u ∧ (u.pdk b).slip = none ∧ (u.pdk b).frame = (s.pdk b).frame ∧
      (u.pdk b).heldNs = (s.pdk b).heldNs + (s.timeNs.toNat - sl.since) := by
  have done : sl.entries.any (fun e => (s.entryVf b e.1 sl.cc).isSome) = false := by
    rw [List.any_eq_false]
    intro e hm
    rw [he e hm]
    decide
  let p := (s.pdk b).rearm (fun e => (s.entryVf b e s.cc).isSome) sl.entries
  let len := s.timeNs.toNat - sl.since
  have next : execSlipEnd b s = .next (sl.entries.foldl (fun s e => s.interrupt e.2 2 e.1) (s.setPdk b { p with
      slip := none, heldNs := p.heldNs + len, slipLog := p.slipLog ++ sl.entries.map (fun e => (e.1, len)) })) := by
    unfold execSlipEnd
    dsimp only
    rw [h]
    dsimp only
    rw [done, if_neg Bool.false_ne_true]
    rfl
  obtain ⟨frame, held⟩ := Paddock.rearm_keeps (s.pdk b) (fun e => (s.entryVf b e s.cc).isSome) sl.entries
  refine ⟨_, next, ?_⟩
  rw [State.pdk_of_pdks (foldl_pdks (fun s e => interrupt_pdks ..) _ _), State.pdk_setPdk_self]
  exact ⟨rfl, frame, congrArg (· + len) held⟩

/-! ### A queue's head is released (R129) -/

/-- A pre-emption request leaves the launches, and the queues and numbers of the paddocks. -/
theorem request_keeps (s : State) (c b' : Nat) (why : Option Nat) (b : Nat) :
    (s.request c b' why).launches = s.launches ∧ ((s.request c b' why).pdk b).queues = (s.pdk b).queues ∧
      ((s.request c b' why).pdk b).seq = (s.pdk b).seq := by
  unfold State.request
  split
  · exact ⟨rfl, rfl, rfl⟩
  next i _ =>
    have reserved : ((s.updPdk b' (fun p => { p with reserved := p.reserved ++ [i] })).pdk b).queues = (s.pdk b).queues ∧
        ((s.updPdk b' (fun p => { p with reserved := p.reserved ++ [i] })).pdk b).seq = (s.pdk b).seq := by
      by_cases hb : b = b'
      · rw [hb, State.pdk_updPdk_self]
        exact ⟨rfl, rfl⟩
      · rw [State.updPdk, State.pdk_setPdk_ne _ _ hb]
        exact ⟨rfl, rfl⟩
    extract_lets wound given k hit asked
    clear_value hit
    split <;> exact ⟨rfl, reserved⟩

theorem preempt_keeps (s : State) (n : Nat) (l : Launch) (b : Nat) :
    (s.preempt n l).launches = s.launches ∧ ((s.preempt n l).pdk b).queues = (s.pdk b).queues ∧
      ((s.preempt n l).pdk b).seq = (s.pdk b).seq := by
  unfold State.preempt
  dsimp only
  split
  · exact ⟨rfl, rfl, rfl⟩
  · split
    · exact request_keeps ..
    · exact ⟨rfl, rfl, rfl⟩

/-- The launch of a packet that is released. -/
def Paddock.launchOf (p : Paddock) (b q : Nat) (k : Packet) : Launch :=
  { pkt := k, blk := b, queue := q, tick := p.frame.setWidth 32, seq := p.seq, prio := pktEffPrio p k.d
    total := taskCount p k.d, entry := if pktTt k.d = 0xffff then none else some (pktTt k.d) }

/-- What stands when the head of queue `q` has been released. -/
def State.released (s : State) (b q : Nat) (k : Packet) (r : List Packet) : State :=
  let t := s.setPdk b { s.pdk b with queues := Map.set [] (s.pdk b).queues q r, seq := (s.pdk b).seq + 1 }
  { t.setLaunch s.nextLaunch (some ((s.pdk b).launchOf b q k)) with nextLaunch := s.nextLaunch + 1 }

theorem launchRelease_waits {k : Packet} {r : List Packet} (hq : (s.pdk b).queue q = k :: r)
    (h : (s.pdk b).releasable k = false ∨ wbits (s.pdk b).pctl 60 2 = 2) : exec (.launchRelease b q) s = .next s := by
  show execLaunchRelease b q s = _
  unfold execLaunchRelease
  dsimp only
  rw [hq]
  dsimp only
  refine if_neg ?_
  rintro ⟨-, state, release, -⟩
  rcases h with h | h
  · exact Bool.false_ne_true (h.symm.trans release)
  · exact state h

theorem exec_launchRelease {k : Packet} {r : List Packet} (hq : (s.pdk b).queue q = k :: r) (hv : (s.pdk b).valid = true)
    (hs : wbits (s.pdk b).pctl 60 2 ≠ 2) (hr : (s.pdk b).releasable k = true) (hk : k.src = none ∨ k.at_ < s.cc)
    (hc : taskCount (s.pdk b) k.d ≠ 0) :
    exec (.launchRelease b q) s = .next ((s.released b q k r).preempt s.nextLaunch ((s.pdk b).launchOf b q k)) := by
  show execLaunchRelease b q s = _
  unfold execLaunchRelease
  dsimp only
  rw [hq]
  dsimp only
  rw [if_pos ⟨hv, hs, hr, hk⟩, if_neg hc]
  rfl

theorem launchRelease_releases {k : Packet} {r : List Packet} (hq : (s.pdk b).queue q = k :: r) (hv : (s.pdk b).valid = true)
    (hs : wbits (s.pdk b).pctl 60 2 ≠ 2) (hr : (s.pdk b).releasable k = true) (hk : k.src = none ∨ k.at_ < s.cc)
    (hc : taskCount (s.pdk b) k.d ≠ 0) :
    ∃ u l, exec (.launchRelease b q) s = .next u ∧ (u.pdk b).queue q = r ∧ u.launch s.nextLaunch = some l ∧ l.pkt = k ∧
      l.queue = q ∧ l.total = taskCount (s.pdk b) k.d ∧ l.seq = (s.pdk b).seq ∧ (u.pdk b).seq = (s.pdk b).seq + 1 ∧ l.done = [] := by
  have pdk : (s.released b q k r).pdk b =
      { s.pdk b with queues := Map.set [] (s.pdk b).queues q r, seq := (s.pdk b).seq + 1 } := State.pdk_setPdk_self ..
  have launch : (s.released b q k r).launch s.nextLaunch = some ((s.pdk b).launchOf b q k) := by
    unfold State.launch State.released State.setLaunch
    dsimp only
    rw [Map.get_set_self]
  obtain ⟨launches, queues, seq⟩ := preempt_keeps (s.released b q k r) s.nextLaunch ((s.pdk b).launchOf b q k) b
  refine ⟨_, (s.pdk b).launchOf b q k, exec_launchRelease hq hv hs hr hk hc, ?_, ?_, rfl, rfl, rfl, rfl, ?_, rfl⟩
  · rw [Paddock.queue, queues, pdk]
    exact Map.get_set_self ..
  · rw [State.launch, launches]
    exact launch
  · rw [seq, pdk]

/-! ### Sources of the time counter, and the power cap (R407, R427) -/

theorem timeSync_waits {ofs : Int} (h : s.tack.src ≠ 2 ∨ s.routePort s.tack.mpkg.toNat 0 0 = none) :
    exec (.timeSyncExchange ofs) s = .next s := by
  show execTimeSyncExchange ofs s = _
  unfold execTimeSyncExchange
  refine if_pos ?_
  rcases h with h | h
  · exact .inl h
  · exact .inr (.inr (by rw [h]; rfl))

theorem timeSync_corrects {ofs : Int} (hs : s.tack.src = 2) (hp : s.tack.mpkg ≠ s.pkg)
    (hr : (s.routePort s.tack.mpkg.toNat 0 0).isSome = true) :
    ∃ u, exec (.timeSyncExchange ofs) s = .next u ∧ u.timeStep = s.timeStep + ofs ∧
      (s.tack.syncOk = 15 → -2 ≤ ofs → ofs ≤ 2 → u.tack.lock = true) ∧
      (2 < ofs → u.tack.syncOk = 0 ∧ u.tack.lock = s.tack.lock) := by
  have goes : ¬ (s.tack.src ≠ 2 ∨ s.tack.mpkg = s.pkg ∨ (s.routePort s.tack.mpkg.toNat 0 0).isNone) := by
    rintro (h | h | h)
    · exact h hs
    · exact hp h
    · rw [Option.isNone_iff_eq_none] at h
      rw [h] at hr
      cases hr
  refine ⟨_, if_neg goes, rfl, fun h15 low high => ?_, fun far => ?_⟩
  · have near : ofs.natAbs ≤ 2 := by omega
    simp [near, h15]
  · have off : ¬ ofs.natAbs ≤ 2 := by omega
    simp [off]

/-- An event message corrects only where its source is selected and its port takes part. -/
theorem ptp_corrects (s : State) (n : Nat) (ofs : Int) : exec (.ptpEventMessage n ofs) s =
    .next (if s.tack.src = 1 ∧ n < 4 ∧ (Map.get 0 s.tack.ptp 0).getLsbD n = true then { s with timeStep := s.timeStep + ofs } else s) := by
  show execPtpEventMessage n ofs s = _
  unfold execPtpEventMessage
  split
  · rfl
  · rfl

theorem powerCap_caps (s : State) (n : Nat) :
    ∃ u, exec (.powerCapCheck n) s = .next u ∧
      (u.tack.capped = true ↔ (s.tack.pcap.getLsbD 63 = true ∧ wbits s.tack.pcap 0 16 < n % 2 ^ 16)) ∧
      wbits u.tack.pmeas 0 16 = n % 2 ^ 16 := by
  have measured : wbits (wnat (n % 2 ^ 16)) 0 16 = n % 2 ^ 16 := by
    unfold wbits wnat bits
    rw [BitVec.toNat_ofNat]
    omega
  refine ⟨_, rfl, ?_, measured⟩
  show (s.tack.pcap.getLsbD 63 && decide (wbits s.tack.pcap 0 16 < wbits (wnat (n % 2 ^ 16)) 0 16)) = true ↔ _
  rw [measured, Bool.and_eq_true, decide_eq_true_iff]

end
end Sys2Proof.Machine
end

section
/-!
SUPPORT. Tasks that start on a core and tasks that are complete (R112, R122, R239, R284), and the settlement of the claim on tasks and time.
-/
namespace Sys2Proof.Machine
section

variable {s s' t u : State} {c d b ln n : Nat} {k k' : Core} {l : Launch}

/-! ### A task is complete (R112, R284) -/

/-- The task of a core and all lots are as they were. -/
structure SameHolder (s t : State) (c : Nat) : Prop where
  task : (t.core c).task = (s.core c).task
  lots : t.lots = s.lots

theorem SameHolder.refl (s : State) (c : Nat) : SameHolder s s c := ⟨rfl, rfl⟩

theorem SameHolder.trans (h : SameHolder s t c) (g : SameHolder t u c) : SameHolder s u c := ⟨g.task.trans h.task, g.lots.trans h.lots⟩

theorem SameHolder.of_cores (h : t.cores = s.cores) (hl : t.lots = s.lots) : SameHolder s t c := by
  refine ⟨?_, hl⟩
  rw [State.core, h, State.core]

theorem SameHolder.updCore {f : Core → Core} (h : ∀ k, (f k).task = k.task) (d : Nat) : SameHolder s (s.updCore d f) c := by
  refine ⟨?_, rfl⟩
  by_cases hd : c = d
  · rw [hd, State.core_updCore_self, h]
  · rw [State.core_updCore_ne _ _ hd]

theorem homeWrite_sameHolder (s : State) (a n v : Nat) : SameHolder s (s.homeWrite a n v) c := by
  induction n generalizing s a v with
  | zero => exact .refl ..
  | succ m ih => exact SameHolder.trans (t := s.setByte a (BitVec.ofNat 8 v)) (.of_cores rfl rfl) (ih ..)

theorem updFunc_sameHolder (s : State) (n : Nat) (f : Func → Func) : SameHolder s (s.updFunc n f) c := .of_cores rfl rfl

theorem updPdk_sameHolder (s : State) (b : Nat) (f : Paddock → Paddock) : SameHolder s (s.updPdk b f) c := .of_cores rfl rfl

theorem setLaunch_sameHolder (s : State) (n : Nat) (l : Option Launch) : SameHolder s (s.setLaunch n l) c := .of_cores rfl rfl

theorem logEntry_sameHolder (s : State) (fn src vec info : Nat) : SameHolder s (s.logEntry fn src vec info) c := by
  unfold State.logEntry
  dsimp only
  refine .trans ?_ (updFunc_sameHolder ..)
  exact (homeWrite_sameHolder _ _ 8 _).trans (homeWrite_sameHolder _ _ 8 _)

theorem interrupt_sameHolder (s : State) (fn src info : Nat) : SameHolder s (s.interrupt fn src info) c := by
  unfold State.interrupt
  dsimp only
  split
  · exact updFunc_sameHolder ..
  · split
    · exact updFunc_sameHolder ..
    · exact (logEntry_sameHolder ..).trans (updFunc_sameHolder ..)

theorem engineFill_sameHolder (s : State) (d n : Nat) (v : Word) : SameHolder s (s.engineFill d n v) c :=
  SameHolder.trans (t := s.fillSlot d n v) (.updCore (f := fun k => k.fillSlot n v) (fun _ => rfl) d)
    (.updCore (f := fun k => { k with filledAt := some s.cc }) (fun _ => rfl) d)

theorem fillLaunch_sameHolder (s : State) (b : Nat) (src : Nat × Nat × Word) (pts v : Word) : SameHolder s (s.fillLaunch b src pts v) c := by
  unfold State.fillLaunch
  split
  next d _ =>
    have stamped : SameHolder s ((List.range 4).foldl (fun s x => s.updCtx d x (fun t => { t with pts := maxW t.pts pts })) s) c := by
      refine List.foldlRecOn (motive := fun t => SameHolder s t c) _ _ (.refl ..) fun t ht x _ => ht.trans ?_
      exact SameHolder.updCore (f := fun k => k.setCtx x { t.ctx d x with pts := maxW (t.ctx d x).pts pts }) (fun _ => rfl) d
    exact stamped.trans (engineFill_sameHolder ..)
  next =>
    split
    · dsimp only
      refine .trans ?_ (homeWrite_sameHolder _ _ 8 _)
      exact (updPdk_sameHolder ..).trans (homeWrite_sameHolder _ _ 8 _)
    · exact .refl ..

theorem endLaunch_sameHolder (s : State) (ln : Nat) (l : Launch) : SameHolder s (s.endLaunch ln l) c := by
  unfold State.endLaunch
  dsimp only
  refine .trans ?_ (interrupt_sameHolder ..)
  split
  · exact (setLaunch_sameHolder ..).trans (fillLaunch_sameHolder ..)
  · exact setLaunch_sameHolder ..

theorem taskDone_sameHolder (s : State) (ln t core code info : Nat) (pts : Word) :
    SameHolder s (s.taskDone ln t core code info pts) c := by
  unfold State.taskDone
  split
  · exact .refl ..
  · dsimp only
    split
    · exact endLaunch_sameHolder ..
    · exact setLaunch_sameHolder ..

theorem releaseSets_lots (s : State) (c : Nat) : ∀ h ∈ (s.releaseSets c).lots, h.core ≠ c := by
  intro h hm
  have kept := List.of_mem_filter (p := fun l : Lot => l.core ≠ c) hm
  simpa using kept

theorem clearRequest_lots (s : State) (c : Nat) : (s.clearRequest c).lots = s.lots := by
  unfold State.clearRequest
  split <;> rfl

theorem finishTask_leaves (s : State) (c code info : Nat) (h : (s.core c).task.isSome = true) :
    ((s.finishTask c code info).core c).task = none ∧ ∀ h ∈ (s.finishTask c code info).lots, h.core ≠ c := by
  obtain ⟨t, ht⟩ := Option.isSome_iff_exists.mp h
  unfold State.finishTask
  rw [ht]
  dsimp only
  obtain ⟨task, lots⟩ := taskDone_sameHolder (c := c) (((s.releaseSets c).lapseTickets c).clearRequest c |>.updCore c
    (fun k => { k with task := none, pen := [], hold := [], committing := false, wounded := false }))
    t.launch t.idx c code info (s.core c).maxPts
  rw [task, lots, State.core_updCore_self]
  refine ⟨rfl, ?_⟩
  rw [State.updCore_lots, clearRequest_lots]
  exact releaseSets_lots s c

theorem allLeft_iff (k : Core) : k.allLeft = true ↔ ∀ x, x < 4 → (k.getCtx x).run = .ended ∨ (k.getCtx x).run = .stopped := by
  simp [Core.allLeft, List.all_eq_true]

theorem taskComplete_waits {x : Nat} (hx : x < 4) (h : (s.ctx c x).run = .running) : exec (.taskComplete c) s = .next s := by
  have present : ¬ (s.core c).allLeft = true := by
    rw [allLeft_iff]
    intro left
    have gone := left x hx
    rw [show ((s.core c).getCtx x).run = .running from h] at gone
    rcases gone with gone | gone <;> cases gone
  show execTaskComplete c s = _
  unfold execTaskComplete
  exact if_neg fun h => present h.2

theorem taskComplete_completes {t : Task} (ht : (s.core c).task = some t)
    (hl : ∀ x, x < 4 → (s.ctx c x).run = .ended ∨ (s.ctx c x).run = .stopped) (hv : (s.core c).vxe.q.noted = true)
    (hm : (s.core c).mxe.q.noted = true) (hc : (s.core c).cpe.q.noted = true) (hp : (s.core c).penned = false) :
    exec (.taskComplete c) s = .next (s.finishTask c codeDone 0) := by
  have noted : (s.core c).allNoted = true := by rw [Core.allNoted, hv, hm, hc]; rfl
  show execTaskComplete c s = _
  unfold execTaskComplete
  dsimp only
  rw [if_pos ⟨by rw [ht]; rfl, (allLeft_iff _).mpr hl⟩, if_pos ⟨noted, .inl hp⟩]

/-! ### The ways of the pen (R239) -/

/-- The step has moved nothing of core `c` but lines of its L1. -/
def Evicts (s t : State) (c : Nat) : Prop :=
  t.core c = { s.core c with l1 := (t.core c).l1, dfifo := (t.core c).dfifo, blkUse := (t.core c).blkUse }

theorem Evicts.refl (s : State) (c : Nat) : Evicts s s c := rfl

theorem Evicts.trans (h : Evicts s t c) (g : Evicts t u c) : Evicts s u c := by
  unfold Evicts at *
  rw [g, h]

theorem Evicts.of_cores (h : t.cores = s.cores) : Evicts s t c := by
  have same : t.core c = s.core c := by rw [State.core, h, State.core]
  rw [Evicts, same]

theorem Evicts.updCore {f : Core → Core}
    (h : f (s.core c) = { s.core c with l1 := (f (s.core c)).l1, dfifo := (f (s.core c)).dfifo, blkUse := (f (s.core c)).blkUse }) :
    Evicts s (s.updCore c f) c := by
  rw [Evicts, State.core_updCore_self]
  exact h

theorem foldl_evicts {α : Type} {f : State → α → State} (h : ∀ s a, Evicts s (f s a) c) (l : List α) (s : State) :
    Evicts s (l.foldl f s) c := by
  induction l generalizing s with
  | nil => exact .refl ..
  | cons a r ih => exact (h s a).trans (ih _)

theorem homeWrite_evicts (s : State) (a n v : Nat) : Evicts s (s.homeWrite a n v) c := by
  induction n generalizing s a v with
  | zero => exact .refl ..
  | succ m ih => exact Evicts.trans (t := s.setByte a (BitVec.ofNat 8 v)) (.of_cores rfl) (ih ..)

theorem homeWords_evicts (s : State) (ln : Nat) (l : Line) (m : BitVec 32) : Evicts s (s.homeWords ln l m) c := by
  refine foldl_evicts (fun t j => ?_) _ s
  split
  · exact homeWrite_evicts ..
  · exact .refl ..

theorem setPoison_evicts (s : State) (ln : Nat) (m : BitVec 32) (b : Bool) : Evicts s (s.setPoison ln m b) c := by
  unfold State.setPoison
  split
  · exact .refl ..
  · exact .of_cores rfl

theorem writeBackLine_evicts (s : State) (ln : Nat) : Evicts s (s.writeBackLine c ln) c := by
  unfold State.writeBackLine
  split
  · exact .refl ..
  · split
    · exact .refl ..
    · exact (((homeWords_evicts ..).trans (setPoison_evicts ..)).trans (.of_cores rfl)).trans (.updCore rfl)

theorem evictLine_evicts (s : State) (ln : Nat) : Evicts s (s.evictLine c ln) c := (writeBackLine_evicts ..).trans (.updCore rfl)

theorem evictBlk_evicts (s : State) (b : Nat) : Evicts s (s.evictBlk c b) c := by
  refine (foldl_evicts (fun t ln => ?_) _ s).trans (.updCore rfl)
  split
  · split
    · exact evictLine_evicts ..
    · exact .refl ..
  · exact .refl ..

theorem clearPenWays_evicts (s : State) (c : Nat) : Evicts s (s.clearPenWays c) c := by
  refine foldl_evicts (fun t e => ?_) _ s
  split
  · split
    · exact evictBlk_evicts ..
    · exact .refl ..
  · exact .refl ..

/-- A core whose lines lie in the ways that it may use evicts none. -/
theorem clearPenWays_none (h : ∀ n li, (s.core c).line n = some li → li.way < (s.core c).ways) : s.clearPenWays c = s := by
  refine List.foldlRecOn (motive := fun t => t = s) _ _ rfl fun t ht e _ => ?_
  subst ht
  split
  · exact if_neg (Nat.not_le.mpr (h _ _ ‹_›))
  · rfl

/-! ### A task starts (R122) -/

/-- The core that takes up a task, before its pen takes its ways. -/
def State.startCore (s : State) (c : Nat) (t : Task) (d : List Word) : Core :=
  { (s.core c).startTask t (startCtx (s.pdk t.blk) (s.func t.vf) d t.wid) (s.pdk t.blk).floor with progAt := s.cc }

theorem beginTask_eq (s : State) (c : Nat) (t : Task) (d : List Word) :
    s.beginTask c t d = (s.setCore c (s.startCore c t d)).clearPenWays c := rfl

/-- Every context of a core that starts a task is at its start, but for the count by which a watch knows its end. -/
theorem startTask_ctx (t : Task) (mk : Word → Ctx) (floor : Word) {x : Nat} (hx : x < 4) :
    (k.startTask t mk floor).getCtx x = { mk (maxW k.maxPts floor) with retiredU := (k.getCtx x).retiredU } := by
  unfold Core.startTask Core.getCtx
  interval_cases x <;> rfl

theorem beginTask_core (s : State) (c : Nat) (t : Task) (d : List Word) :
    (s.beginTask c t d).core c = { s.startCore c t d with
      l1 := ((s.beginTask c t d).core c).l1, dfifo := ((s.beginTask c t d).core c).dfifo, blkUse := ((s.beginTask c t d).core c).blkUse } := by
  have evicts := clearPenWays_evicts (s.setCore c (s.startCore c t d)) c
  rw [Evicts, State.core_setCore_self] at evicts
  exact evicts

theorem beginTask_ctx (s : State) (c : Nat) (t : Task) (d : List Word) {x : Nat} (hx : x < 4) :
    (s.beginTask c t d).ctx c x = { startCtx (s.pdk t.blk) (s.func t.vf) d t.wid (maxW (s.core c).maxPts (s.pdk t.blk).floor) with
      retiredU := (s.ctx c x).retiredU } := by
  rw [State.ctx, beginTask_core]
  exact startTask_ctx t _ _ hx

/-- The registers of a context at the start of a task. -/
theorem startCtx_regs (p : Paddock) (f : Func) (d : List Word) (wid pts : Word) :
    (startCtx p f d wid pts).rd 1 = pktWord d 1 ∧ (startCtx p f d wid pts).rd 2 = wid ∧
      ∀ r, r ≠ 1 → r ≠ 2 → (startCtx p f d wid pts).rd r = 0 := by
  unfold Ctx.rd startCtx
  refine ⟨?_, ?_, fun r h1 h2 => ?_⟩
  · rw [if_neg (by decide)]
    exact (Map.get_set_ne _ _ _ (by decide)).trans (Map.get_set_self ..)
  · rw [if_neg (by decide)]
    exact Map.get_set_self ..
  · split
    · rfl
    · have n1 : r.toNat ≠ 1 := fun h => h1 (BitVec.eq_of_toNat_eq h)
      have n2 : r.toNat ≠ 2 := fun h => h2 (BitVec.eq_of_toNat_eq h)
      exact (Map.get_set_ne _ _ _ n2).trans (Map.get_set_ne _ _ _ n1)

/-- No line of a core lies in a way that the task may not use, so that the pen takes its ways without an eviction. -/
theorem beginTask_keeps {t : Task} {d : List Word}
    (h : ∀ n li, (s.core c).line n = some li → li.way < (if t.sets = [] then 12 else 10)) :
    s.beginTask c t d = s.setCore c (s.startCore c t d) := by
  rw [beginTask_eq]
  refine clearPenWays_none fun n li hl => ?_
  rw [State.core_setCore_self] at hl ⊢
  exact h n li hl

theorem exec_taskStart {tk : Nat} (h : s.chooses c = true) (hc : s.choose c = (s', some (ln, l, tk, none))) :
    exec (.taskStart c) s = .next ((s'.beginTask c (s'.taskOf ln l tk) l.pkt.d).setLaunch ln
      (some { l.runsOn tk c with started := l.started ++ [tk], again := l.again.filter (fun e => e.1 ≠ tk) })) := by
  show execTaskStart c s = _
  unfold execTaskStart
  rw [h, if_pos rfl, hc]

/-- The state of a core that has started a task (R122). -/
theorem beginTask_starts (s : State) (c ln tk : Nat) (l : Launch) :
    let u := s.beginTask c (s.taskOf ln l tk) l.pkt.d
    (∀ x, x < 4 → (u.ctx c x).run = .running ∧ (u.ctx c x).status = 0 ∧ (u.ctx c x).pc = pktWord l.pkt.d 0 ∧
      (u.ctx c x).rd 1 = pktWord l.pkt.d 1 ∧ (u.ctx c x).rd 2 = taskWid (s.pdk l.blk) l.pkt.d tk ∧
      (∀ r, r ≠ 1 → r ≠ 2 → (u.ctx c x).rd r = 0) ∧
      (u.ctx c x).sBank.tvec = (s.func l.pkt.vf).vftvec ∧ (u.ctx c x).hBank.tvec = (s.pdk l.blk).htvec) ∧
    (∀ f, (u.core c).fifoCount f = 0) ∧ (∀ p, (u.core c).slotFull p = false) ∧ (u.core c).spad = (s.core c).spad ∧
    ∃ t, (u.core c).task = some t ∧ t.launch = ln ∧ t.idx = tk := by
  dsimp only
  obtain ⟨r1, r2, others⟩ := startCtx_regs (s.pdk l.blk) (s.func l.pkt.vf) l.pkt.d (taskWid (s.pdk l.blk) l.pkt.d tk)
    (maxW (s.core c).maxPts (s.pdk l.blk).floor)
  refine ⟨fun x hx => ?_, fun f => ?_, fun p => ?_, ?_, s.taskOf ln l tk, ?_, rfl, rfl⟩
  · rw [beginTask_ctx _ _ _ _ hx]
    exact ⟨rfl, rfl, rfl, r1, r2, others, rfl, rfl⟩
  · rw [beginTask_core]
    rfl
  · rw [beginTask_core]
    exact BitVec.getLsbD_zero
  · rw [beginTask_core]
    rfl
  · rw [beginTask_core]
    rfl

end

/-- Settles O50: the start and the end of a task, releases, frames and slips, and the clock with its sources. -/
theorem tasksStartCompleteAndClockAdvances : Obligations.TasksStartCompleteAndClockAdvances := by
  unfold Obligations.TasksStartCompleteAndClockAdvances
  refine ⟨⟨?starts, ?completes, ?releases, ?frames⟩, ?clock⟩
  case starts =>
    intro s s' c ln tk l h hc kept
    obtain ⟨ctxs, fifos, slots, spad, task⟩ := beginTask_starts s' c ln tk l
    refine ⟨_, exec_taskStart h hc, ctxs, fifos, slots, spad, task, fun hk a => ?_⟩
    have mem : (s'.beginTask c (s'.taskOf ln l tk) l.pkt.d).mem = s'.mem := by
      rw [beginTask_keeps hk]
      rfl
    exact congrArg (Map.get 0 · a) mem
  case completes =>
    intro s c t ht
    refine ⟨fun ⟨x, hx, hr⟩ => taskComplete_waits hx hr, fun hl hv hm hc hp => ?_⟩
    obtain ⟨task, lots⟩ := finishTask_leaves s c codeDone 0 (by rw [ht]; rfl)
    exact ⟨_, taskComplete_completes ht hl hv hm hc hp, task, lots⟩
  case releases =>
    intro s b q k r hq
    exact ⟨fun h => launchRelease_waits hq (.inl h), fun h => launchRelease_waits hq (.inr h),
      fun hv hs hr hk hc => launchRelease_releases hq hv hs hr hk hc⟩
  case frames =>
    intro s b
    exact ⟨frameTick_waits, frameTick_ticks, fun sl h he => slipEnd_ends h he⟩
  case clock =>
    intro s v ofs n
    refine ⟨exec_timeCounterStep_busy, fun h hs hh => ?_, ⟨_, rfl, rfl, rfl⟩, fun h => timeSync_waits (.inl h),
      fun h => timeSync_waits (.inr h), timeSync_corrects, ptp_corrects s n ofs, powerCap_caps s n⟩
    obtain ⟨u, next, cc, time, step, hold, mem⟩ := timeCounterStep_advances h hs hh
    exact ⟨u, next, cc, time, step, hold, fun landed a => congrArg (Map.get 0 · a) (mem.trans (State.Landed.ticked landed))⟩

end Sys2Proof.Machine
end

section
/-!
SUPPORT. A step of a nest that has started and is not made (R206, R212), and the refutation of the claim on matrix commands.
-/
namespace Sys2Proof.Machine
section

variable {s : State} {c addr len scl : Nat} {n : Nest} {k : Core} {w aw bw : Word}

/-! ### Steps that start (R201, R204, R212) -/

/-- A step that has started and is not made holds its nest back. -/
theorem nestStep_pending (late : Option Freeze) (hn : (s.core c).mxe.nest = some n) (hp : n.pend.isSome = true) :
    s.nestStep c late = s := by
  unfold State.nestStep
  dsimp only
  rw [hn]
  exact if_pos (.inr (.inl hp))

/-- An operand in the scratchpad whose lines are filled is taken by its address, and pops nothing. -/
theorem takeOpd_spad {dp8 : Bool} (hw : opOq w = false) (hf : k.firstNeed (spadLines addr (len + scl)) = none) :
    k.takeOpd false w addr len scl dp8 = .ok (.spad addr, k) := by
  unfold Core.takeOpd
  rw [hw, if_neg Bool.false_ne_true, if_neg Bool.false_ne_true, hf]

/-- A step of two such operands starts. -/
theorem stepAt_spad {kind mode e t aa ba : Nat} {zero : Bool} (ha : opOq aw = false) (hb : opOq bw = false)
    (fa : k.firstNeed (spadLines aa ((geom e).2.1 + sclA e)) = none)
    (fb : k.firstNeed (spadLines ba ((geom e).2.2 + sclB e)) = none) :
    k.stepAt false kind mode e t aw bw aa ba zero =
      .ok ({ kind := kind, mode := mode, e := e, tile := t, zero := zero, a := .spad aa, b := .spad ba }, k) := by
  unfold Core.stepAt
  rw [takeOpd_spad ha fa]
  dsimp only
  rw [takeOpd_spad hb fb]

/-- A core that maps no stash window needs no line filled. -/
theorem firstNeed_of_none (h : k.wins = []) (lns : List Nat) : k.firstNeed lns = none := by
  refine List.findSome?_eq_none_iff.mpr fun ln _ => ?_
  rw [Core.lineNeed, Core.windowOf_of_none _ h]

end

/-! ### A nest that waits for its own step -/

/-- The first of the two steps of a nest, started: A at 0 of bank 0 and B at 0 of bank 1. -/
def firstStep : StepIn := { kind := 0, mode := 0, e := 0, tile := 0, zero := false, a := .spad 0, b := .spad 0x800000 }

/-- A nest of two steps whose first has started and is not made. -/
def halfNest : Nest :=
  { ent := { ins := .mxgo Tk.none 0 0 }, aw := 0, bw := 0x800000, cw := 0, tile := 0, kind := 0, fb := 0
    levels := { cnt := 1 } :: List.replicate 5 {}, total := 2, step := 1, nextClk := 0, pend := some firstStep }

/-- Core 0 after reset, with that nest. -/
def halfStepped : State := State.reset.updCore 0 (fun k => { k with mxe := { k.mxe with nest := some halfNest } })

theorem halfStepped_core :
    halfStepped.core 0 = { State.reset.core 0 with mxe := { (State.reset.core 0).mxe with nest := some halfNest } } :=
  State.core_updCore_self ..

theorem halfStepped_nest : (halfStepped.core 0).mxe.nest = some halfNest := by rw [halfStepped_core]

theorem halfStepped_wins : (halfStepped.core 0).wins = [] := by rw [halfStepped_core]; rfl

theorem halfStepped_frozen : (halfStepped.core 0).frozen = none := by rw [halfStepped_core]; rfl

/-- Refutes O48: its clause on a step of a nest does not ask that the step before has been made (R206). The next step of `halfNest`
meets every hypothesis of the clause, but `NEST_STEP` waits for the pending one and leaves the state as it is. -/
theorem not_matrixCommandsStartStepAndWrite : ¬ Obligations.MatrixCommandsStartStepAndWrite := by
  unfold Obligations.MatrixCommandsStartStepAndWrite
  rintro ⟨-, -, steps, -, -⟩
  obtain ⟨t, n', next, nest, goesOn, -⟩ := steps halfStepped 0 halfNest _ _ halfStepped_nest rfl (by decide) (Nat.zero_le _) rfl
    halfStepped_frozen rfl (stepAt_spad rfl rfl (firstNeed_of_none halfStepped_wins _) (firstNeed_of_none halfStepped_wins _))
  have waits : exec (.nestStep 0) halfStepped = .next halfStepped :=
    congrArg Host.Outcome.next (nestStep_pending none halfStepped_nest rfl)
  have stands : halfStepped = t := Host.Outcome.next.inj (waits.symm.trans next)
  have same : halfNest = n' := Option.some.inj (halfStepped_nest.symm.trans (stands ▸ nest))
  rw [← same] at goesOn
  exact absurd goesOn (by decide)

end Sys2Proof.Machine
end

section
/-!
SUPPORT. The timestamps of an HC line at its home, and an access that reaches the home from outside the cores (R244, R247).
-/
namespace Sys2Proof.Machine
section

variable {s : State} {ln a : Nat}

/-- A home keeps the timestamps that it is given. -/
theorem hcLine_setHcLine_self (s : State) (h : ln < 2 ^ 40) (l : HcLine) : (s.setHcLine ln l).hcLine ln = l := by
  unfold State.hcLine State.setHcLine
  simp only [if_pos h]
  exact Map.get_set_self ..

theorem hcFetch_hcLine (s : State) (h : ln < 2 ^ 40) (pts : Word) : (s.hcFetch ln pts).1.hcLine ln =
    { s.hcLine ln with rts := maxW (s.hcLine ln).rts (pts + wnat s.leaseUnits) } :=
  hcLine_setHcLine_self s h { s.hcLine ln with rts := maxW (s.hcLine ln).rts (pts + wnat s.leaseUnits) }

theorem hcStore_hcLine (s : State) (h : ln < 2 ^ 40) (pts : Word) : (s.hcStore ln pts).1.hcLine ln =
    ⟨maxW pts ((s.hcLine ln).rts + 1), maxW pts ((s.hcLine ln).rts + 1)⟩ := hcLine_setHcLine_self s h _

/-- A lease lasts from 8 to 255 units (log 10). -/
theorem leaseUnits_range (s : State) : 8 ≤ s.leaseUnits ∧ s.leaseUnits ≤ 255 := by
  unfold State.leaseUnits
  omega

/-- Bytes of a line written at its home. -/
def State.bytesPut (s : State) (ln : Nat) (wr : List (Nat × Byte)) : State :=
  wr.foldl (fun (s : State) e => s.setByte (128 * ln + e.1 % 128) e.2) s

theorem bytesPut_hcLine (s : State) (ln m : Nat) (wr : List (Nat × Byte)) : (s.bytesPut ln wr).hcLine m = s.hcLine m := by
  induction wr generalizing s with
  | nil => rfl
  | cons e r ih => exact ih (s.setByte (128 * ln + e.1 % 128) e.2)

theorem bytesPut_others (s : State) (wr : List (Nat × Byte)) (h : a < 128 * ln ∨ 128 * ln + 128 ≤ a) :
    (s.bytesPut ln wr).byteAt a = s.byteAt a := by
  induction wr generalizing s with
  | nil => rfl
  | cons e r ih => exact (ih (s.setByte (128 * ln + e.1 % 128) e.2)).trans (s.byteAt_setByte_ne e.2 (by omega))

theorem exec_hcHomeAccess_load (pts : Word) : exec (.hcHomeAccess ln [] pts) s = .next (s.hcFetch ln pts).1 := rfl

theorem exec_hcHomeAccess_store {wr : List (Nat × Byte)} (h : wr ≠ []) (pts : Word) :
    exec (.hcHomeAccess ln wr pts) s = .next ((s.bytesPut ln wr).hcStore ln pts).1 := if_neg h

end
/-- Settles O32: a store is the home's write with its timestamp, and a load its fetch with a lease. -/
theorem hcAccessesMoveTimestamps : Obligations.HcAccessesMoveTimestamps := by
  unfold Obligations.HcAccessesMoveTimestamps
  refine fun s line pts hline => ⟨fun wr hwr => ?_, ?_⟩
  · refine ⟨_, exec_hcHomeAccess_store hwr pts, ?_, ?_, fun a ha => ?_⟩
    · rw [hcStore_hcLine _ hline, bytesPut_hcLine]
      rfl
    · rw [hcStore_hcLine _ hline]
    · rw [State.byteAt, State.hcStore_mem]
      exact bytesPut_others s wr ha
  · obtain ⟨least, most⟩ := leaseUnits_range s
    refine ⟨_, s.leaseUnits, exec_hcHomeAccess_load pts, least, most, ?_, ?_, fun a => ?_⟩
    · rw [hcFetch_hcLine s hline]
    · rw [hcFetch_hcLine s hline]
      rfl
    · rw [State.byteAt, State.hcFetch_mem, State.byteAt]

end Sys2Proof.Machine
end

section
/-!
SUPPORT. The answer of a translation: what makes it XLAT, ECC or PROT, and the part of the address that it keeps (R13, R29, R244, R249,
R250).
-/
namespace Sys2Proof.Machine
section

variable {s : State} {c pte lvl pa : Nat} {va : Word} {n : Need} {atU ms : Bool} {cls : BitVec 2}

/-- An address of more than 48 bits has no translation. -/
theorem translate_above (h : 2 ^ 48 ≤ va.toNat) : s.translate c va n atU = .bad Cause.xlat := by
  have high : bits va.toNat 48 16 ≠ 0 := by
    have := va.isLt
    unfold bits
    omega
  unfold State.translate
  dsimp only
  rw [if_pos high]

/-- A package-local address: neither above 48 bits nor in the domain space. -/
theorem local_bits (h : va.toNat < 2 ^ 47) : bits va.toNat 48 16 = 0 ∧ va.toNat.testBit 47 = false :=
  ⟨by unfold bits; omega, Nat.testBit_lt_two_pow h⟩

theorem translate_of_noLeaf (h : va.toNat < 2 ^ 47) (hl : s.leafOf c (s.coreVf c) va.toNat = none) :
    s.translate c va n atU = .bad (s.walkCause (s.rootOf (s.coreVf c)) va.toNat) := by
  obtain ⟨low, near⟩ := local_bits h
  unfold State.translate
  dsimp only
  rw [if_neg (not_not.2 low), near, if_neg Bool.false_ne_true, hl]

/-- What a package-local address's leaf gives: PROT where it does not allow the access (R250), the domain space or the host port through a
forwarding leaf (R251), else its page. -/
theorem translate_of_leaf (h : va.toNat < 2 ^ 47) (hl : s.leafOf c (s.coreVf c) va.toNat = some (pte, lvl)) :
    s.translate c va n atU =
      if leafAllows pte n atU = false ∨ (bits pte 2 2 = 2 ∧ bits pte 14 5 ≠ c) then .bad Cause.prot
      else if bits pte 2 2 = 3 then
        (if pte.testBit 57 then .ok (.phys (leafPa pte lvl va.toNat) 3 true)
        else s.domainTr c (bits pte 58 6) (leafPa pte lvl va.toNat % 2 ^ 41) n atU)
      else if paOk (s.pdk (s.coreBlk c)) (leafPa pte lvl va.toNat) then
        .ok (.phys (leafPa pte lvl va.toNat) (BitVec.ofNat 2 (bits pte 2 2)) (pte.testBit 9))
      else .bad Cause.prot := by
  obtain ⟨low, near⟩ := local_bits h
  unfold State.translate
  dsimp only
  rw [if_neg (not_not.2 low), near, if_neg Bool.false_ne_true, hl]

/-- A leaf that lacks the right, or that is not for U, allows nothing (R250). -/
theorem leafAllows_denied (h : (n = .read ∧ pte.testBit 5 = false) ∨ (n = .write ∧ pte.testBit 6 = false) ∨
    (n = .exec ∧ pte.testBit 7 = false) ∨ (atU = true ∧ pte.testBit 8 = false)) : leafAllows pte n atU = false := by
  unfold leafAllows
  rcases h with ⟨rfl, h⟩ | ⟨rfl, h⟩ | ⟨rfl, h⟩ | ⟨rfl, h⟩
  · rw [h, Bool.false_and]
  · rw [h, Bool.false_and]
  · rw [h, Bool.false_and]
  · rw [h, Bool.not_true, Bool.or_self, Bool.and_false]

/-! ### The place in the page (R249) -/

/-- The smallest page is 512 KiB, so that a leaf keeps the low 19 bits of an address. -/
theorem leafPa_low (pte lvl a : Nat) : leafPa pte lvl a % 2 ^ 19 = a % 2 ^ 19 := by
  have page : 19 ≤ pageLog lvl := by
    unfold pageLog
    split
    · decide
    · split <;> decide
  rw [leafPa, Nat.add_comm, Nat.add_mul_mod_self_right, Nat.mod_mod_of_dvd _ (Nat.pow_dvd_pow 2 page)]

/-- An offset of the domain space keeps the low bits of the address that a forwarding leaf gives. -/
theorem domainOffset_low (pte lvl a : Nat) : leafPa pte lvl a % 2 ^ 41 % 2 ^ 19 = a % 2 ^ 19 := by
  rw [Nat.mod_mod_of_dvd _ (Nat.pow_dvd_pow 2 (by decide)), leafPa_low]

/-- The place that a domain offset has in this package, through as many leaves as it takes, keeps its low bits. -/
theorem domainPlace_low {fuel blk off : Nat} (h : s.domainPlace fuel blk off n atU = .ok (.phys pa cls ms)) (hc : cls ≠ 3) :
    pa % 2 ^ 19 = off % 2 ^ 19 := by
  induction fuel generalizing blk off with
  | zero => cases h
  | succ f ih =>
    unfold State.domainPlace at h
    dsimp only at h
    split at h
    · cases h
    · next pte lvl _ =>
      split_ifs at h
      · cases h
        exact absurd rfl hc
      · exact (ih h).trans (domainOffset_low pte lvl off)
      · cases h
      · cases h
        exact leafPa_low pte lvl off

theorem domainTr_low {pkg off : Nat} (h : s.domainTr c pkg off n atU = .ok (.phys pa cls ms)) (hc : cls ≠ 3) :
    pa % 2 ^ 19 = off % 2 ^ 19 := by
  unfold State.domainTr at h
  split at h
  · exact domainPlace_low h hc
  · cases h

theorem translate_low (hv : va.toNat < 2 ^ 47) (h : s.translate c va n atU = .ok (.phys pa cls ms)) (hc : cls ≠ 3) :
    pa % 2 ^ 19 = va.toNat % 2 ^ 19 := by
  cases hl : s.leafOf c (s.coreVf c) va.toNat with
  | none =>
    rw [translate_of_noLeaf hv hl] at h
    cases h
  | some leaf =>
    obtain ⟨pte, lvl⟩ := leaf
    rw [translate_of_leaf hv hl] at h
    split_ifs at h
    · cases h
      exact absurd rfl hc
    · exact (domainTr_low h hc).trans (domainOffset_low pte lvl va.toNat)
    · cases h
      exact leafPa_low pte lvl va.toNat

end
/-- Settles O33, by the leaf of the address. That an uncorrectable entry of the walk answers ECC is log 119's reading of R244. -/
theorem translationFaults : Obligations.TranslationFaults := by
  unfold Obligations.TranslationFaults
  refine fun s c va n atU => ⟨translate_above, fun hv hl => ?_, fun pte lvl hv hl hbad => ?_, fun pa cls ms hv h hc => translate_low hv h hc⟩
  · rw [translate_of_noLeaf hv hl]
    rfl
  · have denied : leafAllows pte n atU = false ∨ (bits pte 2 2 = 2 ∧ bits pte 14 5 ≠ c) := by
      rcases hbad with h | h | h | h | h
      · exact .inl (leafAllows_denied (.inl h))
      · exact .inl (leafAllows_denied (.inr (.inl h)))
      · exact .inl (leafAllows_denied (.inr (.inr (.inl h))))
      · exact .inl (leafAllows_denied (.inr (.inr (.inr h))))
      · exact .inr h
    rw [translate_of_leaf hv hl, if_pos denied]

end Sys2Proof.Machine
end

section
/-!
SUPPORT. Block words: what they ask of the host port, the operation that they begin, and its end (R113, R241, R243, R416).
-/
namespace Sys2Proof.Machine

/-! ### An index that is written twice -/

theorem Map.erase_erase {α : Type} (m : Map α) (k : Nat) : Map.erase (Map.erase m k) k = Map.erase m k := by
  induction m with
  | nil => rfl
  | cons p r ih =>
    obtain ⟨j, v⟩ := p
    by_cases h : j = k
    · simp [Map.erase, h, ih]
    · simp [Map.erase, h, ih]

theorem Map.erase_insert_self {α : Type} (m : Map α) (k : Nat) (v : α) : Map.erase (Map.insert m k v) k = Map.erase m k := by
  induction m with
  | nil => simp [Map.insert, Map.erase]
  | cons p r ih =>
    obtain ⟨j, u⟩ := p
    by_cases h : k < j
    · simp [Map.insert, h, Map.erase]
    · by_cases hj : j = k
      · simp [Map.insert, Map.erase, hj, ih]
      · simp [Map.insert, h, Map.erase, hj, ih]

/-- Of two writes of an index the later one stands. -/
theorem Map.set_set {α : Type} [DecidableEq α] (d : α) (m : Map α) (k : Nat) (v w : α) :
    Map.set d (Map.set d m k v) k w = Map.set d m k w := by
  have erased : Map.erase (Map.set d m k v) k = Map.erase m k := by
    unfold Map.set
    split
    · exact Map.erase_erase ..
    · rw [Map.erase_insert_self, Map.erase_erase]
  rw [Map.set, erased, ← Map.set]

theorem State.updCore_updCore (s : State) (c : Nat) (f g : Core → Core) :
    (s.updCore c f).updCore c g = s.updCore c (fun k => g (f k)) := by
  rw [State.updCore, State.core_updCore_self]
  unfold State.updCore State.setCore
  dsimp only
  rw [Map.set_set]

section

variable {s t : State} {c x n pa info : Nat} {k : Tk} {i : Instr} {d a : Reg} {va : Word} {cls : BitVec 2} {ms wb : Bool} {r : Res}

/-! ### Words that ask the host port first (R241, R416) -/

theorem settle_again {w : Wait} (h : NoNest i (s.ctx c x)) :
    settle s c x i k (.again t w) = (t.unpop c x (waitFifos k x)).holdAt c x k w 0 := by
  unfold settle
  simp only [h.eq_false]

/-- The request for one doubleword of this package, or behind the host port, waits at the core's port. -/
theorem sendWait_block (s : State) (c x : Nat) (va : Word) (pa : Nat) (cls : BitVec 2) (ms : Bool) :
    ∃ pts, s.sendWait c x (.block va (.phys pa cls ms)) = { s with points := pts } := ⟨_, rfl⟩

theorem holdAt_block (s : State) (c x : Nat) (k : Tk) (va : Word) (p : Place) (b : Nat) :
    ((s.holdAt c x k (.block va p) b).ctx c x).wait = some (.block va p) ∧
      ((s.holdAt c x k (.block va p) b).ctx c x).pc = (s.ctx c x).pc := by
  unfold State.holdAt
  dsimp only [Wait.ringKey]
  rw [State.ctx_updCtx_self]
  exact ⟨rfl, rfl⟩

/-- A word that asks for a doubleword waits for it, at its own address. -/
theorem control_asks {body : Nat → Nat → State → Res} (h : Issues 0 i k s)
    (hb : body s.cur.1 s.cur.2 (s.issued k) = .again ((s.issued k).sendWait s.cur.1 s.cur.2 (.block va (.phys pa cls ms)))
      (.block va (.phys pa cls ms))) :
    ∃ t, control i k s body = .next t ∧ t.now.wait = some (.block va (.phys pa cls ms)) ∧ t.now.pc = s.now.pc := by
  obtain ⟨pts, hpts⟩ := sendWait_block (s.issued k) s.cur.1 s.cur.2 va pa cls ms
  have cur : (({ s.issued k with points := pts } : State).unpop s.cur.1 s.cur.2 (waitFifos k s.cur.2)).cur = s.cur :=
    (CtxFrame.unpop _ s.cur.1 s.cur.2 s.cur.2 _).cur_eq.trans (issued_cur s k)
  have ctx : (({ s.issued k with points := pts } : State).unpop s.cur.1 s.cur.2 (waitFifos k s.cur.2)).ctx s.cur.1 s.cur.2 = s.now :=
    (State.unpop_ctx ..).trans (issued_ctx s k s.cur.1 s.cur.2)
  refine ⟨_, by rw [control, controlAt_issues h, hb, settle_again h.noNest, hpts], ?_⟩
  rw [State.now, (CtxFrame.holdAt ..).cur_eq, cur]
  obtain ⟨wait, pc⟩ := holdAt_block (({ s.issued k with points := pts } : State).unpop s.cur.1 s.cur.2 (waitFifos k s.cur.2)) s.cur.1 s.cur.2 k
    va (.phys pa cls ms) 0
  exact ⟨wait, pc.trans (congrArg Ctx.pc ctx)⟩

theorem hostProbe_asks (hh : hostPlace pa cls = true) (hg : Map.get none (s.ctx c x).gotten va.toNat = none)
    (hr : s.ready c x (pa / 8 * 8) 8 cls ms = false) :
    hostProbe c x va pa cls ms s r =
      .again (s.sendWait c x (.block va (.phys (pa / 8 * 8) cls ms))) (.block va (.phys (pa / 8 * 8) cls ms)) := by
  unfold hostProbe
  rw [hh, hg, hr]
  rfl

theorem hostProbe_known (h : hostPlace pa cls = false ∨ (Map.get none (s.ctx c x).gotten va.toNat).isSome = true) :
    hostProbe c x va pa cls ms s r = r := if_pos (h.elim .inl fun g => .inr (.inl g))

/-! ### The operation that a word begins (R113, R241) -/

theorem beginBlk_eq (s : State) (c slot code info : Nat) (wb : Bool) : s.beginBlk c slot code info wb =
    s.updCore c (fun k => { k with
      pfull := k.pfull &&& ~~~ (BitVec.ofNat 16 (2 ^ slot)), blkOps := k.blkOps ++ [⟨slot, info, code, wb⟩] }) :=
  State.updCore_updCore s c (fun k => k.emptySlot slot) (fun k => { k with blkOps := k.blkOps ++ [⟨slot, info, code, wb⟩] })

section
variable (ht : s.translate s.cur.1 (s.now.rd a) .read (s.now.pl = 0) = .ok (.phys pa cls ms))
  (hl : s.lotStep s.cur.1 (s.now.rd a) cls ms ≠ .prot)
include ht hl

/-- The answer of a block word at a place of this package, or behind the host port. -/
theorem blkBody_probes {evict : Bool} : ∃ r, blkBody d a evict s.cur.1 s.cur.2 (s.issued k) =
      hostProbe s.cur.1 s.cur.2 (s.now.rd a) pa cls ms (s.issued k) r ∧
    (s.now.stores = [] → (s.core s.cur.1).line (pa / 128) = none → r = .done ((s.issued k).beginBlk s.cur.1 d.toNat codeDone 0 true)) := by
  unfold blkBody
  dsimp only
  rw [issued_ctx, ← State.now, (issued_sameSpace s k).translate, ht]
  dsimp only
  rw [(issued_frame s k).lotStep, if_neg hl]
  refine ⟨_, rfl, fun hst hline => ?_⟩
  rw [State.drainStores_none (by rw [issued_ctx]; exact hst), (issued_frame s k).line, hline]

theorem execDblk_probes (k : Tk) : ∃ body, execDblk k a s = control (.dblk k a) k s body ∧
    ∃ r, body s.cur.1 s.cur.2 (s.issued k) = hostProbe s.cur.1 s.cur.2 (s.now.rd a) pa cls ms (s.issued k) r ∧
      (s.now.stores = [] → (s.core s.cur.1).line (pa / 128) = none → r = .done (s.issued k)) := by
  refine ⟨_, rfl, ?_⟩
  dsimp only
  rw [issued_ctx, ← State.now, (issued_sameSpace s k).translate, ht]
  dsimp only
  rw [(issued_frame s k).lotStep, if_neg hl]
  refine ⟨_, rfl, fun hst hline => ?_⟩
  rw [State.drainStores_none (by rw [issued_ctx]; exact hst), (issued_frame s k).line, hline]

theorem execLblk_probes {n : BitVec 8} (k : Tk) (ha : (s.now.rd a).toNat % 128 = 0)
    (hpage : (s.now.rd a).toNat / 2 ^ 19 = ((s.now.rd a).toNat + 128 * n.toNat - 1) / 2 ^ 19) :
    ∃ body, execLblk k d a n s = control (.lblk k d a n) k s body ∧
    ∃ r, body s.cur.1 s.cur.2 (s.issued k) = hostProbe s.cur.1 s.cur.2 (s.now.rd a) pa cls ms (s.issued k) r ∧
      (ms = true → r = .done ((s.issued k).beginBlk s.cur.1 d.toNat codeDone n.toNat false)) := by
  have good : ¬ (aligned (s.now.rd a) 128 = false ∨ (s.now.rd a).toNat / 2 ^ 19 ≠ ((s.now.rd a).toNat + 128 * n.toNat - 1) / 2 ^ 19) :=
    not_or.2 ⟨by simp [aligned, ha], not_not.2 hpage⟩
  refine ⟨_, rfl, ?_⟩
  dsimp only
  rw [issued_ctx, ← State.now, if_neg good, (issued_sameSpace s k).translate, ht]
  dsimp only
  rw [(issued_frame s k).lotStep, if_neg hl]
  exact ⟨_, rfl, fun hms => if_pos (.inl hms)⟩

end

/-! ### The end of an operation (R113, R241) -/

/-- The oldest operation ends: its slot takes its completion status. -/
theorem endBlk_first {op : BlkOp} {ops : List BlkOp} (h : (s.core c).blkOps = op :: ops) : s.endBlk c 0 op.wb =
    (s.updCore c (fun k => { k with blkOps := ops })).engineFill c op.slot (completion op.code op.info) := by
  have first : ((op :: ops).filter (fun b => b.wb = op.wb))[0]? = some op := by
    rw [List.filter_cons_of_pos (p := fun b : BlkOp => decide (b.wb = op.wb)) (decide_eq_true rfl)]
    rfl
  have rest : (s.core c).blkOps.erase op = ops := by rw [h, List.erase_cons_head]
  unfold State.endBlk
  rw [h, first]
  show (s.setCore c { s.core c with blkOps := (s.core c).blkOps.erase op }).engineFill c op.slot _ = _
  rw [rest]
  rfl

theorem Core.fillSlot_others (k : Core) {m : Nat} (v : Word) (h : m ≠ n) : (k.fillSlot n v).slotFull m = k.slotFull m := by
  unfold Core.slotFull Core.fillSlot
  dsimp only
  rw [BitVec.getLsbD_or, BitVec.getLsbD_ofNat, Nat.testBit_two_pow_of_ne h.symm, Bool.and_false, Bool.or_false]

theorem Core.slotFull_fillSlot (k : Core) {n : Nat} (hn : n < 16) (v : Word) : (k.fillSlot n v).slotFull n = true :=
  (k.filledIn_fillSlot hn v).1

theorem Core.slotVal_fillSlot (k : Core) (n : Nat) (v : Word) : (k.fillSlot n v).slotVal n = v := Map.get_set_self ..

theorem engineFill_core (s : State) (c n : Nat) (v : Word) :
    (s.engineFill c n v).core c = { (s.core c).fillSlot n v with filledAt := some s.cc } := by
  rw [State.engineFill, State.core_updCore_self, State.fillSlot, State.core_updCore_self]

theorem exec_blockComplete (s : State) (c : Nat) (wb : Bool) :
    exec (if wb then .blockWritebackComplete c 0 else .blockFillComplete c 0) s = .next (s.endBlk c 0 wb) := by
  cases wb <;> rfl

/-- The core after its oldest operation has ended. -/
theorem endBlk_core {op : BlkOp} {ops : List BlkOp} (h : (s.core c).blkOps = op :: ops) : (s.endBlk c 0 op.wb).core c =
    { ({ s.core c with blkOps := ops } : Core).fillSlot op.slot (completion op.code op.info) with filledAt := some s.cc } := by
  rw [endBlk_first h, engineFill_core, State.core_updCore_self]
  rfl

end
/-- Settles O34: each word asks the host port or begins its operation, and the oldest operation's end fills its slot. -/
theorem blockWordsFillTheirSlot : Obligations.BlockWordsFillTheirSlot := by
  unfold Obligations.BlockWordsFillTheirSlot
  refine ⟨fun s k d a n pa cls ms => ?_, fun s c op ops h => ?_⟩
  · intro b begins ht hst hl
    have begun (t : State) (info : Nat) (wb : Bool) : begins t info wb = t.beginBlk s.cur.1 d.toNat codeDone info wb :=
      (beginBlk_eq ..).symm
    have begunCur (info : Nat) (wb : Bool) : ((s.issued k).beginBlk s.cur.1 d.toNat codeDone info wb).cur = s.cur := issued_cur s k
    refine ⟨fun hh hg hr i hi h => ?_, fun known => ?_⟩
    · have asks (r : Res) := hostProbe_asks (s := s.issued k) (c := s.cur.1) (x := s.cur.2) (va := b) (r := r) hh
        (by rw [issued_ctx]; exact hg) ((issued_ready s k).trans hr)
      rcases hi with ⟨rfl, ha, hpage⟩ | rfl | rfl | rfl
      · obtain ⟨body, he, r, hb, -⟩ := execLblk_probes (d := d) ht hl k ha hpage
        obtain ⟨t, ht', hw⟩ := control_asks h (hb.trans (asks r))
        exact ⟨t, he.trans ht', hw⟩
      · obtain ⟨r, hb, -⟩ := blkBody_probes (k := k) (d := d) (evict := false) ht hl
        exact control_asks h (hb.trans (asks r))
      · obtain ⟨r, hb, -⟩ := blkBody_probes (k := k) (d := d) (evict := true) ht hl
        exact control_asks h (hb.trans (asks r))
      · obtain ⟨body, he, r, hb, -⟩ := execDblk_probes ht hl k
        obtain ⟨t, ht', hw⟩ := control_asks h (hb.trans (asks r))
        exact ⟨t, he.trans ht', hw⟩
    · have answers (r : Res) := hostProbe_known (s := s.issued k) (c := s.cur.1) (x := s.cur.2) (va := b) (ms := ms) (r := r)
        (by rw [issued_ctx]; exact known)
      refine ⟨fun h ha hpage hms => ?_, fun h hline => ?_, fun h hline => ?_, fun h hline => ?_⟩
      · obtain ⟨body, he, r, hb, hr⟩ := execLblk_probes (d := d) ht hl k ha hpage
        rw [begun]
        exact he.trans (control_finished h (hb.trans ((answers r).trans (hr hms))) (begunCur ..))
      · obtain ⟨r, hb, hr⟩ := blkBody_probes (k := k) (d := d) (evict := false) ht hl
        rw [begun]
        exact control_finished h (hb.trans ((answers r).trans (hr hst hline))) (begunCur ..)
      · obtain ⟨r, hb, hr⟩ := blkBody_probes (k := k) (d := d) (evict := true) ht hl
        rw [begun]
        exact control_finished h (hb.trans ((answers r).trans (hr hst hline))) (begunCur ..)
      · obtain ⟨body, he, r, hb, hr⟩ := execDblk_probes ht hl k
        exact he.trans (control_finished h (hb.trans ((answers r).trans (hr hst hline))) (issued_cur s k))
  · have core := endBlk_core h
    refine ⟨_, exec_blockComplete s c op.wb, by rw [core]; rfl, ?_, fun hslot => ?_, fun a => ?_, fun m hm hne => ?_⟩
    · rw [core]
      exact Core.slotVal_fillSlot ..
    · rw [core]
      exact Core.slotFull_fillSlot _ hslot (completion op.code op.info)
    · rw [endBlk_first h]
      rfl
    · rw [core]
      exact Core.fillSlot_others _ (completion op.code op.info) hne

end Sys2Proof.Machine
end

section
/-!
SUPPORT. Stash words of a window that has nothing to write back (R236, R237).
-/
namespace Sys2Proof.Machine
section

variable {s t : State} {c x w : Nat} {k : Tk} {d a b : Reg} {wn : Window}

theorem CtxFrame.window (h : CtxFrame s t c x) (w : Nat) : (t.core c).window w = (s.core c).window w := by
  rw [Core.window, h.unit, Core.window]

theorem CtxFrame.away (h : CtxFrame s t c x) : (t.core c).away = (s.core c).away := by rw [h.unit]

theorem CtxFrame.meetsSet (h : CtxFrame s t c x) (p n : Nat) : (t.core c).meetsSet p n = (s.core c).meetsSet p n := by
  rw [Core.meetsSet, h.unit, Core.meetsSet]

/-- No line of a window is dirty. -/
def Window.Clean (wn : Window) : Prop := ∀ i l, (i, some l) ∈ wn.lines → l.dirty = false

theorem Window.Clean.dirtyLines (h : wn.Clean) : wn.dirtyLines = [] := by
  refine List.filterMap_eq_nil_iff.2 fun e he => ?_
  obtain ⟨i, _ | l⟩ := e
  · rfl
  · dsimp only
    rw [h i l he, if_neg Bool.false_ne_true]

/-- A clean window has nothing to write back. -/
theorem flushWindow_clean (h : ((s.core c).window w).Clean) (atU : Bool) : s.flushWindow c w atU = (s, none) := by
  unfold State.flushWindow
  dsimp only
  rw [h.dirtyLines]
  split <;> rfl

/-- A word that writes a clean window back goes on at once, where nothing of the core is on its way. -/
theorem farDone_clean (hw : ((s.core c).window w).Clean) (ha : (s.core c).away = []) (atU : Bool) (f : State → Res) :
    farDone c (s.flushWindow c w atU) f = f s := by
  rw [flushWindow_clean hw, farDone, if_pos ha]

theorem window_setWindow_self (k : Core) (w : Nat) (wn : Window) : (k.setWindow w wn).window w = wn := Map.get_set_self ..

theorem window_dropWindow_self (k : Core) (w : Nat) : (k.dropWindow w).window w = {} :=
  window_setWindow_self k w {}

/-- A spad word whose fields are good passes the checks of `smap` (R44, R236). -/
theorem spadCheck_smap {v : Word} (h7 : v.toNat / 2 ^ 25 % 2 ^ 7 = 0) (hopt : v.toNat / 2 ^ 50 = 0) (ha : v.toNat % 2 ^ 25 % 128 = 0)
    (hend : v.toNat % 2 ^ 25 + 128 * (v.toNat / 2 ^ 32 % 2 ^ 16) ≤ 2 ^ 25) : spadCheck v 3 = none := by
  have opts : wbits v 48 16 &&& (0xffff - 3) = 0 := by
    have low : wbits v 48 16 < 4 := by
      unfold wbits bits
      omega
    generalize wbits v 48 16 = o at *
    interval_cases o <;> rfl
  have spare : wbits v 25 7 = 0 := h7
  have line : wbits v 0 25 % 128 = 0 := by
    unfold wbits bits
    omega
  have room : wbits v 0 25 + 128 * wbits v 32 16 ≤ 2 ^ 25 := by
    unfold wbits bits
    omega
  unfold spadCheck
  dsimp only
  rw [if_neg (not_or.2 ⟨not_not.2 spare, not_not.2 opts⟩), if_neg (not_or.2 ⟨not_not.2 line, Nat.not_lt.2 room⟩)]

/-- The window that `smap` maps (R236). -/
def mapped (v g : Word) : Window :=
  { v := true, nf := v.getLsbD 48, ro := v.getLsbD 49, addr := wbits v 0 25, len := wbits v 32 16, gb := g, lines := [] }

section
variable (hw : ((s.core s.cur.1).window d.toNat).Clean) (ha : (s.core s.cur.1).away = [])
include hw ha

/-- At issue too the window is clean and nothing is on its way. -/
theorem farDone_issued (k : Tk) (atU : Bool) (f : State → Res) :
    farDone s.cur.1 ((s.issued k).flushWindow s.cur.1 d.toNat atU) f = f (s.issued k) :=
  farDone_clean (by rw [(issued_frame s k).window]; exact hw) ((issued_frame s k).away.trans ha) atU f

theorem execSmap_maps (h : Issues 0 (.smap k d a b) k s) (hs : spadCheck (s.now.rd a) 3 = none)
    (hg : (s.now.rd b).toNat % 128 = 0) (hend : (s.now.rd b).toNat + 128 * wbits (s.now.rd a) 32 16 ≤ 2 ^ 48)
    (hlen : 0 < wbits (s.now.rd a) 32 16)
    (hset : (s.core s.cur.1).meetsSet (s.now.rd b).toNat (128 * wbits (s.now.rd a) 32 16) = false) :
    ∃ t, execSmap k d a b s = .next t ∧ (t.core s.cur.1).window d.toNat = mapped (s.now.rd a) (s.now.rd b) := by
  have body : execSmap k d a b s = .next (finishWord ((s.issued k).updCore s.cur.1 (fun k =>
      (k.dropWindow d.toNat).setWindow d.toNat (mapped (s.now.rd a) (s.now.rd b)))) s.cur.1 s.cur.2 k) := by
    refine control_completes h ?_
    dsimp only
    rw [issued_ctx, ← State.now, hs]
    dsimp only
    rw [if_neg (by simp only [aligned, hg]; simpa using hend), (issued_frame s k).meetsSet, hset, if_neg Bool.false_ne_true,
      farDone_issued hw ha]
    simp only [if_neg hlen.ne']
    rfl
  refine ⟨_, body, ?_⟩
  rw [(CtxFrame.finishWord ..).window, State.core_updCore_self, window_setWindow_self]

theorem execSunmap_unmaps (h : Issues 0 (.sunmap k d) k s) :
    ∃ t, execSunmap k d s = .next t ∧ (t.core s.cur.1).window d.toNat = {} ∧ ∀ a, t.byteAt a = s.byteAt a := by
  have body : execSunmap k d s = .next (finishWord ((s.issued k).updCore s.cur.1 (fun k => k.dropWindow d.toNat)) s.cur.1 s.cur.2 k) :=
    control_completes h (farDone_issued hw ha k ..)
  refine ⟨_, body, ?_, fun a => ?_⟩
  · rw [(CtxFrame.finishWord ..).window, State.core_updCore_self, window_dropWindow_self]
  · rw [finishWord_byteAt]
    exact issued_byteAt s k a

theorem execSflush_keeps (h : Issues 0 (.sflush k d) k s) : execSflush k d s = .next ((s.issued k).finished k) :=
  control_finished h (farDone_issued hw ha k ..) (issued_cur s k)

end

/-- The dirty lines of a window are those that a test for dirty lines counts. -/
theorem Window.dirtyLines_length (wn : Window) {p : Nat × Option WinLine → Bool} (some_ : ∀ i l, p (i, some l) = l.dirty)
    (none_ : ∀ i, p (i, none) = false) : wn.dirtyLines.length = (wn.lines.filter p).length := by
  unfold Window.dirtyLines
  induction wn.lines with
  | nil => rfl
  | cons e r ih =>
    obtain ⟨i, _ | l⟩ := e
    · rw [List.filter_cons_of_neg (by rw [none_]; decide)]
      exact ih
    · cases hd : l.dirty
      · rw [List.filter_cons_of_neg (by rw [some_, hd]; decide), List.filterMap_cons_none (by simp [hd]), ih]
      · rw [List.filter_cons_of_pos (by rw [some_, hd]), List.filterMap_cons_some (by simp [hd]; rfl), List.length_cons, List.length_cons, ih]

/-- The status of a mapped window that is not NF (R237). -/
theorem Window.status_mapped (hv : wn.v = true) (hn : wn.nf = false) {p : Nat × Option WinLine → Bool}
    (some_ : ∀ i l, p (i, some l) = l.dirty) (none_ : ∀ i, p (i, none) = false) : wn.status =
    wnat (2 ^ 63 + (if wn.ro then 2 ^ 61 else 0) + (wn.lines.filter p).length * 2 ^ 32 + (wn.lines.filter (fun e => e.2.isSome)).length) := by
  unfold Window.status
  rw [hv, hn, if_neg (by decide), wn.dirtyLines_length some_ none_]
  rfl

theorem execSstat_reads (h : Issues 0 (.sstat k d a) k s) :
    execSstat k d a s = .next (((s.issued k).put d ((s.core s.cur.1).window a.toNat).status).finished k) := by
  refine control_finished h ?_ (issued_cur s k)
  rw [(issued_frame s k).window, State.put, issued_cur]

end
/-- Settles O36, by what each word leaves where the window has nothing to write back and nothing of the core is on its way. -/
theorem stashWordsMapAndUnmap : Obligations.StashWordsMapAndUnmap := by
  unfold Obligations.StashWordsMapAndUnmap
  intro s k d a b
  refine ⟨fun clean away => ⟨fun h h7 hopt ha hend hg hgend hlen hset => ?_, execSunmap_unmaps clean away, execSflush_keeps clean away⟩,
    fun h hv hn => ?_⟩
  · have addr : wbits (s.now.rd a) 0 25 = (s.now.rd a).toNat % 2 ^ 25 := by rw [wbits, bits, Nat.pow_zero, Nat.div_one]
    obtain ⟨t, ht, window⟩ := execSmap_maps clean away h (spadCheck_smap h7 hopt ha hend) hg hgend hlen hset
    refine ⟨t, ht, window.trans ?_⟩
    rw [mapped, addr]
    rfl
  · exact (execSstat_reads h).trans (congrArg (fun v => Host.Outcome.next (((s.issued k).put d v).finished k))
      (Window.status_mapped hv hn (p := fun e => match e.2 with | some l => l.dirty | none => false)
        (fun _ _ => rfl) (fun _ => rfl)))

end Sys2Proof.Machine
end

section
/-!
SUPPORT. Atomic operations: the new value of each, and what one does at the home of its line (R247, R248).
-/
namespace Sys2Proof.Machine
section

variable {s t u : State} {c x op w pa v cmp old : Nat} {k : Tk} {i : Instr} {d a b : Reg} {z : BitVec 1} {ea : Word} {cls : BitVec 2} {ms : Bool}

/-! ### The new value (R46, R248) -/

theorem sInt_eq_toInt_ofNat (n x : Nat) : sInt n x = (BitVec.ofNat n x).toInt := by
  have half (hn : 0 < n) : 2 ^ n = 2 * 2 ^ (n - 1) := by
    rw [← Nat.pow_succ', Nat.succ_eq_add_one, Nat.sub_add_cancel hn]
  rw [sInt, BitVec.toInt_eq_toNat_cond, BitVec.toNat_ofNat]
  rcases Nat.eq_zero_or_pos n with rfl | hn
  · simp [Nat.mod_one]
  · have := half hn
    push_cast
    split <;> split <;> omega

/-- The low bits of an operand, as the operation takes them. -/
theorem ofNat_mod_pow (n y : Nat) : BitVec.ofNat n (y % 2 ^ n) = BitVec.ofNat n y := by
  refine BitVec.eq_of_toNat_eq ?_
  rw [BitVec.toNat_ofNat, BitVec.toNat_ofNat, Nat.mod_mod]

section
variable {n y : Nat}

/-- The smaller of two patterns as signed numbers, whichever of two equal ones is taken. -/
theorem signedMin_toNat (x y : BitVec n) : (if x.toInt < y.toInt then x.toNat else y.toNat) = (if x.toInt ≤ y.toInt then x else y).toNat := by
  rcases lt_trichotomy x.toInt y.toInt with h | h | h
  · rw [if_pos h, if_pos h.le]
  · rw [BitVec.toInt_inj.1 h, ite_self, ite_self]
  · rw [if_neg (not_lt.2 h.le), if_neg (not_le.2 h)]

theorem signedMax_toNat (x y : BitVec n) : (if x.toInt < y.toInt then y.toNat else x.toNat) = (if x.toInt ≤ y.toInt then y else x).toNat := by
  rcases lt_trichotomy x.toInt y.toInt with h | h | h
  · rw [if_pos h, if_pos h.le]
  · rw [BitVec.toInt_inj.1 h, ite_self, ite_self]
  · rw [if_neg (not_lt.2 h.le), if_neg (not_le.2 h)]

end

section
variable {y : Nat} (hold : old < 2 ^ (8 * w))
include hold

/-- The old value and the operand, as patterns of `w` bytes. -/
theorem amo_operands : (BitVec.ofNat (8 * w) old).toNat = old ∧ (BitVec.ofNat (8 * w) y).toNat = y % 2 ^ (8 * w) ∧
    y % 2 ^ (8 * w) < 2 ^ (8 * w) :=
  ⟨by rw [BitVec.toNat_ofNat, Nat.mod_eq_of_lt hold], BitVec.toNat_ofNat .., Nat.mod_lt _ (Nat.two_pow_pos _)⟩

theorem amoNew_add : amoNew 0 w old (y % 2 ^ (8 * w)) cmp % 2 ^ (8 * w) = (BitVec.ofNat (8 * w) old + BitVec.ofNat (8 * w) y).toNat := by
  obtain ⟨hx, hy, -⟩ := amo_operands (y := y) hold
  rw [BitVec.toNat_add, hx, hy]
  exact Nat.mod_mod ..

theorem amoNew_and : amoNew 1 w old (y % 2 ^ (8 * w)) cmp % 2 ^ (8 * w) = (BitVec.ofNat (8 * w) old &&& BitVec.ofNat (8 * w) y).toNat := by
  obtain ⟨hx, hy, small⟩ := amo_operands (y := y) hold
  rw [BitVec.toNat_and, hx, hy]
  exact Nat.mod_eq_of_lt (Nat.and_lt_two_pow _ small)

theorem amoNew_or : amoNew 2 w old (y % 2 ^ (8 * w)) cmp % 2 ^ (8 * w) = (BitVec.ofNat (8 * w) old ||| BitVec.ofNat (8 * w) y).toNat := by
  obtain ⟨hx, hy, small⟩ := amo_operands (y := y) hold
  rw [BitVec.toNat_or, hx, hy]
  exact Nat.mod_eq_of_lt (Nat.or_lt_two_pow hold small)

theorem amoNew_xor : amoNew 3 w old (y % 2 ^ (8 * w)) cmp % 2 ^ (8 * w) = (BitVec.ofNat (8 * w) old ^^^ BitVec.ofNat (8 * w) y).toNat := by
  obtain ⟨hx, hy, small⟩ := amo_operands (y := y) hold
  rw [BitVec.toNat_xor, hx, hy]
  exact Nat.mod_eq_of_lt (Nat.xor_lt_two_pow hold small)

omit hold in
/-- The signed order of two numbers of `w` bytes is that of their patterns. -/
theorem sInt_lt_iff : sInt (8 * w) old < sInt (8 * w) (y % 2 ^ (8 * w)) ↔
    (BitVec.ofNat (8 * w) old).toInt < (BitVec.ofNat (8 * w) y).toInt := by
  rw [sInt_eq_toInt_ofNat, sInt_eq_toInt_ofNat, ofNat_mod_pow]

theorem amoNew_min : amoNew 4 w old (y % 2 ^ (8 * w)) cmp % 2 ^ (8 * w) =
    (if (BitVec.ofNat (8 * w) old).toInt ≤ (BitVec.ofNat (8 * w) y).toInt then BitVec.ofNat (8 * w) old else BitVec.ofNat (8 * w) y).toNat := by
  obtain ⟨hx, hy, small⟩ := amo_operands (y := y) hold
  show (if sInt (8 * w) old < sInt (8 * w) (y % 2 ^ (8 * w)) then old else y % 2 ^ (8 * w)) % 2 ^ (8 * w) = _
  rw [← signedMin_toNat, hx, hy, Nat.mod_eq_of_lt (by split <;> assumption)]
  simp only [sInt_lt_iff]

theorem amoNew_max : amoNew 5 w old (y % 2 ^ (8 * w)) cmp % 2 ^ (8 * w) =
    (if (BitVec.ofNat (8 * w) old).toInt ≤ (BitVec.ofNat (8 * w) y).toInt then BitVec.ofNat (8 * w) y else BitVec.ofNat (8 * w) old).toNat := by
  obtain ⟨hx, hy, small⟩ := amo_operands (y := y) hold
  show (if sInt (8 * w) old < sInt (8 * w) (y % 2 ^ (8 * w)) then y % 2 ^ (8 * w) else old) % 2 ^ (8 * w) = _
  rw [← signedMax_toNat, hx, hy, Nat.mod_eq_of_lt (by split <;> assumption)]
  simp only [sInt_lt_iff]

theorem amoNew_minu : amoNew 6 w old (y % 2 ^ (8 * w)) cmp % 2 ^ (8 * w) =
    (if (BitVec.ofNat (8 * w) old).toNat ≤ (BitVec.ofNat (8 * w) y).toNat then BitVec.ofNat (8 * w) old else BitVec.ofNat (8 * w) y).toNat := by
  obtain ⟨hx, hy, small⟩ := amo_operands (y := y) hold
  show min old (y % 2 ^ (8 * w)) % 2 ^ (8 * w) = _
  rw [apply_ite BitVec.toNat, hx, hy, Nat.mod_eq_of_lt (by omega), Nat.min_def]

theorem amoNew_maxu : amoNew 7 w old (y % 2 ^ (8 * w)) cmp % 2 ^ (8 * w) =
    (if (BitVec.ofNat (8 * w) old).toNat ≤ (BitVec.ofNat (8 * w) y).toNat then BitVec.ofNat (8 * w) y else BitVec.ofNat (8 * w) old).toNat := by
  obtain ⟨hx, hy, small⟩ := amo_operands (y := y) hold
  show max old (y % 2 ^ (8 * w)) % 2 ^ (8 * w) = _
  rw [apply_ite BitVec.toNat, hx, hy, Nat.mod_eq_of_lt (by omega), Nat.max_def]

omit hold in
theorem amoNew_swap : amoNew 8 w old (y % 2 ^ (8 * w)) cmp % 2 ^ (8 * w) = (BitVec.ofNat (8 * w) y).toNat := by
  rw [BitVec.toNat_ofNat]
  exact Nat.mod_mod ..

omit hold in
theorem amoNew_cas (hit : old = cmp) : amoNew 9 w old (y % 2 ^ (8 * w)) cmp % 2 ^ (8 * w) = y % 2 ^ (8 * w) := by
  show (if old = cmp then y % 2 ^ (8 * w) else old) % 2 ^ (8 * w) = _
  rw [if_pos hit, Nat.mod_mod]

/-- The sum of two binary32 or binary64 patterns, rounded once (R248). -/
theorem amoNew_fadd : amoNew 10 w old (y % 2 ^ (8 * w)) cmp % 2 ^ (8 * w) = (BitVec.ofNat (8 * w)
    (if w = 4 then fmt32.round .rne false ((fmt32.dec (BitVec.ofNat (8 * w) old).toNat).add (fmt32.dec (BitVec.ofNat (8 * w) y).toNat))
      else fmt64.round .rne false ((fmt64.dec (BitVec.ofNat (8 * w) old).toNat).add (fmt64.dec (BitVec.ofNat (8 * w) y).toNat)))).toNat := by
  obtain ⟨hx, hy, -⟩ := amo_operands (y := y) hold
  rw [BitVec.toNat_ofNat, hx, hy]
  rfl

end

/-- The row of `amoOf` names an operation of `amoWord`: with its operands, when it writes, and the new value. -/
theorem exec_amoOf (s : State) {new : Nat → Nat} {writes : Nat → Bool} (h : amoOf i s.now = some (k, d, ea, w, new, writes)) :
    ∃ op a b z, exec i s = amoWord i op k d a b z s ∧ ea = s.now.rd a ∧ w = (if z = 0 then 4 else 8) ∧
      ∀ old, old < 2 ^ (8 * w) → amoWrites op old ((s.now.rd d).toNat % 2 ^ (8 * w)) = writes old ∧
        (writes old = true →
          amoNew op w old ((s.now.rd b).toNat % 2 ^ (8 * w)) ((s.now.rd d).toNat % 2 ^ (8 * w)) % 2 ^ (8 * w) = new old) := by
  unfold amoOf at h
  split at h
  · cases h
    exact ⟨0, _, _, _, rfl, rfl, rfl, fun old ho => ⟨rfl, fun _ => amoNew_add ho⟩⟩
  · cases h
    exact ⟨1, _, _, _, rfl, rfl, rfl, fun old ho => ⟨rfl, fun _ => amoNew_and ho⟩⟩
  · cases h
    exact ⟨2, _, _, _, rfl, rfl, rfl, fun old ho => ⟨rfl, fun _ => amoNew_or ho⟩⟩
  · cases h
    exact ⟨3, _, _, _, rfl, rfl, rfl, fun old ho => ⟨rfl, fun _ => amoNew_xor ho⟩⟩
  · cases h
    exact ⟨4, _, _, _, rfl, rfl, rfl, fun old ho => ⟨rfl, fun _ => amoNew_min ho⟩⟩
  · cases h
    exact ⟨5, _, _, _, rfl, rfl, rfl, fun old ho => ⟨rfl, fun _ => amoNew_max ho⟩⟩
  · cases h
    exact ⟨6, _, _, _, rfl, rfl, rfl, fun old ho => ⟨rfl, fun _ => amoNew_minu ho⟩⟩
  · cases h
    exact ⟨7, _, _, _, rfl, rfl, rfl, fun old ho => ⟨rfl, fun _ => amoNew_maxu ho⟩⟩
  · cases h
    exact ⟨8, _, _, _, rfl, rfl, rfl, fun old ho => ⟨rfl, fun _ => amoNew_swap⟩⟩
  · cases h
    refine ⟨9, _, _, _, rfl, rfl, rfl, fun old ho => ?_⟩
    rw [← Nat.pow_mul 2 8]
    exact ⟨rfl, fun hit => (amoNew_cas (of_decide_eq_true hit)).trans (if_pos hit).symm⟩
  · cases h
    exact ⟨10, _, _, _, rfl, rfl, rfl, fun old ho => ⟨rfl, fun _ => amoNew_fadd ho⟩⟩
  · cases h

/-! ### At the home (R247) -/

theorem sendWait_phys (s : State) (c x : Nat) (slot op : Nat) (ea : Word) (w : Nat) (v cmp : Word) (pa : Nat) (cls : BitVec 2) (ms : Bool) :
    ∃ p, s.sendWait c x (.remoteAmo slot op ea w v cmp (.phys pa cls ms)) = { s with points := p } := ⟨_, rfl⟩

/-- A store of an atomic operation at the home of an HC page: only a copy that the L1 has takes the new bytes. -/
theorem homeStore_hcAmo (s : State) (c x pa w v : Nat) (ms : Bool) : ∃ wts, s.homeStore c x pa w v 0 ms false =
    if ms then s.hcStored c x pa w v else (s.hcStored c x pa w v).hcCopy c (pa / 128) (wordMask pa w) wts := by
  unfold State.homeStore
  dsimp only
  rw [if_neg (not_not.2 rfl)]
  simp only [Bool.false_and, Bool.false_eq_true, if_false]
  exact ⟨_, rfl⟩

/-- A write at the home gives the same bytes, whatever else of the state it finds. -/
theorem homeWrite_byteAt_congr (h : ∀ a, t.byteAt a = s.byteAt a) (a : Nat) :
    (t.homeWrite pa w v).byteAt a = (s.homeWrite pa w v).byteAt a := by
  by_cases inside : a < pa ∨ pa + w ≤ a
  · rw [State.byteAt_homeWrite_ne t inside, State.byteAt_homeWrite_ne s inside, h]
  · obtain ⟨i, rfl⟩ := Nat.exists_eq_add_of_le (Nat.not_lt.1 (fun low => inside (.inl low)))
    have inBytes : i < w := by omega
    rw [State.byteAt_homeWrite t inBytes, State.byteAt_homeWrite s inBytes]

/-- A context of which only the timestamp moves, while memory becomes that of `m`. -/
def WritesAtHome (s t m : State) (c x : Nat) : Prop := OnlyPts s t c x ∧ ∀ a, t.byteAt a = m.byteAt a

theorem OnlyPts.rd (h : OnlyPts s t c x) (r : Reg) : (t.ctx c x).rd r = (s.ctx c x).rd r := by
  obtain ⟨p, hp⟩ := h.ctx
  rw [hp]
  rfl

theorem homeStore_writesAtHome (s : State) (c x pa w v : Nat) (ms : Bool) :
    WritesAtHome s (s.homeStore c x pa w v 0 ms false) (s.homeWrite pa w v) c x := by
  obtain ⟨wts, he⟩ := homeStore_hcAmo s c x pa w v ms
  rw [he]
  split
  · exact ⟨hcStored_onlyPts .., hcStored_byteAt s⟩
  · refine ⟨(hcStored_onlyPts ..).trans (hcCopy_onlyPts ..), fun a => ?_⟩
    rw [State.byteAt, State.hcCopy_mem]
    exact hcStored_byteAt s a

/-- The state at the home after an operation: the new value is written, or nothing. -/
def State.amoWritten (s : State) (op pa w v cmp : Nat) : State :=
  if amoWrites op (s.homeRead pa w) cmp then s.homeWrite pa w (amoNew op w (s.homeRead pa w) v cmp) else s

section
variable (hp : s.linePoison (pa / 128) = 0)
include hp

theorem noPoison_seen : ¬ (s.linePoison (pa / 128) &&& wordMask pa w) ≠ 0 := by
  rw [hp]
  exact not_not.2 BitVec.zero_and

omit hp in
/-- Nothing is written back first, where no copy of the core can be newer than the home. -/
theorem noWriteBack (h : ¬ ((cls = 1 ∨ cls = 2) ∧ ms = false)) :
    (if (cls = 1 ∨ cls = 2) ∧ ms = false then s.writeBackLine c (pa / 128) else s) = s := if_neg h

/-- On an HC page it is a load and a store at one timestamp. -/
theorem amoAt_hc : amoAt s c x op pa w v cmp 0 ms =
    let u := s.updCtx c x (fun t => { t with pts := maxW t.pts (s.hcLine (pa / 128)).wts })
    (if amoWrites op (s.homeRead pa w) cmp then u.homeStore c x pa w (amoNew op w (s.homeRead pa w) v cmp) 0 ms false
      else (u.hcFetch (pa / 128) (u.ctx c x).pts).1, s.homeRead pa w, false) := by
  unfold amoAt
  dsimp only
  rw [noWriteBack (fun h => absurd h.1 (by decide)), if_neg (fun h => absurd h.1 (by decide)), if_neg (noPoison_seen hp), if_pos rfl]
  split <;> rfl

/-- On a memory-side SW page it is a read and a write. -/
theorem amoAt_memorySide : amoAt s c x op pa w v cmp 1 true = (s.amoWritten op pa w v cmp, s.homeRead pa w, false) := by
  unfold amoAt State.amoWritten
  dsimp only
  rw [noWriteBack (fun h => absurd h.2 (by decide)), if_neg (fun h => absurd h.1 (by decide)), if_neg (noPoison_seen hp),
    if_neg (by decide)]
  split
  · rfl
  · rw [if_pos rfl]

theorem amoAt_home (hc : cls = 0 ∨ (cls = 1 ∧ ms = true)) :
    ∃ t, amoAt s c x op pa w v cmp cls ms = (t, s.homeRead pa w, false) ∧ WritesAtHome s t (s.amoWritten op pa w v cmp) c x := by
  rcases hc with rfl | ⟨rfl, rfl⟩
  · refine ⟨_, amoAt_hc hp, ?_⟩
    unfold State.amoWritten
    split
    · have same (a : Nat) : (s.updCtx c x (fun t => { t with pts := maxW t.pts (s.hcLine (pa / 128)).wts })).byteAt a = s.byteAt a := rfl
      obtain ⟨stored, bytes⟩ := homeStore_writesAtHome
        (s.updCtx c x (fun t => { t with pts := maxW t.pts (s.hcLine (pa / 128)).wts })) c x pa w (amoNew op w (s.homeRead pa w) v cmp) ms
      exact ⟨OnlyPts.trans (.updPts ..) stored, fun a => (bytes a).trans (homeWrite_byteAt_congr same a)⟩
    · refine ⟨OnlyPts.trans (.updPts ..) (hcFetch_onlyPts ..), fun a => ?_⟩
      rw [State.byteAt, State.hcFetch_mem]
      rfl
  · refine ⟨_, amoAt_memorySide hp, ?_, fun _ => rfl⟩
    unfold State.amoWritten
    split
    · exact homeWrite_onlyPts ..
    · exact .refl ..

end

theorem amoWritten_homeRead (s : State) : (s.amoWritten op pa w v cmp).homeRead pa w =
    if amoWrites op (s.homeRead pa w) cmp then amoNew op w (s.homeRead pa w) v cmp % 256 ^ w else s.homeRead pa w := by
  unfold State.amoWritten
  split
  · exact State.homeRead_homeWrite ..
  · rfl

theorem amoWritten_others (s : State) {a : Nat} (h : a < pa ∨ pa + w ≤ a) : (s.amoWritten op pa w v cmp).byteAt a = s.byteAt a := by
  unfold State.amoWritten
  split
  · exact State.byteAt_homeWrite_ne s h
  · rfl

theorem amoWritten_byteAt_congr (h : ∀ a, t.byteAt a = s.byteAt a) (a : Nat) :
    (t.amoWritten op pa w v cmp).byteAt a = (s.amoWritten op pa w v cmp).byteAt a := by
  unfold State.amoWritten
  rw [State.homeRead_congr s (fun i _ => h (pa + i))]
  split
  · exact homeWrite_byteAt_congr h a
  · exact h a

theorem finishWord_homeRead (u : State) : (finishWord u c x k).homeRead pa w = u.homeRead pa w :=
  State.homeRead_congr u (fun i _ => finishWord_byteAt u c x k (pa + i))

/-! ### The word -/

/-- An atomic operation of a task that declares no sets, at a home of this package (R248). -/
theorem amoBody_home (hw : w = if z = 0 then 4 else 8) (ha : ((s.ctx c x).rd a).toNat % w = 0)
    (ht : s.translate c ((s.ctx c x).rd a) .write ((s.ctx c x).pl = 0) = .ok (.phys pa cls ms))
    (hl : s.lotStep c ((s.ctx c x).rd a) cls ms = .go) (hpen : (s.core c).penned = false) (hst : (s.ctx c x).stores = [])
    (hc : cls = 0 ∨ (cls = 1 ∧ ms = true)) (hp : s.linePoison (pa / 128) = 0) (hpa : pa < 2 ^ 47) :
    ∃ t, amoBody op d a b z c x s = .done (t.updCtx c x (fun y => y.wr d (amoOld w (s.homeRead pa w)))) ∧
      WritesAtHome s t (s.amoWritten op pa w (((s.ctx c x).rd b).toNat % 2 ^ (8 * w)) (((s.ctx c x).rd d).toNat % 2 ^ (8 * w))) c x := by
  have lined : ¬ aligned ((s.ctx c x).rd a) w = false := by simp [aligned, ha]
  have near : ¬ (2 ^ 47 ≤ pa ∧ (cls ≠ 2 ∨ ms)) := fun h => absurd h.1 (by omega)
  have atHome : ¬ (cls = 2 ∧ ms = false) := by
    rcases hc with rfl | ⟨rfl, rfl⟩
    · exact fun h => absurd h.1 (by decide)
    · decide
  unfold amoBody
  dsimp only
  rw [← hw, if_neg lined, ht]
  dsimp only
  rw [hl]
  dsimp only
  rw [if_neg (by rw [hpen]; decide), if_neg near, if_neg atHome]
  obtain ⟨p, sent⟩ := sendWait_phys s c x d.toNat op ((s.ctx c x).rd a) w (wnat (((s.ctx c x).rd b).toNat % 2 ^ (8 * w)))
    (wnat (((s.ctx c x).rd d).toNat % 2 ^ (8 * w))) pa cls ms
  obtain ⟨t, performed, only, bytes⟩ := amoAt_home (s := { s with points := p }) (c := c) (x := x) (op := op) (w := w)
    (v := ((s.ctx c x).rd b).toNat % 2 ^ (8 * w)) (cmp := ((s.ctx c x).rd d).toNat % 2 ^ (8 * w)) hp hc
  have same (a : Nat) : State.byteAt { s with points := p } a = s.byteAt a := rfl
  rw [sent, State.drainStores_none (by exact hst), performed, State.homeRead_congr s (fun i _ => same (pa + i))]
  dsimp only
  rw [if_neg Bool.false_ne_true]
  exact ⟨t, rfl, OnlyPts.trans (t := { s with points := p }) (.of_cores rfl rfl) only, fun a => (bytes a).trans (amoWritten_byteAt_congr same a)⟩

end
/-- Settles O31: the body performs the operation at the home, and the word completes with the old value. -/
theorem atomicsAtTheHome : Obligations.AtomicsAtTheHome := by
  unfold Obligations.AtomicsAtTheHome
  intro s i k d ea w new writes pa cls ms hi h ha _ ht hc hl hpen hst hp hpa
  obtain ⟨op, a, b, z, he, rfl, hw, value⟩ := exec_amoOf s hi
  have frame := issued_frame s k
  have ctx : (s.issued k).ctx s.cur.1 s.cur.2 = s.now := issued_ctx s k ..
  obtain ⟨t, body, only, bytes⟩ := amoBody_home (s := s.issued k) (c := s.cur.1) (x := s.cur.2) (op := op) (d := d) (a := a) (b := b) hw
    (by rw [ctx]; exact ha) (by rw [ctx, (issued_sameSpace s k).translate]; exact ht) (by rw [ctx, frame.lotStep]; exact hl)
    (by rw [issued_penned]; exact hpen) (by rw [ctx]; exact hst) hc (by rw [frame.linePoison]; exact hp) hpa
  have same (p : Nat) : (s.issued k).byteAt p = s.byteAt p := issued_byteAt s k p
  rw [ctx] at bytes
  rw [State.homeRead_congr s (fun i _ => same (pa + i))] at body
  have pow : 2 ^ (8 * w) = 256 ^ w := Nat.pow_mul 2 8 w
  have old_lt : s.homeRead pa w < 2 ^ (8 * w) := pow ▸ s.homeRead_lt pa w
  obtain ⟨written, newValue⟩ := value _ old_lt
  have width : 0 < w := by
    rw [hw]
    split <;> decide
  have cur : (t.updCtx s.cur.1 s.cur.2 (fun y => y.wr d (amoOld w (s.homeRead pa w)))).cur = s.cur := only.cur.trans (issued_cur s k)
  refine ⟨_, he.trans (control_completes h body), ?_, fun r hr => ?_, ?_, fun p hp => ?_⟩
  · rw [finishWord_rd cur, State.ctx_updCtx_self, Ctx.rd_wr_self, amoOld, extend_eq_extended width (s.homeRead_lt pa w)]
    rfl
  · rw [finishWord_rd cur, State.ctx_updCtx_self, Ctx.rd_wr_ne _ _ hr, only.rd, ctx]
  · have done : (t.updCtx s.cur.1 s.cur.2 (fun y => y.wr d (amoOld w (s.homeRead pa w)))).homeRead pa w = _ :=
      State.homeRead_congr _ (fun i _ => bytes (pa + i))
    rw [finishWord_homeRead, done, amoWritten_homeRead, State.homeRead_congr s (fun i _ => same (pa + i)), written]
    split
    · next writing => exact pow ▸ newValue writing
    · rfl
  · exact (finishWord_byteAt ..).trans ((bytes p).trans ((amoWritten_others _ hp).trans (same p)))

end Sys2Proof.Machine
end

section
/-!
SUPPORT. The ring words: what each leaves of its ring, and what issue leaves of the rings and of those that wait at them (R227 to R232).
-/
namespace Sys2Proof.Machine
section

variable {s t u : State} {c x n : Nat} {k : Tk} {d a : Reg} {w : BitVec 8}

/-! ### What leaves the rings as they are -/

theorem Core.ring_setRing_self (kc : Core) (n : Nat) (r : Ring) : (kc.setRing n r).ring n = r := Map.get_set_self ..

theorem CtxFrame.ring (h : CtxFrame s t c x) (n : Nat) : (t.core c).ring n = (s.core c).ring n := by
  rw [h.unit]
  rfl

theorem CtxFrame.expertClaim (h : CtxFrame s t c x) : (t.core c).ec = (s.core c).ec := by
  rw [h.unit]

theorem CtxFrame.canClaim (h : CtxFrame s t c x) (n : Nat) : (t.core c).canClaim n = (s.core c).canClaim n := by
  rw [h.unit]
  rfl

theorem State.count_ringWait (s : State) (c y ev n : Nat) : ((s.count c y ev n).core c).ringWait = (s.core c).ringWait := by
  unfold State.count
  split
  · rfl
  · rw [State.core_updCore_self]
    unfold Core.count
    split
    · rfl
    · split <;> rfl

theorem State.popAll_ringWait (s : State) (c y : Nat) (fs : List Nat) : ((s.popAll c y fs).core c).ringWait = (s.core c).ringWait := by
  unfold State.popAll
  split
  · rfl
  · rw [State.count_ringWait, State.core_updCore_self, foldl_pop]

/-- Issue leaves the order in which contexts wait at a ring (R228). -/
theorem issued_ringFirst (s : State) (k : Tk) (key : Nat) :
    ((s.issued k).core s.cur.1).ringFirst key = (s.core s.cur.1).ringFirst key := by
  have ctx (y : Nat) : ((s.issued k).core s.cur.1).getCtx y = (s.core s.cur.1).getCtx y := issued_ctx s k s.cur.1 y
  have places : ((s.issued k).core s.cur.1).ringWait = (s.core s.cur.1).ringWait := State.popAll_ringWait ..
  unfold Core.ringFirst Core.ringWaiters
  simp only [ctx, places]

theorem finishWord_ring (u : State) (f : Core → Core) (c x : Nat) (k : Tk) (n : Nat) :
    ((finishWord (u.updCore c f) c x k).core c).ring n = (f (u.core c)).ring n := by
  rw [(CtxFrame.finishWord ..).ring, State.core_updCore_self]

/-- A core with its new ring, and the word's result in `x[d]`. -/
theorem finishWord_ringWritten (u : State) (kc : Core) (c x : Nat) (g : Ctx → Ctx) (k : Tk) (n : Nat) :
    ((finishWord ((u.setCore c kc).updCtx c x g) c x k).core c).ring n = kc.ring n := by
  rw [(CtxFrame.finishWord ..).ring, State.core_updCtx_self, State.core_setCore_self]
  rfl

theorem finishWord_written (kc : Core) (k : Tk) (v : Word) (hu : u.cur = s.cur) :
    (finishWord ((u.setCore s.cur.1 kc).updCtx s.cur.1 s.cur.2 (fun t => t.wr d v)) s.cur.1 s.cur.2 k).now.rd d =
      if d = 0 then 0 else v := by
  have cur : ((u.setCore s.cur.1 kc).updCtx s.cur.1 s.cur.2 (fun t => t.wr d v)).cur = s.cur := hu
  rw [finishWord_rd cur, State.ctx_updCtx_self, Ctx.rd_wr_self]
  rfl

/-! ### A claim and a wait (R229, R230) -/

/-- The core that a claim leaves, with the address of the slot that it takes. -/
theorem Core.claim_ring (kc : Core) (x n : Nat) : (kc.claim x n).1.ring n =
    { kc.ring n with tail := ((kc.ring n).tail + 1) % (kc.ring n).slots, claimed := (kc.ring n).claimed + 1 } := Core.ring_setRing_self ..

theorem Core.take_ring (kc : Core) (n : Nat) : (kc.take n).1.ring n =
    { kc.ring n with
      head := ((kc.ring n).head + 1) % (kc.ring n).slots, filled := (kc.ring n).filled - 1, held := (kc.ring n).held + 1 } :=
  Core.ring_setRing_self ..

/-- A claim of a context that holds no expert claim: it takes a slot where one is free and no other context waits, or waits. -/
theorem rgclaim_body (s : State) (k : Tk) (d a : Reg) (w : BitVec 8)
    (hm : ¬ (((s.core s.cur.1).ring a.toNat).expert = true ∧ ∃ m, (s.core s.cur.1).ec = some (s.cur.2, m))) :
    ∃ body, execRgclaim k d a w s = control (.rgclaim k d a w) k s body ∧ body s.cur.1 s.cur.2 (s.issued k) =
      if (s.core s.cur.1).canClaim a.toNat ∧ (s.core s.cur.1).ringFirst (2 * a.toNat) = none then
        let kc := ((s.issued k).core s.cur.1).claim s.cur.2 a.toNat
        .done (((s.issued k).setCore s.cur.1 kc.1).updCtx s.cur.1 s.cur.2 (fun t => t.wr d kc.2))
      else .hold (.ringClaim d.toNat a.toNat) (waitBound w.toNat) := by
  refine ⟨_, rfl, ?_⟩
  have frame := issued_frame s k
  dsimp only
  rw [frame.ring, frame.expertClaim, frame.canClaim, issued_ringFirst, if_neg]
  rw [Bool.and_eq_true]
  rintro ⟨expert, mine⟩
  refine hm ⟨expert, ?_⟩
  split at mine
  · next y m he =>
    rw [he, of_decide_eq_true mine]
    exact ⟨m, rfl⟩
  · exact absurd mine Bool.false_ne_true

theorem Core.canClaim_iff (kc : Core) (n : Nat) : kc.canClaim n = true ↔
    (kc.ring n).claimed + (kc.ring n).filled + (kc.ring n).held < (kc.ring n).slots ∧ ((kc.ring n).expert = true → kc.ec = none) := by
  unfold Core.canClaim
  rw [Bool.and_eq_true, decide_eq_true_eq, Bool.or_eq_true, Bool.not_eq_true', Option.isNone_iff_eq_none]
  cases (kc.ring n).expert <;> simp

theorem rgwait_body (s : State) (k : Tk) (d a : Reg) (w : BitVec 8) :
    ∃ body, execRgwait k d a w s = control (.rgwait k d a w) k s body ∧ body s.cur.1 s.cur.2 (s.issued k) =
      if 0 < ((s.core s.cur.1).ring a.toNat).filled ∧ (s.core s.cur.1).ringFirst (2 * a.toNat + 1) = none then
        let kc := ((s.issued k).core s.cur.1).take a.toNat
        .done (((s.issued k).setCore s.cur.1 kc.1).updCtx s.cur.1 s.cur.2 (fun t => t.wr d kc.2))
      else .hold (.ringWait d.toNat a.toNat) (waitBound w.toNat) := by
  refine ⟨_, rfl, ?_⟩
  dsimp only
  rw [(issued_frame s k).ring, issued_ringFirst]

/-! ### A fill and a free (R228, R230) -/

/-- The core that a fill leaves. -/
def Core.fillRing (kc : Core) (n : Nat) : Core :=
  if (kc.ring n).claimed = 0 then kc.setRing n { kc.ring n with und := true }
  else if (kc.ring n).expert then
    { kc.setRing n { kc.ring n with claimed := (kc.ring n).claimed - 1, filled := (kc.ring n).filled + 1 } with ec := none }
  else kc.setRing n { kc.ring n with claimed := (kc.ring n).claimed - 1, filled := (kc.ring n).filled + 1 }

theorem Core.fillRing_ring (kc : Core) (n : Nat) : (kc.fillRing n).ring n =
    if (kc.ring n).claimed = 0 then { kc.ring n with und := true }
    else { kc.ring n with claimed := (kc.ring n).claimed - 1, filled := (kc.ring n).filled + 1 } := by
  unfold Core.fillRing
  split
  · exact Core.ring_setRing_self ..
  · split
    · exact Core.ring_setRing_self kc n _
    · exact Core.ring_setRing_self ..

theorem Core.fillRing_ctx (kc : Core) (n : Nat) : (kc.fillRing n).ctx = kc.ctx := by
  unfold Core.fillRing
  split
  · rfl
  · split <;> rfl

theorem execRgfill_fills (h : Issues 0 (.rgfill k a) k s) (hst : s.now.stores = []) : execRgfill k a s =
    .next (finishWord ((s.issued k).updCore s.cur.1 (fun kc => kc.fillRing a.toNat)) s.cur.1 s.cur.2 k) := by
  refine control_completes h ?_
  dsimp only
  rw [State.drainStores_none (by rw [issued_ctx]; exact hst)]
  rfl

/-- The core that a free leaves. -/
def Core.freeRing (kc : Core) (n : Nat) : Core :=
  kc.setRing n (if (kc.ring n).held = 0 then { kc.ring n with und := true } else { kc.ring n with held := (kc.ring n).held - 1 })

theorem execRgfree_frees (h : Issues 0 (.rgfree k a) k s) : execRgfree k a s =
    .next (finishWord ((s.issued k).updCore s.cur.1 (fun kc => kc.freeRing a.toNat)) s.cur.1 s.cur.2 k) :=
  control_completes h rfl

/-! ### `rgstat` (R227, R231, R232) -/

theorem execRgstat_reads (h : Issues 0 (.rgstat k d a) k s) : execRgstat k d a s =
    .next (finishWord (((s.issued k).setCore s.cur.1 (((s.issued k).core s.cur.1).setRing a.toNat
        { ((s.issued k).core s.cur.1).ring a.toNat with und := false, bad := false })).updCtx s.cur.1 s.cur.2
          (fun t => t.wr d (((s.issued k).core s.cur.1).ring a.toNat).status)) s.cur.1 s.cur.2 k) :=
  control_completes h rfl

/-- A `set` ends the expert claim of its ring, if there is one. -/
def Core.unclaim (kc : Core) (n : Nat) : Core :=
  match kc.ec with
  | some (_, m) => if m = n then { kc with ec := none } else kc
  | none => kc

theorem Core.unclaim_ring (kc : Core) (n m : Nat) : (kc.unclaim n).ring m = kc.ring m := by
  unfold Core.unclaim
  split
  · split <;> rfl
  · rfl

/-- A descriptor that passes the checks is the ring; UND and BAD stay set. -/
theorem Core.putRing_taken (kc : Core) (n : Nat) (r : Ring) : (kc.putRing n (some r)).ring n =
    { r with und := (kc.ring n).und, bad := (kc.ring n).bad } := by
  rw [← kc.unclaim_ring n n]
  exact Core.ring_setRing_self (kc.unclaim n) n _

theorem Core.putRing_refused (kc : Core) (n : Nat) : (kc.putRing n none).ring n = { und := (kc.ring n).und, bad := true } := by
  rw [← kc.unclaim_ring n n]
  exact Core.ring_setRing_self (kc.unclaim n) n _

theorem execRgstatSet_puts {d0 d1 d2 d3 : Word} (h : Issues 0 (.rgstatSet k d a) k s) (ha : (s.now.rd a).toNat % 32 = 0)
    (hb : (s.issued k).readBlock s.cur.1 s.cur.2 (s.now.rd a) 4 = .ok u [d0, d1, d2, d3]) : execRgstatSet k d a s =
    .next (finishWord (u.updCore s.cur.1 (fun kc => kc.putRing d.toNat (ringOf d0 d1 d2 d3))) s.cur.1 s.cur.2 k) := by
  refine control_completes h ?_
  dsimp only
  rw [issued_ctx, ← State.now, if_neg (by simp [aligned, ha]), hb]

theorem execRgstatSave_leaves (h : Issues 0 (.rgstatSave k d a) k s) (ha : (s.now.rd a).toNat % 32 = 0) (hst : s.now.stores = [])
    (hb : (s.issued k).writeBlock s.cur.1 s.cur.2 (s.now.rd a) ((s.core s.cur.1).ring d.toNat).words = .ok u []) (hu : u.cur = s.cur) :
    execRgstatSave k d a s = .next (u.finished k) := by
  refine control_finished h ?_ hu
  dsimp only
  rw [issued_ctx, ← State.now, if_neg (by simp [aligned, ha]), State.drainStores_none (by rw [issued_ctx]; exact hst),
    (issued_frame s k).ring, hb]

end

/-- Settles O44, by what each word leaves of its ring. -/
theorem ringWordsMoveTheirCounts : Obligations.RingWordsMoveTheirCounts := by
  unfold Obligations.RingWordsMoveTheirCounts
  intro s k d a w
  have frame := issued_frame s k
  refine ⟨fun h hm => ⟨fun full => ?_, fun free ec first => ?_⟩, fun h hst => ?_, fun h => ⟨fun empty => ?_, fun filled first => ?_⟩,
    fun h => ?_, fun h => ?_, fun s' d0 d1 d2 d3 h ha hb hcur => ?_, fun s' h ha hst hb hcur => ?_⟩
  · obtain ⟨body, he, hb⟩ := rgclaim_body s k d a w hm
    refine he.trans (control_waits h (hb.trans (if_neg fun can => ?_)))
    exact absurd ((Core.canClaim_iff ..).1 can.1).1 (Nat.not_lt.2 full)
  · obtain ⟨body, he, hb⟩ := rgclaim_body s k d a w hm
    have done := control_completes h (hb.trans (if_pos ⟨(Core.canClaim_iff ..).2 ⟨free, ec⟩, first⟩))
    refine ⟨_, he.trans done, ?_, ?_⟩
    · rw [finishWord_written _ _ _ (issued_cur s k), Core.claim, frame.ring]
      rfl
    · rw [finishWord_ringWritten, Core.claim_ring, frame.ring]
  · refine ⟨_, execRgfill_fills h hst, finishWord_wentOn k ((issued_keeps s k).trans (.updCore (Core.fillRing_ctx ..))), ?_⟩
    rw [finishWord_ring, Core.fillRing_ring, frame.ring]
  · obtain ⟨body, he, hb⟩ := rgwait_body s k d a w
    refine he.trans (control_waits h (hb.trans (if_neg fun can => ?_)))
    exact absurd can.1 (by rw [empty]; decide)
  · obtain ⟨body, he, hb⟩ := rgwait_body s k d a w
    have done := control_completes h (hb.trans (if_pos ⟨filled, first⟩))
    refine ⟨_, he.trans done, ?_, ?_⟩
    · rw [finishWord_written _ _ _ (issued_cur s k), Core.take, frame.ring]
      rfl
    · rw [finishWord_ringWritten, Core.take_ring, frame.ring]
  · refine ⟨_, execRgfree_frees h, finishWord_wentOn k ((issued_keeps s k).trans (.updCore rfl)), ?_⟩
    rw [finishWord_ring, Core.freeRing, Core.ring_setRing_self, frame.ring]
  · refine ⟨_, execRgstat_reads h, ?_, ?_⟩
    · rw [finishWord_written _ _ _ (issued_cur s k), frame.ring]
      rfl
    · rw [finishWord_ringWritten, Core.ring_setRing_self, frame.ring]
  · refine ⟨_, execRgstatSet_puts h ha hb, ?_⟩
    rw [finishWord_ring]
    cases ringOf d0 d1 d2 d3 with
    | none => exact Core.putRing_refused ..
    | some r => exact Core.putRing_taken ..
  · exact execRgstatSave_leaves h ha hst hb hcur

end Sys2Proof.Machine
end

section
/-!
SUPPORT. Fills of window lines and of operand queues, leases that have ended, and freezes (R234, R246, R316, R345).
-/
namespace Sys2Proof.Machine
section

variable {s t u : State} {c n pa w i : Nat} {k : Core} {f : Freeze} {atU : Bool}

/-! ### The fill of a window line (R234, R345) -/

/-- A freeze of kind 0 waits for a window line. -/
theorem Freeze.line_of_kind (h : f.kind = 0) : f.line = true := by
  unfold Freeze.line
  rw [h]
  rfl

/-- A window with a line put in. -/
def Window.withLine (wn : Window) (i : Nat) (l : WinLine) : Window := { wn with lines := Map.set none wn.lines i (some l) }

theorem Core.putWinLine_window (k : Core) (w i : Nat) (l : WinLine) (d : Line) :
    (k.putWinLine w i l d).window w = (k.window w).withLine i l := window_setWindow_self k w ((k.window w).withLine i l)

theorem Window.withLine_line (wn : Window) (i : Nat) (l : WinLine) : Map.get none (wn.withLine i l).lines i = some l :=
  Map.get_set_self none wn.lines i (some l)

/-- A window line that is put is there, where it needs no lease. -/
theorem Core.winHas_putWinLine (k : Core) (w i : Nat) {l : WinLine} (d : Line) (hi : l.inv = false) (hc : l.cls ≠ 0) :
    (k.putWinLine w i l d).winHas w i = true := by
  have line : Map.get none ((k.putWinLine w i l d).window w).lines i = some l := by
    rw [Core.putWinLine_window, Window.withLine_line]
  have leaseless : decide (l.cls ≠ 0) = true := decide_eq_true hc
  unfold Core.winHas
  rw [line]
  dsimp only
  rw [leaseless, hi]
  rfl

/-- A core that something has changed, and that is no longer frozen. -/
theorem thawed_core (s : State) (c : Nat) (g : Core → Core) :
    ((s.updCore c g).updCore c (fun k => { k with frozen := none })).core c = { g (s.core c) with frozen := none } := by
  rw [State.core_updCore_self, State.core_updCore_self]

theorem Core.winHas_thawed (k : Core) (w i : Nat) : ({ k with frozen := none } : Core).winHas w i = k.winHas w i := rfl

theorem Core.spad_thawed (k : Core) : ({ k with frozen := none } : Core).spad = k.spad := rfl

theorem Core.putWinLine_spad (k : Core) (w i : Nat) (l : WinLine) (d : Line) :
    Map.get 0 (k.putWinLine w i l d).spad ((k.window w).addr / 128 + i) = d := Map.get_set_self ..

/-- A window line of an SW page is filled from its home. -/
theorem fillWin_sw (ht : s.translate c (winVa ((s.core c).window w) i) .read atU = .ok (.phys pa 1 false)) :
    s.fillWin c w i atU = .ok (s.updCore c (fun k =>
      k.putWinLine w i { pa := pa, cls := 1, rts := 0, ms := false, bad := s.linePoison (pa / 128) ≠ 0 } (s.homeLine (pa / 128)))) := by
  unfold State.fillWin
  dsimp only
  rw [ht]
  rfl

theorem execStashFill_fills (hf : (s.core c).frozen = some f) (hk : f.kind = 0)
    (ht : s.translate c (winVa ((s.core c).window f.win) f.idx) .read f.atU = .ok (.phys pa 1 false)) (hp : pa < 2 ^ 47)
    (hw : (s.core c).winHas f.win f.idx = false) :
    execStashFill c s = .next ((s.updCore c (fun k =>
      k.putWinLine f.win f.idx { pa := pa, cls := 1, rts := 0, ms := false, bad := s.linePoison (pa / 128) ≠ 0 }
        (s.homeLine (pa / 128)))).updCore c (fun k => { k with frozen := none })) := by
  have near : hostPlace pa 1 = false := by
    unfold hostPlace
    rw [decide_eq_false (Nat.not_le.2 hp)]
    rfl
  unfold execStashFill State.fillHere
  rw [hf]
  dsimp only
  rw [Freeze.line_of_kind hk, if_neg (by decide), ht]
  dsimp only
  rw [near, hw, fillWin_sw ht]
  rfl

/-! ### Leases (R246) -/

/-- A line is dropped where its lease has ended for every context. -/
theorem execLeaseExpiry_ended {l : L1Line} (hl : (s.core c).line n = some l) (hc : l.cls = 0)
    (h : ∀ x, x < 4 → l.rts < (s.ctx c x).pts) :
    ∃ u, execLeaseExpiry c n s = .next u ∧ (u.core c).line n = ((s.core c).dropLine n).line n := by
  refine ⟨_, rfl, ?_⟩
  rw [State.core_updCore_self]
  have ended : (List.range 4).all (fun x => l.cls = 0 && l.rts < ((s.core c).getCtx x).pts) = true := by
    rw [List.all_eq_true]
    intro x hx
    rw [Bool.and_eq_true, decide_eq_true_eq, decide_eq_true_eq]
    exact ⟨hc, h x (List.mem_range.1 hx)⟩
  dsimp only
  rw [hl]
  dsimp only
  rw [ended]
  rfl

/-- A line stays where some context's time has not passed its lease. -/
theorem execLeaseExpiry_holds {l : L1Line} {x : Nat} (hl : (s.core c).line n = some l) (hx : x < 4) (h : (s.ctx c x).pts ≤ l.rts) :
    ∃ u, execLeaseExpiry c n s = .next u ∧ (u.core c).line n = some l := by
  refine ⟨_, rfl, ?_⟩
  rw [State.core_updCore_self]
  have holds : (List.range 4).all (fun x => l.cls = 0 && l.rts < ((s.core c).getCtx x).pts) ≠ true := by
    rw [Ne, List.all_eq_true]
    intro all
    have passed := all x (List.mem_range.2 hx)
    rw [Bool.and_eq_true, decide_eq_true_eq, decide_eq_true_eq] at passed
    exact absurd passed.2 (BitVec.not_lt.2 h)
  dsimp only
  rw [hl]
  dsimp only
  rw [if_neg holds]
  exact hl

/-! ### Freezes (R345) -/

theorem execFreezeEnd_at {e : Nat} (hf : (s.core c).frozen = some f) (he : f.ends = some e) :
    execFreezeEnd c s = .next (if e ≤ s.cc then s.setCore c { s.core c with frozen := none } else s) := by
  unfold execFreezeEnd State.freezeOver
  rw [hf]
  dsimp only
  rw [he]
  simp only [decide_eq_true_eq]
  rfl

theorem execFreezeLimit_early (hf : (s.core c).frozen = some f) (h : s.cc - f.since < (s.core c).frzMax.toNat) :
    execFreezeLimit c s = .next s := by
  unfold execFreezeLimit
  dsimp only
  rw [hf]
  exact if_neg (fun late => absurd late.1 (Nat.not_le.2 h))

end
end Sys2Proof.Machine
end

section
/-!
SUPPORT. The lines of an operand-queue entry arrive (R316).
-/
namespace Sys2Proof.Machine
section

variable {s t u : State} {c n m j pa : Nat} {w : Copy} {kc : Core} {k : Tk} {f p : BitVec 4} {a b : Reg} {cls : BitVec 2} {ms : Bool}

/-! ### The lines of one entry -/

/-- The event of a copy's line completes at once, whether or not the line is on its way. -/
theorem execCopyLineComplete_next (s : State) (c m : Nat) : ∃ u, execCopyLineComplete c m .home s = .next u := by
  unfold execCopyLineComplete
  split
  · exact ⟨_, rfl⟩
  · exact ⟨_, rfl⟩

theorem execOqEntryFill_one (h : s.oqLines c n = [m]) : execOqEntryFill c n s = execCopyLineComplete c m .home s := by
  obtain ⟨u, hu⟩ := execCopyLineComplete_next s c m
  unfold execOqEntryFill
  rw [h, List.reverse_singleton, List.foldl_cons, List.foldl_nil, hu]

theorem execOqEntryFill_none (h : s.oqLines c n = []) : execOqEntryFill c n s = .next s := by
  unfold execOqEntryFill
  rw [h]
  rfl

/-! ### A line of a `cpoq` -/

theorem SameSpace.linePoison (h : SameSpace s t c) (ln : Nat) : t.linePoison ln = s.linePoison ln := by
  simp only [State.linePoison, h.wordPoison]

theorem Core.copyDone_oq (kc : Core) (w : Copy) : (kc.copyDone w).oq = kc.oq := by
  unfold Core.copyDone
  split <;> rfl

theorem Core.putCopy_oq (kc : Core) (w : Copy) : (kc.putCopy w).oq = kc.oq := by
  unfold Core.putCopy
  dsimp only
  split
  · exact Core.copyDone_oq ..
  · exact Core.copyDone_oq ..

/-- An answer of the line's own package leaves no hint and needs no second try. -/
theorem lineRetry_home (s : State) (c : Nat) (ent : Entry) (m : Nat) : s.lineRetry c ent m .home = none := by
  unfold State.lineRetry
  split
  · unfold State.retryAt
    split
    · rfl
    · rfl
  · rfl

theorem lineNote_home (s : State) (c : Nat) (ent : Entry) (m : Nat) : s.lineNote c ent m .home = s := by
  unfold State.lineNote
  split
  · unfold State.noteAt
    split
    · next h => cases h
    · rfl
  · rfl

section
variable (hi : w.ent.ins = .cpoq k f p a b)
include hi

theorem copySides_cpoq (m : Nat) :
    copySides w.ent m = (.glob (w.ent.vb + wnat (128 * m)), .oq (wbits w.ent.va 0 3) (m / 8) (m % 8)) := by
  unfold copySides
  rw [hi]

theorem isRowCopy_cpoq : isRowCopy w.ent = false := by
  unfold isRowCopy
  rw [hi]

/-- A line of a `cpoq` whose home has it: its bytes are written in the entry, and it is done. -/
theorem copyLine_cpoq (ht : s.translate c (w.ent.vb + wnat (128 * j)) .read w.ent.atU = .ok (.phys pa cls ms))
    (hp : s.linePoison (pa / 128) = 0) :
    s.copyLine c w j .home =
      ((s.updCore c (fun kc => kc.fillOq (wbits w.ent.va 0 3) w.ent.seq (j / 8) (j % 8) (s.homeLine (pa / 128)))).lineDone c w j none none
        0).count c w.ent.ctx 4 1 := by
  have source : s.srcLine c w j .home = .data (s.homeLine (pa / 128)) none := by
    unfold State.srcLine
    rw [copySides_cpoq hi]
    dsimp only
    rw [ht]
    dsimp only
    rw [if_neg (fun h => absurd h.1 (by decide)), if_pos hp]
  have place (l : Line) : s.dstLine c w.ent j l false .home =
      .done (s.updCore c (fun kc => kc.fillOq (wbits w.ent.va 0 3) w.ent.seq (j / 8) (j % 8) l)) 0 none := by
    unfold State.dstLine
    rw [copySides_cpoq hi]
  have noFill (late : Prop) [Decidable late] : (if late then none else
      ((s.core c).sideNeed (.glob (w.ent.vb + wnat (128 * j)))).or
        ((s.core c).sideNeed (.oq (wbits w.ent.va 0 3) (j / 8) (j % 8)))) = (none : Option (Nat × Nat)) := ite_self _
  unfold State.copyLine
  rw [lineRetry_home, copySides_cpoq hi, isRowCopy_cpoq hi, source]
  dsimp only
  rw [noFill, if_neg (fun h => absurd h.1 (by decide))]
  unfold State.putLine
  rw [if_neg (show ¬ noWrite w.ent none = true from Bool.false_ne_true), Option.isSome_none, place]
  dsimp only
  rw [lineNote_home]
  rfl

omit hi in
/-- What the line leaves in its queue. -/
theorem fillOq_mem {e : OqEntry} {seq : BitVec 32} {i : Nat} {l : Line} (he : e ∈ kc.queueOf n) (hs : e.seq = seq) (hk : e.k = m) :
    { e with data := putBits e.data (1024 * i) 1024 l.toNat, left := e.left.filter (· ≠ i) } ∈ (kc.fillOq n seq m i l).queueOf n := by
  have queue : (kc.fillOq n seq m i l).queueOf n = (kc.queueOf n).map (fun e => if e.seq = seq ∧ e.k = m then
      { e with data := putBits e.data (1024 * i) 1024 l.toNat, left := e.left.filter (· ≠ i) } else e) := Map.get_set_self ..
  rw [queue]
  exact List.mem_map.2 ⟨e, he, if_pos ⟨hs, hk⟩⟩

omit hi in
theorem oq_lineDone_count (s : State) (c x ev q n m : Nat) (w : Copy) (ts : Word) :
    (((s.lineDone c w m none none ts).count c x ev n).core c).queueOf q = (s.core c).queueOf q := by
  rw [Core.queueOf, (CtxFrame.count _ c x x ev n).unit]
  dsimp only
  rw [State.lineDone, State.core_updCore_self, Core.putCopy_oq, Core.queueOf]

theorem nextOf_cpoq : w.nextOf j = j := by
  unfold Copy.nextOf
  rw [isRowCopy_cpoq hi]
  exact if_neg (fun h => absurd h.1 (by decide))

theorem execCopyLineComplete_cpoq (hw : pickLine (s.core c).cpe.work m = some (w, j)) :
    ∃ x y z, execCopyLineComplete c m .home s = .next (s.under c x y z (fun s => s.copyLine c w j .home)) := by
  unfold execCopyLineComplete
  rw [hw]
  dsimp only
  rw [nextOf_cpoq hi]
  exact ⟨_, _, _, rfl⟩

/-- The bytes of the home take their place in the entry, and the line is no longer missing there. -/
theorem execOqEntryFill_cpoq (hl : s.oqLines c n = [m]) (hw : pickLine (s.core c).cpe.work m = some (w, j)) (hn : wbits w.ent.va 0 3 = n)
    (ht : s.translate c (w.ent.vb + wnat (128 * j)) .read w.ent.atU = .ok (.phys pa cls ms)) (hp : s.linePoison (pa / 128) = 0) :
    ∃ t, execOqEntryFill c n s = .next t ∧
      (t.core c).queueOf n = ((s.core c).fillOq n w.ent.seq (j / 8) (j % 8) (s.homeLine (pa / 128))).queueOf n ∧
      ∀ a, t.byteAt a = s.byteAt a := by
  obtain ⟨x, y, z, he⟩ := execCopyLineComplete_cpoq (s := s) (c := c) hi hw
  have under : SameSpace s { s with cause := some (c, x, y, z) } c := ⟨rfl, rfl, rfl, rfl, rfl, rfl, rfl, rfl⟩
  have home : State.homeLine { s with cause := some (c, x, y, z) } (pa / 128) = s.homeLine (pa / 128) := by
    rw [State.homeLine, under.homeRead, State.homeLine]
  have line := copyLine_cpoq (s := { s with cause := some (c, x, y, z) }) (c := c) (j := j) hi (by rw [under.translate, ht])
    (by rw [under.linePoison, hp])
  refine ⟨_, (execOqEntryFill_one hl).trans he, ?_, fun a => ?_⟩
  · show ((State.copyLine { s with cause := some (c, x, y, z) } c w j .home).core c).queueOf n = _
    rw [line, oq_lineDone_count, State.core_updCore_self, hn, home]
    rfl
  · show State.byteAt (State.copyLine { s with cause := some (c, x, y, z) } c w j .home) a = _
    rw [line, State.byteAt, (CtxFrame.count ..).mem_eq (x := 0), State.lineDone_mem]
    rfl

end

end
end Sys2Proof.Machine
end

section
/-!
SUPPORT. A freeze that ends at its limit: the waiting vector load goes on with its cause (R188, R189, R347).
-/
namespace Sys2Proof.Machine
section

variable {s t u : State} {c e : Nat} {ent : Entry} {r : List Entry} {f : Freeze} {g : Flight} {k : Core} {tk : Tk} {d a : Reg}

theorem Core.updQ_clk (k : Core) (e : Nat) (h : EngQ → EngQ) : (k.updQ e h).clk = k.clk := by
  unfold Core.updQ Core.setQ
  split <;> rfl

theorem Core.updQ_frozen (k : Core) (e : Nat) (h : EngQ → EngQ) : (k.updQ e h).frozen = k.frozen := by
  unfold Core.updQ Core.setQ
  split <;> rfl

/-- The core of a command that starts with a cause: its queue stops behind it (R189, R208). -/
theorem startEntry_core_failing (s : State) (c e : Nat) (h : g.cause.isSome = true) :
    (s.startEntry c e g).core c =
      (((engWaitFifos g.ent.tk e).foldl Core.pop (s.core c)).updQ e (fun q => q.stopFrom (s.core c).clk)).updQ e
        (fun q => q.startedBy g (s.core c).clk) := by
  have clk : ((engWaitFifos g.ent.tk e).foldl Core.pop (s.core c)).clk = (s.core c).clk := by rw [foldl_pop]
  rw [State.startEntry, State.core_setCore_self]
  rw [if_pos h, Core.updQ_clk, clk]
  rfl

theorem startEntry_failing (s : State) (c e : Nat) (h : g.cause.isSome = true) (hq : ((s.core c).q e).q = ent :: r) :
    Started s (s.startEntry c e g) c e r { g with at_ := (s.core c).clk } ∧
      ((s.startEntry c e g).core c).frozen = (s.core c).frozen := by
  constructor
  · unfold Started
    rw [startEntry_core_failing s c e h, Core.q_updQ_self, Core.q_updQ_self, foldl_pop_q, EngQ.startedBy, EngQ.stopFrom, hq]
    exact ⟨rfl, rfl⟩
  · rw [startEntry_core_failing s c e h, Core.updQ_frozen, Core.updQ_frozen, foldl_pop]

theorem Started.of_queue (h : (s.core c).q e = (t.core c).q e) (started : Started t u c e r g) : Started s u c e r g := by
  unfold Started at *
  rw [h]
  exact started

/-- The started command of a vector load whose data comes too late: it reads zero, and ends with FRZ. -/
def lateLoad (k : Core) (ent : Entry) (d : Reg) (f : Freeze) : Flight :=
  { ent := ent, wclk := k.clk + 6, rclk := k.clk + 6, writes := [.vreg d.toNat 0 0], look := [(ent.va.toNat, 4096)], done := false
    cause := some (Cause.frz, frzVal f), pushed := k.vxe.stream.length - k.vxe.stream.length }

theorem startVxe_lateLoad (s : State) (c : Nat) (f : Freeze) (hi : ent.ins = .vld tk d a) :
    s.startVxe c ent (some f) = ((s.updCore c (fun k => { k with vxe := (s.core c).vxe })).startEntry c 2
      (lateLoad (s.core c) ent d f)).count c ent.ctx 3 1 := by
  have run : (s.core c).vecRun ent true =
      .ok { vxe := (s.core c).vxe, lat := 6, writes := [.vreg d.toNat 0 0], look := [(ent.va.toNat, 4096)] } := by
    unfold Core.vecRun
    rw [hi]
    rfl
  unfold State.startVxe
  dsimp only
  rw [show (some f).isSome = true from rfl, run]
  rfl

/-- The command at the head goes on with its late data as zero. -/
theorem goLate_load (s : State) (c : Nat) (he : f.ends = none) (ho : f.own = none) (hv : f.eng = 2) (hq : ((s.core c).q 2).q = ent :: r) :
    s.goLate c f = s.startVxe c ent (some f) := by
  unfold State.goLate
  dsimp only
  rw [he, ho, hv, hq]
  rfl

theorem startVxe_lateLoad_starts (s : State) (c : Nat) (f : Freeze) (hi : ent.ins = .vld tk d a) (hq : ((s.core c).q 2).q = ent :: r) :
    Started s (s.startVxe c ent (some f)) c 2 r { lateLoad (s.core c) ent d f with at_ := (s.core c).clk } ∧
      ((s.startVxe c ent (some f)).core c).frozen = (s.core c).frozen := by
  have same : (s.updCore c (fun k => { k with vxe := (s.core c).vxe })).core c = s.core c := State.core_updCore_self ..
  obtain ⟨started, frozen⟩ := startEntry_failing (g := lateLoad (s.core c) ent d f)
    (s.updCore c (fun k => { k with vxe := (s.core c).vxe })) c 2 rfl (same ▸ hq)
  rw [same] at started frozen
  rw [startVxe_lateLoad s c f hi]
  refine ⟨(CtxFrame.count _ c 0 ent.ctx 3 1).started (started.of_core same.symm), ?_⟩
  rw [(CtxFrame.count _ c 0 ent.ctx 3 1).unit]
  exact frozen

/-- At LIMIT the core goes on, and the load that it waited for starts with FRZ. -/
theorem execFreezeLimit_lateLoad (hf : (s.core c).frozen = some f) (hl : (s.core c).frzMax.toNat ≤ s.cc - f.since)
    (he : f.ends = none) (ho : f.own = none) (hw : s.freezeOver c f = false) (hv : f.eng = 2) (hq : (s.core c).vxe.q.q = ent :: r)
    (hi : ent.ins = .vld tk d a) :
    ∃ u g, execFreezeLimit c s = .next u ∧ (u.core c).frozen = none ∧ Started s u c 2 r g ∧ g.ent = ent ∧
      g.cause = some (Cause.frz, frzVal f) := by
  have thawed : (s.updCore c (fun k => { k with frozen := none })).core c = { s.core c with frozen := none } := State.core_updCore_self ..
  have queue : ((s.updCore c (fun k => { k with frozen := none })).core c).q 2 = (s.core c).q 2 := by
    rw [thawed]
    rfl
  have head : (((s.updCore c (fun k => { k with frozen := none })).core c).q 2).q = ent :: r := queue ▸ hq
  have goes : execFreezeLimit c s = .next ((s.updCore c (fun k => { k with frozen := none })).startVxe c ent (some f)) := by
    unfold execFreezeLimit
    dsimp only
    rw [hf]
    dsimp only
    rw [if_pos ⟨hl, hw⟩, goLate_load _ c he ho hv head]
  obtain ⟨started, frozen⟩ := startVxe_lateLoad_starts (s.updCore c (fun k => { k with frozen := none })) c f hi head
  refine ⟨_, _, goes, ?_, started.of_queue queue.symm, rfl, rfl⟩
  rw [frozen, thawed]

end
end Sys2Proof.Machine
end

section
/-!
SUPPORT. The farrier, shootdowns and page walks (R225, R242, R252, R253, R348).
-/
namespace Sys2Proof.Machine
section

variable {s t u : State} {c n ln b lo hi vf : Nat} {lasting : Bool} {k : Core} {l : List TlbEntry} {e : TlbEntry}

/-! ### Poison (R242, R244) -/

/-- Flags set one after the other at the places that a list names. -/
theorem foldl_setFlag {mask : BitVec 32} {base j : Nat} {v : Bool} (hm : mask.getLsbD j = true) (js : List Nat) (m : Map Bool)
    (h : Map.get false m (base + j) = v ∨ j ∈ js) :
    Map.get false (js.foldl (fun m i => if mask.getLsbD i then Map.set false m (base + i) v else m) m) (base + j) = v := by
  induction js generalizing m with
  | nil => exact h.resolve_right List.not_mem_nil
  | cons i r ih =>
    refine ih _ ?_
    dsimp only
    by_cases here : j = i
    · subst here
      rw [if_pos hm, Map.get_set_self]
      exact .inl rfl
    · refine h.imp (fun stands => ?_) (fun inList => (List.mem_cons.1 inList).resolve_left here)
      split
      · rw [Map.get_set_ne _ _ _ (by omega), stands]
      · exact stands

theorem setPoison_poison (s : State) (ln : Nat) {mask : BitVec 32} (v : Bool) (h : mask ≠ 0) : (s.setPoison ln mask v).poison =
    (List.range 32).foldl (fun m j => if mask.getLsbD j then Map.set false m (32 * ln + j) v else m) s.poison := by
  rw [State.setPoison, if_neg h]

/-- A line whose every word is made poison is poison. -/
theorem linePoison_setPoison_all (s : State) (ln : Nat) : (s.setPoison ln 0xffffffff true).linePoison ln = 0xffffffff := by
  have words (m : BitVec 32) (j : Nat) (hj : j ∈ List.range 32) :
      (if (s.setPoison ln 0xffffffff true).wordPoison (128 * ln + 4 * j) then m ||| BitVec.ofNat 32 (2 ^ j) else m) =
        m ||| BitVec.ofNat 32 (2 ^ j) := by
    have all : ∀ i ∈ List.range 32, (0xffffffff : BitVec 32).getLsbD i = true := by decide
    have word : (128 * ln + 4 * j) / 4 = 32 * ln + j := by omega
    refine if_pos ?_
    rw [State.wordPoison, word, setPoison_poison _ _ _ (by decide)]
    exact foldl_setFlag (all j hj) (List.range 32) s.poison (.inr hj)
  rw [State.linePoison, List.foldl_ext _ _ _ words]
  decide

/-! ### The farrier (R225, R348) -/

theorem setPoison_farrier (s : State) (ln : Nat) (mask : BitVec 32) (v : Bool) : (s.setPoison ln mask v).farrier = s.farrier := by
  unfold State.setPoison
  split <;> rfl

theorem setHcLine_farrier (s : State) (ln : Nat) (h : HcLine) : (s.setHcLine ln h).farrier = s.farrier := by
  unfold State.setHcLine
  split
  · rfl
  · dsimp only
    split
    · rfl
    · split <;> rfl

theorem hcFetch_farrier (s : State) (ln : Nat) (pts : Word) : (s.hcFetch ln pts).1.farrier = s.farrier := setHcLine_farrier ..

/-- What a failure damages is no part of the farrier's log. -/
theorem farEffect_farrier (s : State) (a : Nat) : (s.farEffect n c a lasting).farrier = s.farrier := by
  unfold State.farEffect
  dsimp only
  split
  · split <;> rfl
  · split
    · exact setPoison_farrier ..
    · rfl
  · split
    · split
      · rfl
      · split
        · rfl
        · split
          · exact hcFetch_farrier ..
          · rfl
    · rfl
  · rfl
  · split
    · split <;> rfl
    · split
      · rfl
      · split
        · split <;> rfl
        · split <;> rfl

/-- A failure is logged and has its effect; a lasting one is an event of the halter too. -/
theorem execFarrierRetry_logs (s : State) (c a : Nat) (lasting : Bool) (synd : Word) (h : n ≤ 5) :
    ∃ r i, execFarrierRetry n c a lasting synd s =
      .next { (s.farLog n c a lasting synd s.timeNs).farEffect n c a lasting with records := r, free := i } := by
  unfold execFarrierRetry
  rw [if_neg (by omega), if_neg (by omega)]
  dsimp only
  split
  · exact ⟨_, _, rfl⟩
  · exact ⟨_, _, rfl⟩

theorem execFarrierRetry_other {a : Nat} {synd : Word} (h : 6 < n) : execFarrierRetry n c a lasting synd s = .next s := by
  unfold execFarrierRetry
  rw [if_neg (by omega), if_pos h]

theorem farEffect_sector (s : State) (c a : Nat) : ((s.farEffect 0 c a true).core c).badSec.contains (a / 32) = true := by
  show ((s.updCore c (fun k => { k with badSec := (a / 32) :: k.badSec.filter (· ≠ a / 32) })).core c).badSec.contains (a / 32) = true
  rw [State.core_updCore_self, List.contains_cons, beq_self_eq_true, Bool.true_or]

/-- What a failed operation of the HBM has lost is poison. -/
theorem farEffect_line (s : State) (c a : Nat) : (s.farEffect 1 c a true).linePoison (a / 128) = 0xffffffff := by
  have poisoned : s.farEffect 1 c a true = s.setPoison (a / 128) 0xffffffff true := rfl
  rw [poisoned, linePoison_setPoison_all]

/-- The halter's records are no part of a line's poison. -/
theorem linePoison_recorded (s : State) (r : List (List Word)) (i ln : Nat) :
    State.linePoison { s with records := r, free := i } ln = s.linePoison ln := rfl

/-! ### Shootdowns (R253) -/

theorem mem_tlbDrop (h : e ∈ tlbDrop l vf lo hi) (hv : e.vf = vf) :
    hi ≤ e.page * 2 ^ pageLog e.size ∨ (e.page + 1) * 2 ^ pageLog e.size ≤ lo := by
  obtain ⟨-, kept⟩ := List.mem_filter.1 h
  by_contra inside
  obtain ⟨below, above⟩ := not_or.1 inside
  rw [decide_eq_true hv, decide_eq_true (Nat.not_le.1 below), decide_eq_true (Nat.not_le.1 above)] at kept
  exact absurd kept (by decide)

theorem winRange_none (h : k.wins = []) : k.winRange lo hi = [] := by
  have window (w : Nat) : k.window w = {} := by
    rw [Core.window, h]
    rfl
  unfold Core.winRange
  rw [List.flatMap_eq_nil_iff]
  intro w _
  rw [window]
  rfl

theorem penIn_none (h : k.pen = []) : k.penIn lo hi = false := by
  rw [Core.penIn, h]
  rfl

theorem dropTlb_core (s : State) (c vf lo hi : Nat) :
    (s.dropTlb c vf lo hi).core c = { s.core c with tlb := tlbDrop (s.core c).tlb vf lo hi } :=
  State.core_updCore_self s c (fun k => { k with tlb := tlbDrop k.tlb vf lo hi })

/-- A core that holds no copy gives up none. -/
theorem dropCopies_core (hl : (s.core c).l1 = []) : (s.dropCopies c []).core c =
    { s.core c with blkUse := [], wins := (s.core c).wins.map (fun w => (w.1, w.2.dropLines (fun i _ => ! [].contains (w.1, i)))) } := by
  unfold State.dropCopies
  rw [hl]
  exact State.core_updCore_self ..

theorem raisedTo_core (s : State) (c : Nat) (ts : Word) (p : Prop) [Decidable p] :
    (if p then s else s.raisePts c ts).core c = { s.core c with ctx := ((if p then s else s.raisePts c ts).core c).ctx } := by
  split
  · rfl
  · exact raisePts_core s c ts

/-- The TLB of a core with no store pending and no copy, once it has shot a range down. -/
theorem shoot_tlb (hst : ∀ x, (s.ctx c x).stores = []) (hl : (s.core c).l1 = []) (hw : (s.core c).wins = []) (hp : (s.core c).pen = []) :
    ((s.shoot c vf lo hi).core c).tlb = tlbDrop (s.core c).tlb vf lo hi := by
  have drained : (List.range 4).foldl (fun (s : State) x => s.drainStores c x) s = s := by
    refine List.foldl_fixed' (fun x => ?_) _
    exact State.drainStores_none (hst x)
  have lines (p : Prop) [Decidable p] : (if p then ((s.dropTlb c vf lo hi).core c).winRange lo hi else []) = [] := by
    rw [winRange_none (by rw [dropTlb_core]; exact hw)]
    exact ite_self _
  have core := dropCopies_core (s := s.dropTlb c vf lo hi) (c := c) (by rw [dropTlb_core]; exact hl)
  unfold State.shoot
  dsimp only
  rw [drained, lines, if_neg]
  · rw [raisedTo_core, core, dropTlb_core]
  · rw [penIn_none (by rw [raisedTo_core, core, dropTlb_core]; exact hp), Bool.and_false]
    exact Bool.false_ne_true

/-- A core that uses no translation of the range acknowledges, and keeps none. -/
theorem execShootdown_acknowledges (hc : c < 32) (hf : s.fuses.getLsbD c = true) (hb : s.sdBlock c = some b)
    (hu : ¬ (s.coreVf c = wbits (s.pdk b).sdctl 48 6 ∧ s.usesRange c (s.pdk b).sdRange.1 (s.pdk b).sdRange.2 = true)) :
    ∃ u, execShootdown c s = .next u ∧ (u.pdk b).sdack.getLsbD c = true ∧
      (u.core c).tlb = ((s.shoot c (wbits (s.pdk b).sdctl 48 6) (s.pdk b).sdRange.1 (s.pdk b).sdRange.2).core c).tlb := by
  unfold execShootdown
  rw [if_neg (not_or.2 ⟨Nat.not_le.2 hc, by rw [hf]; decide⟩), hb]
  dsimp only
  rw [if_neg hu]
  refine ⟨_, rfl, ?_, by rw [State.core, State.updPdk_cores, State.core]⟩
  rw [State.pdk_updPdk_self]
  dsimp only
  have own : (wnat (2 ^ c)).getLsbD c = true := by
    rw [wnat, BitVec.getLsbD_ofNat, Nat.testBit_two_pow_self, decide_eq_true (by omega : c < 64)]
    rfl
  rw [BitVec.getLsbD_or, own, Bool.or_true]

/-- A write with GO starts a shootdown: no core has acknowledged it (R409). -/
theorem execSdctlGo_starts (s : State) (c : Nat) {v : Word} (h : v.getLsbD 63 = true) :
    ∃ u, execSdctlGo c v s = .next u ∧ (u.pdk (c % 8)).sdack = 0 ∧ (u.pdk (c % 8)).sdctl = v &&& 0x803ffffffff80000 := by
  refine ⟨_, rfl, ?_⟩
  rw [State.writeSdctl, State.pdk_updPdk_self]
  dsimp only
  rw [if_pos h]
  exact ⟨rfl, rfl⟩

/-! ### Page walks (R252) -/

theorem mem_tlbPut (l : List TlbEntry) (e : TlbEntry) {n : Nat} (h : 0 < n) : e ∈ tlbPut l e n := by
  unfold tlbPut
  dsimp only
  rw [List.drop_append_of_le_length (by rw [List.length_append, List.length_singleton]; omega)]
  exact List.mem_append_right _ (List.mem_singleton.2 rfl)

theorem execPageWalk_none {va : Word} (h : s.leafOf c (s.coreVf c) va.toNat = none) : execPageWalk c n va s = .next s := by
  unfold execPageWalk
  dsimp only
  split
  · rfl
  · rw [h]

/-- A core whose TLB has an entry as its youngest. -/
def Core.cache (k : Core) (e : TlbEntry) : Core := { k with tlb := tlbPut k.tlb e Config.coreTlbLen }

theorem execPageWalk_caches {va : Word} {pte lvl : Nat} (hc : c < 32) (hv : va.toNat < 2 ^ 47)
    (h : s.leafOf c (s.coreVf c) va.toNat = some (pte, lvl)) : ∃ v sh, execPageWalk c n va s =
      .next { State.updCore v c (fun k => k.cache ⟨s.coreVf c, va.toNat / 2 ^ pageLog lvl, lvl, wnat pte⟩) with sheds := sh } := by
  unfold execPageWalk
  dsimp only
  rw [if_neg (not_or.2 ⟨Nat.not_le.2 hc, Nat.not_le.2 hv⟩), h]
  exact ⟨_, _, rfl⟩

theorem execPageWalk_leaf {va : Word} {pte lvl : Nat} (hc : c < 32) (hv : va.toNat < 2 ^ 47)
    (h : s.leafOf c (s.coreVf c) va.toNat = some (pte, lvl)) : ∃ u, execPageWalk c n va s = .next u ∧
      TlbEntry.mk (s.coreVf c) (va.toNat / 2 ^ pageLog lvl) lvl (wnat pte) ∈ (u.core c).tlb := by
  obtain ⟨v, sh, walked⟩ := execPageWalk_caches (n := n) hc hv h
  refine ⟨_, walked, ?_⟩
  show _ ∈ ((State.updCore v c (fun k => k.cache ⟨s.coreVf c, va.toNat / 2 ^ pageLog lvl, lvl, wnat pte⟩)).core c).tlb
  rw [State.core_updCore_self]
  exact mem_tlbPut _ _ (by decide)

end
end Sys2Proof.Machine
end

section
namespace Sys2Proof.Machine

/-- Settles O51, event by event. The mask of SDCTL is R409's; unit 6 of the farrier is log 115's. -/
theorem fillsWalksAndShootdownsComplete : Obligations.FillsWalksAndShootdownsComplete := by
  unfold Obligations.FillsWalksAndShootdownsComplete
  intro s c n
  refine ⟨fun f pa hf hk ht hp hw => ?_, fun m => execOqEntryFill_one, execOqEntryFill_none,
    fun m j w k f p a b pa cls ms hl hw hi hn ht hp => ?_, fun l hl hc => ⟨fun ended => ?_, fun x => execLeaseExpiry_holds hl⟩,
    fun f e => execFreezeEnd_at,
    fun f hf => ⟨execFreezeLimit_early hf, fun ent r k d a hlim he ho hw hv hq hi => execFreezeLimit_lateLoad hf hlim he ho hw hv hq hi⟩,
    fun lasting synd => ⟨execFarrierRetry_other, fun a hn => ?_, fun a hn => ?_⟩, fun b hc hf hb hst hl hw hp hu => ?_,
    fun v => execSdctlGo_starts s c, fun va hc hv => ⟨execPageWalk_none, fun pte lvl => execPageWalk_leaf hc hv⟩⟩
  · refine ⟨_, execStashFill_fills hf hk ht hp hw, ?_, ?_, ?_, fun a => rfl⟩
    · rw [thawed_core]
    · rw [thawed_core, Core.winHas_thawed]
      exact Core.winHas_putWinLine _ _ _ _ rfl (show (1 : BitVec 2) ≠ 0 by decide)
    · rw [thawed_core]
      rw [Core.spad_thawed, Core.putWinLine_spad]
  · obtain ⟨t, done, queue, bytes⟩ := execOqEntryFill_cpoq hi hl hw hn ht hp
    refine ⟨t, done, fun e he hs hk => ?_, bytes⟩
    rw [queue]
    exact fillOq_mem he hs hk
  · obtain ⟨u, done, line⟩ := execLeaseExpiry_ended hl hc ended
    refine ⟨u, done, line.trans ?_⟩
    rw [Core.dropLine, hl]
    dsimp only
    rw [Core.line_setLine_self]
    rfl
  · subst hn
    rfl
  · obtain ⟨r, i, logged⟩ := execFarrierRetry_logs s c a lasting synd hn
    refine ⟨_, _, logged, farEffect_farrier .., fun hl h0 => ?_, fun hl h1 => ?_⟩
    · subst hl h0
      exact farEffect_sector (s.farLog 0 c a true synd s.timeNs) c a
    · subst hl h1
      rw [linePoison_recorded, farEffect_line]
  · have unused : ¬ (s.coreVf c = wbits (s.pdk b).sdctl 48 6 ∧ s.usesRange c (s.pdk b).sdRange.1 (s.pdk b).sdRange.2 = true) := by
      rintro ⟨own, uses⟩
      exact hu.elim (fun h => h own) (fun h => absurd uses (by rw [h]; decide))
    obtain ⟨u, done, ack, tlb⟩ := execShootdown_acknowledges hc hf hb unused
    refine ⟨u, done, ack, fun e he hv => ?_⟩
    rw [tlb, shoot_tlb hst hl hw hp] at he
    exact mem_tlbDrop he hv

end Sys2Proof.Machine
end
